-- ==== Sys2Proof/Word.lean ====
section
/-! DEFINITION. The word types of the Rolast W48 and nothing else (R1, R5, Table 11·1). -/

namespace Sys2Proof

/-- A byte of any store of the device (R1). -/
abbrev Byte := BitVec 8

/-- A scalar register, a system register and a virtual address are 64-bit words (Table 11·1). -/
abbrev Word := BitVec 64

/-- A 32-bit word: LITERAL (Table 9·2), an FP32 pattern, PC (Table 3·1). -/
abbrev Half := BitVec 32

/-- A vector register (R139). -/
abbrev Vec := BitVec 1024

/-- A lane mask or a tile name (R139, R54). -/
abbrev Quad := BitVec 128

/-- A bundle (R113). -/
abbrev BundleWord := BitVec 384

/-- A cell word of the Celadon fabric (R345). -/
abbrev CellWord := BitVec 160

end Sys2Proof
end

