-- ==== Sys2Proof/Machine/Bits.lean ====
section
/-! DEFINITION. Bit-field, sign-extension and byte-order helpers (R1, R149). -/

namespace Sys2Proof.Machine

/-- Bits [lo + w − 1 : lo] of a word as a number. -/
def field {n : Nat} (x : BitVec n) (lo w : Nat) : Nat := x.toNat / 2 ^ lo % 2 ^ w

/-- x with bits [lo + w − 1 : lo] replaced by the low w bits of v. -/
def setField {n : Nat} (x : BitVec n) (lo w v : Nat) : BitVec n :=
  BitVec.ofNat n (x.toNat - field x lo w * 2 ^ lo + v % 2 ^ w * 2 ^ lo)

/-- One bit of a word. -/
def bitOf {n : Nat} (x : BitVec n) (i : Nat) : Bool := x.getLsbD i

/-- The low w bits of a number, read as a signed number. -/
def signed (w n : Nat) : Int :=
  if n % 2 ^ w < 2 ^ (w - 1) then ((n % 2 ^ w : Nat) : Int) else ((n % 2 ^ w : Nat) : Int) - ((2 ^ w : Nat) : Int)

/-- A number modulo 2^w as an unsigned value. -/
def wrapInt (w : Nat) (i : Int) : Nat := (i % ((2 ^ w : Nat) : Int)).toNat

/-- `sext` of the low w bits to 64 bits. -/
def sextTo (w n : Nat) : Word := BitVec.ofInt 64 (signed w n)

/-- Little-endian bytes of a number (R1). -/
def toBytes : Nat → Nat → List Byte
  | 0, _ => []
  | k + 1, n => BitVec.ofNat 8 n :: toBytes k (n / 256)

/-- The number of a little-endian byte string (R1). -/
def ofBytes : List Byte → Nat
  | [] => 0
  | b :: t => b.toNat + 256 * ofBytes t

/-- The number of a big-endian byte string. -/
def ofBytesBe (bs : List Byte) : Nat := ofBytes bs.reverse

/-- Big-endian bytes of a number. -/
def toBytesBe (k n : Nat) : List Byte := (toBytes k n).reverse

/-- Element n of width w of a packed value (R91, R139). -/
def elem {k : Nat} (x : BitVec k) (w n : Nat) : Nat := field x (w * n) w

/-- A packed value from its elements, element 0 lowest. -/
def packElems (w : Nat) : List Nat → Nat
  | [] => 0
  | a :: t => a % 2 ^ w + 2 ^ w * packElems w t

/-- 0, 1, …, n − 1. -/
def upTo (n : Nat) : List Nat := List.range n

/-- Bits set in a number below 2^k. -/
def popCount : Nat → Nat → Nat
  | 0, _ => 0
  | k + 1, n => n % 2 + popCount k (n / 2)

/-- Index of the lowest set bit among k bits; k when there is none. -/
def lowestSet : Nat → Nat → Nat
  | 0, _ => 0
  | k + 1, n => if n % 2 = 1 then 0 else 1 + lowestSet k (n / 2)

/-- Number of leading zeros in k bits. -/
def leadingZeros (k n : Nat) : Nat := if n % 2 ^ k = 0 then k else k - 1 - (n % 2 ^ k).log2

/-- Smallest multiple of m that is at least n. -/
def alignUp (n m : Nat) : Nat := (n + m - 1) / m * m

/-- The two ranges [a, a + n) and [b, b + k) share a byte. -/
def overlaps (a n b k : Nat) : Bool := a < b + k && b < a + n && 0 < n && 0 < k

/-- Integer square root by bits: the largest r with r² ≤ x, for x below 4^k. -/
def isqrt (x : Nat) : Nat → Nat → Nat
  | 0, r => r
  | k + 1, r => if (r + 2 ^ k) * (r + 2 ^ k) ≤ x then isqrt x k (r + 2 ^ k) else isqrt x k r

end Sys2Proof.Machine
end

