-- ==== Sys2Proof/Config.lean ====
section
/-! DEFINITION. The numbers of one Rolast W48 and the free values: what the spec leaves open has no body here, so
nothing can be proved of it (log entry 2). -/

namespace Sys2Proof.Config

/-- A free byte, applied to State.freeCtr: bytes read under another GRAN or map (R334), plaintext under another key
(R422), captures that race (R169). -/
opaque freeByte : Nat → Byte

/-- A free choice: whether such a read returns bytes or an uncorrectable granule (R334). -/
opaque freeBit : Nat → Bool

/-- An Ed25519 signature under the device identity key (R405), not modelled (log entry 13). -/
opaque signature : List Byte → List Byte

/-- Bytes 0 to 31 of the SHA-512 of the device's public identity key (R405). -/
opaque wid : BitVec 256

/-- Whether a wrapped key unwraps under the session's key (R420), and the key it gives. -/
opaque unwrap : List Byte → Option (List Byte)

/-- The hash by which a Bolsar port is chosen among a route's ports (R431): the spec gives no function. -/
opaque portHash : Nat → Nat

/-- The cluster, among those of a level instance, whose scheduler matches a template instance: the spec gives no function of
its identity (R37, R51; log entry 102). -/
opaque instanceHome : List Nat → Nat

/-- Scratchpad bytes (R13). -/
def spadBytes : Nat := 0x200000
/-- Weight-buffer bytes (R13). -/
def wbufBytes : Nat := 0x20000
/-- Matching-store entries (R299). -/
def mstoreEntries : Nat := 4096
/-- Duplicate-filter entries (R83). -/
def filterEntries : Nat := 4096
/-- Resend-buffer entries of a core (R170). -/
def resendEntries : Nat := 64
/-- Name-match entries of a router (R64). -/
def routerEntries : Nat := 512
/-- Retained publications one slice holds before it evicts; the spec gives the slice 4 MiB (R12), counted here in
64-byte lines of retained tiles. -/
def sliceLines : Nat := 65536
/-- Bytes of a cluster's code store (R12). -/
def codeStoreBytes : Nat := 0x100000
/-- Bytes of a context save area (R389). -/
def saveBytes : Nat := 40960
/-- Cycles a READY record stands before it is raised (R50). -/
def agingCycles : Nat := 65536
/-- Largest number of contributions a router merges (R79). -/
def mergeLimit : Nat := 16
/-- Lines a stream-register landing may hold off its core (R318). -/
def streamLines : Nat := 16
/-- TLB sizes (Table 23·3). -/
def microTlb : Nat := 32
def clusterTlb : Nat := 2048
def lastTlb : Nat := 1024

end Sys2Proof.Config
end

