-- ==== Sys2Proof/Syntax.lean ====
section
/-! DEFINITION. The syntax of Utris and of the device's own steps: one constructor of `Instr` per row of
spec/opcode_table.json (Table 9·7 with the forms of each opcode apart, and the steps of
spec/95_what_each_step_holds.md). -/

namespace Sys2Proof

/-! ## Register numbers, slots and codes -/

abbrev SReg := Fin 64
abbrev PReg := Fin 16
abbrev VReg := Fin 32
abbrev MReg := Fin 8
abbrev ZReg := Fin 8
abbrev WReg := Fin 8
abbrev NReg := Fin 8

/-- The PCIe port by which a write of the host comes; none for one of software on the device (R428). -/
abbrev HostPort := Option Nat

/-- A doubleword that is written to a register of the management window, with the port it comes by (R428, R440). -/
structure HostWord where
  port : HostPort
  val  : Word
  deriving DecidableEq, Repr, Inhabited

/-- Cell words in placed form, by cell index (R356). -/
abbrev CellWords := List (Nat × CellWord)

/-- A context slot of a Celadon fabric with the words that the supervisor rewrites in it (R356). -/
structure SlotWords where
  slot  : Nat
  words : CellWords
  deriving DecidableEq, Repr, Inhabited

/-- The six slots of a bundle, in the order R146 and R129 use (Table 9·3). -/
inductive Slot where
  | c | s0 | s1 | v | m | e
  deriving DecidableEq, Repr, Inhabited

/-- The two scalar slots and their register banks (R136, R138): `a` is S0, `b` is S1. -/
inductive Bank where
  | a | b
  deriving DecidableEq, Repr, Inhabited

/-- G of a slot head (R116). -/
structure Guard where
  neg : Bool
  p   : PReg
  deriving DecidableEq, Repr, Inhabited

/-- Scope codes (Table 13·1). -/
inductive Scope where
  | core | quad | cluster | field | partition | wafer | domain | level
  deriving DecidableEq, Repr, Inhabited

/-- Address spaces (Table 15·1). -/
inductive Space where
  | loc | win | vm
  deriving DecidableEq, Repr, Inhabited

/-- Format codes (Table 7·1). -/
inductive Fmt where
  | f32 | f16 | bf16 | e4m3 | e5m2 | e2m1 | i4 | i8 | i16 | i32 | i64
  | n8 | n16 | n32 | n64 | cw8 | e8m0 | ue5m3
  deriving DecidableEq, Repr, Inhabited

/-- Integer condition codes (Table 13·6). -/
inductive ICond where
  | eq | ne | lt | le | gt | ge | ltn | len | gtn | gen | tst | ntst
  deriving DecidableEq, Repr, Inhabited

/-- Floating-point condition codes (R200). -/
inductive FCond where
  | eq | ne | lt | le | gt | ge | un | ord
  deriving DecidableEq, Repr, Inhabited

/-- Name field codes 0 to 7 (Table 13·3). -/
inductive NameField where
  | tenant | tensor | colour | gen | i | j | k | kind
  deriving DecidableEq, Repr, Inhabited

/-- LD size codes (Table 15·5). -/
inductive LdSize where
  | i8 | n8 | i16 | n16 | i32 | n32 | w64
  deriving DecidableEq, Repr, Inhabited

/-- ST size codes (Table 15·5). -/
inductive StSize where
  | b8 | b16 | b32 | b64
  deriving DecidableEq, Repr, Inhabited

/-- VSHUF patterns (R251). -/
inductive Shuf where
  | ziplo | ziphi | unzipe | unzipo
  deriving DecidableEq, Repr, Inhabited

/-- The scale formats of VPACK and VUNPACK (R257); `none` is scale format 0. -/
inductive ScaleFmt where
  | e8m0 | ue5m3
  deriving DecidableEq, Repr, Inhabited

/-- VPOPC operations (R259). -/
inductive PopOp where
  | count | low | high
  deriving DecidableEq, Repr, Inhabited

/-- The engines of a core, coded as ENG of CORE.EFAULT (Table 27·3). -/
inductive Eng where
  | matrix | copy | hash | stream | celadon | queues
  deriving DecidableEq, Repr, Inhabited

/-- How a test of Sienna's ends (Table 29·1). -/
inductive TestResult where
  | pass | marginal | fail
  deriving DecidableEq, Repr, Inhabited

/-! ## Operands -/

/-- The value operand V of the CR format (R149). -/
inductive Val where
  | reg (b : SReg)
  | lit (v : Half)
  | imm (v : Byte)
  deriving DecidableEq, Repr, Inhabited

/-- sB of the SR format, or the LITERAL in its place (R149). -/
inductive SrcB where
  | reg (b : SReg)
  | lit (v : Half)
  deriving DecidableEq, Repr, Inhabited

/-- The second operand of the SI format (R149). -/
inductive Imm17 where
  | imm (v : BitVec 17)
  | lit (v : Half)
  deriving DecidableEq, Repr, Inhabited

/-- The offset of the SM format (R204). -/
inductive Off where
  | imm (v : BitVec 11)
  | lit (v : Half)
  deriving DecidableEq, Repr, Inhabited

/-- A shift amount (R194). -/
inductive ShAmt where
  | reg (b : SReg)
  | lit (v : Half)
  | imm (n : BitVec 6)
  deriving DecidableEq, Repr, Inhabited

/-- vB, or the LITERAL repeated in every lane (R236). -/
inductive VSrc where
  | reg (b : VReg)
  | lit (v : Half)
  deriving DecidableEq, Repr, Inhabited

/-- The amount of VSHL and VSHR (R244). -/
inductive VAmt where
  | reg (b : VReg)
  | imm (n : BitVec 6)
  deriving DecidableEq, Repr, Inhabited

/-- The target of JMP (R156). -/
inductive JmpDest where
  | reg (a : SReg)
  | lit (v : Half)
  deriving DecidableEq, Repr, Inhabited

/-- The operand of LC.SEL (R363). -/
inductive LcSel where
  | reg (a : SReg)
  | imm (k : BitVec 2)
  deriving DecidableEq, Repr, Inhabited

/-! ## Bodies of C-slot instructions (Table 13·2) -/

structure CJ where          -- BR
  g : Guard
  off : BitVec 27
  deriving DecidableEq, Repr, Inhabited

structure CJr where         -- CALL, LOOP.END
  g : Guard
  r : SReg
  off : BitVec 27
  deriving DecidableEq, Repr, Inhabited

structure CJmp where
  g : Guard
  t : JmpDest
  deriving DecidableEq, Repr, Inhabited

structure CNone where       -- no operand
  g : Guard
  deriving DecidableEq, Repr, Inhabited

structure CA where          -- sA only
  g : Guard
  a : SReg
  deriving DecidableEq, Repr, Inhabited

structure CAB where         -- sA, sB
  g : Guard
  a : SReg
  b : SReg
  deriving DecidableEq, Repr, Inhabited

structure CAV where         -- LOOP.SET
  g : Guard
  a : SReg
  v : Val
  deriving DecidableEq, Repr, Inhabited

structure CImm where        -- FRAME.ALLOC, TRAP
  g : Guard
  n : Byte
  deriving DecidableEq, Repr, Inhabited

structure CSub where        -- WAIT.S
  g : Guard
  k : Fin 8
  deriving DecidableEq, Repr, Inhabited

structure CNSub where       -- SUB, UNSUB
  g : Guard
  n : NReg
  k : Fin 8
  deriving DecidableEq, Repr, Inhabited

structure CBind where
  g : Guard
  w : WReg
  n : NReg
  deriving DecidableEq, Repr, Inhabited

structure CWtst where
  g : Guard
  pd : PReg
  w : WReg
  deriving DecidableEq, Repr, Inhabited

structure CPub where
  g : Guard
  a : SReg
  n : NReg
  scope : Scope
  deriving DecidableEq, Repr, Inhabited

structure CPubC where
  g : Guard
  a : SReg
  b : SReg
  n : NReg
  cop : BitVec 4
  scope : Scope
  deriving DecidableEq, Repr, Inhabited

structure CSteer where
  g : Guard
  a : SReg
  n : NReg
  n2 : NReg
  p : PReg
  scope : Scope
  deriving DecidableEq, Repr, Inhabited

structure CSpawn where
  g : Guard
  a : SReg
  b : SReg
  n : NReg
  n2 : NReg
  cnt : Fin 8               -- cnt − 1
  deriving DecidableEq, Repr, Inhabited

structure CRetn where
  g : Guard
  a : SReg
  scope : Scope
  deriving DecidableEq, Repr, Inhabited

structure CName where       -- NAME.SET field, NAME.ADD
  g : Guard
  n : NReg
  f : NameField
  v : Val
  deriving DecidableEq, Repr, Inhabited

structure CNameW where
  g : Guard
  n : NReg
  a : SReg
  b : SReg
  deriving DecidableEq, Repr, Inhabited

structure CNameC where
  g : Guard
  n : NReg
  m : NReg
  deriving DecidableEq, Repr, Inhabited

structure CNameL where
  g : Guard
  n : NReg
  a : SReg
  deriving DecidableEq, Repr, Inhabited

structure CP2 where         -- PAND, POR, PXOR
  g : Guard
  pd : PReg
  pa : PReg
  pb : PReg
  ia : Bool
  ib : Bool
  deriving DecidableEq, Repr, Inhabited

structure CP1 where         -- PNOT, PMOV
  g : Guard
  pd : PReg
  pa : PReg
  ia : Bool
  deriving DecidableEq, Repr, Inhabited

structure CSysRd where
  g : Guard
  a : SReg
  b : SReg
  reg : BitVec 16
  deriving DecidableEq, Repr, Inhabited

structure CSysWr where
  g : Guard
  a : SReg
  reg : BitVec 16
  deriving DecidableEq, Repr, Inhabited

structure CQp where         -- QENQ.NB, QDEQ.NB
  g : Guard
  p : PReg
  a : SReg
  b : SReg
  deriving DecidableEq, Repr, Inhabited

structure CLit where        -- FMT.SET.H
  g : Guard
  lit : Half
  deriving DecidableEq, Repr, Inhabited

structure CMask where       -- FMT.SET.C
  g : Guard
  mask : BitVec 6
  deriving DecidableEq, Repr, Inhabited

/-! ## Bodies of scalar-slot instructions (Tables 13·4, 13·7, 15·4) -/

structure SR where
  k : Bank
  g : Guard
  d : SReg
  a : SReg
  b : SrcB
  deriving DecidableEq, Repr, Inhabited

structure SU where
  k : Bank
  g : Guard
  d : SReg
  a : SReg
  deriving DecidableEq, Repr, Inhabited

structure SI where
  k : Bank
  g : Guard
  d : SReg
  a : SReg
  imm : Imm17
  deriving DecidableEq, Repr, Inhabited

structure SShift where
  k : Bank
  g : Guard
  d : SReg
  a : SReg
  n : ShAmt
  deriving DecidableEq, Repr, Inhabited

structure SBfx where        -- pos, w − 1
  k : Bank
  g : Guard
  d : SReg
  a : SReg
  pos : BitVec 6
  w : BitVec 6
  sgn : Bool
  deriving DecidableEq, Repr, Inhabited

structure SBfi where
  k : Bank
  g : Guard
  d : SReg
  a : SReg
  pos : BitVec 6
  w : BitVec 6
  deriving DecidableEq, Repr, Inhabited

structure SExt where
  k : Bank
  g : Guard
  d : SReg
  a : SReg
  b : BitVec 6
  deriving DecidableEq, Repr, Inhabited

structure SStream where
  k : Bank
  g : Guard
  d : SReg
  w : WReg
  deriving DecidableEq, Repr, Inhabited

structure SMovi where
  k : Bank
  g : Guard
  d : SReg
  imm : Imm17
  deriving DecidableEq, Repr, Inhabited

structure SMoviH where
  k : Bank
  g : Guard
  d : SReg
  lit : Half
  deriving DecidableEq, Repr, Inhabited

structure SSel where
  k : Bank
  g : Guard
  d : SReg
  a : SReg
  b : SrcB
  p : PReg
  deriving DecidableEq, Repr, Inhabited

structure SCmp where
  k : Bank
  g : Guard
  pd : PReg
  a : SReg
  b : SrcB
  cc : ICond
  deriving DecidableEq, Repr, Inhabited

structure SCmpi where
  k : Bank
  g : Guard
  pd : PReg
  a : SReg
  imm : Imm17
  cc : ICond
  deriving DecidableEq, Repr, Inhabited

structure SLea where
  k : Bank
  g : Guard
  d : SReg
  a : SReg
  b : SrcB
  sh : BitVec 3
  deriving DecidableEq, Repr, Inhabited

structure SFcmp where
  k : Bank
  g : Guard
  pd : PReg
  a : SReg
  b : SrcB
  cc : FCond
  deriving DecidableEq, Repr, Inhabited

structure SFcvt where       -- `up`: to FP32 (X[7] = 1)
  k : Bank
  g : Guard
  d : SReg
  a : SReg
  up : Bool
  fmt : Fmt
  deriving DecidableEq, Repr, Inhabited

structure MLd where
  k : Bank
  g : Guard
  d : SReg
  a : SReg
  b : SReg
  sp : Space
  sz : LdSize
  off : Off
  deriving DecidableEq, Repr, Inhabited

structure MSt where
  k : Bank
  g : Guard
  d : SReg
  a : SReg
  b : SReg
  sp : Space
  sz : StSize
  off : Off
  deriving DecidableEq, Repr, Inhabited

structure MVec where        -- LDV, STV
  k : Bank
  g : Guard
  v : VReg
  a : SReg
  b : SReg
  sp : Space
  km : MReg
  off : Off
  deriving DecidableEq, Repr, Inhabited

structure MGat where        -- LDV.G, STV.S
  k : Bank
  g : Guard
  v : VReg
  a : SReg
  vb : VReg
  sp : Space
  wide : Bool
  km : MReg
  deriving DecidableEq, Repr, Inhabited

structure MFe where         -- LD.FE, ST.FE
  k : Bank
  g : Guard
  d : SReg
  a : SReg
  b : SReg
  off : Off
  deriving DecidableEq, Repr, Inhabited

structure MPeek where
  k : Bank
  g : Guard
  pd : PReg
  a : SReg
  b : SReg
  off : Off
  deriving DecidableEq, Repr, Inhabited

structure MFence where      -- MARK, FENCE
  k : Bank
  g : Guard
  scope : Scope
  deriving DecidableEq, Repr, Inhabited

structure MAtom where
  k : Bank
  g : Guard
  d : SReg
  a : SReg
  b : SReg
  sp : Space
  uns : Bool
  w64 : Bool
  off : Off
  deriving DecidableEq, Repr, Inhabited

structure MAtomF where      -- ATOM.FADD
  k : Bank
  g : Guard
  d : SReg
  a : SReg
  b : SReg
  sp : Space
  off : Off
  deriving DecidableEq, Repr, Inhabited

structure MNib where
  k : Bank
  g : Guard
  d : SReg
  a : SReg
  b : SReg
  sp : Space
  hi : Bool
  off : Off
  deriving DecidableEq, Repr, Inhabited

structure MPref where
  k : Bank
  g : Guard
  a : SReg
  b : SReg
  ext : BitVec 3
  off : Off
  deriving DecidableEq, Repr, Inhabited

/-! ## Bodies of V-slot instructions (Table 17·1) -/

structure VBin where
  g : Guard
  t : Fmt
  d : VReg
  a : VReg
  b : VSrc
  km : MReg
  mz : Bool
  deriving DecidableEq, Repr, Inhabited

structure VBinX where       -- X[0]: saturate, high half or invert B
  g : Guard
  t : Fmt
  d : VReg
  a : VReg
  b : VSrc
  km : MReg
  mz : Bool
  x : Bool
  deriving DecidableEq, Repr, Inhabited

structure VFma where
  g : Guard
  t : Fmt
  d : VReg
  a : VReg
  b : VSrc
  c : VReg
  km : MReg
  mz : Bool
  deriving DecidableEq, Repr, Inhabited

structure VUn where
  g : Guard
  t : Fmt
  d : VReg
  a : VReg
  km : MReg
  mz : Bool
  deriving DecidableEq, Repr, Inhabited

structure VUnX where        -- X[0]: saturate
  g : Guard
  t : Fmt
  d : VReg
  a : VReg
  km : MReg
  mz : Bool
  x : Bool
  deriving DecidableEq, Repr, Inhabited

structure VShift where
  g : Guard
  t : Fmt
  d : VReg
  a : VReg
  n : VAmt
  km : MReg
  mz : Bool
  deriving DecidableEq, Repr, Inhabited

structure VCmp where        -- `cc` is X[3:0]: Table 13·6 for integers, R200 for floats
  g : Guard
  t : Fmt
  d : MReg
  a : VReg
  b : VSrc
  km : MReg
  cc : BitVec 4
  deriving DecidableEq, Repr, Inhabited

structure VSel where
  g : Guard
  t : Fmt
  d : VReg
  a : VReg
  b : VReg
  km : MReg
  deriving DecidableEq, Repr, Inhabited

structure VCas where
  g : Guard
  t : Fmt
  d : VReg
  a : VReg
  km : MReg
  mz : Bool
  j : BitVec 3
  f : BitVec 4
  asc : Bool
  deriving DecidableEq, Repr, Inhabited

structure VCasX where
  g : Guard
  t : Fmt
  d : VReg
  c : VReg
  a : VReg
  b : VReg
  km : MReg
  mz : Bool
  j : BitVec 3
  f : BitVec 4
  asc : Bool
  deriving DecidableEq, Repr, Inhabited

structure VPerm where
  g : Guard
  t : Fmt
  d : VReg
  a : VReg
  b : VReg
  deriving DecidableEq, Repr, Inhabited

structure VPerm2 where
  g : Guard
  t : Fmt
  d : VReg
  a : VReg
  c : VReg
  b : VReg
  deriving DecidableEq, Repr, Inhabited

structure VBcS where
  g : Guard
  t : Fmt
  d : VReg
  s : SReg
  deriving DecidableEq, Repr, Inhabited

structure VBcL where
  g : Guard
  t : Fmt
  d : VReg
  a : VReg
  lane : BitVec 13
  deriving DecidableEq, Repr, Inhabited

structure VBcLit where
  g : Guard
  t : Fmt
  d : VReg
  lit : Half
  deriving DecidableEq, Repr, Inhabited

structure VShuf where
  g : Guard
  t : Fmt
  d : VReg
  a : VReg
  b : VReg
  pat : Shuf
  deriving DecidableEq, Repr, Inhabited

structure VRed where
  g : Guard
  t : Fmt
  s : SReg
  a : VReg
  km : MReg
  deriving DecidableEq, Repr, Inhabited

structure VCvt where
  g : Guard
  src : Fmt
  tgt : Fmt
  part : BitVec 3
  d : VReg
  a : VReg
  km : MReg
  mz : Bool
  deriving DecidableEq, Repr, Inhabited

structure VScl where
  g : Guard
  t : Fmt
  d : VReg
  a : VReg
  b : VReg
  km : MReg
  mz : Bool
  sf : ScaleFmt
  div : Bool
  blk16 : Bool
  base : BitVec 7
  deriving DecidableEq, Repr, Inhabited

structure VPack where       -- VPACK, VUNPACK
  g : Guard
  src : Fmt
  tgt : Fmt
  part : BitVec 3
  d : VReg
  a : VReg
  c : VReg
  km : MReg
  mz : Bool
  sf : Option ScaleFmt
  blk16 : Bool
  base : BitVec 7
  deriving DecidableEq, Repr, Inhabited

structure VMovS where
  g : Guard
  t : Fmt
  d : VReg
  s : SReg
  lane : BitVec 13
  deriving DecidableEq, Repr, Inhabited

structure VExt where
  g : Guard
  t : Fmt
  s : SReg
  a : VReg
  lane : BitVec 13
  deriving DecidableEq, Repr, Inhabited

structure VIota where
  g : Guard
  t : Fmt
  d : VReg
  km : MReg
  mz : Bool
  start : BitVec 13
  deriving DecidableEq, Repr, Inhabited

structure MBin where        -- MAND, MOR
  g : Guard
  t : Fmt
  d : MReg
  a : MReg
  b : MReg
  ia : Bool
  ib : Bool
  deriving DecidableEq, Repr, Inhabited

structure MUn where         -- MNOT
  g : Guard
  t : Fmt
  d : MReg
  a : MReg
  deriving DecidableEq, Repr, Inhabited

structure VPopc where
  g : Guard
  t : Fmt
  s : SReg
  a : MReg
  km : MReg
  op : PopOp
  deriving DecidableEq, Repr, Inhabited

/-! ## Bodies of M-slot and E-slot instructions (Tables 19·1, 19·3, 25·8) -/

structure MMma where
  g : Guard
  beat : BitVec 6
  z : ZReg
  a : SReg
  b : SReg
  c : SReg
  k2 : Bool
  wb : Bool
  clr : Bool
  deriving DecidableEq, Repr, Inhabited

structure MMmaG where
  g : Guard
  beat : BitVec 6
  z : ZReg
  a : SReg
  b : SReg
  c : SReg
  k2 : Bool
  clr : Bool
  groups : BitVec 3         -- groups − 1
  deriving DecidableEq, Repr, Inhabited

structure MZclr where
  g : Guard
  beat : BitVec 6
  mask : Byte
  deriving DecidableEq, Repr, Inhabited

structure MZld where
  g : Guard
  beat : BitVec 6
  z : ZReg
  a : SReg
  deriving DecidableEq, Repr, Inhabited

structure MZst where        -- size code 0 to 3: 4,096, 2,048, 1,024, 512 bytes
  g : Guard
  beat : BitVec 6
  z : ZReg
  a : SReg
  sz : BitVec 2
  deriving DecidableEq, Repr, Inhabited

structure MZcvt where
  g : Guard
  beat : BitVec 6
  z : ZReg
  z2 : ZReg
  tgt : Fmt
  deriving DecidableEq, Repr, Inhabited

structure MZadd where
  g : Guard
  beat : BitVec 6
  z : ZReg
  z2 : ZReg
  deriving DecidableEq, Repr, Inhabited

structure MWld where
  g : Guard
  beat : BitVec 6
  a : SReg
  b : SReg
  c : SReg
  cw8 : Bool
  deriving DecidableEq, Repr, Inhabited

structure MWaitI where
  g : Guard
  beat : BitVec 6
  deriving DecidableEq, Repr, Inhabited

structure ENone where
  g : Guard
  deriving DecidableEq, Repr, Inhabited

structure ECp where
  g : Guard
  d : SReg
  a : SReg
  b : SReg
  dst : Space
  src : Space
  deriving DecidableEq, Repr, Inhabited

structure EDA where
  g : Guard
  d : SReg
  a : SReg
  deriving DecidableEq, Repr, Inhabited

structure EDAB where
  g : Guard
  d : SReg
  a : SReg
  b : SReg
  deriving DecidableEq, Repr, Inhabited

structure ESbind where
  g : Guard
  w : WReg
  a : SReg
  b : SReg
  fmt : Fmt
  window : BitVec 4         -- window − 1
  deriving DecidableEq, Repr, Inhabited

structure EA where
  g : Guard
  a : SReg
  deriving DecidableEq, Repr, Inhabited

structure EW where
  g : Guard
  w : WReg
  deriving DecidableEq, Repr, Inhabited

structure EHash where
  g : Guard
  d : SReg
  a : SReg
  b : SReg
  init : Bool
  final : Bool
  deriving DecidableEq, Repr, Inhabited

structure ECrc where
  g : Guard
  d : SReg
  a : SReg
  b : SReg
  init : Bool
  deriving DecidableEq, Repr, Inhabited

structure ED where
  g : Guard
  d : SReg
  deriving DecidableEq, Repr, Inhabited

structure ETbl where
  g : Guard
  d : SReg
  a : SReg
  b : SReg
  map : BitVec 15
  deriving DecidableEq, Repr, Inhabited

structure ESel where
  g : Guard
  k : LcSel
  deriving DecidableEq, Repr, Inhabited

structure ETslice where     -- fmt 0 i8, 1 e4m3, 2 f16; nt = NT − 1
  g : Guard
  d : SReg
  a : SReg
  b : SReg
  fmt : Fmt
  nt : BitVec 3
  thr : BitVec 15
  deriving DecidableEq, Repr, Inhabited

structure EUnslice where    -- element n8, n16, n32; w = W − 1
  g : Guard
  d : SReg
  a : SReg
  b : SReg
  elt : Fmt
  w : BitVec 5
  deriving DecidableEq, Repr, Inhabited

structure EStat where
  g : Guard
  d : SReg
  what : BitVec 3
  slot : BitVec 2
  deriving DecidableEq, Repr, Inhabited

/-! ## Instructions -/

/-- Every step of spec/opcode_table.json: the slot instructions of Table 9·7, each form of an opcode by itself,
and the steps the rest of the device takes (spec/95_what_each_step_holds.md). The arguments of a device step say
which unit takes it, and carry what only the outside or physics decides. Steps that only software or physics names stand
last: compiled code cannot build constructors far down a long list. -/
inductive Instr where
  /-- BUNDLE_DISPATCH (R118). -/
  | bundleDispatch
  /-- BR (R156). -/
  | br (f : CJ)
  /-- JMP (R156). -/
  | jmp (f : CJmp)
  /-- CALL (R156). -/
  | call (f : CJr)
  /-- RET (R156). -/
  | ret (f : CA)
  /-- LOOP_SET (R157). -/
  | loopSet (f : CAV)
  /-- LOOP_END (R157). -/
  | loopEnd (f : CJr)
  /-- FRAME_ALLOC (R144). -/
  | frameAlloc (f : CImm)
  /-- FRAME_FREE (R144). -/
  | frameFree (f : CNone)
  /-- FRAME_SLOT_RELEASE (R144). -/
  | frameSlotRelease (core : Nat)
  /-- YIELD (R159). -/
  | yield (f : CNone)
  /-- WAIT_Q (R160). -/
  | waitQ (f : CA)
  /-- WAIT_S (R160). -/
  | waitS (f : CSub)
  /-- HALT (R161). -/
  | halt (f : CNone)
  /-- TRAP (R162). -/
  | trap (f : CImm)
  /-- SUBSCRIBE (R164). -/
  | subscribe (f : CNSub)
  /-- UNSUB (R165). -/
  | unsub (f : CNSub)
  /-- BIND (R166). -/
  | bind (f : CBind)
  /-- WTST (R167). -/
  | wtst (f : CWtst)
  /-- PUB (R171). -/
  | pub (f : CPub)
  /-- PUB_C (R172). -/
  | pubC (f : CPubC)
  /-- STEER (R173). -/
  | steer (f : CSteer)
  /-- SPAWN (R177). -/
  | spawn (f : CSpawn)
  /-- SPAWN_NB (R177). -/
  | spawnNb (f : CSpawn)
  /-- RETN (R174). -/
  | retn (f : CRetn)
  /-- DRAIN (R175). -/
  | drain (f : CNone)
  /-- COLOUR_GET (R178). -/
  | colourGet (f : CA)
  /-- COLOUR_FREE (R179). -/
  | colourFree (f : CA)
  /-- NAME_SET_FIELD (R163). -/
  | nameSetField (f : CName)
  /-- NAME_SET_WHOLE (R163). -/
  | nameSetWhole (f : CNameW)
  /-- NAME_SET_COPY (R163). -/
  | nameSetCopy (f : CNameC)
  /-- NAME_ADD (R163). -/
  | nameAdd (f : CName)
  /-- NAME_LD (R163). -/
  | nameLd (f : CNameL)
  /-- PAND (R180). -/
  | pand (f : CP2)
  /-- POR (R180). -/
  | por (f : CP2)
  /-- PXOR (R180). -/
  | pxor (f : CP2)
  /-- PNOT (R180). -/
  | pnot (f : CP1)
  /-- PMOV (R180). -/
  | pmov (f : CP1)
  /-- SYS_RD (R182). -/
  | sysRd (f : CSysRd)
  /-- SYS_WR (R183). -/
  | sysWr (f : CSysWr)
  /-- ERET (R187). -/
  | eret (f : CA)
  /-- ERET_H (R187). -/
  | eretH (f : CA)
  /-- TLB_INV (R188). -/
  | tlbInv (f : CA)
  /-- TLB_INV_ALL (R188). -/
  | tlbInvAll (f : CNone)
  /-- DICT_LD (R189). -/
  | dictLd (f : CAB)
  /-- DICT_INV (R190). -/
  | dictInv (f : CA)
  /-- QENQ (R191). -/
  | qenq (f : CAB)
  /-- QDEQ (R191). -/
  | qdeq (f : CAB)
  /-- QENQ_NB (R191). -/
  | qenqNb (f : CQp)
  /-- QDEQ_NB (R191). -/
  | qdeqNb (f : CQp)
  /-- CYCLE_RD (R184). -/
  | cycleRd (f : CA)
  /-- FMT_SET (R185). -/
  | fmtSet (f : CA)
  /-- FMT_SET_H (R185). -/
  | fmtSetH (f : CLit)
  /-- FMT_SET_C (R185). -/
  | fmtSetC (f : CMask)
  /-- FMT_RD (R186). -/
  | fmtRd (f : CA)
  /-- ADD (R192). -/
  | add (f : SR)
  /-- ADDI (R192). -/
  | addi (f : SI)
  /-- SUB (R192). -/
  | sub (f : SR)
  /-- MUL (R192). -/
  | mul (f : SR)
  /-- MULH (R192). -/
  | mulh (f : SR)
  /-- MULH_N (R192). -/
  | mulhN (f : SR)
  /-- DIV (R193). -/
  | div (f : SR)
  /-- DIV_N (R193). -/
  | divN (f : SR)
  /-- REM (R193). -/
  | rem (f : SR)
  /-- REM_N (R193). -/
  | remN (f : SR)
  /-- MIN (R192). -/
  | min (f : SR)
  /-- MIN_N (R192). -/
  | minN (f : SR)
  /-- MAX (R192). -/
  | max (f : SR)
  /-- MAX_N (R192). -/
  | maxN (f : SR)
  /-- AND (R192). -/
  | and (f : SR)
  /-- OR (R192). -/
  | or (f : SR)
  /-- XOR (R192). -/
  | xor (f : SR)
  /-- ANDN (R192). -/
  | andn (f : SR)
  /-- SHL (R194). -/
  | shl (f : SShift)
  /-- SHR (R194). -/
  | shr (f : SShift)
  /-- SHR_N (R194). -/
  | shrN (f : SShift)
  /-- ROT (R194). -/
  | rot (f : SShift)
  /-- CLZ (R192). -/
  | clz (f : SU)
  /-- CTZ (R192). -/
  | ctz (f : SU)
  /-- POPC (R192). -/
  | popc (f : SU)
  /-- BFX (R195). -/
  | bfx (f : SBfx)
  /-- BFI (R195). -/
  | bfi (f : SBfi)
  /-- SEXT (R195). -/
  | sext (f : SExt)
  /-- ZEXT (R195). -/
  | zext (f : SExt)
  /-- MOV (R192). -/
  | mov (f : SU)
  /-- MOV_STREAM (R342). -/
  | movStream (f : SStream)
  /-- MOVI (R196). -/
  | movi (f : SMovi)
  /-- MOVI_Z (R196). -/
  | moviZ (f : SMovi)
  /-- MOVI_H (R196). -/
  | moviH (f : SMoviH)
  /-- SEL (R196). -/
  | sel (f : SSel)
  /-- CMP_CC (R197). -/
  | cmpCc (f : SCmp)
  /-- CMPI_CC (R197). -/
  | cmpiCc (f : SCmpi)
  /-- LEA (R192). -/
  | lea (f : SLea)
  /-- FADD (R199). -/
  | fadd (f : SR)
  /-- FSUB (R199). -/
  | fsub (f : SR)
  /-- FMUL (R199). -/
  | fmul (f : SR)
  /-- FFMA (R199). -/
  | ffma (f : SR)
  /-- FMIN (R200). -/
  | fmin (f : SR)
  /-- FMAX (R200). -/
  | fmax (f : SR)
  /-- FCMP_CC (R200). -/
  | fcmpCc (f : SFcmp)
  /-- FCVT (R201). -/
  | fcvt (f : SFcvt)
  /-- LD (R211). -/
  | ld (f : MLd)
  /-- ST (R211). -/
  | st (f : MSt)
  /-- LDV (R212). -/
  | ldv (f : MVec)
  /-- STV (R212). -/
  | stv (f : MVec)
  /-- LDV_G (R213). -/
  | ldvG (f : MGat)
  /-- STV_S (R213). -/
  | stvS (f : MGat)
  /-- LD_FE (R216). -/
  | ldFe (f : MFe)
  /-- ST_FE (R216). -/
  | stFe (f : MFe)
  /-- PEEK_FE (R216). -/
  | peekFe (f : MPeek)
  /-- MARK (R228). -/
  | mark (f : MFence)
  /-- FENCE (R229). -/
  | fence (f : MFence)
  /-- ATOM_ADD (R218). -/
  | atomAdd (f : MAtom)
  /-- ATOM_MIN (R218). -/
  | atomMin (f : MAtom)
  /-- ATOM_MAX (R218). -/
  | atomMax (f : MAtom)
  /-- ATOM_AND (R218). -/
  | atomAnd (f : MAtom)
  /-- ATOM_OR (R218). -/
  | atomOr (f : MAtom)
  /-- ATOM_XOR (R218). -/
  | atomXor (f : MAtom)
  /-- ATOM_SWP (R218). -/
  | atomSwp (f : MAtom)
  /-- ATOM_CAS (R218). -/
  | atomCas (f : MAtom)
  /-- ATOM_FADD (R219). -/
  | atomFadd (f : MAtomF)
  /-- ATOM_NIB (R220). -/
  | atomNib (f : MNib)
  /-- PREF (R222). -/
  | pref (f : MPref)
  /-- VADD (R243). -/
  | vadd (f : VBinX)
  /-- VSUB (R243). -/
  | vsub (f : VBinX)
  /-- VMUL (R243). -/
  | vmul (f : VBinX)
  /-- VFMA (R243). -/
  | vfma (f : VFma)
  /-- VMIN (R243). -/
  | vmin (f : VBin)
  /-- VMAX (R243). -/
  | vmax (f : VBin)
  /-- VABS (R243). -/
  | vabs (f : VUnX)
  /-- VNEG (R243). -/
  | vneg (f : VUnX)
  /-- VAND (R244). -/
  | vand (f : VBinX)
  /-- VOR (R244). -/
  | vor (f : VBinX)
  /-- VXOR (R244). -/
  | vxor (f : VBinX)
  /-- VSHL (R244). -/
  | vshl (f : VShift)
  /-- VSHR (R244). -/
  | vshr (f : VShift)
  /-- VCMP_CC (R245). -/
  | vcmpCc (f : VCmp)
  /-- VSEL (R246). -/
  | vsel (f : VSel)
  /-- VCAS (R248). -/
  | vcas (f : VCas)
  /-- VCAS_X (R248). -/
  | vcasX (f : VCasX)
  /-- VPERM (R249). -/
  | vperm (f : VPerm)
  /-- VPERM2 (R249). -/
  | vperm2 (f : VPerm2)
  /-- VBCAST_SCALAR (R250). -/
  | vbcastScalar (f : VBcS)
  /-- VBCAST_LANE (R250). -/
  | vbcastLane (f : VBcL)
  /-- VBCAST_LITERAL (R250). -/
  | vbcastLiteral (f : VBcLit)
  /-- VSHUF (R251). -/
  | vshuf (f : VShuf)
  /-- VRED_ADD (R253). -/
  | vredAdd (f : VRed)
  /-- VRED_MAX (R253). -/
  | vredMax (f : VRed)
  /-- VRED_MIN (R253). -/
  | vredMin (f : VRed)
  /-- VSCAN_ADD (R253). -/
  | vscanAdd (f : VUn)
  /-- VRCP_E (R254). -/
  | vrcpE (f : VUn)
  /-- VRSQ_E (R254). -/
  | vrsqE (f : VUn)
  /-- VEXP2 (R254). -/
  | vexp2 (f : VUn)
  /-- VLOG2 (R254). -/
  | vlog2 (f : VUn)
  /-- VCVT (R255). -/
  | vcvt (f : VCvt)
  /-- VSCL (R256). -/
  | vscl (f : VScl)
  /-- VPACK (R257). -/
  | vpack (f : VPack)
  /-- VUNPACK (R257). -/
  | vunpack (f : VPack)
  /-- VMOV_S (R252). -/
  | vmovS (f : VMovS)
  /-- VEXT (R252). -/
  | vext (f : VExt)
  /-- VIOTA (R252). -/
  | viota (f : VIota)
  /-- MAND (R258). -/
  | mand (f : MBin)
  /-- MOR (R258). -/
  | mor (f : MBin)
  /-- MNOT (R258). -/
  | mnot (f : MUn)
  /-- VPOPC (R259). -/
  | vpopc (f : VPopc)
  /-- MMA (R266). -/
  | mma (f : MMma)
  /-- MMA_G (R269). -/
  | mmaG (f : MMmaG)
  /-- ZCLR (R271). -/
  | zclr (f : MZclr)
  /-- ZLD (R271). -/
  | zld (f : MZld)
  /-- ZST (R271). -/
  | zst (f : MZst)
  /-- ZCVT (R272). -/
  | zcvt (f : MZcvt)
  /-- ZADD (R273). -/
  | zadd (f : MZadd)
  /-- WLD (R274). -/
  | wld (f : MWld)
  /-- MWAIT (R276). -/
  | mwait (f : MWaitI)
  /-- MATRIX_WRITE_LAND (R264). -/
  | matrixWriteLand (core : Nat)
  /-- WLD_TRANSFER_DONE (R274). -/
  | wldTransferDone (core : Nat)
  /-- CP (R279). -/
  | cp (f : ECp)
  /-- CP_NAME (R280). -/
  | cpName (f : EDA)
  /-- CP_WIN (R281). -/
  | cpWin (f : EDAB)
  /-- CP_WAIT (R282). -/
  | cpWait (f : ENone)
  /-- SBIND (R283). -/
  | sbind (f : ESbind)
  /-- SCLOSE_MARKER (R284). -/
  | scloseMarker (f : EA)
  /-- SCLOSE_UNBIND (R284). -/
  | scloseUnbind (f : EW)
  /-- HASH_SHA (R285). -/
  | hashSha (f : EHash)
  /-- HASH_CRC (R286). -/
  | hashCrc (f : ECrc)
  /-- HASH_WAIT (R287). -/
  | hashWait (f : ENone)
  /-- ENGINE_COMMAND_DONE (R278). -/
  | engineCommandDone (core : Nat) (eng : Eng)
  /-- SHADOW_COMMIT (R232). -/
  | shadowCommit (core : Nat) (line : Nat)
  /-- STREAM_LINE_REQUEST (R283). -/
  | streamLineRequest (core : Nat) (w : Fin 8)
  /-- STREAM_LINE_RETURN (R283). -/
  | streamLineReturn (core : Nat) (w : Fin 8)
  /-- LC_CTX_OPEN (R361). -/
  | lcCtxOpen (f : ED)
  /-- LC_CTX_COMMIT (R371). -/
  | lcCtxCommit (f : EDAB)
  /-- LC_CTX_ABORT (R361). -/
  | lcCtxAbort (f : EA)
  /-- LC_CTX_REL (R361). -/
  | lcCtxRel (f : EA)
  /-- LC_TBL (R362). -/
  | lcTbl (f : ETbl)
  /-- CELADON_RECORD_LOAD (R354). -/
  | celadonRecordLoad (cluster : Nat)
  /-- LC_SEL (R363). -/
  | lcSel (f : ESel)
  /-- LC_RUN (R364). -/
  | lcRun (f : EDAB)
  /-- CELADON_BATCH (R347). -/
  | celadonBatch (cluster : Nat)
  /-- LC_TSLICE (R365). -/
  | lcTslice (f : ETslice)
  /-- LC_UNSLICE (R366). -/
  | lcUnslice (f : EUnslice)
  /-- LC_POP (R367). -/
  | lcPop (f : EDAB)
  /-- LC_WAIT (R368). -/
  | lcWait (f : ENone)
  /-- LC_STAT (R369). -/
  | lcStat (f : EStat)
  /-- QUANTUM_EXPIRY (R302). -/
  | quantumExpiry (core : Nat)
  /-- PRE_EMPTION (R303). -/
  | preEmption (core : Nat)
  /-- TASK_DISPATCH (R301). -/
  | taskDispatch (core : Nat)
  /-- INSTANCE_FIRE (R33). -/
  | instanceFire (cluster : Nat) (idx : Nat)
  /-- LAUNCH_ACCEPT (R295). -/
  | launchAccept (part : Nat) (sup : Bool)
  /-- LEVEL_INSTANTIATE (R37). -/
  | levelInstantiate (part : Nat) (launch : Nat) (level : Nat) (inst : Nat)
  /-- LAUNCH_RETIRE (R297). -/
  | launchRetire (part : Nat) (launch : Nat)
  /-- ROUTER_FORWARD (R63). -/
  | routerForward (router : Nat)
  /-- SUBSCRIPTION_REGISTER (R63). -/
  | subscriptionRegister (idx : Nat)
  /-- HOME_FETCH (R69). -/
  | homeFetch (idx : Nat)
  /-- REMOTE_FORWARD (R432). -/
  | remoteForward (idx : Nat)
  /-- RENDEZVOUS_RETAIN (R68). -/
  | rendezvousRetain (cluster : Nat)
  /-- WRITE_THROUGH (R71). -/
  | writeThrough (idx : Nat)
  /-- DELIVERY (R72). -/
  | delivery (cluster : Nat)
  /-- STAGING_ADMIT (R318). -/
  | stagingAdmit (cluster : Nat)
  /-- DRAIN_MARKER_ARRIVAL (R52). -/
  | drainMarkerArrival (cluster : Nat)
  /-- DRAIN_FORWARD (R47). -/
  | drainForward (cluster : Nat) (idx : Nat)
  /-- CONTRIBUTION_ARRIVAL (R80). -/
  | contributionArrival (cluster : Nat)
  /-- ACKNOWLEDGEMENT (R82). -/
  | acknowledgement (idx : Nat)
  /-- CIRCUIT_FLIT (R304). -/
  | circuitFlit (router : Nat) (port : Nat)
  /-- STORE_BUFFER_DRAIN (R223). -/
  | storeBufferDrain (cluster : Nat) (idx : Nat)
  /-- RIM_ACCESS_REQUEST (R224). -/
  | rimAccessRequest (idx : Nat)
  /-- ACCESS_DATA_RETURN (R210). -/
  | accessDataReturn (core : Nat) (idx : Nat)
  /-- ENGINE_FAULT (R379). -/
  | engineFault (core : Nat) (eng : Eng)
  /-- CHECKPOINT_HOLD_REACHED (R383). -/
  | checkpointHoldReached (part : Nat) (launch : Nat)
  /-- KEY_SLOT_EMPTY (R422). -/
  | keySlotEmpty (part : Nat) (slot : Nat)
  /-- PART_LOAD_DONE (R313). -/
  | partLoadDone (part : Nat)
  /-- PART_FORM_DONE (R416). -/
  | partFormDone
  /-- CELADON_SLOT_POISONED (R356). -/
  | celadonSlotPoisoned (cluster : Nat) (slot : Nat) (cell : Nat)
  /-- CELADON_SLOT_REPAIR (R356). -/
  | celadonSlotRepair (cluster : Nat) (slot : SlotWords)
  /-- CELADON_PLACED_DIGEST (R356). -/
  | celadonPlacedDigest (cluster : Nat) (slot : Nat)
  /-- CORE_CHAIN_WRITE (R358). -/
  | coreChainWrite (core : Nat) (v : Word)
  /-- AGING_PROMOTION (R53). -/
  | agingPromotion (cluster : Nat) (rec : Nat)
  /-- LEVEL_REPLACE (R41). -/
  | levelReplace (part : Nat) (launch : Nat) (level : Nat) (inst : Nat)
  /-- ADDRESSED_ROUTE (R409). -/
  | addressedRoute (router : Nat)
  /-- RETAIN_EXPIRY (R68). -/
  | retainExpiry (cluster : Nat) (idx : Nat)
  /-- COMBINE_BITMAP_EXPIRY (R87). -/
  | combineBitmapExpiry (cluster : Nat) (idx : Nat)
  /-- RESEND_TIMEOUT (R82). -/
  | resendTimeout (idx : Nat)
  /-- NEGATIVE_ACK (R385). -/
  | negativeAck (cluster : Nat)
  /-- FILTER_EXPIRY (R83). -/
  | filterExpiry (cluster : Nat) (idx : Nat)
  /-- PAGE_WALK (R324). -/
  | pageWalk (core : Nat) (va : Word) (write : Bool)
  /-- HOLD_LIMIT (R380). -/
  | holdLimit (core : Nat) (eng : Eng)
  /-- CORRECTED_ERROR (R384). -/
  | correctedError (unit : Nat)
  /-- CONFIG_RELOAD (R387). -/
  | configReload (region : Nat)
  /-- CONFIG_RELOAD_DONE (R387). -/
  | configReloadDone (region : Nat) (ok : Bool)
  /-- FATAL_ERROR (R391). -/
  | fatalError (part : Nat)
  /-- SPILL_FAULT (R310). -/
  | spillFault (part : Nat) (q : Nat)
  /-- SIENNA_INTERVAL (R393). -/
  | siennaInterval
  /-- LEASE_SAVE (R396). -/
  | leaseSave (core : Nat)
  /-- LEASE_ABANDON (R396). -/
  | leaseAbandon (core : Nat)
  /-- LINK_DRAINED (R398). -/
  | linkDrained (unit : Nat)
  /-- CHANNEL_QUIESCE (R399). -/
  | channelQuiesce (unit : Nat)
  /-- LEASE_TEST_DONE (R395). -/
  | leaseTestDone (unit : Nat) (result : TestResult)
  /-- MIRROR_COMPARE (R404). -/
  | mirrorCompare (part : Nat) (pair : Nat)
  /-- MIRROR_TIMEOUT (R404). -/
  | mirrorTimeout (part : Nat) (pair : Nat)
  /-- MARGIN_PLAN_CHANGE (R406). -/
  | marginPlanChange (cluster : Nat) (plan : Nat)
  /-- POWER_CAP_STEP (R435). -/
  | powerCapStep (cluster : Nat) (draw : Nat)
  /-- THERMAL_HOLD (R436). -/
  | thermalHold (cluster : Nat)
  /-- THERMAL_STOP (R436). -/
  | thermalStop (field : Nat)
  /-- COLD_RESET (R7). -/
  | coldReset (field : Nat)
  /-- CLUSTER_STAGE_ADVANCE (R433): `found` is what the stage's work has found. In RESET the fuses: bits 255 to 0 the
  Celadon blocks, 463 to 256 the physical cores, 511 to 464 the routers that fail; in SELFTEST nonzero for a failed
  test. -/
  | clusterStageAdvance (cluster : Nat) (found : Nat)
  /-- GREETING_BURST (R412). -/
  | greetingBurst (router : Nat) (port : Nat)
  /-- GREETING_ANSWER (R412). -/
  | greetingAnswer (router : Nat) (port : Nat) (intact : Nat)
  /-- BOLSAR_FLIT (R430). -/
  | bolsarFlit (port : Nat) (crcOk : Bool)
  /-- PCIE_LINK_TRAIN (R425). -/
  | pcieLinkTrain (port : Nat)
  /-- BAR2_ACCESS (R426). -/
  | bar2Access (idx : Nat)
  /-- KEY_INSTALL (R420). -/
  | keyInstall (idx : Nat)
  /-- KEY_SLOT_SELECT (R421). -/
  | keySlotSelect (part : Nat) (v : Word)
  /-- KEY_SLOT_CLEAR (R422). -/
  | keySlotClear (part : Nat) (v : Word)
  /-- RIM_FE_CLR (R341). -/
  | rimFeClr (part : Nat) (v : Word)
  /-- HQ_CFG_WRITE (R308). -/
  | hqCfgWrite (part : Nat) (q : Nat) (v : Word)
  /-- HQ_TAIL_WRITE (R309). -/
  | hqTailWrite (part : Nat) (q : Nat) (v : HostWord)
  /-- HQ_HEAD_WRITE (R309). -/
  | hqHeadWrite (part : Nat) (q : Nat) (v : Word)
  /-- HQ_NOTIFY_WRITE (R427). -/
  | hqNotifyWrite (part : Nat) (q : Nat) (v : Word)
  /-- PART_HOLD_NAMED (R312). -/
  | partHoldNamed (part : Nat) (on : Bool)
  /-- PART_HOLD_CIRC (R312). -/
  | partHoldCirc (part : Nat) (on : Bool)
  /-- PART_HOLD_STR (R312). -/
  | partHoldStr (part : Nat) (on : Bool)
  /-- PART_LOAD_DESCRIPTORS (R313). -/
  | partLoadDescriptors (part : Nat) (v : Word)
  /-- PART_LOAD_RANGES (R339). -/
  | partLoadRanges (part : Nat) (v : Word)
  /-- PART_LOAD_CIRCUITS (R306). -/
  | partLoadCircuits (part : Nat) (v : Word)
  /-- PART_END (R316). -/
  | partEnd (part : Nat) (v : Word)
  /-- PART_RESUME (R383). -/
  | partResume (part : Nat) (v : Word)
  /-- PART_FORM (R416). -/
  | partForm (v : Word)
  /-- PART_DISSOLVE (R416). -/
  | partDissolve (v : Word)
  /-- CORE_EFAULT_RETRY (R380). -/
  | coreEfaultRetry (core : Nat)
  /-- CORE_EFAULT_ABANDON (R380). -/
  | coreEfaultAbandon (core : Nat)
  /-- REC_ADDR_WRITE (R441). -/
  | recAddrWrite (part : Nat) (v : Word)
  /-- REC_DATA_WRITE (R23). -/
  | recDataWrite (part : Nat) (idx : Nat) (v : Word)
  /-- CORE_WINDOW_WRITE (R148). -/
  | coreWindowWrite (part : Nat) (addr : Nat) (v : Word)
  /-- NET_CFG_WRITE (R85). -/
  | netCfgWrite (part : Nat) (v : Word)
  /-- CLUS_STAGE_WRITE (R318). -/
  | clusStageWrite (cluster : Nat) (v : Word)
  /-- XLAT_ROOT_WRITE (R320). -/
  | xlatRootWrite (part : Nat) (idx : Nat) (v : Word)
  /-- SIENNA_CFG_WRITE (R407). -/
  | siennaCfgWrite (v : Word)
  /-- PWR_CAP_WRITE (R435). -/
  | pwrCapWrite (cluster : Nat) (v : Word)
  /-- CORE_SRND_WRITE (R98). -/
  | coreSrndWrite (core : Nat) (v : Word)
  /-- CORE_CTL_SCB_WRITE (R122). -/
  | coreCtlScbWrite (core : Nat) (v : Word)
  /-- CLUS_MSTORE_FILL_READ (R300). -/
  | clusMstoreFillRead (cluster : Nat)
  /-- CLUS_STAGE_READ (R318). -/
  | clusStageRead (cluster : Nat)
  /-- REGISTER_WRITE (R6). -/
  | registerWrite (addr : Nat) (v : HostWord)
  /-- THERMAL_RELEASE (R436). -/
  | thermalRelease (cluster : Nat)
  /-- DEFERRED_REQUEST_WITHDRAWN (R217). -/
  | deferredRequestWithdrawn (core : Nat)
  /-- BOLSAR_LINK_KEY (R430). -/
  | bolsarLinkKey (port : Nat)
  /-- RIM_RESET (R419). -/
  | rimReset
  /-- CHANNEL_RELEASE (R400). -/
  | channelRelease (part : Nat) (unit : Nat)
  /-- OPERATOR_COMMAND (R405). -/
  | operatorCommand (unit : Nat)
  deriving DecidableEq, Repr, Inhabited

end Sys2Proof
end

