-- ==== Sys2Proof/Machine/Uses.lean ====
section
/-! DEFINITION. Which slot an instruction issues in, its guard, and the registers its part reads and writes
(R116, R136, R137, R138, R235, and the field columns of Tables 13·2, 13·4, 13·7, 15·4, 17·1, 19·1, 19·3 and 25·8).
R121 (interlocks), R122 (the checking scoreboard), R136 (the cross path), R141 (two parts, one stream register) and
R377 (the replay block) all read these lists. -/

namespace Sys2Proof

/-- A register named by a field of a part. -/
inductive RegRef where
  | s (i : SReg)
  | p (i : PReg)
  | v (i : VReg)
  | m (i : MReg)
  | n (i : NReg)
  | z (i : ZReg)
  deriving DecidableEq, Repr, Inhabited

/-- What one part names. -/
structure Uses where
  slot    : Slot
  g       : Guard
  reads   : List RegRef
  writes  : List RegRef
  streams : List WReg := []
  deriving DecidableEq, Repr

/-- The slot of a scalar bank (R136). -/
def Bank.slot : Bank → Slot
  | .a => .s0
  | .b => .s1

/-- The bank of a scalar register (R136). -/
def regBank (i : SReg) : Bank := if i.val < 32 then .a else .b

/-- The bank of a predicate (R138). -/
def predBank (i : PReg) : Bank := if i.val < 8 then .a else .b

/-- s0 and s32 (R136). -/
def sHard (i : SReg) : Bool := i.val = 0 || i.val = 32

/-- p0 and p8 (R138). -/
def pHard (i : PReg) : Bool := i.val = 0 || i.val = 8

def SrcB.regs : SrcB → List RegRef
  | .reg b => [.s b]
  | .lit _ => []

def Val.regs : Val → List RegRef
  | .reg b => [.s b]
  | .lit _ => []
  | .imm _ => []

def ShAmt.regs : ShAmt → List RegRef
  | .reg b => [.s b]
  | .lit _ => []
  | .imm _ => []

def VSrc.regs : VSrc → List RegRef
  | .reg b => [.v b]
  | .lit _ => []

def VAmt.regs : VAmt → List RegRef
  | .reg b => [.v b]
  | .imm _ => []

def JmpDest.regs : JmpDest → List RegRef
  | .reg a => [.s a]
  | .lit _ => []

def LcSel.regs : LcSel → List RegRef
  | .reg a => [.s a]
  | .imm _ => []

/-- The argument names of a SPAWN, n[N] to n[N + cnt − 1] (R177). -/
def spawnNames (f : CSpawn) : List NReg :=
  (List.finRange 8).filter fun i => f.n.val ≤ i.val && i.val ≤ f.n.val + f.cnt.val

/-- The slot, guard and registers of an instruction; none for a step of the device that no slot holds. -/
def Instr.uses : Instr → Option Uses
  | .bundleDispatch => none
  | .br f => some { slot := .c, g := f.g, reads := [], writes := [] }
  | .jmp f => some { slot := .c, g := f.g, reads := f.t.regs, writes := [] }
  | .call f => some { slot := .c, g := f.g, reads := [], writes := [.s f.r] }
  | .ret f => some { slot := .c, g := f.g, reads := [.s f.a], writes := [] }
  | .loopSet f => some { slot := .c, g := f.g, reads := f.v.regs, writes := [.s f.a] }
  | .loopEnd f => some { slot := .c, g := f.g, reads := [.s f.r], writes := [.s f.r] }
  | .frameAlloc f => some { slot := .c, g := f.g, reads := [], writes := [] }
  | .frameFree f => some { slot := .c, g := f.g, reads := [], writes := [] }
  | .frameSlotRelease _ => none
  | .yield f => some { slot := .c, g := f.g, reads := [], writes := [] }
  | .waitQ f => some { slot := .c, g := f.g, reads := [.s f.a], writes := [] }
  | .waitS f => some { slot := .c, g := f.g, reads := [], writes := [] }
  | .halt f => some { slot := .c, g := f.g, reads := [], writes := [] }
  | .trap f => some { slot := .c, g := f.g, reads := [], writes := [] }
  | .subscribe f => some { slot := .c, g := f.g, reads := [.n f.n], writes := [] }
  | .unsub f => some { slot := .c, g := f.g, reads := [.n f.n], writes := [] }
  | .bind f => some { slot := .c, g := f.g, reads := [.n f.n], writes := [], streams := [f.w] }
  | .wtst f => some { slot := .c, g := f.g, reads := [], writes := [.p f.pd], streams := [f.w] }
  | .pub f => some { slot := .c, g := f.g, reads := [.s f.a, .n f.n], writes := [] }
  | .pubC f => some { slot := .c, g := f.g, reads := [.s f.a, .s f.b, .n f.n], writes := [] }
  | .steer f => some { slot := .c, g := f.g, reads := [.s f.a, .n f.n, .n f.n2, .p f.p], writes := [] }
  | .spawn f => some { slot := .c, g := f.g, reads := .s f.b :: .n f.n2 :: (spawnNames f).map .n, writes := [.s f.a] }
  | .spawnNb f => some { slot := .c, g := f.g, reads := .s f.b :: .n f.n2 :: (spawnNames f).map .n, writes := [.s f.a] }
  | .retn f => some { slot := .c, g := f.g, reads := [.s f.a], writes := [] }
  | .drain f => some { slot := .c, g := f.g, reads := [], writes := [] }
  | .colourGet f => some { slot := .c, g := f.g, reads := [], writes := [.s f.a] }
  | .colourFree f => some { slot := .c, g := f.g, reads := [.s f.a], writes := [] }
  | .nameSetField f => some { slot := .c, g := f.g, reads := .n f.n :: f.v.regs, writes := [.n f.n] }
  | .nameSetWhole f => some { slot := .c, g := f.g, reads := [.s f.a, .s f.b], writes := [.n f.n] }
  | .nameSetCopy f => some { slot := .c, g := f.g, reads := [.n f.m], writes := [.n f.n] }
  | .nameAdd f => some { slot := .c, g := f.g, reads := .n f.n :: f.v.regs, writes := [.n f.n] }
  | .nameLd f => some { slot := .c, g := f.g, reads := [.s f.a], writes := [.n f.n] }
  | .pand f => some { slot := .c, g := f.g, reads := [.p f.pa, .p f.pb], writes := [.p f.pd] }
  | .por f => some { slot := .c, g := f.g, reads := [.p f.pa, .p f.pb], writes := [.p f.pd] }
  | .pxor f => some { slot := .c, g := f.g, reads := [.p f.pa, .p f.pb], writes := [.p f.pd] }
  | .pnot f => some { slot := .c, g := f.g, reads := [.p f.pa], writes := [.p f.pd] }
  | .pmov f => some { slot := .c, g := f.g, reads := [.p f.pa], writes := [.p f.pd] }
  | .sysRd f => some { slot := .c, g := f.g, reads := [.s f.b], writes := [.s f.a] }
  | .sysWr f => some { slot := .c, g := f.g, reads := [.s f.a], writes := [] }
  | .eret f => some { slot := .c, g := f.g, reads := [.s f.a], writes := [] }
  | .eretH f => some { slot := .c, g := f.g, reads := [.s f.a], writes := [] }
  | .tlbInv f => some { slot := .c, g := f.g, reads := [.s f.a], writes := [] }
  | .tlbInvAll f => some { slot := .c, g := f.g, reads := [], writes := [] }
  | .dictLd f => some { slot := .c, g := f.g, reads := [.s f.a, .s f.b], writes := [] }
  | .dictInv f => some { slot := .c, g := f.g, reads := [.s f.a], writes := [] }
  | .qenq f => some { slot := .c, g := f.g, reads := [.s f.a, .s f.b], writes := [] }
  | .qdeq f => some { slot := .c, g := f.g, reads := [.s f.a, .s f.b], writes := [] }
  | .qenqNb f => some { slot := .c, g := f.g, reads := [.s f.a, .s f.b], writes := [.p f.p] }
  | .qdeqNb f => some { slot := .c, g := f.g, reads := [.s f.a, .s f.b], writes := [.p f.p] }
  | .cycleRd f => some { slot := .c, g := f.g, reads := [], writes := [.s f.a] }
  | .fmtSet f => some { slot := .c, g := f.g, reads := [.s f.a], writes := [] }
  | .fmtSetH f => some { slot := .c, g := f.g, reads := [], writes := [] }
  | .fmtSetC f => some { slot := .c, g := f.g, reads := [], writes := [] }
  | .fmtRd f => some { slot := .c, g := f.g, reads := [], writes := [.s f.a] }
  | .add f => some { slot := f.k.slot, g := f.g, reads := .s f.a :: f.b.regs, writes := [.s f.d] }
  | .addi f => some { slot := f.k.slot, g := f.g, reads := [.s f.a], writes := [.s f.d] }
  | .sub f => some { slot := f.k.slot, g := f.g, reads := .s f.a :: f.b.regs, writes := [.s f.d] }
  | .mul f => some { slot := f.k.slot, g := f.g, reads := .s f.a :: f.b.regs, writes := [.s f.d] }
  | .mulh f => some { slot := f.k.slot, g := f.g, reads := .s f.a :: f.b.regs, writes := [.s f.d] }
  | .mulhN f => some { slot := f.k.slot, g := f.g, reads := .s f.a :: f.b.regs, writes := [.s f.d] }
  | .div f => some { slot := f.k.slot, g := f.g, reads := .s f.a :: f.b.regs, writes := [.s f.d] }
  | .divN f => some { slot := f.k.slot, g := f.g, reads := .s f.a :: f.b.regs, writes := [.s f.d] }
  | .rem f => some { slot := f.k.slot, g := f.g, reads := .s f.a :: f.b.regs, writes := [.s f.d] }
  | .remN f => some { slot := f.k.slot, g := f.g, reads := .s f.a :: f.b.regs, writes := [.s f.d] }
  | .min f => some { slot := f.k.slot, g := f.g, reads := .s f.a :: f.b.regs, writes := [.s f.d] }
  | .minN f => some { slot := f.k.slot, g := f.g, reads := .s f.a :: f.b.regs, writes := [.s f.d] }
  | .max f => some { slot := f.k.slot, g := f.g, reads := .s f.a :: f.b.regs, writes := [.s f.d] }
  | .maxN f => some { slot := f.k.slot, g := f.g, reads := .s f.a :: f.b.regs, writes := [.s f.d] }
  | .and f => some { slot := f.k.slot, g := f.g, reads := .s f.a :: f.b.regs, writes := [.s f.d] }
  | .or f => some { slot := f.k.slot, g := f.g, reads := .s f.a :: f.b.regs, writes := [.s f.d] }
  | .xor f => some { slot := f.k.slot, g := f.g, reads := .s f.a :: f.b.regs, writes := [.s f.d] }
  | .andn f => some { slot := f.k.slot, g := f.g, reads := .s f.a :: f.b.regs, writes := [.s f.d] }
  | .shl f => some { slot := f.k.slot, g := f.g, reads := .s f.a :: f.n.regs, writes := [.s f.d] }
  | .shr f => some { slot := f.k.slot, g := f.g, reads := .s f.a :: f.n.regs, writes := [.s f.d] }
  | .shrN f => some { slot := f.k.slot, g := f.g, reads := .s f.a :: f.n.regs, writes := [.s f.d] }
  | .rot f => some { slot := f.k.slot, g := f.g, reads := .s f.a :: f.n.regs, writes := [.s f.d] }
  | .clz f => some { slot := f.k.slot, g := f.g, reads := [.s f.a], writes := [.s f.d] }
  | .ctz f => some { slot := f.k.slot, g := f.g, reads := [.s f.a], writes := [.s f.d] }
  | .popc f => some { slot := f.k.slot, g := f.g, reads := [.s f.a], writes := [.s f.d] }
  | .bfx f => some { slot := f.k.slot, g := f.g, reads := [.s f.a], writes := [.s f.d] }
  | .bfi f => some { slot := f.k.slot, g := f.g, reads := [.s f.a, .s f.d], writes := [.s f.d] }
  | .sext f => some { slot := f.k.slot, g := f.g, reads := [.s f.a], writes := [.s f.d] }
  | .zext f => some { slot := f.k.slot, g := f.g, reads := [.s f.a], writes := [.s f.d] }
  | .mov f => some { slot := f.k.slot, g := f.g, reads := [.s f.a], writes := [.s f.d] }
  | .movStream f => some { slot := f.k.slot, g := f.g, reads := [], writes := [.s f.d], streams := [f.w] }
  | .movi f => some { slot := f.k.slot, g := f.g, reads := [], writes := [.s f.d] }
  | .moviZ f => some { slot := f.k.slot, g := f.g, reads := [], writes := [.s f.d] }
  | .moviH f => some { slot := f.k.slot, g := f.g, reads := [.s f.d], writes := [.s f.d] }
  | .sel f => some { slot := f.k.slot, g := f.g, reads := .s f.a :: .p f.p :: f.b.regs, writes := [.s f.d] }
  | .cmpCc f => some { slot := f.k.slot, g := f.g, reads := .s f.a :: f.b.regs, writes := [.p f.pd] }
  | .cmpiCc f => some { slot := f.k.slot, g := f.g, reads := [.s f.a], writes := [.p f.pd] }
  | .lea f => some { slot := f.k.slot, g := f.g, reads := .s f.a :: f.b.regs, writes := [.s f.d] }
  | .fadd f => some { slot := f.k.slot, g := f.g, reads := .s f.a :: f.b.regs, writes := [.s f.d] }
  | .fsub f => some { slot := f.k.slot, g := f.g, reads := .s f.a :: f.b.regs, writes := [.s f.d] }
  | .fmul f => some { slot := f.k.slot, g := f.g, reads := .s f.a :: f.b.regs, writes := [.s f.d] }
  | .ffma f => some { slot := f.k.slot, g := f.g, reads := .s f.a :: .s f.d :: f.b.regs, writes := [.s f.d] }
  | .fmin f => some { slot := f.k.slot, g := f.g, reads := .s f.a :: f.b.regs, writes := [.s f.d] }
  | .fmax f => some { slot := f.k.slot, g := f.g, reads := .s f.a :: f.b.regs, writes := [.s f.d] }
  | .fcmpCc f => some { slot := f.k.slot, g := f.g, reads := .s f.a :: f.b.regs, writes := [.p f.pd] }
  | .fcvt f => some { slot := f.k.slot, g := f.g, reads := [.s f.a], writes := [.s f.d] }
  | .ld f => some { slot := f.k.slot, g := f.g, reads := [.s f.a, .s f.b], writes := [.s f.d] }
  | .st f => some { slot := f.k.slot, g := f.g, reads := [.s f.d, .s f.a, .s f.b], writes := [] }
  | .ldv f => some { slot := f.k.slot, g := f.g, reads := [.s f.a, .s f.b, .m f.km], writes := [.v f.v] }
  | .stv f => some { slot := f.k.slot, g := f.g, reads := [.v f.v, .s f.a, .s f.b, .m f.km], writes := [] }
  | .ldvG f => some { slot := f.k.slot, g := f.g, reads := [.s f.a, .v f.vb, .m f.km], writes := [.v f.v] }
  | .stvS f => some { slot := f.k.slot, g := f.g, reads := [.v f.v, .s f.a, .v f.vb, .m f.km], writes := [] }
  | .ldFe f => some { slot := f.k.slot, g := f.g, reads := [.s f.a, .s f.b], writes := [.s f.d] }
  | .stFe f => some { slot := f.k.slot, g := f.g, reads := [.s f.d, .s f.a, .s f.b], writes := [] }
  | .peekFe f => some { slot := f.k.slot, g := f.g, reads := [.s f.a, .s f.b], writes := [.p f.pd] }
  | .mark f => some { slot := f.k.slot, g := f.g, reads := [], writes := [] }
  | .fence f => some { slot := f.k.slot, g := f.g, reads := [], writes := [] }
  | .atomAdd f => some { slot := f.k.slot, g := f.g, reads := [.s f.a, .s f.b], writes := [.s f.d] }
  | .atomMin f => some { slot := f.k.slot, g := f.g, reads := [.s f.a, .s f.b], writes := [.s f.d] }
  | .atomMax f => some { slot := f.k.slot, g := f.g, reads := [.s f.a, .s f.b], writes := [.s f.d] }
  | .atomAnd f => some { slot := f.k.slot, g := f.g, reads := [.s f.a, .s f.b], writes := [.s f.d] }
  | .atomOr f => some { slot := f.k.slot, g := f.g, reads := [.s f.a, .s f.b], writes := [.s f.d] }
  | .atomXor f => some { slot := f.k.slot, g := f.g, reads := [.s f.a, .s f.b], writes := [.s f.d] }
  | .atomSwp f => some { slot := f.k.slot, g := f.g, reads := [.s f.a, .s f.b], writes := [.s f.d] }
  | .atomCas f => some { slot := f.k.slot, g := f.g, reads := [.s f.a, .s f.b, .s f.d], writes := [.s f.d] }
  | .atomFadd f => some { slot := f.k.slot, g := f.g, reads := [.s f.a, .s f.b], writes := [.s f.d] }
  | .atomNib f => some { slot := f.k.slot, g := f.g, reads := [.s f.a, .s f.b], writes := [.s f.d] }
  | .pref f => some { slot := f.k.slot, g := f.g, reads := [.s f.a, .s f.b], writes := [] }
  | .vadd f => some { slot := .v, g := f.g, reads := .v f.a :: .m f.km :: f.b.regs, writes := [.v f.d] }
  | .vsub f => some { slot := .v, g := f.g, reads := .v f.a :: .m f.km :: f.b.regs, writes := [.v f.d] }
  | .vmul f => some { slot := .v, g := f.g, reads := .v f.a :: .m f.km :: f.b.regs, writes := [.v f.d] }
  | .vfma f => some { slot := .v, g := f.g, reads := .v f.a :: .v f.c :: .m f.km :: f.b.regs, writes := [.v f.d] }
  | .vmin f => some { slot := .v, g := f.g, reads := .v f.a :: .m f.km :: f.b.regs, writes := [.v f.d] }
  | .vmax f => some { slot := .v, g := f.g, reads := .v f.a :: .m f.km :: f.b.regs, writes := [.v f.d] }
  | .vabs f => some { slot := .v, g := f.g, reads := [.v f.a, .m f.km], writes := [.v f.d] }
  | .vneg f => some { slot := .v, g := f.g, reads := [.v f.a, .m f.km], writes := [.v f.d] }
  | .vand f => some { slot := .v, g := f.g, reads := .v f.a :: .m f.km :: f.b.regs, writes := [.v f.d] }
  | .vor f => some { slot := .v, g := f.g, reads := .v f.a :: .m f.km :: f.b.regs, writes := [.v f.d] }
  | .vxor f => some { slot := .v, g := f.g, reads := .v f.a :: .m f.km :: f.b.regs, writes := [.v f.d] }
  | .vshl f => some { slot := .v, g := f.g, reads := .v f.a :: .m f.km :: f.n.regs, writes := [.v f.d] }
  | .vshr f => some { slot := .v, g := f.g, reads := .v f.a :: .m f.km :: f.n.regs, writes := [.v f.d] }
  | .vcmpCc f => some { slot := .v, g := f.g, reads := .v f.a :: .m f.km :: f.b.regs, writes := [.m f.d] }
  | .vsel f => some { slot := .v, g := f.g, reads := [.v f.a, .v f.b, .m f.km], writes := [.v f.d] }
  | .vcas f => some { slot := .v, g := f.g, reads := [.v f.a, .m f.km], writes := [.v f.d] }
  | .vcasX f => some { slot := .v, g := f.g, reads := [.v f.a, .v f.b, .m f.km], writes := [.v f.d, .v f.c] }
  | .vperm f => some { slot := .v, g := f.g, reads := [.v f.a, .v f.b], writes := [.v f.d] }
  | .vperm2 f => some { slot := .v, g := f.g, reads := [.v f.a, .v f.c, .v f.b], writes := [.v f.d] }
  | .vbcastScalar f => some { slot := .v, g := f.g, reads := [.s f.s], writes := [.v f.d] }
  | .vbcastLane f => some { slot := .v, g := f.g, reads := [.v f.a], writes := [.v f.d] }
  | .vbcastLiteral f => some { slot := .v, g := f.g, reads := [], writes := [.v f.d] }
  | .vshuf f => some { slot := .v, g := f.g, reads := [.v f.a, .v f.b], writes := [.v f.d] }
  | .vredAdd f => some { slot := .v, g := f.g, reads := [.v f.a, .m f.km], writes := [.s f.s] }
  | .vredMax f => some { slot := .v, g := f.g, reads := [.v f.a, .m f.km], writes := [.s f.s] }
  | .vredMin f => some { slot := .v, g := f.g, reads := [.v f.a, .m f.km], writes := [.s f.s] }
  | .vscanAdd f => some { slot := .v, g := f.g, reads := [.v f.a, .m f.km], writes := [.v f.d] }
  | .vrcpE f => some { slot := .v, g := f.g, reads := [.v f.a, .m f.km], writes := [.v f.d] }
  | .vrsqE f => some { slot := .v, g := f.g, reads := [.v f.a, .m f.km], writes := [.v f.d] }
  | .vexp2 f => some { slot := .v, g := f.g, reads := [.v f.a, .m f.km], writes := [.v f.d] }
  | .vlog2 f => some { slot := .v, g := f.g, reads := [.v f.a, .m f.km], writes := [.v f.d] }
  | .vcvt f => some { slot := .v, g := f.g, reads := [.v f.a, .m f.km], writes := [.v f.d] }
  | .vscl f => some { slot := .v, g := f.g, reads := [.v f.a, .v f.b, .m f.km], writes := [.v f.d] }
  | .vpack f => some { slot := .v, g := f.g, reads := [.v f.a, .v f.c, .m f.km], writes := [.v f.d] }
  | .vunpack f => some { slot := .v, g := f.g, reads := [.v f.a, .v f.c, .m f.km], writes := [.v f.d] }
  | .vmovS f => some { slot := .v, g := f.g, reads := [.s f.s], writes := [.v f.d] }
  | .vext f => some { slot := .v, g := f.g, reads := [.v f.a], writes := [.s f.s] }
  | .viota f => some { slot := .v, g := f.g, reads := [.m f.km], writes := [.v f.d] }
  | .mand f => some { slot := .v, g := f.g, reads := [.m f.a, .m f.b], writes := [.m f.d] }
  | .mor f => some { slot := .v, g := f.g, reads := [.m f.a, .m f.b], writes := [.m f.d] }
  | .mnot f => some { slot := .v, g := f.g, reads := [.m f.a], writes := [.m f.d] }
  | .vpopc f => some { slot := .v, g := f.g, reads := [.m f.a, .m f.km], writes := [.s f.s] }
  | .mma f => some { slot := .m, g := f.g, reads := [.s f.a, .s f.b, .s f.c, .z f.z], writes := [.z f.z] }
  | .mmaG f => some { slot := .m, g := f.g, reads := [.s f.a, .s f.b, .s f.c, .z f.z], writes := [.z f.z] }
  | .zclr f => some { slot := .m, g := f.g, reads := [], writes := ((List.finRange 8).filter fun i => f.mask.getLsbD i.val).map .z }
  | .zld f => some { slot := .m, g := f.g, reads := [.s f.a], writes := [.z f.z] }
  | .zst f => some { slot := .m, g := f.g, reads := [.s f.a, .z f.z], writes := [] }
  | .zcvt f => some { slot := .m, g := f.g, reads := [.z f.z2], writes := [.z f.z] }
  | .zadd f => some { slot := .m, g := f.g, reads := [.z f.z, .z f.z2], writes := [.z f.z] }
  | .wld f => some { slot := .m, g := f.g, reads := [.s f.a, .s f.b, .s f.c], writes := [] }
  | .mwait f => some { slot := .m, g := f.g, reads := [], writes := [] }
  | .matrixWriteLand _ => none
  | .wldTransferDone _ => none
  | .cp f => some { slot := .e, g := f.g, reads := [.s f.d, .s f.a, .s f.b], writes := [] }
  | .cpName f => some { slot := .e, g := f.g, reads := [.s f.d, .s f.a], writes := [] }
  | .cpWin f => some { slot := .e, g := f.g, reads := [.s f.d, .s f.a, .s f.b], writes := [] }
  | .cpWait f => some { slot := .e, g := f.g, reads := [], writes := [] }
  | .sbind f => some { slot := .e, g := f.g, reads := [.s f.a, .s f.b], writes := [], streams := [f.w] }
  | .scloseMarker f => some { slot := .e, g := f.g, reads := [.s f.a], writes := [] }
  | .scloseUnbind f => some { slot := .e, g := f.g, reads := [], writes := [], streams := [f.w] }
  | .hashSha f => some { slot := .e, g := f.g, reads := [.s f.d, .s f.a, .s f.b], writes := [] }
  | .hashCrc f => some { slot := .e, g := f.g, reads := [.s f.d, .s f.a, .s f.b], writes := [.s f.d] }
  | .hashWait f => some { slot := .e, g := f.g, reads := [], writes := [] }
  | .engineCommandDone _ _ => none
  | .shadowCommit _ _ => none
  | .streamLineRequest _ _ => none
  | .streamLineReturn _ _ => none
  | .lcCtxOpen f => some { slot := .e, g := f.g, reads := [], writes := [.s f.d] }
  | .lcCtxCommit f => some { slot := .e, g := f.g, reads := [.s f.a, .s f.b], writes := [.s f.d] }
  | .lcCtxAbort f => some { slot := .e, g := f.g, reads := [.s f.a], writes := [] }
  | .lcCtxRel f => some { slot := .e, g := f.g, reads := [.s f.a], writes := [] }
  | .lcTbl f => some { slot := .e, g := f.g, reads := [.s f.d, .s f.a, .s f.b], writes := [] }
  | .celadonRecordLoad _ => none
  | .lcSel f => some { slot := .e, g := f.g, reads := f.k.regs, writes := [] }
  | .lcRun f => some { slot := .e, g := f.g, reads := [.s f.d, .s f.a, .s f.b], writes := [] }
  | .celadonBatch _ => none
  | .lcTslice f => some { slot := .e, g := f.g, reads := [.s f.d, .s f.a, .s f.b], writes := [] }
  | .lcUnslice f => some { slot := .e, g := f.g, reads := [.s f.d, .s f.a, .s f.b], writes := [] }
  | .lcPop f => some { slot := .e, g := f.g, reads := [.s f.d, .s f.a, .s f.b], writes := [] }
  | .lcWait f => some { slot := .e, g := f.g, reads := [], writes := [] }
  | .lcStat f => some { slot := .e, g := f.g, reads := [], writes := [.s f.d] }
  | .quantumExpiry _ => none
  | .preEmption _ => none
  | .taskDispatch _ => none
  | .instanceFire _ _ => none
  | .launchAccept _ _ => none
  | .levelInstantiate _ _ _ _ => none
  | .launchRetire _ _ => none
  | .routerForward _ => none
  | .subscriptionRegister _ => none
  | .homeFetch _ => none
  | .remoteForward _ => none
  | .rendezvousRetain _ => none
  | .writeThrough _ => none
  | .delivery _ => none
  | .stagingAdmit _ => none
  | .drainMarkerArrival _ => none
  | .drainForward _ _ => none
  | .contributionArrival _ => none
  | .acknowledgement _ => none
  | .circuitFlit _ _ => none
  | .storeBufferDrain _ _ => none
  | .rimAccessRequest _ => none
  | .accessDataReturn _ _ => none
  | .engineFault _ _ => none
  | .checkpointHoldReached _ _ => none
  | .keySlotEmpty _ _ => none
  | .partLoadDone _ => none
  | .partFormDone => none
  | .celadonSlotPoisoned _ _ _ => none
  | .celadonSlotRepair _ _ => none
  | .celadonPlacedDigest _ _ => none
  | .coreChainWrite _ _ => none
  | .agingPromotion _ _ => none
  | .levelReplace _ _ _ _ => none
  | .addressedRoute _ => none
  | .retainExpiry _ _ => none
  | .combineBitmapExpiry _ _ => none
  | .resendTimeout _ => none
  | .negativeAck _ => none
  | .filterExpiry _ _ => none
  | .pageWalk _ _ _ => none
  | .holdLimit _ _ => none
  | .correctedError _ => none
  | .configReload _ => none
  | .configReloadDone _ _ => none
  | .fatalError _ => none
  | .spillFault _ _ => none
  | .siennaInterval => none
  | .leaseSave _ => none
  | .leaseAbandon _ => none
  | .linkDrained _ => none
  | .channelQuiesce _ => none
  | .leaseTestDone _ _ => none
  | .mirrorCompare _ _ => none
  | .mirrorTimeout _ _ => none
  | .marginPlanChange _ _ => none
  | .powerCapStep _ _ => none
  | .thermalHold _ => none
  | .thermalStop _ => none
  | .coldReset _ => none
  | .clusterStageAdvance _ _ => none
  | .greetingBurst _ _ => none
  | .greetingAnswer _ _ _ => none
  | .bolsarFlit _ _ => none
  | .pcieLinkTrain _ => none
  | .bar2Access _ => none
  | .keyInstall _ => none
  | .keySlotSelect _ _ => none
  | .keySlotClear _ _ => none
  | .rimFeClr _ _ => none
  | .hqCfgWrite _ _ _ => none
  | .hqTailWrite _ _ _ => none
  | .hqHeadWrite _ _ _ => none
  | .hqNotifyWrite _ _ _ => none
  | .partHoldNamed _ _ => none
  | .partHoldCirc _ _ => none
  | .partHoldStr _ _ => none
  | .partLoadDescriptors _ _ => none
  | .partLoadRanges _ _ => none
  | .partLoadCircuits _ _ => none
  | .partEnd _ _ => none
  | .partResume _ _ => none
  | .partForm _ => none
  | .partDissolve _ => none
  | .coreEfaultRetry _ => none
  | .coreEfaultAbandon _ => none
  | .recAddrWrite _ _ => none
  | .recDataWrite _ _ _ => none
  | .coreWindowWrite _ _ _ => none
  | .netCfgWrite _ _ => none
  | .clusStageWrite _ _ => none
  | .xlatRootWrite _ _ _ => none
  | .siennaCfgWrite _ => none
  | .pwrCapWrite _ _ => none
  | .coreSrndWrite _ _ => none
  | .coreCtlScbWrite _ _ => none
  | .clusMstoreFillRead _ => none
  | .clusStageRead _ => none
  | .registerWrite _ _ => none
  | .thermalRelease _ => none
  | .deferredRequestWithdrawn _ => none
  | .bolsarLinkKey _ => none
  | .rimReset => none
  | .channelRelease _ _ => none
  | .operatorCommand _ => none

/-- The slot of an instruction. -/
def Instr.slot (i : Instr) : Option Slot := i.uses.map (·.slot)

/-! ## Instructions that R126 does not cover -/

/-- An instruction whose whole effect is on registers and on the target of its bundle. -/
def Instr.registerOnly : Instr → Bool
  | .br _ | .jmp _ | .call _ | .ret _ | .loopSet _ | .loopEnd _ | .nameSetField _ | .nameSetWhole _
  | .nameSetCopy _ | .nameAdd _ | .pand _ | .por _ | .pxor _ | .pnot _ | .pmov _ | .cycleRd _ | .fmtRd _
  | .add _ | .addi _ | .sub _ | .mul _ | .mulh _ | .mulhN _ | .div _ | .divN _ | .rem _ | .remN _ | .min _
  | .minN _ | .max _ | .maxN _ | .and _ | .or _ | .xor _ | .andn _ | .shl _ | .shr _ | .shrN _ | .rot _
  | .clz _ | .ctz _ | .popc _ | .bfx _ | .bfi _ | .sext _ | .zext _ | .mov _ | .movi _ | .moviZ _ | .moviH _
  | .sel _ | .cmpCc _ | .cmpiCc _ | .lea _ | .fadd _ | .fsub _ | .fmul _ | .ffma _ | .fmin _ | .fmax _
  | .fcmpCc _ | .fcvt _ | .vadd _ | .vsub _ | .vmul _ | .vfma _ | .vmin _ | .vmax _ | .vabs _ | .vneg _
  | .vand _ | .vor _ | .vxor _ | .vshl _ | .vshr _ | .vcmpCc _ | .vsel _ | .vcas _ | .vcasX _ | .vperm _
  | .vperm2 _ | .vbcastScalar _ | .vbcastLane _ | .vbcastLiteral _ | .vshuf _ | .vredAdd _ | .vredMax _
  | .vredMin _ | .vscanAdd _ | .vrcpE _ | .vrsqE _ | .vexp2 _ | .vlog2 _ | .vcvt _ | .vscl _ | .vpack _
  | .vunpack _ | .vmovS _ | .vext _ | .viota _ | .mand _ | .mor _ | .mnot _ | .vpopc _ => true
  | _ => false

/-- An instruction that raises no precise fault at issue and never waits in place (R126). -/
def Instr.plain : Instr → Bool
  | .zclr _ | .mark _ | .pref _ => true
  | i => i.registerOnly

end Sys2Proof
end

