-- ==== Sys2Proof/WellFormed.lean ====
section
/-! DEFINITION. Which instructions the dispatch checks let through: every ILLEGAL-OPERATION that R116, R131, R136,
R138 and the instructions' own entries raise on the operands of one part, each under a name. A device step has no
encoding and is well-formed as it stands. -/

namespace Sys2Proof

/-- Why a part is refused at dispatch (R129, item 3). -/
inductive WfError where
  | guardBank        -- R116: S0 or S1 guards on the other bank
  | destBank         -- R136: a scalar destination outside the slot's bank
  | crossPath        -- R136: more than one register of the other bank
  | predBank         -- R138: a predicate operand or result outside the slot's bank
  | frameSize        -- R158
  | combineOp        -- R172, Table 5·6
  | spawnNames       -- R177
  | sysReg           -- R181
  | bitField         -- R195
  | condition        -- R197, R245
  | conversion       -- R201, Table 17·6, R257, R272
  | typeCode         -- R242, Table 17·2
  | intOnly          -- Table 17·1: X[0] with a float type
  | shiftAmount      -- R244
  | exchange         -- R248
  | lane             -- R250, R252
  | part             -- R255
  | scale            -- R256, R257
  | beats            -- R127, Table 19·1
  | tileMask         -- R271
  | copySpaces       -- R279
  | streamFormat     -- R283
  | sliceFormat      -- R365, R366
  | statWhat         -- R369
  deriving DecidableEq, Repr

/-! ## Banks -/

/-- The scalar registers of a list of references. -/
def sRegs : List RegRef → List SReg
  | [] => []
  | .s i :: t => i :: sRegs t
  | _ :: t => sRegs t

/-- The predicates of a list of references. -/
def pRegs : List RegRef → List PReg
  | [] => []
  | .p i :: t => i :: pRegs t
  | _ :: t => pRegs t

/-- The registers a part reads over the cross path: those of the other bank, each once, and not the other bank's
constant zero (R136). -/
def crossReads (k : Bank) (rs : List RegRef) : List SReg :=
  ((sRegs rs).filter fun i => regBank i != k && !sHard i).eraseDups

/-- R116, R136 and R138 for a part of a scalar slot. -/
def bankCheck (k : Bank) (u : Uses) : Option WfError :=
  if predBank u.g.p != k then some .guardBank
  else if (sRegs u.writes).any fun i => regBank i != k then some .destBank
  else if 1 < (crossReads k u.reads).length then some .crossPath
  else if (pRegs (u.reads ++ u.writes)).any fun i => predBank i != k then some .predBank
  else none

/-- The register rules of the slot (R116, R136, R137, R138). -/
def Uses.check (u : Uses) : Option WfError :=
  match u.slot with
  | .s0 => bankCheck .a u
  | .s1 => bankCheck .b u
  | .c => none
  | .v => none
  | .m => none
  | .e => none

/-! ## Types (R242, Table 17·2) -/

/-- Bits of one element of a format (Table 7·1); CW8 has no fixed width and is not a lane type. -/
def Fmt.width : Fmt → Nat
  | .f32 | .i32 | .n32 => 32
  | .f16 | .bf16 | .i16 | .n16 => 16
  | .e4m3 | .e5m2 | .i8 | .n8 | .e8m0 | .ue5m3 | .cw8 => 8
  | .e2m1 | .i4 => 4
  | .i64 | .n64 => 64

/-- Lanes of a vector (Table 11·2). -/
def Fmt.lanes (t : Fmt) : Nat := 1024 / t.width

/-- log2 of the lane count. -/
def Fmt.lanesLog (t : Fmt) : Nat :=
  match t.width with
  | 4 => 8
  | 8 => 7
  | 16 => 6
  | 32 => 5
  | _ => 4

def Fmt.isF : Fmt → Bool
  | .f32 | .f16 | .bf16 => true
  | _ => false

def Fmt.isSInt : Fmt → Bool
  | .i8 | .i16 | .i32 | .i64 => true
  | _ => false

def Fmt.isUInt : Fmt → Bool
  | .n8 | .n16 | .n32 | .n64 => true
  | _ => false

def Fmt.isInt (t : Fmt) : Bool := t.isSInt || t.isUInt

/-- Class W: every code of Table 11·2. -/
def Fmt.isW : Fmt → Bool
  | .cw8 => false
  | _ => true

/-- Class P: class W without the 4-bit codes. -/
def Fmt.isP (t : Fmt) : Bool := t.isW && t.width != 4

/-- The narrow float formats. -/
def Fmt.isNarrow : Fmt → Bool
  | .e4m3 | .e5m2 | .e2m1 => true
  | _ => false

/-- The float formats of Table 17·6. -/
def Fmt.isCvtF (t : Fmt) : Bool := t.isF || t.isNarrow

/-- The integer formats of Table 17·6. -/
def Fmt.isCvtI : Fmt → Bool
  | .i4 | .i8 | .i16 | .i32 | .n8 | .n16 | .n32 => true
  | _ => false

/-- The formats FCVT converts to and from (Table 13·8). -/
def Fmt.isFcvt : Fmt → Bool
  | .f16 | .bf16 | .e4m3 | .e5m2 | .e2m1 | .i32 | .i64 | .n32 | .n64 | .e8m0 | .ue5m3 => true
  | _ => false

/-- Formats of a stream (R283): codes 0x00 to 0x0E. -/
def Fmt.isStream : Fmt → Bool
  | .cw8 | .e8m0 | .ue5m3 => false
  | _ => true

/-! ## System registers (Table 27·6) -/

/-- The assigned system register numbers. -/
def sysRegAssigned (r : BitVec 16) : Bool :=
  let n := r.toNat
  n ≤ 0x0006 || (0x0100 ≤ n && n ≤ 0x0105) || (0x0200 ≤ n && n ≤ 0x0206) || (0x0210 ≤ n && n ≤ 0x021F) ||
    n = 0x0300 || n = 0x0301

/-! ## Operand limits -/

/-- `e` when the condition holds. -/
def wfIf (b : Bool) (e : WfError) : Option WfError := if b then some e else none

/-- The conversions of R255: both formats of Table 17·6, different, and the part below the ratio of the widths. -/
def cvtCheck (src tgt : Fmt) (part : BitVec 3) : Option WfError :=
  if !((src.isCvtF || src.isCvtI) && (tgt.isCvtF || tgt.isCvtI) && src != tgt) then some .conversion
  else wfIf (max src.width tgt.width / min src.width tgt.width ≤ part.toNat) .part

/-- The scale operand of R256 and R257: `last` is the index of the last element. -/
def scaleCheck (sf : Option ScaleFmt) (blk16 : Bool) (base : BitVec 7) (last : Nat) : Option WfError :=
  match sf with
  | none => wfIf (blk16 || base != 0) .scale
  | some f => wfIf ((f = .e8m0 && blk16) || 127 < base.toNat + last / (if blk16 then 16 else 32)) .scale

/-- R257 for VPACK: `narrow` is the 8-bit or 4-bit format, `wide` the other one. -/
def packCheck (wide narrow : Fmt) (f : VPack) : Option WfError :=
  if !(wide.isF && narrow.isNarrow) then some .conversion
  else if wide.width / narrow.width ≤ f.part.toNat then some .part
  else if f.sf = none && f.c != 0 then some .scale
  else scaleCheck f.sf f.blk16 f.base (f.part.toNat * wide.lanes + (wide.lanes - 1))

/-- R248. -/
def exchangeCheck (t : Fmt) (j : BitVec 3) (f : BitVec 4) : Option WfError :=
  if !(t.isF || t.isInt) then some .typeCode
  else wfIf (t.lanesLog ≤ j.toNat || (f != 15 && t.lanesLog ≤ f.toNat)) .exchange

/-- The condition codes of VCMP (R245). -/
def vcmpCheck (t : Fmt) (cc : BitVec 4) : Option WfError :=
  if !(t.isF || t.isInt) then some .typeCode
  else wfIf (if t.isF then 7 < cc.toNat else 11 < cc.toNat) .condition

/-- The legal beat counts of Table 19·1, as beats minus one. -/
def mmaBeats (b : BitVec 6) : Option WfError := wfIf (b != 31 && b != 63) .beats

/-- The operand limits an instruction's own entry states for dispatch. -/
def Instr.opCheck : Instr → Option WfError
  | .frameAlloc f => wfIf (f.n.toNat < 2 || 16 < f.n.toNat) .frameSize
  | .pubC f => wfIf (8 < f.cop.toNat) .combineOp
  | .spawn f => wfIf (7 < f.n.val + f.cnt.val) .spawnNames
  | .spawnNb f => wfIf (7 < f.n.val + f.cnt.val) .spawnNames
  | .sysRd f => wfIf (!sysRegAssigned f.reg) .sysReg
  | .sysWr f => wfIf (!sysRegAssigned f.reg) .sysReg
  | .bfx f => wfIf (63 < f.pos.toNat + f.w.toNat) .bitField
  | .bfi f => wfIf (63 < f.pos.toNat + f.w.toNat) .bitField
  | .fcvt f => wfIf (!f.fmt.isFcvt) .conversion
  | .vadd f => wfIf (!(f.t.isF || f.t.isInt)) .typeCode <|> wfIf (f.x && f.t.isF) .intOnly
  | .vsub f => wfIf (!(f.t.isF || f.t.isInt)) .typeCode <|> wfIf (f.x && f.t.isF) .intOnly
  | .vmul f => wfIf (!(f.t.isF || f.t.isInt)) .typeCode <|> wfIf (f.x && f.t.isF) .intOnly
  | .vfma f => wfIf (!f.t.isF) .typeCode
  | .vmin f => wfIf (!(f.t.isF || f.t.isInt)) .typeCode
  | .vmax f => wfIf (!(f.t.isF || f.t.isInt)) .typeCode
  | .vabs f => wfIf (!(f.t.isF || f.t.isSInt)) .typeCode <|> wfIf (f.x && f.t.isF) .intOnly
  | .vneg f => wfIf (!(f.t.isF || f.t.isSInt)) .typeCode <|> wfIf (f.x && f.t.isF) .intOnly
  | .vand f => wfIf (!f.t.isW) .typeCode
  | .vor f => wfIf (!f.t.isW) .typeCode
  | .vxor f => wfIf (!f.t.isW) .typeCode
  | .vshl f => wfIf (!f.t.isInt) .typeCode <|>
      (match f.n with | .reg _ => none | .imm n => wfIf (f.t.width ≤ n.toNat) .shiftAmount)
  | .vshr f => wfIf (!f.t.isInt) .typeCode <|>
      (match f.n with | .reg _ => none | .imm n => wfIf (f.t.width ≤ n.toNat) .shiftAmount)
  | .vcmpCc f => vcmpCheck f.t f.cc
  | .vsel f => wfIf (!f.t.isW) .typeCode
  | .vcas f => exchangeCheck f.t f.j f.f
  | .vcasX f => exchangeCheck f.t f.j f.f <|> wfIf (f.d = f.c) .exchange
  | .vperm f => wfIf (!f.t.isP) .typeCode
  | .vperm2 f => wfIf (!f.t.isP) .typeCode
  | .vbcastScalar f => wfIf (!f.t.isW) .typeCode
  | .vbcastLane f => wfIf (!f.t.isP) .typeCode <|> wfIf (f.t.lanes ≤ f.lane.toNat) .lane
  | .vbcastLiteral f => wfIf (!f.t.isW) .typeCode
  | .vshuf f => wfIf (!f.t.isP) .typeCode
  | .vredAdd f => wfIf (!(f.t.isF || f.t.isInt)) .typeCode
  | .vredMax f => wfIf (!(f.t.isF || f.t.isInt)) .typeCode
  | .vredMin f => wfIf (!(f.t.isF || f.t.isInt)) .typeCode
  | .vscanAdd f => wfIf (!(f.t.isF || f.t.isInt)) .typeCode
  | .vrcpE f => wfIf (!f.t.isF) .typeCode
  | .vrsqE f => wfIf (!f.t.isF) .typeCode
  | .vexp2 f => wfIf (!f.t.isF) .typeCode
  | .vlog2 f => wfIf (!f.t.isF) .typeCode
  | .vcvt f => cvtCheck f.src f.tgt f.part
  | .vscl f => wfIf (!f.t.isF) .typeCode <|> scaleCheck (some f.sf) f.blk16 f.base (f.t.lanes - 1)
  | .vpack f => packCheck f.src f.tgt f
  | .vunpack f => packCheck f.tgt f.src f
  | .vmovS f => wfIf (!f.t.isP) .typeCode <|> wfIf (f.t.lanes ≤ f.lane.toNat) .lane
  | .vext f => wfIf (!f.t.isP) .typeCode <|> wfIf (f.t.lanes ≤ f.lane.toNat) .lane
  | .viota f => wfIf (!f.t.isInt) .typeCode
  | .mand f => wfIf (!f.t.isW) .typeCode
  | .mor f => wfIf (!f.t.isW) .typeCode
  | .mnot f => wfIf (!f.t.isW) .typeCode
  | .vpopc f => wfIf (!f.t.isW) .typeCode
  | .mma f => mmaBeats f.beat
  | .mmaG f => mmaBeats f.beat
  | .zclr f => wfIf (f.mask = 0) .tileMask <|> wfIf (f.beat != 0) .beats
  | .zld f => wfIf (f.beat != 63) .beats
  | .zst f => wfIf (f.beat.toNat + 1 != 64 / 2 ^ f.sz.toNat) .beats
  | .zcvt f => wfIf (!(f.tgt.isNarrow || f.tgt = .f16 || f.tgt = .bf16 || f.tgt = .i4 || f.tgt = .i8)) .conversion <|>
      wfIf (f.beat != 15) .beats
  | .zadd f => wfIf (f.beat != 15) .beats
  | .wld f => wfIf (f.beat != 0) .beats
  | .mwait f => wfIf (f.beat != 0) .beats
  | .cp f => wfIf (f.dst != .loc && f.src != .loc) .copySpaces
  | .sbind f => wfIf (!f.fmt.isStream) .streamFormat
  | .lcTslice f => wfIf (!(f.fmt = .i8 || f.fmt = .e4m3 || f.fmt = .f16)) .sliceFormat
  | .lcUnslice f => wfIf (!(f.elt = .n8 || f.elt = .n16 || f.elt = .n32) || f.elt.width < f.w.toNat + 1) .sliceFormat
  | .lcStat f => wfIf (4 < f.what.toNat || (f.what != 0 && f.slot != 0)) .statWhat
  | _ => none

/-- The first check an instruction fails at dispatch; none when it is well-formed. -/
def Instr.check (i : Instr) : Option WfError :=
  match i.uses with
  | none => none
  | some u => u.check <|> i.opCheck

/-- An instruction that no dispatch check of its own refuses. -/
def Instr.WellFormed (i : Instr) : Prop := i.check = none

end Sys2Proof
end

