-- ==== Sys2Proof/Decode.lean ====
section
/-! DEFINITION. From bits to instructions and back: code indices (R109), bundles (Table 9·2), slot heads (Table 9·3),
body formats (Table 9·4), opcodes (Table 9·7), and the encodings of the instruction chapters. `decodeSlot` is total on
any bits and rejects by name; every rejection is the ILLEGAL-OPERATION of R129, item 3. `encode` is written from the
same tables. -/

namespace Sys2Proof

/-- Why the bits of a part are no instruction. -/
inductive DecodeError where
  | opcode                 -- R131: Table 9·7 does not assign it
  | reserved               -- R117: a nonzero reserved field
  | xValue                 -- R131: the entry does not assign the X value, or a code held in another field
  | noLiteral              -- R114: the literal is selected while LIT = 0
  | illFormed (e : WfError) -- a limit of R116, R136, R138 or of the entry
  | bundleBits             -- R114: a bit of [371:368] is set
  | streamTwice            -- R141: two parts name one stream register
  | noSlot                 -- the bundle holds no valid slot
  deriving DecidableEq, Repr

abbrev Dec := Except DecodeError Instr

/-- Go on when the condition holds. -/
def req (b : Bool) (e : DecodeError) (r : Dec) : Dec := if b then r else .error e

/-- Go on with a code that is assigned. -/
def withCode {α : Type} (o : Option α) (k : α → Dec) : Dec :=
  match o with
  | some a => k a
  | none => .error .xValue

/-- The literal of the bundle, which LIT must say is in use (R114). -/
def withLit (lit : Option Half) (k : Half → Dec) : Dec :=
  match lit with
  | some v => k v
  | none => .error .noLiteral

/-! ## Codes -/

def Scope.code : Scope → Nat
  | .core => 0 | .quad => 1 | .cluster => 2 | .field => 3
  | .partition => 4 | .wafer => 5 | .domain => 6 | .level => 7

def scopeOf : Nat → Option Scope
  | 0 => some .core | 1 => some .quad | 2 => some .cluster | 3 => some .field
  | 4 => some .partition | 5 => some .wafer | 6 => some .domain | 7 => some .level
  | _ => none

def Space.code : Space → Nat
  | .loc => 0 | .win => 1 | .vm => 2

def spaceOf : Nat → Option Space
  | 0 => some .loc | 1 => some .win | 2 => some .vm
  | _ => none

def Fmt.code : Fmt → Nat
  | .f32 => 0 | .f16 => 1 | .bf16 => 2 | .e4m3 => 3 | .e5m2 => 4 | .e2m1 => 5 | .i4 => 6 | .i8 => 7 | .i16 => 8
  | .i32 => 9 | .i64 => 10 | .n8 => 11 | .n16 => 12 | .n32 => 13 | .n64 => 14 | .cw8 => 15 | .e8m0 => 16 | .ue5m3 => 17

/-- Table 7·1. -/
def fmtOf : Nat → Option Fmt
  | 0 => some .f32 | 1 => some .f16 | 2 => some .bf16 | 3 => some .e4m3 | 4 => some .e5m2 | 5 => some .e2m1
  | 6 => some .i4 | 7 => some .i8 | 8 => some .i16 | 9 => some .i32 | 10 => some .i64 | 11 => some .n8
  | 12 => some .n16 | 13 => some .n32 | 14 => some .n64 | 15 => some .cw8 | 16 => some .e8m0 | 17 => some .ue5m3
  | _ => none

def ICond.code : ICond → Nat
  | .eq => 0 | .ne => 1 | .lt => 2 | .le => 3 | .gt => 4 | .ge => 5
  | .ltn => 6 | .len => 7 | .gtn => 8 | .gen => 9 | .tst => 10 | .ntst => 11

/-- Table 13·6. -/
def icondOf : Nat → Option ICond
  | 0 => some .eq | 1 => some .ne | 2 => some .lt | 3 => some .le | 4 => some .gt | 5 => some .ge
  | 6 => some .ltn | 7 => some .len | 8 => some .gtn | 9 => some .gen | 10 => some .tst | 11 => some .ntst
  | _ => none

def FCond.code : FCond → Nat
  | .eq => 0 | .ne => 1 | .lt => 2 | .le => 3 | .gt => 4 | .ge => 5 | .un => 6 | .ord => 7

/-- R200. -/
def fcondOf : Nat → Option FCond
  | 0 => some .eq | 1 => some .ne | 2 => some .lt | 3 => some .le | 4 => some .gt | 5 => some .ge
  | 6 => some .un | 7 => some .ord
  | _ => none

def NameField.code : NameField → Nat
  | .tenant => 0 | .tensor => 1 | .colour => 2 | .gen => 3 | .i => 4 | .j => 5 | .k => 6 | .kind => 7

/-- Table 13·3, codes 0 to 7. -/
def nameFieldOf : Nat → Option NameField
  | 0 => some .tenant | 1 => some .tensor | 2 => some .colour | 3 => some .gen | 4 => some .i | 5 => some .j
  | 6 => some .k | 7 => some .kind
  | _ => none

def LdSize.code : LdSize → Nat
  | .i8 => 0 | .n8 => 1 | .i16 => 2 | .n16 => 3 | .i32 => 4 | .n32 => 5 | .w64 => 6

/-- Table 15·5. -/
def ldSizeOf : Nat → Option LdSize
  | 0 => some .i8 | 1 => some .n8 | 2 => some .i16 | 3 => some .n16 | 4 => some .i32 | 5 => some .n32 | 6 => some .w64
  | _ => none

def StSize.code : StSize → Nat
  | .b8 => 0 | .b16 => 1 | .b32 => 2 | .b64 => 3

def stSizeOf : Nat → Option StSize
  | 0 => some .b8 | 1 => some .b16 | 2 => some .b32 | 3 => some .b64
  | _ => none

def Shuf.code : Shuf → Nat
  | .ziplo => 0 | .ziphi => 1 | .unzipe => 2 | .unzipo => 3

/-- R251. -/
def shufOf : Nat → Option Shuf
  | 0 => some .ziplo | 1 => some .ziphi | 2 => some .unzipe | 3 => some .unzipo
  | _ => none

def PopOp.code : PopOp → Nat
  | .count => 0 | .low => 1 | .high => 2

/-- R259. -/
def popOpOf : Nat → Option PopOp
  | 0 => some .count | 1 => some .low | 2 => some .high
  | _ => none

/-- The scale format of X[0] in VSCL (R256). -/
def ScaleFmt.bit : ScaleFmt → Nat
  | .e8m0 => 0 | .ue5m3 => 1

def scaleOfBit (n : Nat) : ScaleFmt := if n = 0 then .e8m0 else .ue5m3

/-- The scale format of IMM13[8:7] in VPACK and VUNPACK (R257). -/
def scaleCode : Option ScaleFmt → Nat
  | none => 0 | some .e8m0 => 1 | some .ue5m3 => 2

def scaleOf : Nat → Option (Option ScaleFmt)
  | 0 => some none | 1 => some (some .e8m0) | 2 => some (some .ue5m3)
  | _ => none

/-- X[1:0] of LC.TSLICE (R365). -/
def tsliceFmtOf : Nat → Option Fmt
  | 0 => some .i8 | 1 => some .e4m3 | 2 => some .f16
  | _ => none

def tsliceCode : Fmt → Nat
  | .e4m3 => 1 | .f16 => 2 | _ => 0

/-- X[1:0] of LC.UNSLICE (R366). -/
def unsliceFmtOf : Nat → Option Fmt
  | 0 => some .n8 | 1 => some .n16 | 2 => some .n32
  | _ => none

def unsliceCode : Fmt → Nat
  | .n16 => 1 | .n32 => 2 | _ => 0

/-! ## Body formats (Table 9·4) -/

/-- Bits [lo + w − 1 : lo] of a number. -/
def bitsAt (x lo w : Nat) : Nat := x / 2 ^ lo % 2 ^ w

/-- Bit lo of a number. -/
def bitAt (x lo : Nat) : Bool := bitsAt x lo 1 = 1

structure RawCR where
  a : SReg
  b : SReg
  n : NReg
  n2 : NReg
  x : Byte
  l : Bool
  imm : Byte
  deriving DecidableEq, Repr

structure RawCP where
  pd : PReg
  pa : PReg
  pb : PReg
  x : Byte
  rest : BitVec 15
  deriving DecidableEq, Repr

structure RawCJ where
  off : BitVec 27
  x : Byte
  deriving DecidableEq, Repr

structure RawSR where
  d : SReg
  a : SReg
  b : SReg
  x : Byte
  l : Bool
  rest : Byte
  deriving DecidableEq, Repr

structure RawSI where
  d : SReg
  a : SReg
  x : BitVec 5
  l : Bool
  imm : BitVec 17
  deriving DecidableEq, Repr

structure RawSM where
  d : SReg
  a : SReg
  b : SReg
  x : BitVec 5
  l : Bool
  imm : BitVec 11
  deriving DecidableEq, Repr

structure RawVR where
  d : VReg
  a : VReg
  b : VReg
  c : VReg
  km : MReg
  mz : Bool
  t : BitVec 5
  x : Byte
  l : Bool
  imm : BitVec 13
  deriving DecidableEq, Repr

structure RawMZ where
  beat : BitVec 6
  z : ZReg
  z2 : ZReg
  a : SReg
  b : SReg
  c : SReg
  x : Byte
  l : Bool
  imm : BitVec 12
  deriving DecidableEq, Repr

structure RawER where
  beat : BitVec 6
  d : SReg
  a : SReg
  b : SReg
  w : WReg
  x : Byte
  l : Bool
  imm : BitVec 15
  deriving DecidableEq, Repr

def unpackCR (w : Nat) : RawCR :=
  { a := Fin.ofNat 64 (w / 2 ^ 29), b := Fin.ofNat 64 (w / 2 ^ 23), n := Fin.ofNat 8 (w / 2 ^ 20),
    n2 := Fin.ofNat 8 (w / 2 ^ 17), x := BitVec.ofNat 8 (w / 2 ^ 9), l := bitAt w 8, imm := BitVec.ofNat 8 w }

def packCR (r : RawCR) : Nat :=
  r.a.val * 2 ^ 29 + r.b.val * 2 ^ 23 + r.n.val * 2 ^ 20 + r.n2.val * 2 ^ 17 + r.x.toNat * 2 ^ 9 +
    r.l.toNat * 2 ^ 8 + r.imm.toNat

def unpackCP (w : Nat) : RawCP :=
  { pd := Fin.ofNat 16 (w / 2 ^ 31), pa := Fin.ofNat 16 (w / 2 ^ 27), pb := Fin.ofNat 16 (w / 2 ^ 23),
    x := BitVec.ofNat 8 (w / 2 ^ 15), rest := BitVec.ofNat 15 w }

def packCP (r : RawCP) : Nat :=
  r.pd.val * 2 ^ 31 + r.pa.val * 2 ^ 27 + r.pb.val * 2 ^ 23 + r.x.toNat * 2 ^ 15 + r.rest.toNat

def unpackCJ (w : Nat) : RawCJ :=
  { off := BitVec.ofNat 27 (w / 2 ^ 8), x := BitVec.ofNat 8 w }

def packCJ (r : RawCJ) : Nat := r.off.toNat * 2 ^ 8 + r.x.toNat

def unpackSR (w : Nat) : RawSR :=
  { d := Fin.ofNat 64 (w / 2 ^ 29), a := Fin.ofNat 64 (w / 2 ^ 23), b := Fin.ofNat 64 (w / 2 ^ 17),
    x := BitVec.ofNat 8 (w / 2 ^ 9), l := bitAt w 8, rest := BitVec.ofNat 8 w }

def packSR (r : RawSR) : Nat :=
  r.d.val * 2 ^ 29 + r.a.val * 2 ^ 23 + r.b.val * 2 ^ 17 + r.x.toNat * 2 ^ 9 + r.l.toNat * 2 ^ 8 + r.rest.toNat

def unpackSI (w : Nat) : RawSI :=
  { d := Fin.ofNat 64 (w / 2 ^ 29), a := Fin.ofNat 64 (w / 2 ^ 23), x := BitVec.ofNat 5 (w / 2 ^ 18),
    l := bitAt w 17, imm := BitVec.ofNat 17 w }

def packSI (r : RawSI) : Nat :=
  r.d.val * 2 ^ 29 + r.a.val * 2 ^ 23 + r.x.toNat * 2 ^ 18 + r.l.toNat * 2 ^ 17 + r.imm.toNat

def unpackSM (w : Nat) : RawSM :=
  { d := Fin.ofNat 64 (w / 2 ^ 29), a := Fin.ofNat 64 (w / 2 ^ 23), b := Fin.ofNat 64 (w / 2 ^ 17),
    x := BitVec.ofNat 5 (w / 2 ^ 12), l := bitAt w 11, imm := BitVec.ofNat 11 w }

def packSM (r : RawSM) : Nat :=
  r.d.val * 2 ^ 29 + r.a.val * 2 ^ 23 + r.b.val * 2 ^ 17 + r.x.toNat * 2 ^ 12 + r.l.toNat * 2 ^ 11 + r.imm.toNat

def unpackVR (w : Nat) : RawVR :=
  { d := Fin.ofNat 32 (w / 2 ^ 46), a := Fin.ofNat 32 (w / 2 ^ 41), b := Fin.ofNat 32 (w / 2 ^ 36),
    c := Fin.ofNat 32 (w / 2 ^ 31), km := Fin.ofNat 8 (w / 2 ^ 28), mz := bitAt w 27,
    t := BitVec.ofNat 5 (w / 2 ^ 22), x := BitVec.ofNat 8 (w / 2 ^ 14), l := bitAt w 13, imm := BitVec.ofNat 13 w }

def packVR (r : RawVR) : Nat :=
  r.d.val * 2 ^ 46 + r.a.val * 2 ^ 41 + r.b.val * 2 ^ 36 + r.c.val * 2 ^ 31 + r.km.val * 2 ^ 28 + r.mz.toNat * 2 ^ 27 +
    r.t.toNat * 2 ^ 22 + r.x.toNat * 2 ^ 14 + r.l.toNat * 2 ^ 13 + r.imm.toNat

def unpackMZ (w : Nat) : RawMZ :=
  { beat := BitVec.ofNat 6 (w / 2 ^ 45), z := Fin.ofNat 8 (w / 2 ^ 42), z2 := Fin.ofNat 8 (w / 2 ^ 39),
    a := Fin.ofNat 64 (w / 2 ^ 33), b := Fin.ofNat 64 (w / 2 ^ 27), c := Fin.ofNat 64 (w / 2 ^ 21),
    x := BitVec.ofNat 8 (w / 2 ^ 13), l := bitAt w 12, imm := BitVec.ofNat 12 w }

def packMZ (r : RawMZ) : Nat :=
  r.beat.toNat * 2 ^ 45 + r.z.val * 2 ^ 42 + r.z2.val * 2 ^ 39 + r.a.val * 2 ^ 33 + r.b.val * 2 ^ 27 + r.c.val * 2 ^ 21 +
    r.x.toNat * 2 ^ 13 + r.l.toNat * 2 ^ 12 + r.imm.toNat

def unpackER (w : Nat) : RawER :=
  { beat := BitVec.ofNat 6 (w / 2 ^ 45), d := Fin.ofNat 64 (w / 2 ^ 39), a := Fin.ofNat 64 (w / 2 ^ 33),
    b := Fin.ofNat 64 (w / 2 ^ 27), w := Fin.ofNat 8 (w / 2 ^ 24), x := BitVec.ofNat 8 (w / 2 ^ 16),
    l := bitAt w 15, imm := BitVec.ofNat 15 w }

def packER (r : RawER) : Nat :=
  r.beat.toNat * 2 ^ 45 + r.d.val * 2 ^ 39 + r.a.val * 2 ^ 33 + r.b.val * 2 ^ 27 + r.w.val * 2 ^ 24 + r.x.toNat * 2 ^ 16 +
    r.l.toNat * 2 ^ 15 + r.imm.toNat

/-- The guard of a slot head (R116). -/
def guardOf (n : Nat) : Guard := { neg := bitAt n 4, p := Fin.ofNat 16 n }

def Guard.code (g : Guard) : Nat := g.neg.toNat * 16 + g.p.val

/-- A signed flag of the raw word as a number below a power of two. -/
def xb (x : Byte) (lo w : Nat) : Nat := bitsAt x.toNat lo w

def ofX8 (n : Nat) : Byte := BitVec.ofNat 8 n

/-! ## Operands -/

/-- V of the CR format (R149). -/
def withVal (r : RawCR) (lit : Option Half) (k : Val → Dec) : Dec :=
  if bitAt r.x.toNat 7 then k (.imm r.imm)
  else if r.l then withLit lit fun v => k (.lit v)
  else k (.reg r.b)

/-- V in the fields of the CR format; `low` is X[6:0]. -/
def putVal (v : Val) (low : Nat) (r : RawCR) : RawCR :=
  match v with
  | .reg b => { r with b := b, x := ofX8 low }
  | .lit _ => { r with l := true, x := ofX8 low }
  | .imm i => { r with imm := i, x := ofX8 (128 + low) }

def Val.litOf : Val → Option Half
  | .reg _ => none
  | .lit v => some v
  | .imm _ => none

/-- sB or the LITERAL in its place (R149). -/
def withSrcB (r : RawSR) (lit : Option Half) (k : SrcB → Dec) : Dec :=
  if r.l then withLit lit fun v => k (.lit v) else k (.reg r.b)

def putSrcB (b : SrcB) (r : RawSR) : RawSR :=
  match b with
  | .reg i => { r with b := i }
  | .lit _ => { r with l := true }

def SrcB.litOf : SrcB → Option Half
  | .reg _ => none
  | .lit v => some v

/-- IMM17 or the LITERAL in its place (R149). -/
def withImm17 (r : RawSI) (lit : Option Half) (k : Imm17 → Dec) : Dec :=
  if r.l then withLit lit fun v => k (.lit v) else k (.imm r.imm)

def putImm17 (v : Imm17) (r : RawSI) : RawSI :=
  match v with
  | .imm i => { r with imm := i }
  | .lit _ => { r with l := true }

def Imm17.litOf : Imm17 → Option Half
  | .imm _ => none
  | .lit v => some v

/-- The shift amount (R194). -/
def withShAmt (r : RawSR) (lit : Option Half) (k : ShAmt → Dec) : Dec :=
  if bitAt r.x.toNat 7 then k (.imm (BitVec.ofNat 6 r.x.toNat))
  else if r.l then withLit lit fun v => k (.lit v)
  else k (.reg r.b)

def putShAmt (n : ShAmt) (r : RawSR) : RawSR :=
  match n with
  | .reg b => { r with b := b }
  | .lit _ => { r with l := true }
  | .imm i => { r with x := ofX8 (128 + i.toNat) }

def ShAmt.litOf : ShAmt → Option Half
  | .reg _ => none
  | .lit v => some v
  | .imm _ => none

/-- The offset of R204. -/
def withOff (r : RawSM) (lit : Option Half) (k : Off → Dec) : Dec :=
  if r.l then withLit lit fun v => k (.lit v) else k (.imm r.imm)

def putOff (o : Off) (r : RawSM) : RawSM :=
  match o with
  | .imm i => { r with imm := i }
  | .lit _ => { r with l := true }

def Off.litOf : Off → Option Half
  | .imm _ => none
  | .lit v => some v

/-- vB or the LITERAL (R236). -/
def withVSrc (r : RawVR) (lit : Option Half) (k : VSrc → Dec) : Dec :=
  if r.l then withLit lit fun v => k (.lit v) else k (.reg r.b)

def putVSrc (b : VSrc) (r : RawVR) : RawVR :=
  match b with
  | .reg i => { r with b := i }
  | .lit _ => { r with l := true }

def VSrc.litOf : VSrc → Option Half
  | .reg _ => none
  | .lit v => some v

/-- The amount of VSHL and VSHR (R244). -/
def putVAmt (n : VAmt) (r : RawVR) : RawVR :=
  match n with
  | .reg b => { r with b := b }
  | .imm i => { r with x := 1, imm := BitVec.ofNat 13 i.toNat }

/-- A field of the 5-bit X of SI and SM. -/
def xb5 (x : BitVec 5) (lo w : Nat) : Nat := bitsAt x.toNat lo w

def x5 (n : Nat) : BitVec 5 := BitVec.ofNat 5 n

def cr0 : RawCR := { a := 0, b := 0, n := 0, n2 := 0, x := 0, l := false, imm := 0 }
def sr0 : RawSR := { d := 0, a := 0, b := 0, x := 0, l := false, rest := 0 }
def si0 : RawSI := { d := 0, a := 0, x := 0, l := false, imm := 0 }
def sm0 : RawSM := { d := 0, a := 0, b := 0, x := 0, l := false, imm := 0 }
def vr0 : RawVR :=
  { d := 0, a := 0, b := 0, c := 0, km := 0, mz := false, t := 0, x := 0, l := false, imm := 0 }
def mz0 : RawMZ := { beat := 0, z := 0, z2 := 0, a := 0, b := 0, c := 0, x := 0, l := false, imm := 0 }
def er0 : RawER := { beat := 0, d := 0, a := 0, b := 0, w := 0, x := 0, l := false, imm := 0 }

/-! ## The encoder -/

/-- The bits of one part, and the literal it selects. -/
structure Enc where
  slot : Slot
  word : Nat
  lit  : Option Half
  deriving DecidableEq, Repr

/-- The head of a C, S0 or S1 slot (Table 9·3). -/
def headWord48 (op : Nat) (g : Guard) (body : Nat) : Nat := op * 2 ^ 40 + g.code * 2 ^ 35 + body

/-- The head of a V, M or E slot (Table 9·3); BEAT of M and E is part of the body here. -/
def headWord64 (op : Nat) (g : Guard) (body : Nat) : Nat := op * 2 ^ 56 + g.code * 2 ^ 51 + body

def encC (op : Nat) (g : Guard) (body : Nat) (lit : Option Half) : Enc := ⟨.c, headWord48 op g body, lit⟩

def encS (k : Bank) (op : Nat) (g : Guard) (body : Nat) (lit : Option Half) : Enc := ⟨k.slot, headWord48 op g body, lit⟩

def encV (op : Nat) (g : Guard) (body : Nat) (lit : Option Half) : Enc := ⟨.v, headWord64 op g body, lit⟩

def encW (k : Slot) (op : Nat) (g : Guard) (body : Nat) : Enc := ⟨k, headWord64 op g body, none⟩

/-- The bits of an instruction's part (Tables 13·2, 13·3, 13·4, 13·7, 15·4, 17·1, 19·1, 19·3, 25·8); none for a device
step, which has no encoding. -/
def Instr.encode : Instr → Option Enc
  | .br f => some (encC 0x00 f.g (packCJ ⟨f.off, 0⟩) none)
  | .jmp f => match f.t with
    | .reg a => some (encC 0x01 f.g (packCR { cr0 with a := a }) none)
    | .lit v => some (encC 0x01 f.g (packCR { cr0 with l := true }) (some v))
  | .call f => some (encC 0x02 f.g (packCJ ⟨f.off, ofX8 f.r.val⟩) none)
  | .ret f => some (encC 0x03 f.g (packCR { cr0 with a := f.a }) none)
  | .loopSet f => some (encC 0x04 f.g (packCR (putVal f.v 0 { cr0 with a := f.a })) f.v.litOf)
  | .loopEnd f => some (encC 0x05 f.g (packCJ ⟨f.off, ofX8 f.r.val⟩) none)
  | .frameAlloc f => some (encC 0x06 f.g (packCR { cr0 with imm := f.n }) none)
  | .frameFree f => some (encC 0x07 f.g (packCR cr0) none)
  | .yield f => some (encC 0x08 f.g (packCR cr0) none)
  | .waitQ f => some (encC 0x09 f.g (packCR { cr0 with a := f.a }) none)
  | .waitS f => some (encC 0x09 f.g (packCR { cr0 with x := 1, imm := ofX8 f.k.val }) none)
  | .halt f => some (encC 0x0A f.g (packCR cr0) none)
  | .trap f => some (encC 0x0B f.g (packCR { cr0 with imm := f.n }) none)
  | .subscribe f => some (encC 0x10 f.g (packCR { cr0 with n := f.n, imm := ofX8 f.k.val }) none)
  | .unsub f => some (encC 0x11 f.g (packCR { cr0 with n := f.n, imm := ofX8 f.k.val }) none)
  | .bind f => some (encC 0x12 f.g (packCR { cr0 with n := f.n, imm := ofX8 f.w.val }) none)
  | .wtst f => some (encC 0x13 f.g (packCR { cr0 with a := Fin.ofNat 64 f.pd.val, imm := ofX8 f.w.val }) none)
  | .pub f => some (encC 0x14 f.g (packCR { cr0 with a := f.a, n := f.n, imm := ofX8 f.scope.code }) none)
  | .pubC f => some (encC 0x15 f.g (packCR { cr0 with a := f.a, b := f.b, n := f.n, x := ofX8 f.cop.toNat, imm := ofX8 f.scope.code }) none)
  | .steer f => some (encC 0x16 f.g (packCR { cr0 with a := f.a, n := f.n, n2 := f.n2, x := ofX8 f.p.val, imm := ofX8 f.scope.code }) none)
  | .spawn f => some (encC 0x17 f.g (packCR { cr0 with a := f.a, b := f.b, n := f.n, n2 := f.n2, imm := ofX8 f.cnt.val }) none)
  | .spawnNb f => some (encC 0x18 f.g (packCR { cr0 with a := f.a, b := f.b, n := f.n, n2 := f.n2, imm := ofX8 f.cnt.val }) none)
  | .retn f => some (encC 0x19 f.g (packCR { cr0 with a := f.a, imm := ofX8 f.scope.code }) none)
  | .drain f => some (encC 0x1A f.g (packCR cr0) none)
  | .colourGet f => some (encC 0x1B f.g (packCR { cr0 with a := f.a }) none)
  | .colourFree f => some (encC 0x1C f.g (packCR { cr0 with a := f.a }) none)
  | .nameSetField f => some (encC 0x1D f.g (packCR (putVal f.v f.f.code { cr0 with n := f.n })) f.v.litOf)
  | .nameSetWhole f => some (encC 0x1D f.g (packCR { cr0 with a := f.a, b := f.b, n := f.n, x := 8 }) none)
  | .nameSetCopy f => some (encC 0x1D f.g (packCR { cr0 with n := f.n, n2 := f.m, x := 9 }) none)
  | .nameAdd f => some (encC 0x1E f.g (packCR (putVal f.v f.f.code { cr0 with n := f.n })) f.v.litOf)
  | .nameLd f => some (encC 0x1F f.g (packCR { cr0 with a := f.a, n := f.n }) none)
  | .pand f => some (encC 0x20 f.g (packCP ⟨f.pd, f.pa, f.pb, ofX8 (f.ia.toNat + 2 * f.ib.toNat), 0⟩) none)
  | .por f => some (encC 0x21 f.g (packCP ⟨f.pd, f.pa, f.pb, ofX8 (f.ia.toNat + 2 * f.ib.toNat), 0⟩) none)
  | .pxor f => some (encC 0x22 f.g (packCP ⟨f.pd, f.pa, f.pb, ofX8 (f.ia.toNat + 2 * f.ib.toNat), 0⟩) none)
  | .pnot f => some (encC 0x23 f.g (packCP ⟨f.pd, f.pa, 0, ofX8 f.ia.toNat, 0⟩) none)
  | .pmov f => some (encC 0x24 f.g (packCP ⟨f.pd, f.pa, 0, ofX8 f.ia.toNat, 0⟩) none)
  | .sysRd f => some (encC 0x30 f.g (packCR { cr0 with a := f.a, b := f.b, x := ofX8 (f.reg.toNat / 256), imm := ofX8 f.reg.toNat }) none)
  | .sysWr f => some (encC 0x31 f.g (packCR { cr0 with a := f.a, x := ofX8 (f.reg.toNat / 256), imm := ofX8 f.reg.toNat }) none)
  | .eret f => some (encC 0x32 f.g (packCR { cr0 with a := f.a }) none)
  | .eretH f => some (encC 0x32 f.g (packCR { cr0 with a := f.a, x := 1 }) none)
  | .tlbInv f => some (encC 0x33 f.g (packCR { cr0 with a := f.a }) none)
  | .tlbInvAll f => some (encC 0x33 f.g (packCR { cr0 with x := 1 }) none)
  | .dictLd f => some (encC 0x34 f.g (packCR { cr0 with a := f.a, b := f.b }) none)
  | .dictInv f => some (encC 0x35 f.g (packCR { cr0 with a := f.a }) none)
  | .qenq f => some (encC 0x36 f.g (packCR { cr0 with a := f.a, b := f.b }) none)
  | .qdeq f => some (encC 0x37 f.g (packCR { cr0 with a := f.a, b := f.b }) none)
  | .qenqNb f => some (encC 0x38 f.g (packCR { cr0 with a := f.a, b := f.b, x := ofX8 f.p.val }) none)
  | .qdeqNb f => some (encC 0x39 f.g (packCR { cr0 with a := f.a, b := f.b, x := ofX8 f.p.val }) none)
  | .cycleRd f => some (encC 0x3A f.g (packCR { cr0 with a := f.a }) none)
  | .fmtSet f => some (encC 0x3B f.g (packCR { cr0 with a := f.a }) none)
  | .fmtSetH f => some (encC 0x3B f.g (packCR { cr0 with x := 1, l := true }) (some f.lit))
  | .fmtSetC f => some (encC 0x3B f.g (packCR { cr0 with x := 2, imm := ofX8 f.mask.toNat }) none)
  | .fmtRd f => some (encC 0x3C f.g (packCR { cr0 with a := f.a }) none)
  | .add f => some (encS f.k 0x00 f.g (packSR (putSrcB f.b { sr0 with d := f.d, a := f.a })) f.b.litOf)
  | .addi f => some (encS f.k 0x01 f.g (packSI (putImm17 f.imm { si0 with d := f.d, a := f.a })) f.imm.litOf)
  | .sub f => some (encS f.k 0x02 f.g (packSR (putSrcB f.b { sr0 with d := f.d, a := f.a })) f.b.litOf)
  | .mul f => some (encS f.k 0x03 f.g (packSR (putSrcB f.b { sr0 with d := f.d, a := f.a })) f.b.litOf)
  | .mulh f => some (encS f.k 0x04 f.g (packSR (putSrcB f.b { sr0 with d := f.d, a := f.a })) f.b.litOf)
  | .mulhN f => some (encS f.k 0x05 f.g (packSR (putSrcB f.b { sr0 with d := f.d, a := f.a })) f.b.litOf)
  | .div f => some (encS f.k 0x06 f.g (packSR (putSrcB f.b { sr0 with d := f.d, a := f.a })) f.b.litOf)
  | .divN f => some (encS f.k 0x07 f.g (packSR (putSrcB f.b { sr0 with d := f.d, a := f.a })) f.b.litOf)
  | .rem f => some (encS f.k 0x08 f.g (packSR (putSrcB f.b { sr0 with d := f.d, a := f.a })) f.b.litOf)
  | .remN f => some (encS f.k 0x09 f.g (packSR (putSrcB f.b { sr0 with d := f.d, a := f.a })) f.b.litOf)
  | .min f => some (encS f.k 0x0A f.g (packSR (putSrcB f.b { sr0 with d := f.d, a := f.a })) f.b.litOf)
  | .minN f => some (encS f.k 0x0B f.g (packSR (putSrcB f.b { sr0 with d := f.d, a := f.a })) f.b.litOf)
  | .max f => some (encS f.k 0x0C f.g (packSR (putSrcB f.b { sr0 with d := f.d, a := f.a })) f.b.litOf)
  | .maxN f => some (encS f.k 0x0D f.g (packSR (putSrcB f.b { sr0 with d := f.d, a := f.a })) f.b.litOf)
  | .and f => some (encS f.k 0x0E f.g (packSR (putSrcB f.b { sr0 with d := f.d, a := f.a })) f.b.litOf)
  | .or f => some (encS f.k 0x0F f.g (packSR (putSrcB f.b { sr0 with d := f.d, a := f.a })) f.b.litOf)
  | .xor f => some (encS f.k 0x10 f.g (packSR (putSrcB f.b { sr0 with d := f.d, a := f.a })) f.b.litOf)
  | .andn f => some (encS f.k 0x11 f.g (packSR (putSrcB f.b { sr0 with d := f.d, a := f.a })) f.b.litOf)
  | .shl f => some (encS f.k 0x12 f.g (packSR (putShAmt f.n { sr0 with d := f.d, a := f.a })) f.n.litOf)
  | .shr f => some (encS f.k 0x13 f.g (packSR (putShAmt f.n { sr0 with d := f.d, a := f.a })) f.n.litOf)
  | .shrN f => some (encS f.k 0x14 f.g (packSR (putShAmt f.n { sr0 with d := f.d, a := f.a })) f.n.litOf)
  | .rot f => some (encS f.k 0x15 f.g (packSR (putShAmt f.n { sr0 with d := f.d, a := f.a })) f.n.litOf)
  | .clz f => some (encS f.k 0x16 f.g (packSR { sr0 with d := f.d, a := f.a }) none)
  | .ctz f => some (encS f.k 0x17 f.g (packSR { sr0 with d := f.d, a := f.a }) none)
  | .popc f => some (encS f.k 0x18 f.g (packSR { sr0 with d := f.d, a := f.a }) none)
  | .bfx f => some (encS f.k 0x19 f.g (packSI { si0 with d := f.d, a := f.a, imm := BitVec.ofNat 17 (f.pos.toNat + 64 * f.w.toNat + 4096 * f.sgn.toNat) }) none)
  | .bfi f => some (encS f.k 0x1A f.g (packSI { si0 with d := f.d, a := f.a, imm := BitVec.ofNat 17 (f.pos.toNat + 64 * f.w.toNat) }) none)
  | .sext f => some (encS f.k 0x1B f.g (packSR { sr0 with d := f.d, a := f.a, x := ofX8 f.b.toNat }) none)
  | .zext f => some (encS f.k 0x1C f.g (packSR { sr0 with d := f.d, a := f.a, x := ofX8 f.b.toNat }) none)
  | .mov f => some (encS f.k 0x1D f.g (packSR { sr0 with d := f.d, a := f.a }) none)
  | .movStream f => some (encS f.k 0x1D f.g (packSR { sr0 with d := f.d, x := ofX8 (128 + f.w.val) }) none)
  | .movi f => some (encS f.k 0x1E f.g (packSI (putImm17 f.imm { si0 with d := f.d })) f.imm.litOf)
  | .moviZ f => some (encS f.k 0x1E f.g (packSI (putImm17 f.imm { si0 with d := f.d, x := 1 })) f.imm.litOf)
  | .moviH f => some (encS f.k 0x1E f.g (packSI { si0 with d := f.d, x := 2, l := true }) (some f.lit))
  | .sel f => some (encS f.k 0x1F f.g (packSR (putSrcB f.b { sr0 with d := f.d, a := f.a, x := ofX8 f.p.val })) f.b.litOf)
  | .cmpCc f => some (encS f.k 0x20 f.g (packSR (putSrcB f.b { sr0 with d := Fin.ofNat 64 f.pd.val, a := f.a, x := ofX8 f.cc.code })) f.b.litOf)
  | .cmpiCc f => some (encS f.k 0x21 f.g (packSI (putImm17 f.imm { si0 with d := Fin.ofNat 64 f.pd.val, a := f.a, x := BitVec.ofNat 5 f.cc.code })) f.imm.litOf)
  | .lea f => some (encS f.k 0x22 f.g (packSR (putSrcB f.b { sr0 with d := f.d, a := f.a, x := ofX8 f.sh.toNat })) f.b.litOf)
  | .fadd f => some (encS f.k 0x40 f.g (packSR (putSrcB f.b { sr0 with d := f.d, a := f.a })) f.b.litOf)
  | .fsub f => some (encS f.k 0x41 f.g (packSR (putSrcB f.b { sr0 with d := f.d, a := f.a })) f.b.litOf)
  | .fmul f => some (encS f.k 0x42 f.g (packSR (putSrcB f.b { sr0 with d := f.d, a := f.a })) f.b.litOf)
  | .ffma f => some (encS f.k 0x43 f.g (packSR (putSrcB f.b { sr0 with d := f.d, a := f.a })) f.b.litOf)
  | .fmin f => some (encS f.k 0x44 f.g (packSR (putSrcB f.b { sr0 with d := f.d, a := f.a })) f.b.litOf)
  | .fmax f => some (encS f.k 0x45 f.g (packSR (putSrcB f.b { sr0 with d := f.d, a := f.a })) f.b.litOf)
  | .fcmpCc f => some (encS f.k 0x46 f.g (packSR (putSrcB f.b { sr0 with d := Fin.ofNat 64 f.pd.val, a := f.a, x := ofX8 f.cc.code })) f.b.litOf)
  | .fcvt f => some (encS f.k 0x47 f.g (packSR { sr0 with d := f.d, a := f.a, x := ofX8 (f.fmt.code + 128 * f.up.toNat) }) none)
  | .ld f => some (encS f.k 0x80 f.g (packSM (putOff f.off { sm0 with d := f.d, a := f.a, b := f.b, x := x5 (8 * f.sp.code + f.sz.code) })) f.off.litOf)
  | .st f => some (encS f.k 0x81 f.g (packSM (putOff f.off { sm0 with d := f.d, a := f.a, b := f.b, x := x5 (8 * f.sp.code + f.sz.code) })) f.off.litOf)
  | .ldv f => some (encS f.k 0x82 f.g (packSM (putOff f.off { sm0 with d := Fin.ofNat 64 f.v.val, a := f.a, b := f.b, x := x5 (8 * f.sp.code + f.km.val) })) f.off.litOf)
  | .stv f => some (encS f.k 0x83 f.g (packSM (putOff f.off { sm0 with d := Fin.ofNat 64 f.v.val, a := f.a, b := f.b, x := x5 (8 * f.sp.code + f.km.val) })) f.off.litOf)
  | .ldvG f => some (encS f.k 0x84 f.g (packSM { sm0 with d := Fin.ofNat 64 f.v.val, a := f.a, b := Fin.ofNat 64 f.vb.val, x := x5 (8 * f.sp.code + 4 * f.wide.toNat), imm := BitVec.ofNat 11 (256 * f.km.val) }) none)
  | .stvS f => some (encS f.k 0x85 f.g (packSM { sm0 with d := Fin.ofNat 64 f.v.val, a := f.a, b := Fin.ofNat 64 f.vb.val, x := x5 (8 * f.sp.code + 4 * f.wide.toNat), imm := BitVec.ofNat 11 (256 * f.km.val) }) none)
  | .ldFe f => some (encS f.k 0x86 f.g (packSM (putOff f.off { sm0 with d := f.d, a := f.a, b := f.b, x := 16 })) f.off.litOf)
  | .stFe f => some (encS f.k 0x87 f.g (packSM (putOff f.off { sm0 with d := f.d, a := f.a, b := f.b, x := 16 })) f.off.litOf)
  | .peekFe f => some (encS f.k 0x88 f.g (packSM (putOff f.off { sm0 with d := Fin.ofNat 64 f.pd.val, a := f.a, b := f.b, x := 16 })) f.off.litOf)
  | .mark f => some (encS f.k 0x89 f.g (packSM { sm0 with d := 0, imm := BitVec.ofNat 11 f.scope.code }) none)
  | .fence f => some (encS f.k 0x8A f.g (packSM { sm0 with d := 0, imm := BitVec.ofNat 11 f.scope.code }) none)
  | .atomAdd f => some (encS f.k 0x90 f.g (packSM (putOff f.off { sm0 with d := f.d, a := f.a, b := f.b, x := x5 (8 * f.sp.code + 4 * f.uns.toNat + f.w64.toNat) })) f.off.litOf)
  | .atomMin f => some (encS f.k 0x91 f.g (packSM (putOff f.off { sm0 with d := f.d, a := f.a, b := f.b, x := x5 (8 * f.sp.code + 4 * f.uns.toNat + f.w64.toNat) })) f.off.litOf)
  | .atomMax f => some (encS f.k 0x92 f.g (packSM (putOff f.off { sm0 with d := f.d, a := f.a, b := f.b, x := x5 (8 * f.sp.code + 4 * f.uns.toNat + f.w64.toNat) })) f.off.litOf)
  | .atomAnd f => some (encS f.k 0x93 f.g (packSM (putOff f.off { sm0 with d := f.d, a := f.a, b := f.b, x := x5 (8 * f.sp.code + 4 * f.uns.toNat + f.w64.toNat) })) f.off.litOf)
  | .atomOr f => some (encS f.k 0x94 f.g (packSM (putOff f.off { sm0 with d := f.d, a := f.a, b := f.b, x := x5 (8 * f.sp.code + 4 * f.uns.toNat + f.w64.toNat) })) f.off.litOf)
  | .atomXor f => some (encS f.k 0x95 f.g (packSM (putOff f.off { sm0 with d := f.d, a := f.a, b := f.b, x := x5 (8 * f.sp.code + 4 * f.uns.toNat + f.w64.toNat) })) f.off.litOf)
  | .atomSwp f => some (encS f.k 0x96 f.g (packSM (putOff f.off { sm0 with d := f.d, a := f.a, b := f.b, x := x5 (8 * f.sp.code + 4 * f.uns.toNat + f.w64.toNat) })) f.off.litOf)
  | .atomCas f => some (encS f.k 0x97 f.g (packSM (putOff f.off { sm0 with d := f.d, a := f.a, b := f.b, x := x5 (8 * f.sp.code + 4 * f.uns.toNat + f.w64.toNat) })) f.off.litOf)
  | .atomFadd f => some (encS f.k 0x98 f.g (packSM (putOff f.off { sm0 with d := f.d, a := f.a, b := f.b, x := x5 (8 * f.sp.code) })) f.off.litOf)
  | .atomNib f => some (encS f.k 0x99 f.g (packSM (putOff f.off { sm0 with d := f.d, a := f.a, b := f.b, x := x5 (8 * f.sp.code + f.hi.toNat) })) f.off.litOf)
  | .pref f => some (encS f.k 0x9F f.g (packSM (putOff f.off { sm0 with a := f.a, b := f.b, x := x5 (16 + f.ext.toNat) })) f.off.litOf)
  | .vadd f => some (encV 0x00 f.g (packVR (putVSrc f.b { vr0 with d := f.d, a := f.a, km := f.km, mz := f.mz, t := BitVec.ofNat 5 f.t.code, x := ofX8 f.x.toNat })) f.b.litOf)
  | .vsub f => some (encV 0x01 f.g (packVR (putVSrc f.b { vr0 with d := f.d, a := f.a, km := f.km, mz := f.mz, t := BitVec.ofNat 5 f.t.code, x := ofX8 f.x.toNat })) f.b.litOf)
  | .vmul f => some (encV 0x02 f.g (packVR (putVSrc f.b { vr0 with d := f.d, a := f.a, km := f.km, mz := f.mz, t := BitVec.ofNat 5 f.t.code, x := ofX8 f.x.toNat })) f.b.litOf)
  | .vfma f => some (encV 0x03 f.g (packVR (putVSrc f.b { vr0 with d := f.d, a := f.a, c := f.c, km := f.km, mz := f.mz, t := BitVec.ofNat 5 f.t.code })) f.b.litOf)
  | .vmin f => some (encV 0x04 f.g (packVR (putVSrc f.b { vr0 with d := f.d, a := f.a, km := f.km, mz := f.mz, t := BitVec.ofNat 5 f.t.code })) f.b.litOf)
  | .vmax f => some (encV 0x05 f.g (packVR (putVSrc f.b { vr0 with d := f.d, a := f.a, km := f.km, mz := f.mz, t := BitVec.ofNat 5 f.t.code })) f.b.litOf)
  | .vabs f => some (encV 0x06 f.g (packVR { vr0 with d := f.d, a := f.a, km := f.km, mz := f.mz, t := BitVec.ofNat 5 f.t.code, x := ofX8 f.x.toNat }) none)
  | .vneg f => some (encV 0x07 f.g (packVR { vr0 with d := f.d, a := f.a, km := f.km, mz := f.mz, t := BitVec.ofNat 5 f.t.code, x := ofX8 f.x.toNat }) none)
  | .vand f => some (encV 0x08 f.g (packVR (putVSrc f.b { vr0 with d := f.d, a := f.a, km := f.km, mz := f.mz, t := BitVec.ofNat 5 f.t.code, x := ofX8 f.x.toNat })) f.b.litOf)
  | .vor f => some (encV 0x09 f.g (packVR (putVSrc f.b { vr0 with d := f.d, a := f.a, km := f.km, mz := f.mz, t := BitVec.ofNat 5 f.t.code, x := ofX8 f.x.toNat })) f.b.litOf)
  | .vxor f => some (encV 0x0A f.g (packVR (putVSrc f.b { vr0 with d := f.d, a := f.a, km := f.km, mz := f.mz, t := BitVec.ofNat 5 f.t.code, x := ofX8 f.x.toNat })) f.b.litOf)
  | .vshl f => some (encV 0x0B f.g (packVR (putVAmt f.n { vr0 with d := f.d, a := f.a, km := f.km, mz := f.mz, t := BitVec.ofNat 5 f.t.code })) none)
  | .vshr f => some (encV 0x0C f.g (packVR (putVAmt f.n { vr0 with d := f.d, a := f.a, km := f.km, mz := f.mz, t := BitVec.ofNat 5 f.t.code })) none)
  | .vcmpCc f => some (encV 0x0D f.g (packVR (putVSrc f.b { vr0 with d := Fin.ofNat 32 f.d.val, a := f.a, km := f.km, t := BitVec.ofNat 5 f.t.code, x := ofX8 f.cc.toNat })) f.b.litOf)
  | .vsel f => some (encV 0x0E f.g (packVR { vr0 with d := f.d, a := f.a, b := f.b, km := f.km, t := BitVec.ofNat 5 f.t.code }) none)
  | .vcas f => some (encV 0x0F f.g (packVR { vr0 with d := f.d, a := f.a, km := f.km, mz := f.mz, t := BitVec.ofNat 5 f.t.code, imm := BitVec.ofNat 13 (f.j.toNat + 8 * f.f.toNat + 128 * f.asc.toNat) }) none)
  | .vcasX f => some (encV 0x10 f.g (packVR { vr0 with d := f.d, a := f.a, b := f.b, c := f.c, km := f.km, mz := f.mz, t := BitVec.ofNat 5 f.t.code, imm := BitVec.ofNat 13 (f.j.toNat + 8 * f.f.toNat + 128 * f.asc.toNat) }) none)
  | .vperm f => some (encV 0x11 f.g (packVR { vr0 with d := f.d, a := f.a, b := f.b, t := BitVec.ofNat 5 f.t.code }) none)
  | .vperm2 f => some (encV 0x11 f.g (packVR { vr0 with d := f.d, a := f.a, b := f.b, c := f.c, t := BitVec.ofNat 5 f.t.code, x := 1 }) none)
  | .vbcastScalar f => some (encV 0x12 f.g (packVR { vr0 with d := f.d, t := BitVec.ofNat 5 f.t.code, x := ofX8 (4 * f.s.val) }) none)
  | .vbcastLane f => some (encV 0x12 f.g (packVR { vr0 with d := f.d, a := f.a, t := BitVec.ofNat 5 f.t.code, x := 1, imm := f.lane }) none)
  | .vbcastLiteral f => some (encV 0x12 f.g (packVR { vr0 with d := f.d, t := BitVec.ofNat 5 f.t.code, x := 2, l := true }) (some f.lit))
  | .vshuf f => some (encV 0x13 f.g (packVR { vr0 with d := f.d, a := f.a, b := f.b, t := BitVec.ofNat 5 f.t.code, x := ofX8 f.pat.code }) none)
  | .vredAdd f => some (encV 0x14 f.g (packVR { vr0 with a := f.a, km := f.km, t := BitVec.ofNat 5 f.t.code, x := ofX8 (4 * f.s.val) }) none)
  | .vredMax f => some (encV 0x15 f.g (packVR { vr0 with a := f.a, km := f.km, t := BitVec.ofNat 5 f.t.code, x := ofX8 (4 * f.s.val) }) none)
  | .vredMin f => some (encV 0x16 f.g (packVR { vr0 with a := f.a, km := f.km, t := BitVec.ofNat 5 f.t.code, x := ofX8 (4 * f.s.val) }) none)
  | .vscanAdd f => some (encV 0x17 f.g (packVR { vr0 with d := f.d, a := f.a, km := f.km, mz := f.mz, t := BitVec.ofNat 5 f.t.code }) none)
  | .vrcpE f => some (encV 0x18 f.g (packVR { vr0 with d := f.d, a := f.a, km := f.km, mz := f.mz, t := BitVec.ofNat 5 f.t.code }) none)
  | .vrsqE f => some (encV 0x19 f.g (packVR { vr0 with d := f.d, a := f.a, km := f.km, mz := f.mz, t := BitVec.ofNat 5 f.t.code }) none)
  | .vexp2 f => some (encV 0x1A f.g (packVR { vr0 with d := f.d, a := f.a, km := f.km, mz := f.mz, t := BitVec.ofNat 5 f.t.code }) none)
  | .vlog2 f => some (encV 0x1B f.g (packVR { vr0 with d := f.d, a := f.a, km := f.km, mz := f.mz, t := BitVec.ofNat 5 f.t.code }) none)
  | .vcvt f => some (encV 0x1C f.g (packVR { vr0 with d := f.d, a := f.a, km := f.km, mz := f.mz, t := BitVec.ofNat 5 f.src.code, x := ofX8 (f.tgt.code + 32 * f.part.toNat) }) none)
  | .vscl f => some (encV 0x1D f.g (packVR { vr0 with d := f.d, a := f.a, b := f.b, km := f.km, mz := f.mz, t := BitVec.ofNat 5 f.t.code, x := ofX8 (f.sf.bit + 2 * f.div.toNat + 4 * f.blk16.toNat), imm := BitVec.ofNat 13 f.base.toNat }) none)
  | .vpack f => some (encV 0x1E f.g (packVR { vr0 with d := f.d, a := f.a, c := f.c, km := f.km, mz := f.mz, t := BitVec.ofNat 5 f.src.code, x := ofX8 (f.tgt.code + 32 * f.part.toNat), imm := BitVec.ofNat 13 (f.base.toNat + 128 * scaleCode f.sf + 512 * f.blk16.toNat) }) none)
  | .vunpack f => some (encV 0x1F f.g (packVR { vr0 with d := f.d, a := f.a, c := f.c, km := f.km, mz := f.mz, t := BitVec.ofNat 5 f.src.code, x := ofX8 (f.tgt.code + 32 * f.part.toNat), imm := BitVec.ofNat 13 (f.base.toNat + 128 * scaleCode f.sf + 512 * f.blk16.toNat) }) none)
  | .vmovS f => some (encV 0x20 f.g (packVR { vr0 with d := f.d, t := BitVec.ofNat 5 f.t.code, x := ofX8 (4 * f.s.val), imm := f.lane }) none)
  | .vext f => some (encV 0x21 f.g (packVR { vr0 with a := f.a, t := BitVec.ofNat 5 f.t.code, x := ofX8 (4 * f.s.val), imm := f.lane }) none)
  | .viota f => some (encV 0x22 f.g (packVR { vr0 with d := f.d, km := f.km, mz := f.mz, t := BitVec.ofNat 5 f.t.code, imm := f.start }) none)
  | .mand f => some (encV 0x23 f.g (packVR { vr0 with d := Fin.ofNat 32 f.d.val, a := Fin.ofNat 32 f.a.val, b := Fin.ofNat 32 f.b.val, t := BitVec.ofNat 5 f.t.code, x := ofX8 (f.ia.toNat + 2 * f.ib.toNat) }) none)
  | .mor f => some (encV 0x24 f.g (packVR { vr0 with d := Fin.ofNat 32 f.d.val, a := Fin.ofNat 32 f.a.val, b := Fin.ofNat 32 f.b.val, t := BitVec.ofNat 5 f.t.code, x := ofX8 (f.ia.toNat + 2 * f.ib.toNat) }) none)
  | .mnot f => some (encV 0x25 f.g (packVR { vr0 with d := Fin.ofNat 32 f.d.val, a := Fin.ofNat 32 f.a.val, t := BitVec.ofNat 5 f.t.code }) none)
  | .vpopc f => some (encV 0x26 f.g (packVR { vr0 with a := Fin.ofNat 32 f.a.val, km := f.km, t := BitVec.ofNat 5 f.t.code, x := ofX8 (f.op.code + 4 * f.s.val) }) none)
  | .mma f => some (encW .m 0x00 f.g (packMZ { mz0 with beat := f.beat, z := f.z, a := f.a, b := f.b, c := f.c, x := ofX8 (f.k2.toNat + 2 * f.wb.toNat + 4 * f.clr.toNat) }))
  | .mmaG f => some (encW .m 0x01 f.g (packMZ { mz0 with beat := f.beat, z := f.z, a := f.a, b := f.b, c := f.c, x := ofX8 (f.k2.toNat + 4 * f.clr.toNat + 8 * f.groups.toNat) }))
  | .zclr f => some (encW .m 0x02 f.g (packMZ { mz0 with beat := f.beat, x := f.mask }))
  | .zld f => some (encW .m 0x03 f.g (packMZ { mz0 with beat := f.beat, z := f.z, a := f.a }))
  | .zst f => some (encW .m 0x04 f.g (packMZ { mz0 with beat := f.beat, z := f.z, a := f.a, x := ofX8 f.sz.toNat }))
  | .zcvt f => some (encW .m 0x05 f.g (packMZ { mz0 with beat := f.beat, z := f.z, z2 := f.z2, x := ofX8 f.tgt.code }))
  | .zadd f => some (encW .m 0x06 f.g (packMZ { mz0 with beat := f.beat, z := f.z, z2 := f.z2 }))
  | .wld f => some (encW .m 0x07 f.g (packMZ { mz0 with beat := f.beat, a := f.a, b := f.b, c := f.c, x := ofX8 f.cw8.toNat }))
  | .mwait f => some (encW .m 0x08 f.g (packMZ { mz0 with beat := f.beat }))
  | .cp f => some (encW .e 0x00 f.g (packER { er0 with d := f.d, a := f.a, b := f.b, x := ofX8 (f.dst.code + 4 * f.src.code) }))
  | .cpName f => some (encW .e 0x01 f.g (packER { er0 with d := f.d, a := f.a }))
  | .cpWin f => some (encW .e 0x02 f.g (packER { er0 with d := f.d, a := f.a, b := f.b }))
  | .cpWait f => some (encW .e 0x03 f.g (packER er0))
  | .sbind f => some (encW .e 0x04 f.g (packER { er0 with a := f.a, b := f.b, w := f.w, x := ofX8 f.fmt.code, imm := BitVec.ofNat 15 f.window.toNat }))
  | .scloseMarker f => some (encW .e 0x05 f.g (packER { er0 with a := f.a }))
  | .scloseUnbind f => some (encW .e 0x05 f.g (packER { er0 with w := f.w, x := 1 }))
  | .hashSha f => some (encW .e 0x06 f.g (packER { er0 with d := f.d, a := f.a, b := f.b, x := ofX8 (f.init.toNat + 2 * f.final.toNat) }))
  | .hashCrc f => some (encW .e 0x07 f.g (packER { er0 with d := f.d, a := f.a, b := f.b, x := ofX8 f.init.toNat }))
  | .hashWait f => some (encW .e 0x08 f.g (packER er0))
  | .lcCtxOpen f => some (encW .e 0x40 f.g (packER { er0 with d := f.d }))
  | .lcCtxCommit f => some (encW .e 0x40 f.g (packER { er0 with d := f.d, a := f.a, b := f.b, x := 1 }))
  | .lcCtxAbort f => some (encW .e 0x40 f.g (packER { er0 with a := f.a, x := 2 }))
  | .lcCtxRel f => some (encW .e 0x40 f.g (packER { er0 with a := f.a, x := 3 }))
  | .lcTbl f => some (encW .e 0x41 f.g (packER { er0 with d := f.d, a := f.a, b := f.b, imm := f.map }))
  | .lcSel f => match f.k with
    | .reg a => some (encW .e 0x42 f.g (packER { er0 with a := a }))
    | .imm k => some (encW .e 0x42 f.g (packER { er0 with x := 1, imm := BitVec.ofNat 15 k.toNat }))
  | .lcRun f => some (encW .e 0x43 f.g (packER { er0 with d := f.d, a := f.a, b := f.b }))
  | .lcTslice f => some (encW .e 0x44 f.g (packER { er0 with d := f.d, a := f.a, b := f.b, x := ofX8 (tsliceCode f.fmt + 4 * f.nt.toNat), imm := f.thr }))
  | .lcUnslice f => some (encW .e 0x45 f.g (packER { er0 with d := f.d, a := f.a, b := f.b, x := ofX8 (unsliceCode f.elt + 4 * f.w.toNat) }))
  | .lcPop f => some (encW .e 0x46 f.g (packER { er0 with d := f.d, a := f.a, b := f.b }))
  | .lcWait f => some (encW .e 0x47 f.g (packER er0))
  | .lcStat f => some (encW .e 0x48 f.g (packER { er0 with d := f.d, x := ofX8 f.what.toNat, imm := BitVec.ofNat 15 f.slot.toNat }))
  | .bundleDispatch => none
  | .frameSlotRelease _ => none
  | .matrixWriteLand _ => none
  | .wldTransferDone _ => none
  | .engineCommandDone _ _ => none
  | .shadowCommit _ _ => none
  | .streamLineRequest _ _ => none
  | .streamLineReturn _ _ => none
  | .celadonRecordLoad _ => none
  | .celadonBatch _ => none
  | .quantumExpiry _ => none
  | .preEmption _ => none
  | .taskDispatch _ => none
  | .instanceFire _ _ => none
  | .launchAccept _ _ => none
  | .levelInstantiate _ _ _ _ => none
  | .launchRetire _ _ => none
  | .routerForward _ => none
  | .subscriptionRegister _ => none
  | .homeFetch _ => none
  | .remoteForward _ => none
  | .rendezvousRetain _ => none
  | .writeThrough _ => none
  | .delivery _ => none
  | .stagingAdmit _ => none
  | .drainMarkerArrival _ => none
  | .drainForward _ _ => none
  | .contributionArrival _ => none
  | .acknowledgement _ => none
  | .circuitFlit _ _ => none
  | .storeBufferDrain _ _ => none
  | .rimAccessRequest _ => none
  | .accessDataReturn _ _ => none
  | .engineFault _ _ => none
  | .checkpointHoldReached _ _ => none
  | .keySlotEmpty _ _ => none
  | .partLoadDone _ => none
  | .partFormDone => none
  | .celadonSlotPoisoned _ _ _ => none
  | .celadonSlotRepair _ _ => none
  | .celadonPlacedDigest _ _ => none
  | .coreChainWrite _ _ => none
  | .agingPromotion _ _ => none
  | .levelReplace _ _ _ _ => none
  | .addressedRoute _ => none
  | .retainExpiry _ _ => none
  | .combineBitmapExpiry _ _ => none
  | .resendTimeout _ => none
  | .negativeAck _ => none
  | .filterExpiry _ _ => none
  | .pageWalk _ _ _ => none
  | .holdLimit _ _ => none
  | .correctedError _ => none
  | .configReload _ => none
  | .configReloadDone _ _ => none
  | .fatalError _ => none
  | .spillFault _ _ => none
  | .siennaInterval => none
  | .leaseSave _ => none
  | .leaseAbandon _ => none
  | .linkDrained _ => none
  | .channelQuiesce _ => none
  | .leaseTestDone _ _ => none
  | .mirrorCompare _ _ => none
  | .mirrorTimeout _ _ => none
  | .marginPlanChange _ _ => none
  | .powerCapStep _ _ => none
  | .thermalHold _ => none
  | .thermalStop _ => none
  | .coldReset _ => none
  | .clusterStageAdvance _ _ => none
  | .greetingBurst _ _ => none
  | .greetingAnswer _ _ _ => none
  | .bolsarFlit _ _ => none
  | .pcieLinkTrain _ => none
  | .bar2Access _ => none
  | .keyInstall _ => none
  | .keySlotSelect _ _ => none
  | .keySlotClear _ _ => none
  | .rimFeClr _ _ => none
  | .hqCfgWrite _ _ _ => none
  | .hqTailWrite _ _ _ => none
  | .hqHeadWrite _ _ _ => none
  | .hqNotifyWrite _ _ _ => none
  | .partHoldNamed _ _ => none
  | .partHoldCirc _ _ => none
  | .partHoldStr _ _ => none
  | .partLoadDescriptors _ _ => none
  | .partLoadRanges _ _ => none
  | .partLoadCircuits _ _ => none
  | .partEnd _ _ => none
  | .partResume _ _ => none
  | .partForm _ => none
  | .partDissolve _ => none
  | .coreEfaultRetry _ => none
  | .coreEfaultAbandon _ => none
  | .recAddrWrite _ _ => none
  | .recDataWrite _ _ _ => none
  | .coreWindowWrite _ _ _ => none
  | .netCfgWrite _ _ => none
  | .clusStageWrite _ _ => none
  | .xlatRootWrite _ _ _ => none
  | .siennaCfgWrite _ => none
  | .pwrCapWrite _ _ => none
  | .coreSrndWrite _ _ => none
  | .coreCtlScbWrite _ _ => none
  | .clusMstoreFillRead _ => none
  | .clusStageRead _ => none
  | .registerWrite _ _ => none
  | .thermalRelease _ => none
  | .deferredRequestWithdrawn _ => none
  | .bolsarLinkKey _ => none
  | .rimReset => none
  | .channelRelease _ _ => none
  | .operatorCommand _ => none

/-! ## The decoder -/

/-- The C slot (Table 13·2). -/
def readC (op : Nat) (g : Guard) (lit : Option Half) (w : Nat) : Dec :=
  let r := unpackCR w
  match op with
  | 0x00 => .ok (.br ⟨g, (unpackCJ w).off⟩)
  | 0x01 => if r.l then withLit lit fun v => .ok (.jmp ⟨g, .lit v⟩) else .ok (.jmp ⟨g, .reg r.a⟩)
  | 0x02 => .ok (.call ⟨g, Fin.ofNat 64 (unpackCJ w).x.toNat, (unpackCJ w).off⟩)
  | 0x03 => .ok (.ret ⟨g, r.a⟩)
  | 0x04 => withVal r lit fun v => .ok (.loopSet ⟨g, r.a, v⟩)
  | 0x05 => .ok (.loopEnd ⟨g, Fin.ofNat 64 (unpackCJ w).x.toNat, (unpackCJ w).off⟩)
  | 0x06 => .ok (.frameAlloc ⟨g, r.imm⟩)
  | 0x07 => .ok (.frameFree ⟨g⟩)
  | 0x08 => .ok (.yield ⟨g⟩)
  | 0x09 => if r.x = 0 then .ok (.waitQ ⟨g, r.a⟩) else if r.x = 1 then .ok (.waitS ⟨g, Fin.ofNat 8 r.imm.toNat⟩) else .error .xValue
  | 0x0A => .ok (.halt ⟨g⟩)
  | 0x0B => .ok (.trap ⟨g, r.imm⟩)
  | 0x10 => .ok (.subscribe ⟨g, r.n, Fin.ofNat 8 r.imm.toNat⟩)
  | 0x11 => .ok (.unsub ⟨g, r.n, Fin.ofNat 8 r.imm.toNat⟩)
  | 0x12 => .ok (.bind ⟨g, Fin.ofNat 8 r.imm.toNat, r.n⟩)
  | 0x13 => .ok (.wtst ⟨g, Fin.ofNat 16 r.a.val, Fin.ofNat 8 r.imm.toNat⟩)
  | 0x14 => withCode (scopeOf r.imm.toNat) fun sc => .ok (.pub ⟨g, r.a, r.n, sc⟩)
  | 0x15 => withCode (scopeOf r.imm.toNat) fun sc => .ok (.pubC ⟨g, r.a, r.b, r.n, BitVec.ofNat 4 r.x.toNat, sc⟩)
  | 0x16 => withCode (scopeOf r.imm.toNat) fun sc => .ok (.steer ⟨g, r.a, r.n, r.n2, Fin.ofNat 16 r.x.toNat, sc⟩)
  | 0x17 => .ok (.spawn ⟨g, r.a, r.b, r.n, r.n2, Fin.ofNat 8 r.imm.toNat⟩)
  | 0x18 => .ok (.spawnNb ⟨g, r.a, r.b, r.n, r.n2, Fin.ofNat 8 r.imm.toNat⟩)
  | 0x19 => withCode (scopeOf r.imm.toNat) fun sc => .ok (.retn ⟨g, r.a, sc⟩)
  | 0x1A => .ok (.drain ⟨g⟩)
  | 0x1B => .ok (.colourGet ⟨g, r.a⟩)
  | 0x1C => .ok (.colourFree ⟨g, r.a⟩)
  | 0x1D => if xb r.x 0 7 = 8 then .ok (.nameSetWhole ⟨g, r.n, r.a, r.b⟩)
    else if xb r.x 0 7 = 9 then .ok (.nameSetCopy ⟨g, r.n, r.n2⟩)
    else withCode (nameFieldOf (xb r.x 0 7)) fun nf => withVal r lit fun v => .ok (.nameSetField ⟨g, r.n, nf, v⟩)
  | 0x1E => withCode (nameFieldOf (xb r.x 0 7)) fun nf => withVal r lit fun v => .ok (.nameAdd ⟨g, r.n, nf, v⟩)
  | 0x1F => .ok (.nameLd ⟨g, r.n, r.a⟩)
  | 0x20 => .ok (.pand ⟨g, (unpackCP w).pd, (unpackCP w).pa, (unpackCP w).pb, bitAt (unpackCP w).x.toNat 0,
      bitAt (unpackCP w).x.toNat 1⟩)
  | 0x21 => .ok (.por ⟨g, (unpackCP w).pd, (unpackCP w).pa, (unpackCP w).pb, bitAt (unpackCP w).x.toNat 0,
      bitAt (unpackCP w).x.toNat 1⟩)
  | 0x22 => .ok (.pxor ⟨g, (unpackCP w).pd, (unpackCP w).pa, (unpackCP w).pb, bitAt (unpackCP w).x.toNat 0,
      bitAt (unpackCP w).x.toNat 1⟩)
  | 0x23 => .ok (.pnot ⟨g, (unpackCP w).pd, (unpackCP w).pa, bitAt (unpackCP w).x.toNat 0⟩)
  | 0x24 => .ok (.pmov ⟨g, (unpackCP w).pd, (unpackCP w).pa, bitAt (unpackCP w).x.toNat 0⟩)
  | 0x30 => .ok (.sysRd ⟨g, r.a, r.b, BitVec.ofNat 16 (r.x.toNat * 256 + r.imm.toNat)⟩)
  | 0x31 => .ok (.sysWr ⟨g, r.a, BitVec.ofNat 16 (r.x.toNat * 256 + r.imm.toNat)⟩)
  | 0x32 => if r.x = 0 then .ok (.eret ⟨g, r.a⟩) else if r.x = 1 then .ok (.eretH ⟨g, r.a⟩) else .error .xValue
  | 0x33 => if r.x = 0 then .ok (.tlbInv ⟨g, r.a⟩) else if r.x = 1 then .ok (.tlbInvAll ⟨g⟩) else .error .xValue
  | 0x34 => .ok (.dictLd ⟨g, r.a, r.b⟩)
  | 0x35 => .ok (.dictInv ⟨g, r.a⟩)
  | 0x36 => .ok (.qenq ⟨g, r.a, r.b⟩)
  | 0x37 => .ok (.qdeq ⟨g, r.a, r.b⟩)
  | 0x38 => .ok (.qenqNb ⟨g, Fin.ofNat 16 r.x.toNat, r.a, r.b⟩)
  | 0x39 => .ok (.qdeqNb ⟨g, Fin.ofNat 16 r.x.toNat, r.a, r.b⟩)
  | 0x3A => .ok (.cycleRd ⟨g, r.a⟩)
  | 0x3B => if r.x = 0 then .ok (.fmtSet ⟨g, r.a⟩)
    else if r.x = 1 then (if r.l then withLit lit fun v => .ok (.fmtSetH ⟨g, v⟩) else .error .reserved)
    else if r.x = 2 then .ok (.fmtSetC ⟨g, BitVec.ofNat 6 r.imm.toNat⟩) else .error .xValue
  | 0x3C => .ok (.fmtRd ⟨g, r.a⟩)
  | _ => .error .opcode

/-- The scalar slots (Tables 13·4, 13·7 and 15·4). -/
def readS (k : Bank) (op : Nat) (g : Guard) (lit : Option Half) (w : Nat) : Dec :=
  let r := unpackSR w
  let i := unpackSI w
  let q := unpackSM w
  match op with
  | 0x00 => withSrcB r lit fun b => .ok (.add ⟨k, g, r.d, r.a, b⟩)
  | 0x01 => withImm17 i lit fun v => .ok (.addi ⟨k, g, i.d, i.a, v⟩)
  | 0x02 => withSrcB r lit fun b => .ok (.sub ⟨k, g, r.d, r.a, b⟩)
  | 0x03 => withSrcB r lit fun b => .ok (.mul ⟨k, g, r.d, r.a, b⟩)
  | 0x04 => withSrcB r lit fun b => .ok (.mulh ⟨k, g, r.d, r.a, b⟩)
  | 0x05 => withSrcB r lit fun b => .ok (.mulhN ⟨k, g, r.d, r.a, b⟩)
  | 0x06 => withSrcB r lit fun b => .ok (.div ⟨k, g, r.d, r.a, b⟩)
  | 0x07 => withSrcB r lit fun b => .ok (.divN ⟨k, g, r.d, r.a, b⟩)
  | 0x08 => withSrcB r lit fun b => .ok (.rem ⟨k, g, r.d, r.a, b⟩)
  | 0x09 => withSrcB r lit fun b => .ok (.remN ⟨k, g, r.d, r.a, b⟩)
  | 0x0A => withSrcB r lit fun b => .ok (.min ⟨k, g, r.d, r.a, b⟩)
  | 0x0B => withSrcB r lit fun b => .ok (.minN ⟨k, g, r.d, r.a, b⟩)
  | 0x0C => withSrcB r lit fun b => .ok (.max ⟨k, g, r.d, r.a, b⟩)
  | 0x0D => withSrcB r lit fun b => .ok (.maxN ⟨k, g, r.d, r.a, b⟩)
  | 0x0E => withSrcB r lit fun b => .ok (.and ⟨k, g, r.d, r.a, b⟩)
  | 0x0F => withSrcB r lit fun b => .ok (.or ⟨k, g, r.d, r.a, b⟩)
  | 0x10 => withSrcB r lit fun b => .ok (.xor ⟨k, g, r.d, r.a, b⟩)
  | 0x11 => withSrcB r lit fun b => .ok (.andn ⟨k, g, r.d, r.a, b⟩)
  | 0x12 => withShAmt r lit fun n => .ok (.shl ⟨k, g, r.d, r.a, n⟩)
  | 0x13 => withShAmt r lit fun n => .ok (.shr ⟨k, g, r.d, r.a, n⟩)
  | 0x14 => withShAmt r lit fun n => .ok (.shrN ⟨k, g, r.d, r.a, n⟩)
  | 0x15 => withShAmt r lit fun n => .ok (.rot ⟨k, g, r.d, r.a, n⟩)
  | 0x16 => .ok (.clz ⟨k, g, r.d, r.a⟩)
  | 0x17 => .ok (.ctz ⟨k, g, r.d, r.a⟩)
  | 0x18 => .ok (.popc ⟨k, g, r.d, r.a⟩)
  | 0x19 => .ok (.bfx ⟨k, g, i.d, i.a, BitVec.ofNat 6 i.imm.toNat, BitVec.ofNat 6 (i.imm.toNat / 64), bitAt i.imm.toNat 12⟩)
  | 0x1A => .ok (.bfi ⟨k, g, i.d, i.a, BitVec.ofNat 6 i.imm.toNat, BitVec.ofNat 6 (i.imm.toNat / 64)⟩)
  | 0x1B => .ok (.sext ⟨k, g, r.d, r.a, BitVec.ofNat 6 r.x.toNat⟩)
  | 0x1C => .ok (.zext ⟨k, g, r.d, r.a, BitVec.ofNat 6 r.x.toNat⟩)
  | 0x1D => if xb r.x 3 5 = 16 then .ok (.movStream ⟨k, g, r.d, Fin.ofNat 8 r.x.toNat⟩) else .ok (.mov ⟨k, g, r.d, r.a⟩)
  | 0x1E => if xb5 i.x 0 2 = 0 then withImm17 i lit fun v => .ok (.movi ⟨k, g, i.d, v⟩)
    else if xb5 i.x 0 2 = 1 then withImm17 i lit fun v => .ok (.moviZ ⟨k, g, i.d, v⟩)
    else if xb5 i.x 0 2 = 2 then (if i.l then withLit lit fun v => .ok (.moviH ⟨k, g, i.d, v⟩) else .error .reserved)
    else .error .xValue
  | 0x1F => withSrcB r lit fun b => .ok (.sel ⟨k, g, r.d, r.a, b, Fin.ofNat 16 r.x.toNat⟩)
  | 0x20 => withCode (icondOf r.x.toNat) fun cc => withSrcB r lit fun b => .ok (.cmpCc ⟨k, g, Fin.ofNat 16 r.d.val, r.a, b, cc⟩)
  | 0x21 => withCode (icondOf i.x.toNat) fun cc => withImm17 i lit fun v => .ok (.cmpiCc ⟨k, g, Fin.ofNat 16 i.d.val, i.a, v, cc⟩)
  | 0x22 => withSrcB r lit fun b => .ok (.lea ⟨k, g, r.d, r.a, b, BitVec.ofNat 3 r.x.toNat⟩)
  | 0x40 => withSrcB r lit fun b => .ok (.fadd ⟨k, g, r.d, r.a, b⟩)
  | 0x41 => withSrcB r lit fun b => .ok (.fsub ⟨k, g, r.d, r.a, b⟩)
  | 0x42 => withSrcB r lit fun b => .ok (.fmul ⟨k, g, r.d, r.a, b⟩)
  | 0x43 => withSrcB r lit fun b => .ok (.ffma ⟨k, g, r.d, r.a, b⟩)
  | 0x44 => withSrcB r lit fun b => .ok (.fmin ⟨k, g, r.d, r.a, b⟩)
  | 0x45 => withSrcB r lit fun b => .ok (.fmax ⟨k, g, r.d, r.a, b⟩)
  | 0x46 => withCode (fcondOf r.x.toNat) fun cc => withSrcB r lit fun b => .ok (.fcmpCc ⟨k, g, Fin.ofNat 16 r.d.val, r.a, b, cc⟩)
  | 0x47 => withCode (fmtOf (xb r.x 0 5)) fun t => .ok (.fcvt ⟨k, g, r.d, r.a, bitAt r.x.toNat 7, t⟩)
  | 0x80 => withCode (spaceOf (xb5 q.x 3 2)) fun sp => withCode (ldSizeOf (xb5 q.x 0 3)) fun sz => withOff q lit fun o =>
    .ok (.ld ⟨k, g, q.d, q.a, q.b, sp, sz, o⟩)
  | 0x81 => withCode (spaceOf (xb5 q.x 3 2)) fun sp => withCode (stSizeOf (xb5 q.x 0 3)) fun sz => withOff q lit fun o =>
    .ok (.st ⟨k, g, q.d, q.a, q.b, sp, sz, o⟩)
  | 0x82 => withCode (spaceOf (xb5 q.x 3 2)) fun sp => withOff q lit fun o =>
    .ok (.ldv ⟨k, g, Fin.ofNat 32 q.d.val, q.a, q.b, sp, Fin.ofNat 8 q.x.toNat, o⟩)
  | 0x83 => withCode (spaceOf (xb5 q.x 3 2)) fun sp => withOff q lit fun o =>
    .ok (.stv ⟨k, g, Fin.ofNat 32 q.d.val, q.a, q.b, sp, Fin.ofNat 8 q.x.toNat, o⟩)
  | 0x84 => withCode (spaceOf (xb5 q.x 3 2)) fun sp =>
    .ok (.ldvG ⟨k, g, Fin.ofNat 32 q.d.val, q.a, Fin.ofNat 32 q.b.val, sp, bitAt q.x.toNat 2, Fin.ofNat 8 (q.imm.toNat / 256)⟩)
  | 0x85 => withCode (spaceOf (xb5 q.x 3 2)) fun sp =>
    .ok (.stvS ⟨k, g, Fin.ofNat 32 q.d.val, q.a, Fin.ofNat 32 q.b.val, sp, bitAt q.x.toNat 2, Fin.ofNat 8 (q.imm.toNat / 256)⟩)
  | 0x86 => withOff q lit fun o => .ok (.ldFe ⟨k, g, q.d, q.a, q.b, o⟩)
  | 0x87 => withOff q lit fun o => .ok (.stFe ⟨k, g, q.d, q.a, q.b, o⟩)
  | 0x88 => withOff q lit fun o => .ok (.peekFe ⟨k, g, Fin.ofNat 16 q.d.val, q.a, q.b, o⟩)
  | 0x89 => withCode (scopeOf q.imm.toNat) fun sc => .ok (.mark ⟨k, g, sc⟩)
  | 0x8A => withCode (scopeOf q.imm.toNat) fun sc => .ok (.fence ⟨k, g, sc⟩)
  | 0x90 => withCode (spaceOf (xb5 q.x 3 2)) fun sp => withOff q lit fun o =>
    .ok (.atomAdd ⟨k, g, q.d, q.a, q.b, sp, bitAt q.x.toNat 2, bitAt q.x.toNat 0, o⟩)
  | 0x91 => withCode (spaceOf (xb5 q.x 3 2)) fun sp => withOff q lit fun o =>
    .ok (.atomMin ⟨k, g, q.d, q.a, q.b, sp, bitAt q.x.toNat 2, bitAt q.x.toNat 0, o⟩)
  | 0x92 => withCode (spaceOf (xb5 q.x 3 2)) fun sp => withOff q lit fun o =>
    .ok (.atomMax ⟨k, g, q.d, q.a, q.b, sp, bitAt q.x.toNat 2, bitAt q.x.toNat 0, o⟩)
  | 0x93 => withCode (spaceOf (xb5 q.x 3 2)) fun sp => withOff q lit fun o =>
    .ok (.atomAnd ⟨k, g, q.d, q.a, q.b, sp, bitAt q.x.toNat 2, bitAt q.x.toNat 0, o⟩)
  | 0x94 => withCode (spaceOf (xb5 q.x 3 2)) fun sp => withOff q lit fun o =>
    .ok (.atomOr ⟨k, g, q.d, q.a, q.b, sp, bitAt q.x.toNat 2, bitAt q.x.toNat 0, o⟩)
  | 0x95 => withCode (spaceOf (xb5 q.x 3 2)) fun sp => withOff q lit fun o =>
    .ok (.atomXor ⟨k, g, q.d, q.a, q.b, sp, bitAt q.x.toNat 2, bitAt q.x.toNat 0, o⟩)
  | 0x96 => withCode (spaceOf (xb5 q.x 3 2)) fun sp => withOff q lit fun o =>
    .ok (.atomSwp ⟨k, g, q.d, q.a, q.b, sp, bitAt q.x.toNat 2, bitAt q.x.toNat 0, o⟩)
  | 0x97 => withCode (spaceOf (xb5 q.x 3 2)) fun sp => withOff q lit fun o =>
    .ok (.atomCas ⟨k, g, q.d, q.a, q.b, sp, bitAt q.x.toNat 2, bitAt q.x.toNat 0, o⟩)
  | 0x98 => withCode (spaceOf (xb5 q.x 3 2)) fun sp => withOff q lit fun o =>
    .ok (.atomFadd ⟨k, g, q.d, q.a, q.b, sp, o⟩)
  | 0x99 => withCode (spaceOf (xb5 q.x 3 2)) fun sp => withOff q lit fun o =>
    .ok (.atomNib ⟨k, g, q.d, q.a, q.b, sp, bitAt q.x.toNat 0, o⟩)
  | 0x9F => withOff q lit fun o => .ok (.pref ⟨k, g, q.a, q.b, BitVec.ofNat 3 q.x.toNat, o⟩)
  | _ => .error .opcode

/-- The V slot (Table 17·1). -/
def readV (op : Nat) (g : Guard) (lit : Option Half) (w : Nat) : Dec :=
  let r := unpackVR w
  match op with
  | 0x00 => withCode (fmtOf r.t.toNat) fun t => withVSrc r lit fun b => .ok (.vadd ⟨g, t, r.d, r.a, b, r.km, r.mz, bitAt r.x.toNat 0⟩)
  | 0x01 => withCode (fmtOf r.t.toNat) fun t => withVSrc r lit fun b => .ok (.vsub ⟨g, t, r.d, r.a, b, r.km, r.mz, bitAt r.x.toNat 0⟩)
  | 0x02 => withCode (fmtOf r.t.toNat) fun t => withVSrc r lit fun b => .ok (.vmul ⟨g, t, r.d, r.a, b, r.km, r.mz, bitAt r.x.toNat 0⟩)
  | 0x03 => withCode (fmtOf r.t.toNat) fun t => withVSrc r lit fun b => .ok (.vfma ⟨g, t, r.d, r.a, b, r.c, r.km, r.mz⟩)
  | 0x04 => withCode (fmtOf r.t.toNat) fun t => withVSrc r lit fun b => .ok (.vmin ⟨g, t, r.d, r.a, b, r.km, r.mz⟩)
  | 0x05 => withCode (fmtOf r.t.toNat) fun t => withVSrc r lit fun b => .ok (.vmax ⟨g, t, r.d, r.a, b, r.km, r.mz⟩)
  | 0x06 => withCode (fmtOf r.t.toNat) fun t => .ok (.vabs ⟨g, t, r.d, r.a, r.km, r.mz, bitAt r.x.toNat 0⟩)
  | 0x07 => withCode (fmtOf r.t.toNat) fun t => .ok (.vneg ⟨g, t, r.d, r.a, r.km, r.mz, bitAt r.x.toNat 0⟩)
  | 0x08 => withCode (fmtOf r.t.toNat) fun t => withVSrc r lit fun b => .ok (.vand ⟨g, t, r.d, r.a, b, r.km, r.mz, bitAt r.x.toNat 0⟩)
  | 0x09 => withCode (fmtOf r.t.toNat) fun t => withVSrc r lit fun b => .ok (.vor ⟨g, t, r.d, r.a, b, r.km, r.mz, bitAt r.x.toNat 0⟩)
  | 0x0A => withCode (fmtOf r.t.toNat) fun t => withVSrc r lit fun b => .ok (.vxor ⟨g, t, r.d, r.a, b, r.km, r.mz, bitAt r.x.toNat 0⟩)
  | 0x0B => withCode (fmtOf r.t.toNat) fun t => if bitAt r.x.toNat 0 then .ok (.vshl ⟨g, t, r.d, r.a, .imm (BitVec.ofNat 6 r.imm.toNat), r.km, r.mz⟩)
      else .ok (.vshl ⟨g, t, r.d, r.a, .reg r.b, r.km, r.mz⟩)
  | 0x0C => withCode (fmtOf r.t.toNat) fun t => if bitAt r.x.toNat 0 then .ok (.vshr ⟨g, t, r.d, r.a, .imm (BitVec.ofNat 6 r.imm.toNat), r.km, r.mz⟩)
      else .ok (.vshr ⟨g, t, r.d, r.a, .reg r.b, r.km, r.mz⟩)
  | 0x0D => withCode (fmtOf r.t.toNat) fun t => withVSrc r lit fun b => .ok (.vcmpCc ⟨g, t, Fin.ofNat 8 r.d.val, r.a, b, r.km, BitVec.ofNat 4 r.x.toNat⟩)
  | 0x0E => withCode (fmtOf r.t.toNat) fun t => .ok (.vsel ⟨g, t, r.d, r.a, r.b, r.km⟩)
  | 0x0F => withCode (fmtOf r.t.toNat) fun t => .ok (.vcas ⟨g, t, r.d, r.a, r.km, r.mz, BitVec.ofNat 3 r.imm.toNat, BitVec.ofNat 4 (r.imm.toNat / 8), bitAt r.imm.toNat 7⟩)
  | 0x10 => withCode (fmtOf r.t.toNat) fun t => .ok (.vcasX ⟨g, t, r.d, r.c, r.a, r.b, r.km, r.mz, BitVec.ofNat 3 r.imm.toNat, BitVec.ofNat 4 (r.imm.toNat / 8), bitAt r.imm.toNat 7⟩)
  | 0x11 => withCode (fmtOf r.t.toNat) fun t => if bitAt r.x.toNat 0 then .ok (.vperm2 ⟨g, t, r.d, r.a, r.c, r.b⟩) else .ok (.vperm ⟨g, t, r.d, r.a, r.b⟩)
  | 0x12 => withCode (fmtOf r.t.toNat) fun t => if xb r.x 0 2 = 0 then .ok (.vbcastScalar ⟨g, t, r.d, Fin.ofNat 64 (r.x.toNat / 4)⟩)
      else if xb r.x 0 2 = 1 then .ok (.vbcastLane ⟨g, t, r.d, r.a, r.imm⟩)
      else if xb r.x 0 2 = 2 then (if r.l then withLit lit fun v => .ok (.vbcastLiteral ⟨g, t, r.d, v⟩) else .error .reserved)
      else .error .xValue
  | 0x13 => withCode (fmtOf r.t.toNat) fun t => withCode (shufOf r.x.toNat) fun pt => .ok (.vshuf ⟨g, t, r.d, r.a, r.b, pt⟩)
  | 0x14 => withCode (fmtOf r.t.toNat) fun t => .ok (.vredAdd ⟨g, t, Fin.ofNat 64 (r.x.toNat / 4), r.a, r.km⟩)
  | 0x15 => withCode (fmtOf r.t.toNat) fun t => .ok (.vredMax ⟨g, t, Fin.ofNat 64 (r.x.toNat / 4), r.a, r.km⟩)
  | 0x16 => withCode (fmtOf r.t.toNat) fun t => .ok (.vredMin ⟨g, t, Fin.ofNat 64 (r.x.toNat / 4), r.a, r.km⟩)
  | 0x17 => withCode (fmtOf r.t.toNat) fun t => .ok (.vscanAdd ⟨g, t, r.d, r.a, r.km, r.mz⟩)
  | 0x18 => withCode (fmtOf r.t.toNat) fun t => .ok (.vrcpE ⟨g, t, r.d, r.a, r.km, r.mz⟩)
  | 0x19 => withCode (fmtOf r.t.toNat) fun t => .ok (.vrsqE ⟨g, t, r.d, r.a, r.km, r.mz⟩)
  | 0x1A => withCode (fmtOf r.t.toNat) fun t => .ok (.vexp2 ⟨g, t, r.d, r.a, r.km, r.mz⟩)
  | 0x1B => withCode (fmtOf r.t.toNat) fun t => .ok (.vlog2 ⟨g, t, r.d, r.a, r.km, r.mz⟩)
  | 0x1C => withCode (fmtOf r.t.toNat) fun t => withCode (fmtOf (xb r.x 0 5)) fun u => .ok (.vcvt ⟨g, t, u, BitVec.ofNat 3 (r.x.toNat / 32), r.d, r.a, r.km, r.mz⟩)
  | 0x1D => withCode (fmtOf r.t.toNat) fun t => .ok (.vscl ⟨g, t, r.d, r.a, r.b, r.km, r.mz, scaleOfBit (xb r.x 0 1), bitAt r.x.toNat 1, bitAt r.x.toNat 2, BitVec.ofNat 7 r.imm.toNat⟩)
  | 0x1E => withCode (fmtOf r.t.toNat) fun t => withCode (fmtOf (xb r.x 0 5)) fun u => withCode (scaleOf (bitsAt r.imm.toNat 7 2)) fun sf =>
      .ok (.vpack ⟨g, t, u, BitVec.ofNat 3 (r.x.toNat / 32), r.d, r.a, r.c, r.km, r.mz, sf, bitAt r.imm.toNat 9, BitVec.ofNat 7 r.imm.toNat⟩)
  | 0x1F => withCode (fmtOf r.t.toNat) fun t => withCode (fmtOf (xb r.x 0 5)) fun u => withCode (scaleOf (bitsAt r.imm.toNat 7 2)) fun sf =>
      .ok (.vunpack ⟨g, t, u, BitVec.ofNat 3 (r.x.toNat / 32), r.d, r.a, r.c, r.km, r.mz, sf, bitAt r.imm.toNat 9, BitVec.ofNat 7 r.imm.toNat⟩)
  | 0x20 => withCode (fmtOf r.t.toNat) fun t => .ok (.vmovS ⟨g, t, r.d, Fin.ofNat 64 (r.x.toNat / 4), r.imm⟩)
  | 0x21 => withCode (fmtOf r.t.toNat) fun t => .ok (.vext ⟨g, t, Fin.ofNat 64 (r.x.toNat / 4), r.a, r.imm⟩)
  | 0x22 => withCode (fmtOf r.t.toNat) fun t => .ok (.viota ⟨g, t, r.d, r.km, r.mz, r.imm⟩)
  | 0x23 => withCode (fmtOf r.t.toNat) fun t => .ok (.mand ⟨g, t, Fin.ofNat 8 r.d.val, Fin.ofNat 8 r.a.val, Fin.ofNat 8 r.b.val, bitAt r.x.toNat 0, bitAt r.x.toNat 1⟩)
  | 0x24 => withCode (fmtOf r.t.toNat) fun t => .ok (.mor ⟨g, t, Fin.ofNat 8 r.d.val, Fin.ofNat 8 r.a.val, Fin.ofNat 8 r.b.val, bitAt r.x.toNat 0, bitAt r.x.toNat 1⟩)
  | 0x25 => withCode (fmtOf r.t.toNat) fun t => .ok (.mnot ⟨g, t, Fin.ofNat 8 r.d.val, Fin.ofNat 8 r.a.val⟩)
  | 0x26 => withCode (fmtOf r.t.toNat) fun t => withCode (popOpOf (xb r.x 0 2)) fun po => .ok (.vpopc ⟨g, t, Fin.ofNat 64 (r.x.toNat / 4), Fin.ofNat 8 r.a.val, r.km, po⟩)
  | _ => .error .opcode

/-- The M slot (Table 19·1). -/
def readM (op : Nat) (g : Guard) (w : Nat) : Dec :=
  let r := unpackMZ w
  match op with
  | 0x00 => .ok (.mma ⟨g, r.beat, r.z, r.a, r.b, r.c, bitAt r.x.toNat 0, bitAt r.x.toNat 1, bitAt r.x.toNat 2⟩)
  | 0x01 => .ok (.mmaG ⟨g, r.beat, r.z, r.a, r.b, r.c, bitAt r.x.toNat 0, bitAt r.x.toNat 2, BitVec.ofNat 3 (r.x.toNat / 8)⟩)
  | 0x02 => .ok (.zclr ⟨g, r.beat, r.x⟩)
  | 0x03 => .ok (.zld ⟨g, r.beat, r.z, r.a⟩)
  | 0x04 => .ok (.zst ⟨g, r.beat, r.z, r.a, BitVec.ofNat 2 r.x.toNat⟩)
  | 0x05 => withCode (fmtOf r.x.toNat) fun t => .ok (.zcvt ⟨g, r.beat, r.z, r.z2, t⟩)
  | 0x06 => .ok (.zadd ⟨g, r.beat, r.z, r.z2⟩)
  | 0x07 => .ok (.wld ⟨g, r.beat, r.a, r.b, r.c, bitAt r.x.toNat 0⟩)
  | 0x08 => .ok (.mwait ⟨g, r.beat⟩)
  | _ => .error .opcode

/-- The E slot (Tables 19·3 and 25·8). -/
def readE (op : Nat) (g : Guard) (w : Nat) : Dec :=
  let r := unpackER w
  match op with
  | 0x00 => withCode (spaceOf (xb r.x 0 2)) fun dst => withCode (spaceOf (xb r.x 2 2)) fun src => .ok (.cp ⟨g, r.d, r.a, r.b, dst, src⟩)
  | 0x01 => .ok (.cpName ⟨g, r.d, r.a⟩)
  | 0x02 => .ok (.cpWin ⟨g, r.d, r.a, r.b⟩)
  | 0x03 => .ok (.cpWait ⟨g⟩)
  | 0x04 => withCode (fmtOf r.x.toNat) fun t => .ok (.sbind ⟨g, r.w, r.a, r.b, t, BitVec.ofNat 4 r.imm.toNat⟩)
  | 0x05 => if bitAt r.x.toNat 0 then .ok (.scloseUnbind ⟨g, r.w⟩) else .ok (.scloseMarker ⟨g, r.a⟩)
  | 0x06 => .ok (.hashSha ⟨g, r.d, r.a, r.b, bitAt r.x.toNat 0, bitAt r.x.toNat 1⟩)
  | 0x07 => .ok (.hashCrc ⟨g, r.d, r.a, r.b, bitAt r.x.toNat 0⟩)
  | 0x08 => .ok (.hashWait ⟨g⟩)
  | 0x40 => if xb r.x 0 2 = 0 then .ok (.lcCtxOpen ⟨g, r.d⟩)
    else if xb r.x 0 2 = 1 then .ok (.lcCtxCommit ⟨g, r.d, r.a, r.b⟩)
    else if xb r.x 0 2 = 2 then .ok (.lcCtxAbort ⟨g, r.a⟩) else .ok (.lcCtxRel ⟨g, r.a⟩)
  | 0x41 => .ok (.lcTbl ⟨g, r.d, r.a, r.b, r.imm⟩)
  | 0x42 => if bitAt r.x.toNat 0 then .ok (.lcSel ⟨g, .imm (BitVec.ofNat 2 r.imm.toNat)⟩) else .ok (.lcSel ⟨g, .reg r.a⟩)
  | 0x43 => .ok (.lcRun ⟨g, r.d, r.a, r.b⟩)
  | 0x44 => withCode (tsliceFmtOf (xb r.x 0 2)) fun t => .ok (.lcTslice ⟨g, r.d, r.a, r.b, t, BitVec.ofNat 3 (r.x.toNat / 4), r.imm⟩)
  | 0x45 => withCode (unsliceFmtOf (xb r.x 0 2)) fun t => .ok (.lcUnslice ⟨g, r.d, r.a, r.b, t, BitVec.ofNat 5 (r.x.toNat / 4)⟩)
  | 0x46 => .ok (.lcPop ⟨g, r.d, r.a, r.b⟩)
  | 0x47 => .ok (.lcWait ⟨g⟩)
  | 0x48 => .ok (.lcStat ⟨g, r.d, BitVec.ofNat 3 r.x.toNat, BitVec.ofNat 2 r.imm.toNat⟩)
  | _ => .error .opcode

/-- The instruction that the fields of a slot name, before its reserved fields are looked at. -/
def readSlot (k : Slot) (lit : Option Half) (w : Nat) : Dec :=
  match k with
  | .c => readC (bitsAt w 40 8) (guardOf (bitsAt w 35 5)) lit w
  | .s0 => readS .a (bitsAt w 40 8) (guardOf (bitsAt w 35 5)) lit w
  | .s1 => readS .b (bitsAt w 40 8) (guardOf (bitsAt w 35 5)) lit w
  | .v => readV (bitsAt w 56 8) (guardOf (bitsAt w 51 5)) lit w
  | .m => readM (bitsAt w 56 8) (guardOf (bitsAt w 51 5)) w
  | .e => readE (bitsAt w 56 8) (guardOf (bitsAt w 51 5)) w

/-- One valid slot of a bundle. A word is an instruction when its fields name one, when no bit is set that the entry
does not use (R117: the word is then exactly the one the encoder writes), and when no limit of the entry is broken. -/
def decodeSlot (k : Slot) (lit : Option Half) (w : Nat) : Dec :=
  match readSlot k lit w with
  | .error e => .error e
  | .ok i =>
    if i.encode.map (·.word) = some w then
      match i.check with
      | none => .ok i
      | some e => .error (.illFormed e)
    else .error .reserved

/-! ## Bundles (Table 9·2) -/

def bundleStall (b : BundleWord) : Nat := bitsAt b.toNat 380 4
def bundleSync (b : BundleWord) : Bool := bitAt b.toNat 379
def bundleLit (b : BundleWord) : Option Half :=
  if bitAt b.toNat 372 then some (BitVec.ofNat 32 (b.toNat / 2 ^ 336)) else none

/-- The slots in the order of R129 and R146. -/
def allSlots : List Slot := [.c, .s0, .s1, .v, .m, .e]

/-- The number of a slot in WAITARG (Table 27·1). -/
def Slot.num : Slot → Nat
  | .c => 0 | .s0 => 1 | .s1 => 2 | .v => 3 | .m => 4 | .e => 5

/-- VALID, from C in bit 378 down to E in bit 373. -/
def bundleValid (b : BundleWord) (k : Slot) : Bool := bitAt b.toNat (378 - k.num)

/-- Lowest bit of a slot in the bundle (Table 9·3). -/
def Slot.lo : Slot → Nat
  | .c => 288 | .s0 => 240 | .s1 => 192 | .v => 128 | .m => 64 | .e => 0

/-- Bits of a slot. -/
def Slot.size : Slot → Nat
  | .c | .s0 | .s1 => 48
  | .v | .m | .e => 64

def bundleWord (b : BundleWord) (k : Slot) : Nat := bitsAt b.toNat k.lo k.size

/-- The instruction of one slot of a bundle. -/
def bundlePart (b : BundleWord) (k : Slot) : Dec := decodeSlot k (bundleLit b) (bundleWord b k)

/-- The valid slots of a bundle, in slot order. -/
def bundleSlots (b : BundleWord) : List Slot := allSlots.filter (bundleValid b)

/-- The stream registers that the parts of a bundle name (R141). -/
def bundleStreams (b : BundleWord) : List WReg :=
  (bundleSlots b).flatMap fun k =>
    match bundlePart b k with
    | .ok i => (match i.uses with | some u => u.streams | none => [])
    | .error _ => []

/-- The encoding checks of R129, item 3: the WAITARG of the ILLEGAL-OPERATION, and the name of the check. Where several parts of
a bundle fail, the spec does not say which one WAITARG names: the bundle bits come first, then the lowest slot (log entry
101). -/
def bundleCheck (b : BundleWord) : Option (Nat × DecodeError) :=
  if bitsAt b.toNat 368 4 != 0 then some (6, .bundleBits)
  else
    match (bundleSlots b).findSome? fun k =>
      match bundlePart b k with
      | .ok _ => none
      | .error e => some (k.num, e) with
    | some e => some e
    | none => if (bundleStreams b).Nodup then none else some (6, .streamTwice)

/-- A bundle that holds one instruction alone, without STALL or SYNC. -/
def bundleOf (e : Enc) : BundleWord :=
  BitVec.ofNat 384 (2 ^ (378 - e.slot.num) + e.word * 2 ^ e.slot.lo +
    (match e.lit with | some v => 2 ^ 372 + v.toNat * 2 ^ 336 | none => 0))

/-- The first instruction of a bundle. -/
def firstPart (b : BundleWord) : Dec :=
  match bundleSlots b with
  | [] => .error .noSlot
  | k :: _ => bundlePart b k

/-- The instruction this decoder reads from a word of spec/opcode_table.json. The table gives no row an encoding of
its own; the unit the machine fetches is the 384-bit bundle, little-endian (R112), so the bits are read as a bundle
and the answer is the instruction of its first valid slot. -/
def decodeTableWord (nbits w : Nat) : Option Instr :=
  match firstPart (BitVec.ofNat 384 (w % 2 ^ nbits)) with
  | .ok i => some i
  | .error _ => none

/-! ## Code indices (R109) -/

/-- What a halfword of a code stream means. -/
inductive CodeIndex where
  | dict (n : Nat)
  | bad
  | empty
  | escape
  deriving DecidableEq, Repr

def codeIndex (h : Nat) : CodeIndex :=
  if h < 0x4000 then .dict h
  else if h = 0xFFFF then .escape
  else if h = 0xFFFE then .empty
  else .bad

/-- The bundle of an escape: halfword q holds bits [383 − 16q : 368 − 16q] (R110). -/
def escapedBundle (hs : List Nat) : BundleWord := BitVec.ofNat 384 (hs.foldl (fun acc h => acc * 65536 + h % 65536) 0)

/-- The bundle of a dictionary entry: 48 bytes, little-endian (R112). -/
def dictBundle (bytes : List Byte) : BundleWord :=
  BitVec.ofNat 384 (bytes.foldr (fun b acc => acc * 256 + b.toNat) 0)

end Sys2Proof
end

