-- ==== Sys2Proof/Machine/Store.lean ====
section
/-! DEFINITION. Byte stores and tables: a store is a list of cells in one canonical form (addresses strictly rising,
and no entry equal to the 0 that an unlisted address reads as, log entry 4), a table a list of keyed entries. -/

namespace Sys2Proof.Machine

/-- A byte store: scratchpad, weight buffer, HBM. -/
abbrev Mem := List Host.Cell

/-- What a byte that nothing has written reads as (log entry 4). -/
def emptyByte : Byte := 0

/-- The byte at an address. -/
def Mem.byte (m : Mem) (a : Nat) : Byte :=
  match m with
  | [] => emptyByte
  | (k, v) :: t => if k = a then v else if a < k then emptyByte else Mem.byte t a

/-- The canonical form from an address on. -/
def Mem.wfFrom (lo : Nat) : Mem → Bool
  | [] => true
  | (k, v) :: t => decide (lo ≤ k) && decide (v ≠ emptyByte) && Mem.wfFrom (k + 1) t

/-- The canonical form: addresses strictly rising, no entry equal to what an unlisted address reads as. -/
def Mem.wf (m : Mem) : Bool := Mem.wfFrom 0 m

/-- A cell in front of a store, unless it holds what an unlisted address reads as. -/
def Mem.cons (a : Nat) (v : Byte) (m : Mem) : Mem := if v = emptyByte then m else (a, v) :: m

/-- The cells of a byte string laid at an address, in front of a store whose addresses all lie above it. -/
def Mem.laid (a : Nat) : List Byte → Mem → Mem
  | [], m => m
  | v :: t, m => Mem.cons a v (Mem.laid (a + 1) t m)

/-- A store without the cells below an address. -/
def Mem.above (a : Nat) : Mem → Mem
  | [] => []
  | (k, v) :: t => if k < a then Mem.above a t else (k, v) :: t

/-- A byte string written at an address: exactly its bytes change. -/
def Mem.write (m : Mem) (a : Nat) (bs : List Byte) : Mem :=
  match m with
  | [] => Mem.laid a bs []
  | (k, v) :: t => if k < a then (k, v) :: Mem.write t a bs else Mem.laid a bs (Mem.above (a + bs.length) ((k, v) :: t))

/-- n bytes from an address. -/
def Mem.read (m : Mem) (a n : Nat) : List Byte := (List.range n).map fun i => m.byte (a + i)

/-- The cells of a store from an address on, as a run of n bytes; one pass over the store. -/
def Mem.run (m : Mem) (a : Nat) : Nat → List Byte
  | 0 => []
  | n + 1 =>
    match Mem.above a m with
    | [] => emptyByte :: Mem.run [] (a + 1) n
    | (k, v) :: t => if k = a then v :: Mem.run t (a + 1) n else emptyByte :: Mem.run ((k, v) :: t) (a + 1) n

/-! ## Tables -/

/-- Entries by a natural key, in rising order of key. -/
abbrev Table (α : Type) := List (Nat × α)

/-- The entry of a key. -/
def Table.find {α : Type} (t : Table α) (k : Nat) : Option α :=
  match t with
  | [] => none
  | (i, v) :: r => if i = k then some v else Table.find r k

/-- The entry of a key, or the default that an unlisted key stands for. -/
def Table.get {α : Type} (d : α) (t : Table α) (k : Nat) : α := (Table.find t k).getD d

/-- The table with one entry replaced or added. -/
def Table.set {α : Type} (t : Table α) (k : Nat) (v : α) : Table α :=
  match t with
  | [] => [(k, v)]
  | (i, u) :: r => if i = k then (k, v) :: r else if k < i then (k, v) :: (i, u) :: r else (i, u) :: Table.set r k v

/-- The table without a key. -/
def Table.drop {α : Type} (t : Table α) (k : Nat) : Table α :=
  match t with
  | [] => []
  | (i, u) :: r => if i = k then r else (i, u) :: Table.drop r k

/-- The keys of a table. -/
def Table.keys {α : Type} (t : Table α) : List Nat := t.map (·.1)

/-- A list with the entry at an index removed. -/
def removeAt {α : Type} : List α → Nat → List α
  | [], _ => []
  | _ :: t, 0 => t
  | a :: t, n + 1 => a :: removeAt t n

/-- A list with the entry at an index replaced. -/
def replaceAt {α : Type} : List α → Nat → α → List α
  | [], _, _ => []
  | _ :: t, 0, v => v :: t
  | a :: t, n + 1, v => a :: replaceAt t n v

end Sys2Proof.Machine
end

