-- ==== Sys2Proof/Machine/State.lean ====
section
/-! DEFINITION. The state of the Rolast W48 as plain data, and the state after reset. Bit vectors hold what software
reads as bits; the rest is numbers, lists and names. Every field a rule does not name is the model's own and says so. -/

namespace Sys2Proof.Machine

/-- Reasons the model stops with a fault. No instruction raises one: R9 gives every step an outcome. -/
inductive Fault where
  /-- A part stands in the latch of a core that runs no task (R21): raised by `step` alone, in states no run reaches.
  Safe: the machine stops where the spec has no such state. -/
  | noTask
  deriving DecidableEq, Repr, Inhabited

/-- Reasons the model has no meaning for a step. -/
inductive Refusal where
  /-- An arm of `exec` without a meaning yet. Safe. -/
  | notModelled (mnemonic : String)
  /-- A latched part that does not decode (R129 checks every part before it is latched): raised by `step` alone, in
  states no run reaches. Safe. -/
  | badPart
  deriving DecidableEq, Repr, Inhabited

/-! ## Registers of a task (11_registers) -/

/-- Where a register write goes once renaming is resolved (R143). -/
inductive Loc where
  | s (i : Fin 64)
  | f (i : Fin 256)          -- frame pool: 16 × slot + 8 × bank + register
  | p (i : Fin 16)
  | v (i : Fin 32)
  | m (i : Fin 8)
  | n (i : Fin 8)
  deriving DecidableEq, Repr, Inhabited

/-- CORE.FRAME (Table 11·4). -/
structure Frame where
  old  : Nat := 0
  n    : Nat := 0
  held : Nat := 0
  pend : Nat := 0
  tag  : Nat := 0
  deriving DecidableEq, Repr, Inhabited

/-- The register files of Table 11·1 without z and w. -/
structure Regs where
  s     : Vector Word 64
  p     : Vector Bool 16
  v     : Vector Vec 32
  m     : Vector Quad 8
  n     : Vector Quad 8
  pool  : Vector Word 256
  fmt   : Word
  frame : Frame
  deriving DecidableEq, Repr

/-- The value a location held before a write whose latency has not passed for readers of the writer's own slot
(R120); `upto` is the nominal count at which the write is seen. -/
structure OldVal where
  slot : Slot
  loc  : Loc
  upto : Nat
  val  : Nat
  deriving DecidableEq, Repr, Inhabited

/-- A register write on its way to its file: until the local cycle `at_` the parts of later bundles in other slots wait
for it, and those of every slot when `slot` is none (R120, R121, R146); `n` is the nominal count of its bundle. -/
structure RegLand where
  slot : Option Slot
  loc  : Loc
  n    : Nat
  at_  : Nat
  deriving DecidableEq, Repr, Inhabited

/-- States of a stream register (R141). -/
inductive StreamSt where
  | unbound | bound | ended
  deriving DecidableEq, Repr, Inhabited

/-- What feeds a stream register (R166, R283, R30). -/
inductive StreamSrc where
  | none
  | sub (k : Nat)
  | name (n : Quad)
  | vm
  deriving DecidableEq, Repr, Inhabited

/-- A stream register (R141, R166, R283). -/
structure Stream where
  st      : StreamSt := .unbound
  src     : StreamSrc := .none
  width   : Nat := 1           -- bytes of an element
  buf     : List Nat := []     -- elements arrived and not read, head first
  marker  : Bool := false      -- an end-of-run marker stands behind them
  pos     : Nat := 0           -- virtual address of the next element to be read (SBIND)
  nextVa  : Nat := 0           -- virtual address of the next line to be requested
  stop    : Nat := 0           -- end of the bound range
  window  : Nat := 1           -- lines requested ahead
  asked   : List (Nat × Nat) := []   -- lines requested and not returned, each with the rim's cycle at that time (R338)
  no      : Nat := 0           -- when its SBIND issued (the model's own)
  cleared : Bool := false      -- every earlier store to its range has been accepted (R283)
  deriving DecidableEq, Repr, Inhabited

/-! ## Continuation records (Table 3·1) -/

/-- A landing of a subscription: the double buffer of R72 and the name that reached it (R261). -/
structure Landing where
  k    : Nat
  a    : List Byte := []
  b    : List Byte := []
  half : Bool := false         -- the LHALF bit: true when `b` is the visible half
  full : Bool := false         -- a delivery has been staged that the buffer does not hold yet
  name : Quad := 0
  deriving DecidableEq, Repr, Inhabited

/-- What a blocked SPAWN captured (R177). -/
structure SpawnWait where
  d     : SReg
  ret   : Quad
  names : List Quad
  tiles : List (List Byte)
  tags  : List Bool            -- tiles captured with an uncorrectable word (R384)
  deriving DecidableEq, Repr, Inhabited

/-- A continuation record: the fields of Table 3·1, then the model's own. -/
structure Rec where
  st      : Nat := 1
  ctxv    : Bool := false
  cause   : Nat := 0
  prio    : Nat := 0
  fcnt    : Nat := 0
  scm     : Nat := 0
  pc      : Half := 0
  kernel  : Nat := 0
  tmpl    : Nat := 0
  lvls    : Nat := 0
  dlvl    : Nat := 0
  sat     : BitVec 8 := 0xFF
  lhalf   : BitVec 8 := 0
  launch  : Nat := 0
  tenant  : Nat := 0
  colour  : Nat := 0
  gen     : Nat := 0
  i       : Nat := 0
  j       : Nat := 0
  k       : Nat := 0
  path    : List Nat := [0, 0, 0, 0, 0, 0, 0]
  csa     : Nat := 0            -- the virtual address, a multiple of 64
  waitArg : Word := 0
  waitQ   : Bool := false       -- WAITING on a queue, not on a subscription (R160)
  resv    : BitVec 512 := 0     -- reserved bits a supervisor write left (R23)
  addr    : Nat := 0            -- record address (R441)
  part    : Nat := 16           -- partition
  share   : Nat := 0            -- cluster whose share holds it (R51)
  level   : Nat := 1            -- level of the level instance that registered its template (R31; the model's own)
  linst   : Nat := 0            -- and that instance's index
  seq     : Nat := 0            -- firing sequence (R301)
  since   : Nat := 0            -- cluster cycle at which it entered its queue (R50)
  live    : List Landing := []  -- staged landings not yet moved (R72)
  held    : List Stream := []   -- w0–w7 while the task is off its core (R389, log entry 12)
  spawn   : Option SpawnWait := none
  jump    : Option Half := none -- where the marked C part of a partly executed bundle goes on (R156, R377, log entry 97)
  deriving DecidableEq, Repr, Inhabited

/-! ## Packets (05) -/

/-- An endpoint of the named class. -/
inductive Endpoint where
  | core (w : Nat)
  | sched (q : Nat)
  | slice (q k : Nat)
  | rim (e : Nat)
  | sienna
  deriving DecidableEq, Repr, Inhabited

/-- A packet of the named or circuit class: the head flit of Table 5·7 with its payload. -/
structure Packet where
  name  : Quad
  cls   : Nat := 0
  part  : Nat := 0
  seq   : Nat := 0
  src   : Nat := 0
  size  : Nat := 0
  etag  : Bool := false
  rsnd  : Bool := false
  cop   : Nat := 0
  cidx  : Nat := 0
  members : List (Nat × Nat) := []     -- the member list of R79
  data  : List Byte := []
  origin : Endpoint := .sienna         -- who keeps it (the model's own)
  colourBack : Nat := 0                -- RETN: the colour that returns when it is accepted (R43)
  reason : Nat := 0                    -- REASON of a notice (Table 5·5)
  comb   : Option Nat := none          -- C of the combine whose root published it (R80; the model's own)
  body  : BitVec 248 := 0
  circ  : Nat := 0
  res   : Nat := 0                     -- reserved bits of the head flit that do not read zero (R84)
  badHead : Bool := false              -- an uncorrectable header word (R84)
  badData : Bool := false              -- an uncorrectable payload flit not yet found (R385)
  copies : Option (List Nat) := none   -- at a scheduler: registrations that have still to take their copy (R83; the model's own)
  pattern : Bool := false              -- a pattern registration is among those that take one (R83; the model's own)
  desc  : Option (BitVec 256) := none  -- its tensor's descriptor when it was accepted (R313; the model's own)
  served : Bool := false               -- sent to one cluster, which answers its sender and not the tree (R69; the model's own)
  deriving DecidableEq, Repr, Inhabited

/-! ## Engines of a core (19, 25) -/

/-- A matrix-engine operation in flight with the operands it captured (R262, R264). -/
structure MOp where
  i    : Instr
  a    : Nat := 0
  b    : Nat := 0
  c    : Nat := 0
  fmt  : Word := 0
  srnd : Word := 0
  done : Nat := 0                     -- groups, or blocks of a WLD, written so far (R269, R274)
  beats : Nat := 1
  track : List (Nat × Nat) := []      -- tracked scratchpad ranges (R270)
  no    : Nat := 0                    -- when it issued (the model's own)
  ends  : Nat := 0                    -- local cycle at which its last beat ends (R96)
  ran   : Bool := false               -- its beats have ended; its write lands 8 cycles on (R264)
  deriving DecidableEq, Repr

/-- Copy-engine commands (R279–R281). -/
inductive CpKind where
  | cp (dst src : Space)
  | win (f c : Nat)
  deriving DecidableEq, Repr, Inhabited

structure CpCmd where
  kind : CpKind
  d    : Nat
  a    : Nat
  n    : Nat
  done : Nat := 0            -- bytes copied
  no   : Nat := 0            -- when it issued (the model's own)
  deriving DecidableEq, Repr, Inhabited

/-- Hash-engine commands (R285, R286). -/
inductive HashCmd where
  | sha (first last : Bool) (d a n : Nat)
  | crc (seed : Nat) (d : Option Loc) (a n : Nat)
  deriving DecidableEq, Repr, Inhabited

/-- Celadon commands accepted by the fabric for a core (R359). -/
inductive LcCmd where
  | tbl (slot src n map : Nat) (done : Nat)
  | run (slot d a nb ocnt ofirst nin : Nat) (done : Nat)
  | tslice (fmt nt thr d a f nb : Nat)
  | unslice (ebytes w d a nv nb : Nat)
  | pop (d a ng g nb : Nat)
  deriving DecidableEq, Repr, Inhabited

/-- Where a shadow line commits (R232). -/
inductive Space4 where
  | loc
  | win (w : Nat)
  | vm
  deriving DecidableEq, Repr, Inhabited

/-- An uncommitted line of a shadow: bytes of one aligned 64-byte line of the destination (R232); a line of virtual
memory stands at its physical address, with its GRAN, key and LAT. -/
structure Shadow where
  eng  : Eng
  sp   : Space4
  addr : Nat
  data : List Byte
  tag  : Bool := false       -- error tag (R384)
  gran : Nat := 0
  key  : Nat := 0
  lat  : Nat := 0
  no   : Nat := 0            -- when its command issued (the model's own)
  deriving DecidableEq, Repr, Inhabited

/-- An engine fault held in place (R379, R380). -/
structure Hold where
  eng   : Eng
  w     : Nat := 0
  cause : Nat
  addr  : Nat
  since : Nat := 0
  posted : Bool := true
  deriving DecidableEq, Repr, Inhabited

/-- A place that an access reaches: the own scratchpad, a sibling's, or memory behind a translation (Table 15·1). -/
inductive Spot where
  | loc (off : Nat)
  | win (w off : Nat)
  | vm (va pa gran key : Nat) (fe : Bool) (lat : Nat)
  deriving DecidableEq, Repr, Inhabited

/-- Operations of the atomics (R218–R220). -/
inductive AtomOp where
  | add | min | max | and | or | xor | swp | cas | fadd | nibLo | nibHi
  deriving DecidableEq, Repr, Inhabited

/-- An atomic with the operands it captured: b, and the new value of ATOM.CAS. -/
structure Atom where
  op   : AtomOp
  size : Nat
  uns  : Bool
  b    : Nat
  c    : Nat
  deriving DecidableEq, Repr, Inhabited

/-- What an access does with its data. -/
inductive AccKind where
  | load (d : Option Loc) (sz : LdSize)
  | loadV (d : VReg) (km : Quad)
  | gather (d : VReg) (wide : Bool) (lanes : List Nat)
  | loadFe (d : Option Loc)
  | atom (a : Atom) (d : Option Loc)
  | name (d : NReg)                    -- NAME.LD
  | peek (d : Option Loc)              -- PEEK.FE
  | store (bs : List Byte) (lanes : Bool)   -- the bytes of its places, in their order; each lane stands alone (R208)
  | mark (scope : Nat) (fence : Bool)  -- the marker of a MARK or a FENCE, which has no place (Table 15·8)
  deriving DecidableEq, Repr

/-- An access of the task's load and store queues that has still to perform or to return its data (R210, R226), or that
waits in a deferred list (R217). -/
structure Access where
  no    : Nat := 0              -- when it issued (the model's own)
  kind  : AccKind
  slot  : Slot
  parts : List (Spot × Nat)     -- places and byte counts, in the order of the data
  asked : Bool := false         -- its rim agent or bank has performed it
  deferred : Bool := false      -- it waits, or has waited, in place for a full-empty word
  dead  : Bool := false         -- a later slot of its bundle has written its register (R146)
  bad   : Bool := false         -- its deferred request met an uncorrectable word (R439)
  came  : Option Nat := none    -- the rim's cycle at which it reached its rim agent (R338; the model's own)
  away  : Bool := false         -- it waits in a frame at a Bolsar port (R329)
  data  : List Byte := []
  deriving DecidableEq, Repr

/-- A translation as a TLB holds it (R327). -/
structure TlbEntry where
  tenant : Nat
  part   : Nat
  va     : Nat                  -- base, a multiple of size
  size   : Nat
  pa     : Nat
  key    : Nat
  dirty  : Bool
  lat    : Nat
  fe     : Bool
  gran   : Nat
  x      : Bool
  w      : Bool
  deriving DecidableEq, Repr, Inhabited

/-! ## Cores -/

/-- A bundle that has been dispatched and whose parts have not all issued, or that stands behind such a bundle (R118).
Its first six fields are the bundle's; the others are the model's own (log entry 3). -/
structure Latch where
  on      : Bool := false
  pc      : Half := 0
  next    : Half := 0
  bits    : BundleWord := 0
  todo    : List Slot := []            -- valid parts that have not issued
  done    : List Slot := []
  at_     : Nat := 0                   -- its nominal count (R119)
  target  : Option Half := none        -- where its C part has sent dispatch (R156)
  penalty : Nat := 0
  wrote   : List (Slot × Loc) := []    -- what its parts have written
  saved   : List (Loc × Nat) := []     -- the values from before those writes, which its own parts read (R118)
  frame   : Option Frame := none       -- the frame as its parts resolve names, once FRAME.ALLOC or FRAME.FREE has changed it (R158)
  srnd    : Option Word := none        -- CORE.SRND before the first draw of its parts or of later ones (R148)
  sysw    : List (Nat × Word) := []    -- SYS.WR values that later bundles see (R183)
  waits   : List Slot := []            -- parts that have waited in this cycle
  inPlace : List Slot := []            -- those of them that wait in place (R126), not for an interlock
  passed  : List Slot := []            -- parts that have passed their checks and wait for an interlock of their unit (R126, R274)
  joined  : Bool := false              -- a SYNC bundle whose common cycle has come (R124)
  fault   : Option (Slot × Nat × Word) := none   -- the precise fault to be taken here: slot, cause and WAITARG (R376)
  deriving DecidableEq, Repr, Inhabited

/-- A pre-emption request (R303). -/
inductive PreReq where
  | none | supervisor | sienna | scheduler
  deriving DecidableEq, Repr, Inhabited

/-- Lease states (Table 29·2). -/
inductive Lease where
  | service | prepare | save | test | restore | abandon | retire | retired
  deriving DecidableEq, Repr, Inhabited

/-- A publication that has left its slot (R169): what it sends once its sources are captured. -/
structure PubJob where
  no     : Nat                        -- when it issued (the model's own)
  scope  : Option Nat                 -- the scope of its release; none for markers, which are no release (R175)
  srcs   : List (Nat × Nat) := []     -- source ranges in the scratchpad, one for each packet that carries a tile
  pkts   : List Packet                -- the packets, their tiles still to be filled in
  circ   : Bool := false              -- a circuit may carry it (R305)
  first  : Option (List Byte) := none -- the bytes as the capture found them when it began
  data   : List Byte := []            -- bytes captured
  deriving DecidableEq, Repr, Inhabited

/-- What a core holds beside its registers. -/
structure Engines where
  mq     : List MOp := []
  cps    : List CpCmd := []
  hashes : List (Nat × HashCmd) := []   -- with the number of their issue (the model's own)
  lcs    : List (Nat × LcCmd) := []
  shadow : List Shadow := []
  holds  : List Hold := []
  acc    : List Access := []       -- load and store queues of the task, in issue order (R226)
  pubs   : List PubJob := []       -- publications still to be captured, oldest first (R169)
  awaits : List Loc := []          -- destinations of results still to land (R120 interlocks)
  deriving DecidableEq, Repr

/-- A physical core (R147). -/
structure Core where
  busy    : Bool                   -- a task runs here (R21)
  waiting : Bool                   -- dispatch has stood by in this cycle (the model's own; log entry 1)
  task    : Rec                    -- the RUNNING record
  live    : Regs                   -- the register files
  old     : List OldVal
  lands   : List RegLand           -- writes of fixed latency on their way (R121)
  fmtQ    : List (Nat × Word)      -- configurations still in the fmt shadow, by nominal count (R145)
  flagQ   : List (Nat × BitVec 6)  -- sticky flags of results still to land, by cycle of the quantum (R96)
  older   : List Latch             -- bundles in flight before the one in focus, oldest first (R118, R123)
  lat     : Latch                  -- the bundle in focus: the one whose part issues
  younger : List Latch             -- bundles in flight behind it
  pace    : List (Nat × Nat)       -- for each slot, cycle and nominal count of its last part (R119)
  hist    : List Nat               -- nominal counts of the last 16 bundles that left, newest first (R123)
  nominal : Nat                    -- nominal count of the next bundle to be dispatched (R119)
  elapsed : Nat                    -- local cycles of the quantum used (R27)
  cycle   : Word                   -- local cycle counter (R184)
  mOcc    : Nat                    -- nominal count at which the M slot is free (R127)
  eOcc    : Nat
  z       : Vector (BitVec 32768) 8
  w       : Vector Stream 8
  srnd    : Word                   -- CORE.SRND (Table 7·6)
  scb     : Bool                   -- CORE.CTL.SCB.EN
  lcs     : BitVec 3               -- CORE.LCS: V, CTX
  chainEn : Bool                   -- CORE.CHAIN.EN
  tok     : BitVec 32              -- CORE.CHAIN.TOK
  rank    : Nat                    -- CORE.RANK
  named   : Bool                   -- the core presents a rank (R147, R413)
  spad    : Mem
  spadBad : List Nat               -- uncorrectable words of the scratchpad (R384)
  regBad  : List RegRef            -- uncorrectable register words (R439)
  wbuf    : Mem
  wbufBad : List Nat
  wOwner  : Nat                    -- launch of the task that last ran here (R275)
  region  : Option (Nat × Nat × Nat)  -- partition, launch and size of the scratchpad region held (R298)
  eng     : Engines
  utlb    : List TlbEntry
  pre     : PreReq
  lease   : Lease
  doom    : Option (Nat × Word)    -- cause and WAITARG of a checkpoint hold that awaits the write-back (R383)
  spare   : Nat                    -- core that keeps the scratchpad during a lease (R396)
  deriving DecidableEq, Repr

/-! ## Launches and templates (21) -/

/-- A coordinate range (R65). -/
structure Range where
  lo   : Nat := 0
  hi   : Nat := 0xFFFF
  mask : Nat := 0xFFFF
  deriving DecidableEq, Repr, Inhabited

/-- A subscription record (Table 21·5). -/
structure SubDecl where
  tensor  : Nat
  colour  : Nat
  cfix    : Bool
  gen     : Nat
  gfix    : Bool
  note    : Nat
  contrib : Bool
  strm    : Bool
  count   : Nat
  land    : Nat
  lsize   : Nat
  ir      : Range
  jr      : Range
  kr      : Range
  shI     : Nat
  shJ     : Nat
  shK     : Nat
  keyI    : Bool
  keyJ    : Bool
  keyK    : Bool
  circ    : Nat
  deriving DecidableEq, Repr, Inhabited

/-- A template (Table 21·4), with the scratchpad offsets and the circuit ids of its output names. -/
structure Tmpl where
  entry : Half
  dlvl  : Nat
  fwd   : Bool
  subs  : List SubDecl
  outs  : List (Nat × Nat)
  deriving DecidableEq, Repr, Inhabited

/-- A level entry (Table 21·2) and the pool areas in use (R25). -/
structure Level where
  dom     : Nat
  scope   : Nat
  prio    : Nat
  costart : Bool
  hold    : Nat
  flim    : Nat
  tmpl    : Nat
  count   : Nat
  saves   : Nat
  quantum : Nat
  nq      : Nat
  csa     : Nat
  used    : List Nat := []
  deriving DecidableEq, Repr, Inhabited

/-- A region field (Table 21·3) and whether it has drained (R49). -/
structure Region where
  sfirst  : Nat := 0
  slast   : Nat := 0
  dtensor : Nat := 0
  v       : Bool := false
  drained : Bool := false
  deriving DecidableEq, Repr, Inhabited

/-- A sink instance counted for a region (R49): template, colour, generation, coordinates, and its closed mask. -/
structure Sink where
  launch : Nat
  part   : Nat
  tmpl   : Nat
  colour : Nat
  gen    : Nat
  i : Nat
  j : Nat
  k : Nat
  closed : BitVec 8
  deriving DecidableEq, Repr, Inhabited

/-- A live launch (Table 21·1). -/
structure Launch where
  kernel  : Nat
  tenant  : Nat
  lvls    : Nat
  code    : Nat
  clen    : Nat
  dlen    : Nat
  dict    : Nat
  data    : Nat
  dsize   : Nat
  cq      : Nat
  rgn0    : Region
  rgn1    : Region
  tag     : Nat
  levels  : List Level          -- level entries 1 to 7
  tmpls   : List Tmpl
  sinks   : List Sink := []
  ended   : Bool := false       -- named by PART.END (R316)
  hold    : Option Nat := none  -- checkpoint hold: its cause (R383)
  reached : Bool := false       -- its TYPE 0x05 entry has been posted
  deriving DecidableEq, Repr, Inhabited

/-- A level instance (R37, R39): where it is placed and whether it is instantiated. -/
structure LInst where
  launch : Nat
  level  : Nat
  path   : List Nat
  idx    : Nat
  dom    : Nat                  -- domain code
  no     : Nat                  -- number of the domain instance
  ready  : Bool := false
  shares : List (Nat × Nat) := []   -- clusters of its domain instance, each with the staging lines of its share (R37, R318)
  outs   : List (Nat × List Quad) := []   -- output names of its templates, taken from the scratchpad image (R46)
  deriving DecidableEq, Repr, Inhabited

/-! ## Packets on their way and registrations (05) -/

/-- A packet standing at a router. -/
structure Flight where
  at_   : Nat
  from_ : Nat                  -- input port, order of Table 5·4; 9 for none
  down  : Bool                 -- a multicast copy, on its way to subscribers
  sender : Endpoint            -- the unit that its acknowledgement goes to (R385)
  goal  : Nat                  -- rendezvous or root router
  route : List Nat             -- ports still to take on a detour or source route
  pkt   : Packet
  deriving DecidableEq, Repr, Inhabited

/-- A flit of a circuit packet, waiting at an input port of a router or in a receive queue (R304–R307): flit 0 is the head,
the others carry 64 bytes of payload each. -/
structure CFlit where
  at_    : Nat
  from_  : Nat
  sender : Endpoint
  pkt    : Packet
  idx    : Nat
  deriving DecidableEq, Repr, Inhabited

/-- A packet kept until it is acknowledged (R82): by its source; by a unit that has sent it to one cluster; or by the
rendezvous slice, for the branch of its tree that a port of its router leads to. -/
structure Kept where
  owner : Endpoint
  dest  : Option Nat
  port  : Option Nat := none
  pkt   : Packet
  due   : Nat
  tries : Nat := 0
  deriving DecidableEq, Repr, Inhabited

/-- An acknowledgement on its way: to the source or the server of a packet, or up a tree, where it stands before a router,
having come by a port (R82, R385). -/
structure Ack where
  owner : Endpoint
  src   : Nat
  seq   : Nat
  dest  : Option Nat
  at_   : Option (Nat × Nat) := none
  name  : Quad := 0
  part  : Nat := 0
  neg   : Bool := false
  member : Option (Quad × Nat) := none   -- a contribution: its name and CIDX (R80)
  deriving DecidableEq, Repr, Inhabited

/-- A registration (R65, R66, R164, R166). -/
structure Reg where
  no     : Nat                  -- order of registration (the model's own)
  tenant : Nat
  tensor : Nat
  colour : Nat
  cany   : Bool
  gen    : Nat
  gany   : Bool
  kinds  : Nat
  ir     : Range
  jr     : Range
  kr     : Range
  cluster : Nat
  part   : Nat
  launch : Nat
  level  : Nat
  linst  : Nat := 0             -- level instance that registered it (R37)
  tmpl   : Nat
  sub    : Nat
  count  : Nat                  -- N, or C when contrib
  contrib : Bool
  task   : Option Nat           -- record address of the task that holds it (R164)
  stream : Option Nat           -- w register of a BIND (R166)
  seen   : List (Nat × Nat) := []   -- pairs accepted for a task-held registration (R408)
  state  : Nat := 0             -- 0 travelling, 1 installed, 2 pending for a free entry (R67)
  places : List (Nat × Nat) := []   -- routers that carry it, each with the number of the entry there (R67)
  barred : List Quad := []      -- combines whose C differs from its own (R80)
  deriving DecidableEq, Repr, Inhabited

/-- A name-match entry (Table 5·4), with the number of the registration that it was made for (the model's own). -/
structure NmEntry where
  no     : Nat := 0
  tenant : Nat
  tensor : Nat
  colour : Nat
  cany   : Bool
  gen    : Nat
  gany   : Bool
  kinds  : Nat
  ports  : BitVec 9             -- bit p: output port p (N 0, E 1, S 2, W 3, cores 4 to 7, scheduler 8)
  refs   : Nat
  ir     : Range
  jr     : Range
  kr     : Range
  deriving DecidableEq, Repr, Inhabited

/-! ## Clusters -/

/-- A matching-store instance entry (R31, R52). -/
structure Entry where
  launch : Nat
  part   : Nat
  tmpl   : Nat
  colour : Nat
  gen    : Nat
  i : Nat
  j : Nat
  k : Nat
  sat    : BitVec 8
  closed : BitVec 8 := 0
  counts : List Nat := [0, 0, 0, 0, 0, 0, 0, 0]
  lands  : List Landing := []
  streams : List (Nat × Stream) := []   -- stream-register landings, by register
  data   : Bool := false        -- at least one data arrival (R48)
  order  : Option Nat := none   -- place among the satisfied and unfired (R25)
  level  : Nat := 1             -- level and index of the level instance that registered it (R31)
  linst  : Nat := 0
  sole   : Bool := false        -- the single instance of an entry template in its level instance (R317)
  deriving DecidableEq, Repr, Inhabited

/-- A retained publication (R68). -/
structure Retained where
  slice : Nat
  pkt   : Packet
  due   : Nat
  home  : Bool                  -- this slice is the rendezvous slice
  past  : List (Nat × Nat) := []   -- pairs of the publications of its name that it has superseded (R68; the model's own)
  gone  : Bool := false         -- expired or evicted in this cycle: lookups of the same cycle still find it (R70)
  deriving DecidableEq, Repr, Inhabited

/-- Combine state of a root (R80, R87). -/
structure Combine where
  slice : Nat
  name  : Quad
  part  : Nat
  cop   : Nat
  c     : Option Nat
  bitmap : List Nat := []
  partialTile : List Byte := []
  size  : Nat := 0
  published : Bool := false
  lost  : Bool := false
  kept  : Bool := true
  due   : Nat := 0
  bad   : Bool := false         -- the partial holds an uncorrectable word (R386)
  deriving DecidableEq, Repr, Inhabited

/-- Slot states (Table 25·3). -/
inductive SlotSt where
  | empty | open_ | ready | poisoned
  deriving DecidableEq, Repr, Inhabited

/-- A context slot of a Celadon fabric (R349, R354, R355, R356). -/
structure FabSlot where
  st     : SlotSt := .empty
  part   : Nat := 0
  launch : Nat := 0
  cells  : Table CellWord := []
  msg    : List Byte := []          -- records read since OPEN (R355)
  placed : Option (List Byte) := none
  rej    : Option (Nat × Nat × Nat) := none   -- reason, IB, target
  blks   : List Nat := []           -- blocks written since OPEN
  badCell : Nat := 0
  mended : Bool := false            -- the supervisor has rewritten the uncorrectable word (R356)
  closing : Option Nat := none      -- the core whose ABORT or REL waits for the runs before it (R361)
  deriving DecidableEq, Repr, Inhabited

/-- A duplicate-filter pair (R83). -/
structure Pair where
  src : Nat
  seq : Nat
  due : Nat
  deriving DecidableEq, Repr, Inhabited

/-- A store on its way to its rim agent (R223). -/
structure StBuf where
  pa   : Nat
  data : List (Option Byte)     -- none where a masked store leaves a byte alone (R212)
  gran : Nat
  key  : Nat
  lat  : Nat := 0               -- LAT of its page (R338)
  came : Option Nat := none     -- the rim's cycle at which it reached its rim agent (R338; the model's own)
  task : Nat                    -- record address of the task that stored it
  no   : Nat := 0               -- when its access issued (the model's own)
  eng  : Bool := false          -- an engine wrote it (R229)
  readers : List Nat := []      -- tasks to whose loads it, or a store ordered behind it, has been returned (R228)
  deriving DecidableEq, Repr, Inhabited

/-- A loaded dictionary (R112). -/
structure Dict where
  kernel : Nat
  part   : Nat
  entries : List BundleWord
  auto   : Bool := false       -- loaded for a launch, not by DICT.LD
  deriving DecidableEq, Repr, Inhabited

/-- A cluster (R12). -/
structure Cluster where
  stage    : Nat                -- MGMT.CLUS.n (Table 33·3)
  clock    : Nat                -- arithmetic clock in MHz
  volt     : Nat                -- voltage offset of the margin plan, 5 mV steps
  plan     : Nat                -- clock of the margin plan
  hot      : Bool               -- thermal hold (R436)
  cap      : Nat                -- PWR.CAP.n
  draw     : Nat
  cycle    : Nat                -- local cycle count of its scheduler and slices
  mstore   : List Entry
  regs     : List Reg
  fillSpilled : Nat             -- CLUS.MSTORE.FILL
  fillPeak : Nat
  spillQ   : Word               -- CLUS.MSTORE.SPILL
  spilled  : List (Reg × Packet)
  filter   : List Pair
  inbox    : List (Packet × Endpoint)   -- deliveries at the scheduler, with their senders
  heldIn   : List (Packet × Endpoint)   -- copies held for want of staging lines (R318)
  markers  : List (Packet × Endpoint)   -- drain markers that have come and are not accepted yet (R52, R300)
  contribs : List Packet        -- contributions at its root slices
  pubs     : List (Nat × Packet) -- publications at a rendezvous slice
  lines    : Nat                -- CLUS.STAGE.LINES
  peak     : Nat
  noticeLost : Word
  circOvf  : Word
  cfgErr   : Word
  ready    : List Nat           -- record addresses in its shares, in queue order
  seqNo    : Nat                -- firing sequence
  closures : List Sink          -- subscriptions that markers have closed, by identity (R47, R52)
  orphans  : Nat
  stale    : Nat
  dicts    : List Dict
  stbuf    : List StBuf
  tlb      : List TlbEntry
  retained : List Retained
  combines : List Combine
  fab      : Vector FabSlot 4
  fuse     : BitVec 256
  drainQ   : List Entry         -- forwarding instances whose markers closed (R47)
  recvQ    : List CFlit         -- circuit flits in its receive queues (Table 21·9)
  taken    : List CFlit         -- flits of packets that are not whole yet, drained from those queues
  deriving DecidableEq, Repr

/-- A router (R14, R64, R304, R411, R412, R417). -/
structure Router where
  part   : Option Nat := none
  table  : List NmEntry := []
  slots  : List (List (BitVec 16)) := []     -- nine tables of 64 entries
  detour : List Word := [0, 0, 0, 0]
  routes : Table Word := []                  -- route tables: 262 × core port + entry
  retd   : BitVec 4 := 0
  nbr    : BitVec 4 := 0
  link   : BitVec 4 := 0
  coreOk : BitVec 4 := 0
  sent   : BitVec 4 := 0                     -- greeting bursts sent (R412)
  heard  : BitVec 4 := 0                     -- bursts that the far end has answered intact
  fwDrop : Nat := 0
  failed : Bool := false                     -- the router has failed its BIST (R412, R413)
  deriving DecidableEq, Repr, Inhabited

/-! ## Partitions -/

/-- A hardware queue (Table 21·11). -/
structure Hq where
  en    : Bool := false
  slice : Bool := false        -- KIND
  logn  : Nat := 0
  held  : Bool := false
  base  : Nat := 0
  head  : Nat := 0
  tail  : Nat := 0
  pend  : Bool := false
  ien   : Bool := false
  vec   : Nat := 0
  sbase : Nat := 0
  scap  : Nat := 0
  gen   : Nat := 0
  ents  : List (List Byte) := []   -- entries of a slice queue, head first
  bads  : List Bool := []
  ignored : Nat := 0               -- writes ignored and counted (R309)
  deriving DecidableEq, Repr, Inhabited

/-- State of a colour (R176). -/
inductive Held where
  | spawn | get
  deriving DecidableEq, Repr, Inhabited

/-- A key slot (R419). -/
structure KeySlot where
  state  : Nat := 0             -- 0 empty, 1 loaded, 2 clearing
  tenant : Nat := 0
  kid    : Nat := 0
  key    : List Byte := []
  id     : Nat := 0             -- install number (the model's own): names the key
  deriving DecidableEq, Repr, Inhabited

/-- A mirror pair under comparison (R402). -/
structure Mirror where
  prim   : Quad
  out    : Quad
  fmt    : Nat
  tol    : Nat
  a      : Option Packet := none
  b      : Option Packet := none
  since  : Nat := 0
  reported : Bool := false
  deriving DecidableEq, Repr, Inhabited

/-- A circuit-table entry (Table 21·15). -/
structure Circuit where
  src  : Nat := 0
  dst  : Nat := 0
  port : Nat := 0
  path : Word := 0
  deriving DecidableEq, Repr, Inhabited

/-- A descriptor table in force (R57). -/
structure DescTab where
  tenant : Nat := 0
  ents   : Table (BitVec 256) := []
  deriving DecidableEq, Repr, Inhabited

/-- A running PART.LOAD (R313). -/
structure Load where
  op    : Nat := 0
  tslot : Nat := 0
  pa    : Nat := 0
  deriving DecidableEq, Repr, Inhabited

/-- A partition (R414). -/
structure Part where
  formed  : Bool := false
  fx0 : Nat := 0
  fx1 : Nat := 0
  fy0 : Nat := 0
  fy1 : Nat := 0
  supv    : Nat := 0
  owned   : List Nat := []              -- owned stacks, 16 × edge + stack (R418)
  slices  : List (Nat × Nat) := []      -- the slice list of R61
  gone    : List Nat := []              -- channels released or retired (R400)
  colours : Table Held := []
  rets    : Table Quad := []            -- return names of colours held by SPAWN (R43)
  waiters : List Nat := []              -- records waiting for a colour (R45)
  launches : Table Launch := []
  linsts  : List LInst := []
  hqs     : Table Hq := []
  netRetain  : Nat := 0x10000           -- NET.CFG
  netTimeout : Nat := 0x4000
  netLimit   : Nat := 8
  faultQ  : Word := 0
  dump    : Word := 0
  holdNamed : Bool := false             -- PART.HOLD
  holdCirc  : Bool := false
  holdStr   : Bool := false
  sienNamed : Bool := false             -- Sienna's own holds (R312)
  sienCirc  : Bool := false
  loadBusy  : Bool := false             -- PART.LOAD
  loadRes   : Nat := 0
  load      : Load := {}
  roots   : List Word := [0, 0, 0, 0, 0, 0, 0, 0, 0, 0, 0, 0, 0, 0, 0, 0]
  descs   : Table DescTab := []
  ranges  : List (BitVec 128) := []
  circs   : Table Circuit := []
  keys    : Table KeySlot := []
  keySel  : Nat := 0                    -- RIM.KEY.SLOT
  nseq    : Nat := 0                    -- notice sequence (R401)
  mirrors : List Mirror := []
  recAddr : Word := 0                   -- REC.ADDR
  supLaunch : Nat := 0                  -- the launch that is the partition supervisor (R315)
  supRun  : Bool := false               -- its first task has been dispatched
  posts   : List (Word × List Byte) := []   -- entries waiting for room in their queues (R297, R381)
  agents  : Bool := false               -- the launch of Sienna's agents stands in the supervisor launch queue (R315)
  deriving DecidableEq, Repr, Inhabited

/-! ## The wafer -/

/-- A unit Sienna scores (R392): 0 core, 1 link, 2 channel, 5 fabric, 6 slice. -/
structure UnitState where
  score : Nat := 0
  tested : Nat := 0             -- interval boundary of its last test (R393)
  lease : Lease := .service
  rowErr : Nat := 0             -- corrected errors since the last quiesce (R400)
  since  : Nat := 0             -- cycle at which PREPARE began (R396)
  deriving DecidableEq, Repr, Inhabited

/-- GRAN and key under which a 32-byte piece of DRAM was last written (R334, R422), or that it was written as it is
stored, through BAR2 (R426). -/
structure Tag where
  gran : Nat
  key  : Nat
  raw  : Bool := false
  deriving DecidableEq, Repr, Inhabited

/-- HBM4E and what its rim agents keep (R207, R214, R330–R341). Bytes and pieces stand by their place in DRAM, named by the
address that they have under the map of G32, G64 and G128 (R330); keyed pages are held as ciphertext (R335). -/
structure Hbm where
  bytes  : Mem
  empty  : List Nat                        -- empty full-empty words, by word address
  defer  : Table (List (Nat × Nat))        -- deferred requests: (core, access index) by word address
  poison : List Nat                        -- pieces of uncorrectable granules, by place
  tags   : Table Tag                       -- by number of 32-byte piece
  deriving DecidableEq, Repr

/-- A configuration region being reloaded (R387). -/
structure Reload where
  unit  : Nat                   -- 0 name-match, 1 route table, 2 slot table, 3 code store, 4 circuits, 5 ranges, 6 a rim agent's descriptors, 7 a scheduler's
  no    : Nat                   -- router, cluster, partition or rim agent
  fails : Nat := 0
  deriving DecidableEq, Repr, Inhabited

/-- An addressed-class packet (R409). -/
structure Addressed where
  at_   : Nat
  part  : Nat
  route : Word
  hops  : Nat := 0              -- hops made
  home  : Nat := 0              -- sending router
  inPort : Nat := 9
  out   : Option Nat := none    -- EJECT port it left by
  deriving DecidableEq, Repr, Inhabited

/-- A host access through BAR2 (R426). -/
structure Bar2 where
  port  : Nat := 0              -- the PCIe port it comes by (R428)
  addr  : Nat
  write : Bool
  data  : List Byte
  n     : Nat
  deriving DecidableEq, Repr, Inhabited

/-- A frame that waits at a Bolsar port: a forwarded name, or an access or a store to memory homed on another wafer (R329,
R430–R432). -/
inductive Frame4 where
  | name (p : Packet)
  | access (w no : Nat)
  | store (e : StBuf)
  deriving DecidableEq, Repr, Inhabited

/-- A turn of the agenda (the model's own; log entry 1). -/
inductive Turn where
  | run (w : Nat)
  | stall (w n : Nat)           -- n cycles of a cluster's arithmetic clock pass on a core
  | tick (f n : Nat)            -- n cycles of a field's network clock pass (R4)
  | beat (n : Nat)              -- n cycles pass on the rim management core
  | event (i : Instr)
  | host (b : Bar2)             -- the host posts an access through BAR2 (R426, R428)
  | upset (pa gran : Nat) (errs : List (Nat × Nat))   -- symbols of a granule are read in error (R331, R332)
  | window (part addr n dst : Nat)   -- a supervisor's copy reads a core window (R148)
  | noise (i : Nat) (bits : List Nat) (payload : Bool)   -- bits of the head flit of a flight change on a link, and its payload is
                                -- or is not spoilt (R81, R84, R385)
  deriving DecidableEq, Repr

/-- Registers of the wafer and of its rim. -/
structure Wafer where
  number   : Nat                       -- this wafer's number (R329)
  fieldPart : Table Nat                -- partition of a field
  fieldUp  : List Nat                  -- fields out of cold reset
  stopped  : List Nat                  -- fields stopped (R436)
  fieldTlb : Table (List TlbEntry)
  formBusy : Bool                      -- PART.FORM
  formReason : Nat
  formVal  : Word
  formCmd  : Nat
  logQ     : Word                      -- MGMT.LOGQ
  evQ      : Word                      -- MGMT.EVQ
  bolsar   : Table Word                -- BOLSAR.ROUTE
  linkKey  : List Nat                  -- Bolsar ports with a link key
  portSeen : List Nat                  -- PCIe ports linked
  msix     : List (Nat × Nat)          -- notifications sent: port and vector
  interval : Nat                       -- SIENNA.CFG
  agew     : Nat
  chq      : Nat
  sienEn   : Bool
  htime    : Word
  repQ     : Word
  mirWait  : Nat
  mirTab   : Word
  nvlog    : List (List Byte)          -- the rim's non-volatile log
  lseq     : Nat
  units    : Table UnitState           -- keyed by type and number
  keyCtr   : Nat
  netCycles : Table Nat                -- network cycles of a field's routers since its reset (R4, R304)
  rimCycles : Table Nat                -- cycles of a rim agent (R4)
  sienCycle : Nat                      -- cycles of the rim management core
  boundaries : Nat                     -- interval boundaries so far (R393)
  spdm     : List (List Byte)          -- key-install messages waiting (R420)
  answers  : List Nat                  -- their status bytes
  bar2     : List Bar2
  bar2Out  : List (List Byte)
  bolsarOut : List (Nat × Frame4)      -- frames waiting at a Bolsar port
  remote   : List Packet               -- subscriptions and write-throughs sent to other wafers (R432)
  deriving DecidableEq, Repr

/-- The state of the machine. -/
structure State where
  agenda   : List Turn                 -- turns still to take (log entry 1)
  cur      : Nat                       -- window number of the core whose turn it is
  core     : Core                      -- that core
  others   : Table Core
  clusters : Table Cluster
  routers  : Table Router
  parts    : Table Part
  recs     : Table Rec                 -- continuation records by record address (R21)
  hbm      : Hbm
  flights  : List Flight
  cflits   : List CFlit                -- circuit flits at routers, oldest first (R304)
  kept     : List Kept
  acks     : List Ack
  seqs     : Table Nat                 -- next SEQ of a SRC (Table 5·7, log entry 14)
  regNo    : Nat                       -- number of the next registration (the model's own)
  regFl    : List (Nat × Nat)          -- registrations on their way: cluster and number (R63)
  fetches  : List (Nat × Quad × BitVec 256)   -- names falling through to their homes, for a cluster, with the descriptor under
                                       -- which they were accepted (R69, R313)
  writes   : List Packet               -- publications to be written through (R71)
  addressed : List Addressed
  reloads  : List Reload
  wafer    : Wafer
  freeCtr  : Nat                       -- argument of the free values (log entry 2)
  stamp    : Nat                       -- number of the next access or engine command (the model's own)
  deriving DecidableEq, Repr

/-! ## Reset -/

/-- fmt at dispatch (Table 7·4). -/
def fmtReset : Word := 0x18C0_1000_0000_0000

def Regs.reset : Regs :=
  { s := Vector.replicate 64 0, p := Vector.replicate 16 false, v := Vector.replicate 32 0,
    m := Vector.replicate 8 0, n := Vector.replicate 8 0, pool := Vector.replicate 256 0,
    fmt := fmtReset, frame := {} }

def Core.reset : Core :=
  { busy := false, waiting := false, task := {}, live := Regs.reset, old := [], lands := [], fmtQ := [], flagQ := [],
    older := [], lat := {}, younger := [], pace := [], hist := [], nominal := 0, elapsed := 0, cycle := 0, mOcc := 0, eOcc := 0, z := Vector.replicate 8 0,
    w := Vector.replicate 8 {}, srnd := 1, scb := false, lcs := 0, chainEn := false, tok := 0, rank := 0,
    named := true, spad := [], spadBad := [], regBad := [], wbuf := [], wbufBad := [], wOwner := 0,
    region := none, eng := {}, utlb := [], pre := .none, lease := .service, doom := none, spare := 65536 }

/-- A core as it stands after reset: number c < 192 of a cluster presents rank c (R413). -/
def Core.fresh (w : Nat) : Core := { Core.reset with rank := w % 256, named := decide (w % 256 < 192) }

def Cluster.reset : Cluster :=
  { stage := 0, clock := 1000, volt := 0, plan := 1000, hot := false, cap := 150, draw := 0, cycle := 0, mstore := [],
    regs := [], fillSpilled := 0, fillPeak := 0, spillQ := 0, spilled := [], filter := [], inbox := [], heldIn := [],
    markers := [], contribs := [], pubs := [], lines := 0x2000, peak := 0, noticeLost := 0, circOvf := 0, cfgErr := 0,
    ready := [], seqNo := 0, closures := [], orphans := 0, stale := 0, dicts := [], stbuf := [], tlb := [],
    retained := [], combines := [], fab := Vector.replicate 4 {}, fuse := 0,
    drainQ := [], recvQ := [], taken := [] }

def Wafer.reset : Wafer :=
  { number := 0, fieldPart := [], fieldUp := [], stopped := [], fieldTlb := [], formBusy := false, formReason := 0,
    formVal := 0, formCmd := 0, logQ := 0, evQ := 0, bolsar := [], linkKey := [], portSeen := [], msix := [],
    interval := 10000, agew := 16, chq := 4, sienEn := true, htime := 0, repQ := 0, mirWait := 0x100000, mirTab := 0,
    nvlog := [], lseq := 0, units := [], keyCtr := 0, netCycles := [], rimCycles := [], sienCycle := 0, boundaries := 0, spdm := [], answers := [], bar2 := [],
    bar2Out := [], bolsarOut := [], remote := [] }

/-- The machine right after the cold reset of every field (R7): every field at the value the spec states, or at the
value a log entry names (4, 5, 6). -/
def State.reset : State :=
  { agenda := [], cur := 0, core := Core.reset, others := [], clusters := [], routers := [], parts := [], recs := [],
    hbm := { bytes := [], empty := [], defer := [], poison := [], tags := [] }, flights := [], cflits := [], kept := [], acks := [],
    seqs := [], regNo := 0, regFl := [], fetches := [], writes := [], addressed := [], reloads := [], wafer := Wafer.reset,
    freeCtr := 0, stamp := 0 }

end Sys2Proof.Machine
end

