-- ==== Sys2Proof/Machine/Base.lean ====
section
/-! DEFINITION. Looking a unit up in the state and putting it back, where the units stand on the wafer, the register
files with renaming (R143) and latency (R120). -/

namespace Sys2Proof.Machine

/-! ## Causes (Table 27·1) -/

/-- No fault: a request held at a unit under a lease (R338). -/
def heldBack : Nat := 0
def fetchFault : Nat := 0x10
def illegalIndex : Nat := 0x11
def illegalOp : Nat := 0x12
def scheduleFault : Nat := 0x13
def scoreboardFault : Nat := 0x14
def accessFault : Nat := 0x18
def alignFault : Nat := 0x19
def privFault : Nat := 0x1A
def pageFault : Nat := 0x1B
def walkFault : Nat := 0x1C
def writeFault : Nat := 0x1D
def feFault : Nat := 0x1E
def dataFault : Nat := 0x1F
def nameFault : Nat := 0x20
def queueFault : Nat := 0x21
def colourFault : Nat := 0x22
def streamFault : Nat := 0x23
def formatFault : Nat := 0x24
def softwareTrap : Nat := 0x25
def decodeFault : Nat := 0x28
def boundFault : Nat := 0x29
def holdLimit : Nat := 0x30
def faultLimit : Nat := 0x31
def recordFault : Nat := 0x32
def noCapacity : Nat := 0x33
def spillFault : Nat := 0x34
def fatalCause : Nat := 0x3F

/-! ## Units -/

/-- The core of a window number (R147); one that the state does not list stands as it was after reset. -/
def State.coreAt (s : State) (w : Nat) : Core := if w = s.cur then s.core else Table.get (Core.fresh w) s.others w

def State.setCore (s : State) (w : Nat) (c : Core) : State :=
  if w = s.cur then { s with core := c } else { s with others := Table.set s.others w c }

def State.modCore (s : State) (w : Nat) (f : Core → Core) : State := s.setCore w (f (s.coreAt w))

/-- The state with another core in focus (log entry 1). -/
def State.focus (s : State) (w : Nat) : State :=
  if w = s.cur then s
  else { s with cur := w, core := Table.get (Core.fresh w) s.others w, others := Table.drop (Table.set s.others s.cur s.core) w }

def State.clusterAt (s : State) (q : Nat) : Cluster := Table.get Cluster.reset s.clusters q
def State.setCluster (s : State) (q : Nat) (c : Cluster) : State := { s with clusters := Table.set s.clusters q c }
def State.modCluster (s : State) (q : Nat) (f : Cluster → Cluster) : State := s.setCluster q (f (s.clusterAt q))

def State.routerAt (s : State) (r : Nat) : Router := Table.get {} s.routers r
def State.setRouter (s : State) (r : Nat) (x : Router) : State := { s with routers := Table.set s.routers r x }
def State.modRouter (s : State) (r : Nat) (f : Router → Router) : State := s.setRouter r (f (s.routerAt r))

def State.partAt (s : State) (p : Nat) : Part := Table.get {} s.parts p
def State.setPart (s : State) (p : Nat) (x : Part) : State := { s with parts := Table.set s.parts p x }
def State.modPart (s : State) (p : Nat) (f : Part → Part) : State := s.setPart p (f (s.partAt p))

/-- The current core changed. -/
def State.onCore (s : State) (f : Core → Core) : State := { s with core := f s.core }

/-- The current core's engines changed. -/
def State.onEng (s : State) (f : Engines → Engines) : State :=
  { s with core := { s.core with eng := f s.core.eng } }

def State.onWafer (s : State) (f : Wafer → Wafer) : State := { s with wafer := f s.wafer }

/-! ## Places (R11–R16, R147, R413, R418; the numbering of clusters is log entry 7) -/

/-- The cluster of a window number. -/
def clusterOf (w : Nat) : Nat := w / 256
/-- The field of a cluster. -/
def fieldOf (q : Nat) : Nat := q / 4
/-- Column and row of a field among 8 × 6. -/
def fieldCol (f : Nat) : Nat := f % 8
def fieldRow (f : Nat) : Nat := f / 8
/-- Column and row of a cluster among 16 × 12. -/
def clusterCol (q : Nat) : Nat := 2 * fieldCol (fieldOf q) + q % 2
def clusterRow (q : Nat) : Nat := 2 * fieldRow (fieldOf q) + q % 4 / 2
/-- The cluster at a grid place. -/
def clusterAtGrid (col row : Nat) : Nat := 4 * (col / 2 + 8 * (row / 2)) + 2 * (row % 2) + col % 2
/-- Router numbers: 128 × row + column. -/
def routerNo (col row : Nat) : Nat := 128 * row + col
def routerCol (r : Nat) : Nat := r % 128
def routerRow (r : Nat) : Nat := r / 128
/-- The cluster of a router: 8 × 6 routers (R12). -/
def routerCluster (r : Nat) : Nat := clusterAtGrid (routerCol r / 8) (routerRow r / 6)
/-- The router beside slice k of a cluster, and beside its scheduler (log entry 7). -/
def sliceRouter (q k : Nat) : Nat := routerNo (8 * clusterCol q + 2 * k) (6 * clusterRow q)
def schedRouter (q : Nat) : Nat := routerNo (8 * clusterCol q) (6 * clusterRow q)
/-- Grid coordinates of the named core of a rank (R413). -/
def coreX (q rank : Nat) : Nat := 16 * clusterCol q + rank % 16
def coreY (q rank : Nat) : Nat := 12 * clusterRow q + rank / 16
/-- The router of a named core: one per quad of 2 × 2 (R12). -/
def coreRouter (q rank : Nat) : Nat := routerNo (coreX q rank / 2) (coreY q rank / 2)
/-- The router at the rim before a stack's rim agent e = 16 × edge + stack. -/
def rimRouter (e : Nat) : Nat := routerNo (8 * (e % 16)) (if e / 16 = 0 then 0 else 71)

/-- The partition of a field, 16 when it is in none. -/
def State.fieldPartition (s : State) (f : Nat) : Nat := Table.get 16 s.wafer.fieldPart f
def State.clusterPart (s : State) (q : Nat) : Nat := s.fieldPartition (fieldOf q)
/-- The partition of the current core. -/
def State.myPart (s : State) : Nat := s.clusterPart (clusterOf s.cur)

/-- A cluster is serviceable when it has reached stage 4 and is not retired (R10, R433). -/
def State.serviceable (s : State) (q : Nat) : Bool := (s.clusterAt q).stage = 4 || (s.clusterAt q).stage = 5

/-- The cores of a cluster that the state holds, by window number. -/
def State.coresOf (s : State) (q : Nat) : List Nat :=
  ((s.cur :: s.others.keys).filter fun w => clusterOf w = q).dedup

/-- The core that presents a rank in a cluster (R206, R413). -/
def State.rankCore (s : State) (q rank : Nat) : Option Nat :=
  match (s.coresOf q).find? fun w => (s.coreAt w).named && (s.coreAt w).rank = rank with
  | some w => some w
  | none =>
    let w := 256 * q + rank
    if rank < 192 && w ≠ s.cur && (Table.find s.others w).isNone then some w else none

/-- The launch of the running task. -/
def State.launchOf (s : State) (p l : Nat) : Option Launch := Table.find (s.partAt p).launches l

def State.modLaunch (s : State) (p l : Nat) (f : Launch → Launch) : State :=
  s.modPart p fun x => match Table.find x.launches l with
    | none => x
    | some y => { x with launches := Table.set x.launches l (f y) }

/-- The level entry under which tasks of level l run: level 0 is described by entry 1 (R293). -/
def Launch.levelEntry (l : Launch) (n : Nat) : Option Level := l.levels[(if n = 0 then 1 else n) - 1]?

/-- The level entry of a record. -/
def State.levelOf (s : State) (r : Rec) : Option Level :=
  (s.launchOf r.part r.launch).bind fun l => l.levelEntry r.dlvl

/-- The template of a record. -/
def State.tmplOf (s : State) (r : Rec) : Option Tmpl :=
  (s.launchOf r.part r.launch).bind fun l => l.tmpls[r.tmpl]?

/-- The scope code a name stands for: `level` is the dispatch level's scope (Table 13·1, R38). -/
def State.scopeNo (s : State) (sc : Scope) : Nat :=
  match sc with
  | .level => ((s.levelOf s.core.task).map (·.scope)).getD 0
  | _ => sc.code

/-- A task is privileged when its record's level priority is 7 (R152). -/
def State.privileged (s : State) : Bool := ((s.levelOf s.core.task).map (·.prio)).getD 0 = 7

/-! ## Registers -/

/-- Slot n of the frame pool is held (R144). -/
def Frame.holds (f : Frame) (n : Nat) : Bool := decide (0 < f.n) && decide ((n + f.n - f.old) % f.n < f.held)

/-- The location a scalar name stands for; none for s0, s32 and the names of a slot that is not held (R136, R143). -/
def sLoc (f : Frame) (i : SReg) : Option Loc :=
  if sHard i then none
  else if f.n = 0 || i.val % 32 < 16 then some (.s i)
  else
    let slot := if i.val % 32 < 24 then f.tag else (f.tag + f.n - 1) % f.n
    if f.holds slot then some (.f (Fin.ofNat 256 (16 * slot + 8 * (i.val / 32) + i.val % 8))) else none

def pLoc (i : PReg) : Option Loc := if pHard i then none else some (.p i)
def mLoc (i : MReg) : Option Loc := if i.val = 0 then none else some (.m i)

/-- The value at a location. -/
def Regs.get (r : Regs) : Loc → Nat
  | .s i => (r.s.get i).toNat
  | .f i => (r.pool.get i).toNat
  | .p i => (r.p.get i).toNat
  | .v i => (r.v.get i).toNat
  | .m i => (r.m.get i).toNat
  | .n i => (r.n.get i).toNat

/-- The files with one location written. -/
def Regs.set (r : Regs) (l : Loc) (v : Nat) : Regs :=
  match l with
  | .s i => { r with s := r.s.set i.val (BitVec.ofNat 64 v) i.isLt }
  | .f i => { r with pool := r.pool.set i.val (BitVec.ofNat 64 v) i.isLt }
  | .p i => { r with p := r.p.set i.val (decide (v % 2 = 1)) i.isLt }
  | .v i => { r with v := r.v.set i.val (BitVec.ofNat 1024 v) i.isLt }
  | .m i => { r with m := r.m.set i.val (BitVec.ofNat 128 v) i.isLt }
  | .n i => { r with n := r.n.set i.val (BitVec.ofNat 128 v) i.isLt }

/-- The frame as the parts of a bundle resolve names: a FRAME.ALLOC or FRAME.FREE of the bundle itself or of a later one
does not show (R158). -/
def Core.viewOf (c : Core) (b : Latch) : Frame := b.frame.getD c.live.frame
def Core.view (c : Core) : Frame := c.viewOf c.lat

/-- The location of a register field under a frame. -/
def locIn (f : Frame) : RegRef → Option Loc
  | .s i => sLoc f i
  | .p i => pLoc i
  | .v i => some (.v i)
  | .m i => mLoc i
  | .n i => some (.n i)
  | .z _ => none

/-- The location of a register field under the bundle's renaming (R158). -/
def Core.locOf (c : Core) (r : RegRef) : Option Loc := locIn c.view r

/-! ### Reading (R118, R120) -/

/-- The value from before the writes of the bundle in focus. -/
def Core.before (c : Core) (l : Loc) : Nat :=
  match c.lat.saved.find? fun x => x.1 = l with
  | some x => x.2
  | none => c.live.get l

/-- The value from before a write that a part of slot k may not see yet (R120). -/
def Core.stale (c : Core) (k : Slot) (l : Loc) : Option OldVal :=
  c.old.find? fun o => o.slot = k && o.loc = l && decide (c.lat.at_ < o.upto)

/-- The value a part of slot k reads at a location: the oldest value whose write it may not see yet (R120), else the
value from before the bundle's own writes (R118). -/
def Core.readLoc (c : Core) (k : Slot) (l : Loc) : Nat :=
  match c.stale k l with
  | some o => o.val
  | none => c.before l

def Core.readOpt (c : Core) (k : Slot) (dflt : Nat) : Option Loc → Nat
  | none => dflt
  | some l => c.readLoc k l

/-- A scalar register as a part of slot k reads it (R136, R143). -/
def Core.readS (c : Core) (k : Slot) (i : SReg) : Word := BitVec.ofNat 64 (c.readOpt k 0 (sLoc c.view i))
/-- A predicate: p0 and p8 read true (R138). -/
def Core.readP (c : Core) (k : Slot) (i : PReg) : Bool := decide (c.readOpt k 1 (pLoc i) = 1)
/-- A vector register. -/
def Core.readV (c : Core) (k : Slot) (i : VReg) : Vec := BitVec.ofNat 1024 (c.readLoc k (.v i))
/-- A lane mask: m0 reads all ones (R139). -/
def Core.readM (c : Core) (k : Slot) (i : MReg) : Quad := BitVec.ofNat 128 (c.readOpt k (2 ^ 128 - 1) (mLoc i))
/-- A name register. -/
def Core.readN (c : Core) (i : NReg) : Quad := BitVec.ofNat 128 (c.readLoc .c (.n i))

/-! ### Writing (R120, R146) -/

/-- A part of the bundle in focus has written the location. -/
def Core.wroteHere (c : Core) (l : Loc) : Bool := c.lat.wrote.any fun w => w.2 = l

/-- A part of a later slot of the same bundle has already written the location, so its value remains (R146). -/
def Core.overtaken (c : Core) (k : Slot) (l : Loc) : Bool :=
  c.lat.wrote.any fun w => w.2 = l && decide (k.num < w.1.num)

/-- The part of slot k has written the location: the bundle keeps the value from before its own writes (R118). -/
def Latch.touch (b : Latch) (k : Slot) (l : Loc) (v : Nat) : Latch :=
  { b with wrote := (k, l) :: b.wrote
           saved := if b.wrote.any fun w => w.2 = l then b.saved else (l, v) :: b.saved }

def Core.touch (c : Core) (k : Slot) (l : Loc) : Core := { c with lat := c.lat.touch k l (c.live.get l) }

/-- The old values after a write of latency L by slot k (R120): an earlier write of the slot is seen no later than this
one, and a part of a later bundle in another slot sees this one. Where two parts of the bundle write the location, no
part of a later bundle reads an old value (R146). -/
def oldAfter (c : Core) (k : Slot) (lat : Nat) (l : Loc) : List OldVal :=
  let cut := c.old.map fun o =>
    if o.loc ≠ l then o
    else { o with upto := min o.upto (if o.slot = k && !c.wroteHere l then c.lat.at_ + lat else c.lat.at_ + 1) }
  if lat ≤ 1 || c.wroteHere l then cut
  else cut ++ [{ slot := k, loc := l, upto := c.lat.at_ + lat, val := c.live.get l }]

/-- The writes on their way after one of latency L by slot k (R121): where two parts of the bundle write the location,
readers of every slot wait for both (R146). -/
def landsAfter (c : Core) (k : Slot) (lat : Nat) (l : Loc) : List RegLand :=
  let both := c.wroteHere l
  { slot := if both then none else some k, loc := l, n := c.lat.at_, at_ := c.elapsed + lat } ::
    (if both then c.lands.map fun x => if x.loc = l && x.n = c.lat.at_ then { x with slot := none } else x else c.lands)

/-- Slot k writes a location with latency L (R120, R146). -/
def Core.writeLoc (c : Core) (k : Slot) (lat : Nat) (l : Loc) (v : Nat) : Core :=
  { c with live := if c.overtaken k l then c.live else c.live.set l v, old := oldAfter c k lat l, lands := landsAfter c k lat l,
           lat := c.lat.touch k l (c.live.get l) }

def Core.writeOpt (c : Core) (k : Slot) (lat : Nat) (l : Option Loc) (v : Nat) : Core :=
  match l with
  | none => c
  | some l => c.writeLoc k lat l v

/-- Writes of the register files by a part. Hard-wired names discard them (R136, R138, R139). -/
def Core.writeS (c : Core) (k : Slot) (lat : Nat) (i : SReg) (v : Word) : Core :=
  c.writeOpt k lat (sLoc c.view i) v.toNat
def Core.writeP (c : Core) (k : Slot) (lat : Nat) (i : PReg) (v : Bool) : Core := c.writeOpt k lat (pLoc i) v.toNat
def Core.writeV (c : Core) (k : Slot) (lat : Nat) (i : VReg) (v : Vec) : Core := c.writeLoc k lat (.v i) v.toNat
def Core.writeM (c : Core) (k : Slot) (lat : Nat) (i : MReg) (v : Quad) : Core := c.writeOpt k lat (mLoc i) v.toNat
def Core.writeN (c : Core) (lat : Nat) (i : NReg) (v : Quad) : Core := c.writeLoc .c lat (.n i) v.toNat

/-- A result still to land: every reader and writer of the location waits for it (R120, R121), but for parts of its own
slot at a nominal distance below a fixed latency L, which read the value from before (R120); a later slot of the bundle
that has written the location keeps its value there (R146). -/
def Core.await (c : Core) (k : Slot) (lat : Nat) (l : Option Loc) : Core :=
  match l with
  | none => c
  | some l =>
    if c.overtaken k l then c.touch k l
    else { c.touch k l with eng := { c.eng with awaits := l :: c.eng.awaits }, old := oldAfter c k lat l }

/-- An awaited result lands. -/
def Core.land (c : Core) (l : Option Loc) (v : Nat) : Core :=
  match l with
  | none => c
  | some l => { c with live := c.live.set l v, eng := { c.eng with awaits := c.eng.awaits.erase l } }

/-! ### Waiting (R120, R121) -/

/-- The registers that the part of slot k of a bundle names: what it writes, and with `all` its guard and what it reads. -/
def namesOf (bits : BundleWord) (k : Slot) (all : Bool) : List RegRef :=
  match bundlePart bits k with
  | .error _ => []
  | .ok i =>
    match i.uses with
    | none => []
    | some u => if all then .p u.g.p :: (u.reads ++ u.writes) else u.writes

/-- A part of an earlier bundle in another slot has still to write the location, or with `all` to read or write it. -/
def Core.olderNames (c : Core) (k : Slot) (l : Loc) (all : Bool) : Bool :=
  c.older.any fun b => b.todo.any fun j => j ≠ k && (namesOf b.bits j all).any fun r => locIn (c.viewOf b) r = some l

/-- A write of an earlier bundle in another slot has not landed. -/
def Core.landing (c : Core) (k : Slot) (l : Loc) : Bool :=
  c.lands.any fun x => x.loc = l && x.slot ≠ some k && decide (x.n < c.lat.at_) && decide (c.elapsed < x.at_)

/-- A register field that a part of slot k writes: it waits for a result still to land there, and for the parts of
earlier bundles in other slots that have yet to read or write it (R120, R121). -/
def Core.owing (c : Core) (k : Slot) (r : RegRef) : Bool :=
  match c.locOf r with
  | none => false
  | some l => c.eng.awaits.contains l || c.landing k l || c.olderNames k l true

/-- A register field that a part of slot k reads: it waits for a result of an earlier bundle that is still to land or to be
written there (R118, R120, R121). -/
def Core.awaited (c : Core) (k : Slot) (r : RegRef) : Bool :=
  match c.locOf r with
  | none => false
  | some l => (c.eng.awaits.contains l && !c.wroteHere l && (c.stale k l).isNone) || c.landing k l || c.olderNames k l false

end Sys2Proof.Machine
end

