-- ==== Sys2Proof/Machine/Float.lean ====
section
/-! DEFINITION. The number formats and their arithmetic (07_numbers: R88 to R102, R198 to R202, R238, R243, R253,
R254). An operation is done on exact values and rounded once. -/

namespace Sys2Proof.Machine

/-! ## Flags, in the order of fmt[5:0] (Table 7·4) -/

/-- NV, OF, UF, NX, ST, SN in bits 5 to 0. -/
abbrev Flags := BitVec 6

def flagNV : Flags := 0x20
def flagOF : Flags := 0x10
def flagUF : Flags := 0x08
def flagNX : Flags := 0x04
def flagST : Flags := 0x02
def flagSN : Flags := 0x01

/-- A flag, when its condition holds. -/
def flagIf (b : Bool) (f : Flags) : Flags := if b then f else 0

/-- Rounding (R97, R98); `sto` carries the sixteen bits k of a draw. -/
inductive Rnd where
  | rne | rtz | rdn | rup
  | sto (k : Nat)
  deriving DecidableEq, Repr

/-! ## Formats (Tables 7·2 and 7·3) -/

/-- Mantissa bits. -/
def mantBits : Fmt → Nat
  | .f32 => 23 | .f16 => 10 | .bf16 => 7 | .e4m3 => 3 | .e5m2 => 2 | _ => 1

/-- Exponent of the smallest normal number. -/
def minExp : Fmt → Int
  | .f32 => -126 | .f16 => -14 | .bf16 => -126 | .e4m3 => -6 | .e5m2 => -14 | _ => 0

/-- Encoding of the largest finite magnitude. -/
def maxFin : Fmt → Nat
  | .f32 => 0x7F7FFFFF | .f16 => 0x7BFF | .bf16 => 0x7F7F | .e4m3 => 0x7E | .e5m2 => 0x7B | _ => 0x7

/-- Encoding of +∞, for the formats that have one. -/
def infBits : Fmt → Option Nat
  | .f32 => some 0x7F800000 | .f16 => some 0x7C00 | .bf16 => some 0x7F80 | .e5m2 => some 0x7C | _ => none

/-- The canonical NaN; E2M1 has none and takes +0 (R100). -/
def nanBits : Fmt → Nat
  | .f32 => 0x7FC00000 | .f16 => 0x7E00 | .bf16 => 0x7FC0 | .e4m3 => 0x7F | .e5m2 => 0x7E | _ => 0

/-- The sign bit of a format. -/
def signBit (t : Fmt) : Nat := 2 ^ (t.width - 1)

def withSign (t : Fmt) (neg : Bool) (mag : Nat) : Nat := if neg then signBit t + mag else mag

/-- What an element stands for: NaN, an infinity, or (−1)^neg × m × 2^e. -/
inductive FV where
  | nan
  | inf (neg : Bool)
  | fin (neg : Bool) (m : Nat) (e : Int)
  deriving DecidableEq, Repr

/-- The magnitudes that encode NaN. -/
def isNanMag (t : Fmt) (mag : Nat) : Bool :=
  match infBits t with
  | some i => decide (i < mag)
  | none => decide (t = .e4m3) && decide (mag = 0x7F)

/-- R89. -/
def decodeF (t : Fmt) (bits : Nat) : FV :=
  let neg := bits / signBit t % 2 = 1
  let mag := bits % signBit t
  if isNanMag t mag then .nan
  else if infBits t = some mag then .inf neg
  else if mag / 2 ^ mantBits t = 0 then .fin neg mag (minExp t - (mantBits t : Int))
  else .fin neg (mag % 2 ^ mantBits t + 2 ^ mantBits t) (minExp t - (mantBits t : Int) + ((mag / 2 ^ mantBits t : Nat) : Int) - 1)

/-! ## Exact values -/

/-- An exact dyadic value m × 2^e. -/
structure Dy where
  m : Int
  e : Int
  deriving DecidableEq, Repr

def Dy.add (a b : Dy) : Dy :=
  let e := min a.e b.e
  ⟨a.m * ((2 ^ (a.e - e).toNat : Nat) : Int) + b.m * ((2 ^ (b.e - e).toNat : Nat) : Int), e⟩

def Dy.mul (a b : Dy) : Dy := ⟨a.m * b.m, a.e + b.e⟩

def signedMant (neg : Bool) (m : Nat) : Int := if neg then -(m : Int) else (m : Int)

/-- num × 2^k over den. -/
def shiftFrac (num den : Nat) (k : Int) : Nat × Nat :=
  if 0 ≤ k then (num * 2 ^ k.toNat, den) else (num, den * 2 ^ (-k).toNat)

/-- floor(log2 (num / den)) for positive num and den. -/
def floorLog2 (num den : Nat) : Int :=
  let d : Int := (num.log2 : Int) - (den.log2 : Int)
  let p := shiftFrac num den (-d)
  if p.2 ≤ p.1 then d else d - 1

/-- floor of num / den, and whether it is rounded up (R97, R98), and whether anything was cut off. -/
def roundMag (r : Rnd) (neg : Bool) (num den : Nat) : Nat × Bool :=
  let n := num / den
  let m := num % den
  let up :=
    match r with
    | .rne => den < 2 * m || (2 * m = den && n % 2 = 1)
    | .rtz => false
    | .rdn => neg && m != 0
    | .rup => !neg && m != 0
    | .sto k => k < m * 65536 / den
  (if up then n + 1 else n, m != 0)

/-- What an overflow becomes (Table 7·7), with its flag; NX goes with it (R99). -/
def overflowTo (t : Fmt) (r : Rnd) (sat neg : Bool) : Nat × Flags :=
  match t with
  | .e4m3 => if sat then (withSign t neg 0x7E, flagST ||| flagNX) else (0x7F, flagOF ||| flagNX)
  | .e5m2 => if sat then (withSign t neg 0x7B, flagST ||| flagNX) else (withSign t neg 0x7C, flagOF ||| flagNX)
  | .f32 | .f16 | .bf16 =>
    let toInf :=
      match r with
      | .rne => true
      | .rtz => false
      | .rdn => neg
      | .rup => !neg
      | .sto _ => true
    (withSign t neg (if toInf then (infBits t).getD 0 else maxFin t), flagOF ||| flagNX)
  | _ => (withSign t neg (maxFin t), flagST ||| flagNX)

/-- One rounding of (−1)^neg × num / den × 2^e to a float format (R97, R99). A zero keeps its sign. -/
def roundTo (t : Fmt) (r : Rnd) (sat neg : Bool) (num den : Nat) (e : Int) : Nat × Flags :=
  if num = 0 then (withSign t neg 0, 0)
  else
    let k := floorLog2 num den + e
    let q := max k (minExp t) - (mantBits t : Int)
    let p := shiftFrac num den (e - q)
    let nr := roundMag r neg p.1 p.2
    let enc := (q - (minExp t - (mantBits t : Int))).toNat * 2 ^ mantBits t + nr.1
    if maxFin t < enc then overflowTo t r sat neg
    else (withSign t neg enc, flagIf nr.2 flagNX ||| flagIf (nr.2 && k < minExp t) flagUF)

/-- One rounding of an exact dyadic value; `zneg` is the sign of an exact zero. -/
def roundDy (t : Fmt) (r : Rnd) (sat zneg : Bool) (x : Dy) : Nat × Flags :=
  if x.m = 0 then (withSign t zneg 0, 0)
  else roundTo t r sat (x.m < 0) x.m.natAbs 1 x.e

/-- The result for NaN. -/
def nanRes (t : Fmt) (fl : Flags) : Nat × Flags := (nanBits t, fl)

/-- The result for an exact infinity in a format that holds infinities. -/
def infRes (t : Fmt) (neg : Bool) : Nat × Flags := (withSign t neg ((infBits t).getD 0), 0)

/-! ## Addition, multiplication and the fused product (R199) -/

/-- a × b + c, rounded once; `mulOnly` leaves c out. -/
def fmaF (t : Fmt) (r : Rnd) (a b : FV) (c : Option FV) : Nat × Flags :=
  match a, b with
  | .nan, _ => nanRes t 0
  | _, .nan => nanRes t 0
  | .inf s, .inf s' => addInf (s != s') c
  | .inf s, .fin s' m _ => if m = 0 then invalid c else addInf (s != s') c
  | .fin s' m _, .inf s => if m = 0 then invalid c else addInf (s != s') c
  | .fin s m e, .fin s' m' e' =>
    match c with
    | none => roundDy t r true (s != s') ⟨signedMant (s != s') (m * m'), e + e'⟩
    | some .nan => nanRes t 0
    | some (.inf n) => infRes t n
    | some (.fin n mc ec) =>
      let x := Dy.add ⟨signedMant (s != s') (m * m'), e + e'⟩ ⟨signedMant n mc, ec⟩
      roundDy t r true (if (s != s') = n then n else r = .rdn) x
where
  addInf (s : Bool) : Option FV → Nat × Flags
    | some .nan => nanRes t 0
    | some (.inf n) => if s = n then infRes t s else nanRes t flagNV
    | _ => infRes t s
  invalid : Option FV → Nat × Flags
    | some .nan => nanRes t 0
    | _ => nanRes t flagNV

def oneFV : FV := .fin false 1 0

def negFV : FV → FV
  | .nan => .nan
  | .inf s => .inf (!s)
  | .fin s m e => .fin (!s) m e

def addF (t : Fmt) (r : Rnd) (a b : FV) : Nat × Flags := fmaF t r a oneFV (some b)
def subF (t : Fmt) (r : Rnd) (a b : FV) : Nat × Flags := fmaF t r a oneFV (some (negFV b))
def mulF (t : Fmt) (r : Rnd) (a b : FV) : Nat × Flags := fmaF t r a b none

/-! ## Order (R200, R247) -/

def FV.isNan : FV → Bool
  | .nan => true
  | _ => false

/-- The value of a number that is not NaN, infinities far outside every finite value; −0 and +0 are equal. -/
def cmpFin (a b : FV) : Ordering :=
  match a, b with
  | .nan, _ => .eq
  | _, .nan => .eq
  | .inf s, .inf s' => if s = s' then .eq else if s then .lt else .gt
  | .inf s, .fin _ _ _ => if s then .lt else .gt
  | .fin _ _ _, .inf s => if s then .gt else .lt
  | .fin s m e, .fin s' m' e' =>
    compare (Dy.add ⟨signedMant s m, e⟩ ⟨-(signedMant s' m'), e'⟩).m 0

def FV.neg : FV → Bool
  | .nan => false
  | .inf s => s
  | .fin s _ _ => s

/-- a below b, with −0 below +0. -/
def ltZ (a b : FV) : Bool :=
  match cmpFin a b with
  | .lt => true
  | .gt => false
  | .eq => a.neg && !b.neg

def minF (t : Fmt) (a b : Nat) : Nat :=
  let x := decodeF t a
  let y := decodeF t b
  if x.isNan || y.isNan then nanBits t else if ltZ y x then b else a

def maxF (t : Fmt) (a b : Nat) : Nat :=
  let x := decodeF t a
  let y := decodeF t b
  if x.isNan || y.isNan then nanBits t else if ltZ x y then b else a

/-- R200. -/
def fcond (cc : FCond) (a b : FV) : Bool :=
  if a.isNan || b.isNan then cc = .ne || cc = .un
  else
    match cc with
    | .eq => cmpFin a b = .eq
    | .ne => cmpFin a b != .eq
    | .lt => cmpFin a b = .lt
    | .le => cmpFin a b != .gt
    | .gt => cmpFin a b = .gt
    | .ge => cmpFin a b != .lt
    | .un => false
    | .ord => true

/-! ## Integers -/

/-- The value of an integer element. -/
def intVal (t : Fmt) (n : Nat) : Int :=
  if t.isSInt || t = .i4 then signed t.width n else ((n % 2 ^ t.width : Nat) : Int)

def intMin (t : Fmt) : Int := if t.isSInt || t = .i4 then -((2 ^ (t.width - 1) : Nat) : Int) else 0
def intMax (t : Fmt) : Int :=
  if t.isSInt || t = .i4 then ((2 ^ (t.width - 1) : Nat) : Int) - 1 else ((2 ^ t.width : Nat) : Int) - 1

/-- A value clamped to an integer format; a clamp sets NV (R99). -/
def clampInt (t : Fmt) (i : Int) : Nat × Flags :=
  if i < intMin t then (wrapInt t.width (intMin t), flagNV)
  else if intMax t < i then (wrapInt t.width (intMax t), flagNV)
  else (wrapInt t.width i, 0)

/-! ## Conversions (R99, R100) -/

/-- Stochastic rounding acts as RNE outside R97's conversions. -/
def Rnd.det : Rnd → Rnd
  | .sto _ => .rne
  | r => r

/-- A float value to an integer format. -/
def floatToInt (t : Fmt) (r : Rnd) : FV → Nat × Flags
  | .nan => (0, flagNV)
  | .inf s => (wrapInt t.width (if s then intMin t else intMax t), flagNV)
  | .fin s m e =>
    let p := shiftFrac m 1 e
    let nr := roundMag r.det s p.1 p.2
    let c := clampInt t (signedMant s nr.1)
    if c.2 = 0 then (c.1, flagIf nr.2 flagNX) else c

/-- A special value to a float format (R100). -/
def specialTo (t : Fmt) (sat : Bool) : FV → Nat × Flags
  | .nan => (nanBits t, flagIf (t = .e2m1) flagNV)
  | .inf s =>
    match t with
    | .e4m3 => if sat then (withSign t s 0x7E, flagST) else (0x7F, flagOF)
    | .e2m1 => (withSign t s 0x7, flagST)
    | _ => (withSign t s ((infBits t).getD 0), 0)
  | .fin s _ _ => (withSign t s 0, 0)

/-- A value of a float format to another float format, under R97's rounding. -/
def floatToFloat (t : Fmt) (r : Rnd) (sat : Bool) : FV → Nat × Flags
  | .nan => specialTo t sat .nan
  | .inf s => specialTo t sat (.inf s)
  | .fin s m e => roundTo t r sat s m 1 e

/-- An integer to a float format. -/
def intToFloat (t : Fmt) (r : Rnd) (sat : Bool) (i : Int) : Nat × Flags :=
  roundTo t r sat (i < 0) i.natAbs 1 0

/-- The formats for which R97 allows stochastic rounding. -/
def stoTarget : Fmt → Bool
  | .f16 | .bf16 | .e4m3 | .e5m2 | .e2m1 => true
  | _ => false

/-- One element from format `src` to format `tgt` (Table 17·6; FP32 sources also Table 13·8). -/
def convElem (src tgt : Fmt) (r : Rnd) (sat : Bool) (bits : Nat) : Nat × Flags :=
  if src.isCvtF then
    if tgt.isCvtF then floatToFloat tgt (if stoTarget tgt then r else r.det) sat (decodeF src bits)
    else floatToInt tgt r (decodeF src bits)
  else if tgt.isCvtF then intToFloat tgt (if stoTarget tgt then r else r.det) sat (intVal src bits)
  else clampInt tgt (intVal src bits)

/-! ## Scales (R92, R93, R202) -/

/-- The value of a scale byte. -/
def decodeScale (f : ScaleFmt) (b : Nat) : FV :=
  if b % 256 = 0xFF then .nan
  else
    match f with
    | .e8m0 => .fin false 1 (((b % 256 : Nat) : Int) - 127)
    | .ue5m3 =>
      if b % 256 / 8 = 0 then .fin false (b % 8) (-17)
      else .fin false (8 + b % 8) (((b % 256 / 8 : Nat) : Int) - 18)

/-- A zero or NaN scale sets SN (R93). -/
def scaleFlag : FV → Flags
  | .nan => flagSN
  | .inf _ => 0
  | .fin _ m _ => flagIf (m = 0) flagSN

/-- x × s exactly (R93), with the flags of the special cases: the value, and NV and SN. -/
def scaleVal (x s : FV) : FV × Flags :=
  match x, s with
  | _, .nan => (.nan, flagSN)
  | .nan, s => (.nan, scaleFlag s)
  | .inf n, .fin _ m _ => if m = 0 then (.nan, flagSN ||| flagNV) else (.inf n, 0)
  | .inf n, .inf _ => (.inf n, 0)
  | .fin n m e, .fin _ m' e' => (.fin n (m * m') (e + e'), flagIf (m' = 0) flagSN)
  | .fin n m e, .inf _ => (.fin n m e, 0)

/-- a × s or a / s, rounded once to `t` (R256, R257). Dividing a finite element by a zero scale gives a zero with the
element's sign; an infinite element under a zero or NaN scale gives what R100 gives for NaN. -/
def scaleRound (t : Fmt) (r : Rnd) (sat div : Bool) (x s : FV) : Nat × Flags :=
  match x, s with
  | .nan, s => ((specialTo t sat .nan).1, (specialTo t sat .nan).2 ||| scaleFlag s)
  | _, .nan => ((specialTo t sat .nan).1, (specialTo t sat .nan).2 ||| flagSN)
  | .inf n, s =>
    if scaleFlag s = flagSN then ((specialTo t sat .nan).1, (specialTo t sat .nan).2 ||| flagSN ||| flagNV)
    else specialTo t sat (.inf n)
  | .fin n m e, .fin _ m' e' =>
    if m' = 0 then (withSign t n 0, flagSN)
    else if div then roundTo t r sat n m m' (e - e')
    else roundTo t r sat n (m * m') 1 (e + e')
  | .fin n m e, .inf _ => roundTo t r sat n m 1 e

/-- FP32 to E8M0 (R202). -/
def toE8m0 : FV → Nat × Flags
  | .nan => (0xFF, 0)
  | .inf s => if s then (0xFF, flagNV) else (0xFE, flagST)
  | .fin s m e =>
    if m = 0 || s then (0xFF, flagNV)
    else
      let k := floorLog2 m 1 + e
      let exact : Bool := decide (2 ^ m.log2 = m)
      let c := if exact then k else k + 1
      if 127 < c then (0xFE, flagST ||| flagNX)
      else if c < -127 then (0x00, flagUF ||| flagNX)
      else ((c + 127).toNat, flagIf (!exact) flagNX)

/-- FP32 to UE5M3 (R202). -/
def toUe5m3 (r : Rnd) : FV → Nat × Flags
  | .nan => (0xFF, 0)
  | .inf s => if s then (0xFF, flagNV) else (0xFE, flagST)
  | .fin s m e =>
    if m = 0 then (0, 0)
    else if s then (0xFF, flagNV)
    else
      let k := floorLog2 m 1 + e
      let q := max k (-14) - 3
      let p := shiftFrac m 1 (e - q)
      let nr := roundMag r.det false p.1 p.2
      let enc := (q + 17).toNat * 8 + nr.1
      if 0xFE < enc then (0xFE, flagST ||| flagNX)
      else (enc, flagIf nr.2 flagNX ||| flagIf (nr.2 && k < -14) flagUF)

/-! ## Exact sums (R101, R253) -/

/-- What an exact sum has met so far: NaN, each infinity, the exact sum of the rest, and both signs. -/
structure Sum where
  nan  : Bool := false
  pinf : Bool := false
  ninf : Bool := false
  sum  : Dy := ⟨0, 0⟩
  pos  : Bool := false
  neg  : Bool := false
  deriving DecidableEq, Repr

def Sum.push (a : Sum) : FV → Sum
  | .nan => { a with nan := true }
  | .inf true => { a with ninf := true }
  | .inf false => { a with pinf := true }
  | .fin s m e => { a with sum := Dy.add a.sum ⟨signedMant s m, e⟩, pos := a.pos || !s, neg := a.neg || s }

/-- The sign of an exact zero sum: −0 when every term is −0, and under RDN also when terms of both signs cancel. -/
def Sum.zeroNeg (a : Sum) (r : Rnd) : Bool := (a.neg && !a.pos) || (a.neg && a.pos && r = .rdn)

/-- The sum t of a block, and NV when infinities of both signs met. -/
def Sum.value (a : Sum) (r : Rnd) : FV × Flags :=
  if a.nan then (.nan, 0)
  else if a.pinf && a.ninf then (.nan, flagNV)
  else if a.pinf then (.inf false, 0)
  else if a.ninf then (.inf true, 0)
  else if a.sum.m = 0 then (.fin (a.zeroNeg r) 0 0, 0)
  else (.fin (a.sum.m < 0) a.sum.m.natAbs a.sum.e, 0)

/-- An exact sum rounded once to t. -/
def Sum.round (a : Sum) (t : Fmt) (r : Rnd) : Nat × Flags :=
  match a.value r with
  | (.nan, fl) => nanRes t fl
  | (.inf s, fl) => ((infRes t s).1, fl)
  | (.fin s m e, fl) => let p := roundTo t r true s m 1 e; (p.1, p.2 ||| fl)

/-! ## Estimates (R254, Table 17·5) -/

/-- q of R254. -/
def estBits : Fmt → Nat
  | .f32 => 11
  | t => mantBits t

/-- (−1)^neg × num / den × 2^e truncated towards zero to q fraction bits, and to a subnormal below the smallest
normal (UF). -/
def truncTo (t : Fmt) (neg : Bool) (num den : Nat) (e : Int) : Nat × Flags :=
  let k := floorLog2 num den + e
  let qm := minExp t - (mantBits t : Int)
  let q := max (k - (estBits t : Int)) qm
  let p := shiftFrac num den (e - q)
  let n := p.1 / p.2
  let enc :=
    if minExp t ≤ k then
      ((k - minExp t).toNat) * 2 ^ mantBits t + (shiftFrac n 1 (q - (k - (mantBits t : Int)))).1
    else (shiftFrac n 1 (q - qm)).1
  if maxFin t < enc then (withSign t neg ((infBits t).getD 0), flagOF)
  else (withSign t neg enc, flagIf (k < minExp t) flagUF)

def rcpF (t : Fmt) : FV → Nat × Flags
  | .nan => nanRes t 0
  | .inf s => (withSign t s 0, 0)
  | .fin s m e => if m = 0 then infRes t s else truncTo t s 1 m (-e)

/-- 1/√x: with x = m × 2^e, e made even, the root is taken of 2^512 / m. -/
def rsqF (t : Fmt) : FV → Nat × Flags
  | .nan => nanRes t 0
  | .inf s => if s then nanRes t flagNV else (0, 0)
  | .fin s m e =>
    if m = 0 then infRes t s
    else if s then nanRes t flagNV
    else
      let m' := if e % 2 = 0 then m else 2 * m
      let e' := if e % 2 = 0 then e else e - 1
      truncTo t false (isqrt (2 ^ 512 / m') 257 0) 1 (-(e' / 2) - 256)

/-- The bits of fixed-point working precision of VEXP2 and VLOG2. -/
def expPrec : Nat := 256

/-- 2^f for a fraction f of k bits, in fixed point: the product of the roots 2^(2^-i) over the set bits of f. -/
def exp2Frac (f : Nat) : Nat → Nat → Nat → Nat
  | 0, _, acc => acc
  | k + 1, root, acc =>
    let root' := isqrt (root * 2 ^ expPrec) (expPrec + 1) 0
    exp2Frac f k root' (if f / 2 ^ k % 2 = 1 then acc * root' / 2 ^ expPrec else acc)

def exp2F (t : Fmt) : FV → Nat × Flags
  | .nan => nanRes t 0
  | .inf s => if s then (0, 0) else infRes t false
  | .fin s m e =>
    if m = 0 then roundTo t .rtz true false 1 1 0
    else
      -- x in units of 2^-160: every operand of every format is a multiple of 2^-149
      if 12 < (m.log2 : Int) + e then (if s then (0, flagUF) else (withSign t false ((infBits t).getD 0), flagOF))
      else
        let x : Int := signedMant s (m * 2 ^ (e + 160).toNat)
        let i := x / ((2 ^ 160 : Nat) : Int)
        let f := (x % ((2 ^ 160 : Nat) : Int)).toNat
        truncTo t false (exp2Frac f 160 (2 * 2 ^ expPrec) (2 ^ expPrec)) (2 ^ expPrec) i

/-- The first k bits of log2 y for y in [1, 2), in fixed point, by repeated squaring. -/
def log2Frac : Nat → Nat → Nat → Nat
  | 0, _, acc => acc
  | k + 1, y, acc =>
    let y2 := y * y / 2 ^ expPrec
    if 2 * 2 ^ expPrec ≤ y2 then log2Frac k (y2 / 2) (2 * acc + 1) else log2Frac k y2 (2 * acc)

def log2F (t : Fmt) : FV → Nat × Flags
  | .nan => nanRes t 0
  | .inf s => if s then nanRes t flagNV else infRes t false
  | .fin s m e =>
    if m = 0 then infRes t true
    else if s then nanRes t flagNV
    else
      let k : Int := (m.log2 : Int) + e
      let y := m * 2 ^ expPrec / 2 ^ m.log2
      if y = 2 ^ expPrec then
        if k = 0 then (0, 0) else truncTo t (k < 0) k.natAbs 1 0
      else
        let l := log2Frac 96 y 0
        if 0 ≤ k then truncTo t false (k.toNat * 2 ^ 96 + l) 1 (-96)
        else truncTo t true ((-k).toNat * 2 ^ 96 - (l + 1)) 1 (-96)

end Sys2Proof.Machine
end

