-- ==== Sys2Proof/Machine/Flags.lean ====
section
/-! DEFINITION. The fields of fmt that parts read, the tests of FMT.SET, the sticky flags that parts raise, and the
stochastic generator (R94–R98). -/

namespace Sys2Proof.Machine

/-- Fields of fmt (Table 7·4). -/
def fmtA (f : Word) : Option Fmt := fmtOf (field f 59 5)
def fmtB (f : Word) : Option Fmt := fmtOf (field f 54 5)
def fmtAcc (f : Word) : Bool := bitOf f 53
def fmtAsc (f : Word) : Nat := field f 51 2
def fmtBsc (f : Word) : Nat := field f 49 2
def fmtBlk16 (f : Word) : Bool := bitOf f 48
def fmtSat (f : Word) : Bool := bitOf f 44

/-- RND as a rounding that takes draw k when it is stochastic (R97). -/
def fmtRnd (f : Word) (k : Nat) : Rnd :=
  match field f 45 3 with
  | 0 => .rne
  | 1 => .rtz
  | 2 => .rdn
  | 3 => .rup
  | _ => .sto k

/-- RND with stochastic acting as RNE. -/
def fmtRndDet (f : Word) : Rnd := (fmtRnd f 0).det

/-- The test of R95 on the value that an FMT.SET would leave. -/
def fmtLegal (f : Word) : Bool :=
  (fmtA f).isSome && (fmtB f).isSome && decide (fmtAsc f < 3) && decide (fmtBsc f < 3) && decide (field f 45 3 < 5) &&
    field f 6 38 = 0 && !(fmtBlk16 f && (fmtAsc f = 1 || fmtBsc f = 1))

/-! ## fmt as parts see it (R94, R96, R145) -/

/-- fmt with its sticky flags replaced. -/
def withFlags (fmt : Word) (f : BitVec 6) : Word := setField fmt 0 6 f.toNat

/-- fmt with its configuration, bits [63:6], replaced. -/
def withConfig (fmt cfg : Word) : Word := setField fmt 6 58 (field cfg 6 58)

/-- fmt with the configurations that show at a nominal count (R145). -/
def Core.fmtAt (c : Core) (n : Nat) : Word := c.fmtQ.foldl (fun f q => if q.1 ≤ n then withConfig f q.2 else f) c.live.fmt

/-- fmt as a part of the bundle in focus runs under it (R145). -/
def Core.fmt (c : Core) : Word := c.fmtAt c.lat.at_

/-- The sticky flags as they stand: those written, and those of results that have landed (R96). -/
def Core.sticky (c : Core) : BitVec 6 :=
  c.flagQ.foldl (fun f q => if q.1 ≤ c.elapsed then f ||| q.2 else f) (c.live.fmt.setWidth 6)

/-- The configurations that every bundle from a nominal count on sees. -/
def Core.mature (c : Core) (n : Nat) : Core :=
  { c with live := { c.live with fmt := c.fmtAt n }, fmtQ := c.fmtQ.filter fun q => n < q.1 }

/-- The flags that landed before a cycle. -/
def Core.landFlags (c : Core) (e : Nat) : Core :=
  { c with
    live := { c.live with
      fmt := withFlags c.live.fmt (c.flagQ.foldl (fun f q => if q.1 < e then f ||| q.2 else f) (c.live.fmt.setWidth 6)) }
    flagQ := c.flagQ.filter fun q => e ≤ q.1 }

/-- Every configuration and flag shows: a suspension point ends the shadow (R128, R145). -/
def Core.settleFmt (c : Core) : Core :=
  let cfg := c.fmtQ.foldl (fun f q => withConfig f q.2) c.live.fmt
  let fl := c.flagQ.foldl (fun f q => f ||| q.2) (c.live.fmt.setWidth 6)
  { c with live := { c.live with fmt := withFlags cfg fl }, fmtQ := [], flagQ := [] }

/-- Flags raised by a result of latency L: they are ORed in when it lands, L cycles after issue (R96). -/
def Core.raise (c : Core) (lat : Nat) (f : Flags) : Core :=
  if f = 0 then c else { c with flagQ := c.flagQ ++ [(c.elapsed + lat, f)] }

/-- Flags that an engine ORs in at the end of its last beat (R96). -/
def Core.raiseNow (c : Core) (f : Flags) : Core := c.raise 0 f

/-! ## CORE.SRND (R98) -/

/-- CORE.SRND after draws: bundles in flight keep the value from before them (R148). -/
def Core.setSrnd (c : Core) (x : Word) : Core :=
  let note := fun (b : Latch) => { b with srnd := some (b.srnd.getD c.srnd) }
  { c with srnd := x, older := c.older.map note, lat := note c.lat }

/-- One step of CORE.SRND (R98). -/
def srndNext (x : Word) : Word :=
  let a := x ^^^ (x <<< 13)
  let b := a ^^^ (a >>> 7)
  b ^^^ (b <<< 17)

/-- The draw that a generator state gives. -/
def srndDraw (x : Word) : Nat := field x 48 16

/-- The generator after n draws. -/
def srndAfter (x : Word) : Nat → Word
  | 0 => x
  | n + 1 => srndAfter (srndNext x) n

/-- RND is stochastic. -/
def fmtSto (f : Word) : Bool := field f 45 3 = 4

end Sys2Proof.Machine
end

