-- ==== Sys2Proof/Machine/Codes.lean ====
section
/-! DEFINITION. What a rim agent does with the bytes of a granule: the Reed–Solomon codes of R331 and where their symbols
stand, and the AES-256-XTS of R335. -/

namespace Sys2Proof.Machine

/-! ## GF(256) -/

/-- A byte times x, modulo a polynomial of degree 8. -/
def gfTimes (poly a : Nat) : Nat := if 128 ≤ a then (2 * a) ^^^ poly else 2 * a

/-- A product of two bytes. -/
def gfMul (poly a b : Nat) : Nat :=
  ((List.range 8).foldl (fun (acc : Nat × Nat) i =>
    (if bitAt b i then acc.1 ^^^ acc.2 else acc.1, gfTimes poly acc.2)) (0, a)).1

/-! ## Reed–Solomon (R331) -/

/-- The field polynomial x^8 + x^4 + x^3 + x^2 + 1. -/
def rsPoly : Nat := 0x11D

/-- Powers of α. -/
def rsAlpha : Nat → Nat
  | 0 => 1
  | n + 1 => gfTimes rsPoly (rsAlpha n)

/-- A polynomial, highest coefficient first, times x + r. -/
def polyTimes (p : List Nat) (r : Nat) : List Nat :=
  List.zipWith (· ^^^ ·) (p ++ [0]) (0 :: p.map (gfMul rsPoly r))

/-- The generator with roots α^0 to α^(m − 1), highest coefficient first. -/
def rsGenerator : Nat → List Nat
  | 0 => [1]
  | m + 1 => polyTimes (rsGenerator m) (rsAlpha m)

/-- One step of the division: the next data symbol comes in. -/
def rsShift (g rem : List Nat) (d : Nat) : List Nat :=
  let f := (rem.headD 0) ^^^ d
  List.zipWith (fun r c => r ^^^ gfMul rsPoly f c) (rem.drop 1 ++ [0]) (g.drop 1)

/-- The m check symbols of a codeword's data symbols, first symbol highest. -/
def rsCheck (m : Nat) (data : List Nat) : List Nat := data.foldl (rsShift (rsGenerator m)) (List.replicate m 0)

/-- Codewords of a granule, data and check symbols of each, and how many symbols of each are corrected (Table 23·5). -/
def codeShape : Nat → Nat × Nat × Nat × Nat
  | 0 => (1, 32, 4, 2)
  | 1 => (1, 64, 8, 4)
  | 2 => (1, 128, 16, 8)
  | _ => (4, 128, 16, 8)

/-- The data symbols of a codeword: under G512 those whose index is q mod 4. -/
def codeData (gran q : Nat) (granule : List Nat) : List Nat :=
  (granule.zipIdx.filter fun b => b.2 % (codeShape gran).1 = q).map (·.1)

/-- The check bytes of a granule, codeword by codeword. -/
def granCheck (gran : Nat) (granule : List Nat) : List (List Nat) :=
  (List.range (codeShape gran).1).map fun q => rsCheck (codeShape gran).2.2.1 (codeData gran q granule)

/-- Where the data byte of an index stands: the channel within the granule, the pseudo-channel, and the place in the raw
stream of that pseudo-channel's burst (Table 23·5); `pc` is PA[6] of the granule. -/
def dataPlace (gran pc i : Nat) : Nat × Nat × Nat :=
  match gran with
  | 0 | 1 => (0, pc, i)
  | 2 => (0, i / 64, i % 64)
  | _ => (i / 128, i % 128 / 64, i % 64)

/-- Where check byte i of codeword q stands: behind the data of its burst, one check byte for every 8 data bytes. Under G512
a channel holds 4 check bytes of each codeword, 8 in each pseudo-channel; their order there is the model's (log entry 11). -/
def checkPlace (gran pc q i : Nat) : Nat × Nat × Nat :=
  match gran with
  | 0 => (0, pc, 32 + i)
  | 1 => (0, pc, 64 + i)
  | 2 => (0, i / 8, 64 + i % 8)
  | _ => (i / 4, i % 4 / 2, 64 + 4 * (i % 2) + q)

/-- The device chunk of a place: any aligned 8 bytes of the raw stream. -/
def chunkOf (p : Nat × Nat × Nat) : Nat × Nat × Nat := (p.1, p.2.1, p.2.2 / 8)

/-- Symbols in error, each a codeword and an index below n, are corrected when no codeword has more of them than its code
corrects. -/
def codeCorrects (gran : Nat) (errs : List (Nat × Nat)) : Bool :=
  (List.range (codeShape gran).1).all fun q => decide ((errs.dedup.filter fun e => e.1 = q).length ≤ (codeShape gran).2.2.2)

/-! ## AES-256 (R335) -/

def aesMul : Nat → Nat → Nat := gfMul 0x11B

/-- A byte to a power. -/
def aesPow (a : Nat) : Nat → Nat
  | 0 => 1
  | n + 1 => aesMul a (aesPow a n)

/-- A byte turned left by n bits. -/
def rotByte (a n : Nat) : Nat := (a * 2 ^ n + a / 2 ^ (8 - n)) % 256

/-- SubBytes of one byte: the inverse in the field, then the affine map. -/
def aesSub (a : Nat) : Nat :=
  let b := aesPow a 254
  b ^^^ rotByte b 1 ^^^ rotByte b 2 ^^^ rotByte b 3 ^^^ rotByte b 4 ^^^ 0x63

/-- The byte that SubBytes takes to a. -/
def aesUnsub (a : Nat) : Nat :=
  let b := rotByte a 1 ^^^ rotByte a 3 ^^^ rotByte a 6 ^^^ 0x05
  aesPow b 254

/-- ShiftRows and its inverse on 16 bytes, column by column. -/
def aesRows (st : List Nat) : List Nat := (List.range 16).map fun i => st.getD ((i + 4 * (i % 4)) % 16) 0
def aesUnrows (st : List Nat) : List Nat := (List.range 16).map fun i => st.getD ((i + 12 * (i % 4)) % 16) 0

/-- A column times a circulant matrix with a first row. -/
def aesColumn (row col : List Nat) : List Nat :=
  (List.range 4).map fun r => ((List.range 4).map fun c => aesMul (row.getD ((c + 4 - r) % 4) 0) (col.getD c 0)).foldl (· ^^^ ·) 0

def aesColumns (row st : List Nat) : List Nat :=
  (List.range 4).flatMap fun c => aesColumn row ((st.drop (4 * c)).take 4)

def xorBytes (a b : List Nat) : List Nat := List.zipWith (· ^^^ ·) a b

/-- The key schedule: one more word behind those there are. -/
def aesNextWord (ws : List (List Nat)) : List Nat :=
  let i := ws.length
  let t := ws.getLastD []
  let u :=
    if i % 8 = 0 then xorBytes ((t.drop 1 ++ t.take 1).map aesSub) [2 ^ (i / 8 - 1), 0, 0, 0]
    else if i % 8 = 4 then t.map aesSub
    else t
  xorBytes (ws.getD (i - 8) []) u

/-- The 60 words of a 32-byte key. -/
def aesSchedule (key : List Nat) : List (List Nat) :=
  (List.range 52).foldl (fun ws _ => ws ++ [aesNextWord ws]) ((List.range 8).map fun i => (key.drop (4 * i)).take 4)

/-- The round key of a round. -/
def roundKey (ws : List (List Nat)) (r : Nat) : List Nat := ((ws.drop (4 * r)).take 4).flatten

/-- One block of 16 bytes enciphered. -/
def aesEncrypt (key block : List Nat) : List Nat :=
  let ws := aesSchedule key
  let st := (List.range 13).foldl (fun st r =>
    xorBytes (aesColumns [2, 3, 1, 1] (aesRows (st.map aesSub))) (roundKey ws (r + 1))) (xorBytes block (roundKey ws 0))
  xorBytes (aesRows (st.map aesSub)) (roundKey ws 14)

/-- One block of 16 bytes deciphered. -/
def aesDecrypt (key block : List Nat) : List Nat :=
  let ws := aesSchedule key
  let st := (List.range 13).foldl (fun st r =>
    aesColumns [14, 11, 13, 9] (xorBytes ((aesUnrows st).map aesUnsub) (roundKey ws (13 - r)))) (xorBytes block (roundKey ws 14))
  xorBytes ((aesUnrows st).map aesUnsub) (roundKey ws 0)

/-! ## XTS (R335) -/

/-- The next block's tweak. -/
def xtsTimes (t : Nat) : Nat := if 2 ^ 127 ≤ t then (2 * t % 2 ^ 128) ^^^ 0x87 else 2 * t

/-- A number as 16 bytes, lowest first, and back. -/
def bytes16 (n : Nat) : List Nat := (List.range 16).map fun i => n / 2 ^ (8 * i) % 256
def num16 (bs : List Nat) : Nat := (bs.zipIdx.map fun b => b.1 * 2 ^ (8 * b.2)).sum

/-- A data unit of whole blocks under a 64-byte key pair and a tweak: the first half ciphers the blocks, the second the
tweak, which is the 52-bit physical address of the granule extended with zeros. -/
def xtsUnit (block : List Nat → List Nat → List Nat) (key : List Nat) (tweak : Nat) (unit : List Nat) : List Nat :=
  ((List.range (unit.length / 16)).foldl (fun (acc : Nat × List Nat) i =>
    let t := bytes16 acc.1
    (xtsTimes acc.1, acc.2 ++ xorBytes (block (key.take 32) (xorBytes ((unit.drop (16 * i)).take 16) t)) t))
    (num16 (aesEncrypt (key.drop 32) (bytes16 tweak)), [])).2

def xtsEncrypt (key : List Nat) (tweak : Nat) (unit : List Nat) : List Nat := xtsUnit aesEncrypt key tweak unit
def xtsDecrypt (key : List Nat) (tweak : Nat) (unit : List Nat) : List Nat := xtsUnit aesDecrypt key tweak unit

end Sys2Proof.Machine
end

