-- ==== Sys2Proof/Machine/Dram.lean ====
section
/-! DEFINITION. DRAM as its rim agents read and write it (R329–R335, R422): where a byte stands under each map, what a
granule reads as, the errors of granules, and the channels and keys of a partition. -/

namespace Sys2Proof.Machine

/-! ## Where a byte stands (R329, R330) -/

/-- The wafer a physical address names (R329). -/
def paWafer (pa : Nat) : Nat := pa / 2 ^ 41 % 2048

/-- Bytes of a granule (Table 23·5). -/
def granBytes : Nat → Nat
  | 0 => 32
  | 1 => 64
  | 2 => 128
  | _ => 512

/-- The place of a DRAM byte, named by the address that it has under the map of G32, G64 and G128: the byte that G512 puts at
edge h div 2, channel 2c + h mod 2 and offset PA[32:9] ‖ PA[6:0], with h := PA[8:7] (Table 23·4). -/
def dramAddr (gran pa : Nat) : Nat :=
  if gran = 3 then
    pa / 2 ^ 33 * 2 ^ 33 + pa / 2 ^ 8 % 2 * 2 ^ 32 + pa / 2 ^ 7 % 2 * 2 ^ 31 + pa % 2 ^ 33 / 2 ^ 9 * 2 ^ 7 + pa % 2 ^ 7
  else pa

/-- The address of a place under a GRAN's map. -/
def dramPa (gran a : Nat) : Nat :=
  if gran = 3 then
    a / 2 ^ 33 * 2 ^ 33 + a % 2 ^ 31 / 2 ^ 7 * 2 ^ 9 + a / 2 ^ 32 % 2 * 2 ^ 8 + a / 2 ^ 31 % 2 * 2 ^ 7 + a % 2 ^ 7
  else a

/-- The channel of a place, 512 × edge + 32 × stack + channel, its pseudo-channel, and its offset in the channel (R15,
Table 23·4). -/
def channelAt (a : Nat) : Nat :=
  let x := a / 2 ^ 33 % 256
  512 * (a / 2 ^ 32 % 2) + 32 * (x / 16) + 2 * (x % 16) + a / 2 ^ 31 % 2
def pseudoAt (a : Nat) : Nat := a / 2 ^ 6 % 2
def offsetAt (a : Nat) : Nat := a % 2 ^ 31

/-- The channels that a range touches (Table 23·4): under G512 four of each column once the range is as long as a granule. -/
def channelsOf (pa n gran : Nat) : List Nat :=
  if n = 0 then []
  else if gran = 3 then
    if n < 512 then ((List.range ((pa + n - 1) / 128 - pa / 128 + 1)).map fun i => channelAt (dramAddr 3 ((pa / 128 + i) * 128))).dedup
    else (List.range ((pa + n - 1) / 2 ^ 33 - pa / 2 ^ 33 + 1)).flatMap fun i =>
      (List.range 4).map fun h => channelAt ((pa / 2 ^ 33 + i) * 2 ^ 33 + h * 2 ^ 31)
  else (List.range ((pa + n - 1) / 2 ^ 31 - pa / 2 ^ 31 + 1)).map fun i => channelAt ((pa / 2 ^ 31 + i) * 2 ^ 31)

/-! ## Bytes and granules -/

/-- The parts of a range that lie in one 32-byte piece each. -/
def pieceParts (pa n : Nat) : List (Nat × Nat) :=
  if n = 0 then []
  else (List.range ((pa + n - 1) / 32 - pa / 32 + 1)).map fun i =>
    let a := if i = 0 then pa else (pa / 32 + i) * 32
    (a, min (pa + n) ((a / 32 + 1) * 32) - a)

/-- Stored bytes of a range under a map, and a store with such a range written. -/
def Mem.dram (m : Mem) (gran pa n : Nat) : List Byte :=
  if gran = 3 then (pieceParts pa n).flatMap fun p => m.run (dramAddr 3 p.1) p.2 else m.run pa n
def Mem.dramPut (m : Mem) (gran pa : Nat) (bs : List Byte) : Mem :=
  if gran = 3 then
    (pieceParts pa bs.length).foldl (fun m p => m.write (dramAddr 3 p.1) ((bs.drop (p.1 - pa)).take p.2)) m
  else m.write pa bs

/-- The granules that a range touches, by address. -/
def granules (pa n gran : Nat) : List Nat :=
  let g := granBytes gran
  if n = 0 then [] else (List.range ((pa + n - 1) / g - pa / g + 1)).map fun i => (pa / g + i) * g

/-- The 32-byte pieces of a granule, by number of place. -/
def granPieces (gran q : Nat) : List Nat := (List.range (granBytes gran / 32)).map fun i => dramAddr gran (q + 32 * i) / 32

/-- The granule of an address lies wholly inside a range. -/
def covered (q pa n gran : Nat) : Bool := decide (pa ≤ q) && decide (q + granBytes gran ≤ pa + n)

/-- A plain piece in a granule of zeros: its check bytes are zeros under every GRAN (R333). -/
def Hbm.zeroPiece (h : Hbm) (p : Nat) : Bool :=
  match Table.find h.tags p with
  | none => true
  | some t => t.key = 0 &&
      (granPieces t.gran (dramPa t.gran (32 * p) / granBytes t.gran * granBytes t.gran)).all fun x =>
        (h.bytes.run (32 * x) 32).all fun b => b = 0

/-- A piece reads as written: it was written under the same GRAN and key, or under the same GRAN as it is stored (R334,
R422, R426). What nothing has written was never enciphered. -/
def Hbm.matches (h : Hbm) (gran key p : Nat) : Bool :=
  match Table.find h.tags p with
  | none => key = 0
  | some t => t.gran = gran && (t.raw || t.key = key)

/-- A granule reads without error as what was written (R333, R334, R422). -/
def Hbm.exact (h : Hbm) (gran key q : Nat) : Bool :=
  ((granPieces gran q).all fun p => h.matches gran key p) || (key = 0 && (granPieces gran q).all fun p => h.zeroPiece p)

/-- A piece of the granule was last written under another GRAN, so that its code may not fit (R334). -/
def Hbm.misfit (h : Hbm) (gran q : Nat) : Bool :=
  (granPieces gran q).any fun p => (Table.find h.tags p).elim false fun t => t.gran ≠ gran

/-- A granule is uncorrectable (R332). -/
def Hbm.bad (h : Hbm) (gran q : Nat) : Bool := (granPieces gran q).any fun p => h.poison.contains (32 * p)

/-- The granules of a range made uncorrectable, until stores cover them (R332, R384). -/
def Hbm.taint (h : Hbm) (gran pa n : Nat) : Hbm :=
  let ps := (granules pa n gran).flatMap fun q => (granPieces gran q).map (32 * ·)
  { h with poison := ps ++ h.poison.filter fun p => !ps.contains p }

/-- Free bytes from a place of the counter on. -/
def freeBytes (n k : Nat) : List Byte := (List.range k).map fun i => Config.freeByte (n + i)

/-- A free 16-bit number. -/
def freeHalf (n : Nat) : Nat := (Config.freeByte n).toNat + 256 * (Config.freeByte (n + 1)).toNat

/-- One of n outcomes of which a rule leaves open which occurs (R9), by a free value; the only one when there is one (log
entry 2). -/
def State.choice (s : State) (n : Nat) : Nat := if n ≤ 1 then 0 else ofBytes (freeBytes s.freeCtr 4) % n

/-- The free value of a choice among n is used up. -/
def State.chosen (s : State) (n : Nat) : State := if n ≤ 1 then s else { s with freeCtr := s.freeCtr + 4 }

/-- The key pair of an install (R335, R419). -/
def State.keyPair (s : State) (id : Nat) : List Nat :=
  (((s.parts.flatMap fun p => p.2.keys.map (·.2)).find? fun k => k.id = id).map fun k => k.key.map BitVec.toNat).getD []

/-- The bytes of a granule as they are stored, from those that a task sees, and back (R335). -/
def State.sealed (s : State) (key q : Nat) (bs : List Byte) : List Byte :=
  if key = 0 then bs else (xtsEncrypt (s.keyPair key) q (bs.map BitVec.toNat)).map (BitVec.ofNat 8)
def State.opened (s : State) (key q : Nat) (bs : List Byte) : List Byte :=
  if key = 0 then bs else (xtsDecrypt (s.keyPair key) q (bs.map BitVec.toNat)).map (BitVec.ofNat 8)

/-- What a granule decodes and decrypts to: its bytes, or free ones where it was written otherwise (R334, R422). -/
def State.granRead (s : State) (gran key q : Nat) : List Byte :=
  if s.hbm.exact gran key q then s.opened key q (s.hbm.bytes.dram gran q (granBytes gran))
  else freeBytes (s.freeCtr + q) (granBytes gran)

/-- n bytes of DRAM under a GRAN and a key; none when a granule is uncorrectable (R332). A granule written otherwise
gives free bytes, and under another GRAN perhaps an error (R334, R422). -/
def State.readPa (s : State) (pa n gran key : Nat) : State × Option (List Byte) :=
  let qs := granules pa n gran
  if qs.any fun q => s.hbm.bad gran q then (s, none)
  else if qs.all fun q => s.hbm.exact gran key q then
    (s, some (if key = 0 then s.hbm.bytes.dram gran pa n
      else ((qs.flatMap (s.granRead gran key)).drop (pa - qs.headD 0)).take n))
  else
    let err := (qs.any fun q => !s.hbm.exact gran key q && s.hbm.misfit gran q) && Config.freeBit s.freeCtr
    ({ s with freeCtr := s.freeCtr + pa + n + 1024 },
     if err then none else some (((qs.flatMap (s.granRead gran key)).drop (pa - qs.headD 0)).take n))

/-- A granule's bytes with those of a range laid over them. -/
def laidOver (base : List Byte) (q pa : Nat) (bs : List Byte) : List Byte :=
  base.take (pa - q) ++ (bs.drop (q - pa)).take (base.length - (pa - q)) ++ base.drop (pa + bs.length - q)

/-- A merge into a granule leaves it uncorrectable: its read was (R332). One last written under another GRAN may be (R334). -/
def State.mergeBad (s : State) (gran key q : Nat) : Bool :=
  s.hbm.bad gran q || (!s.hbm.exact gran key q && s.hbm.misfit gran q && Config.freeBit (s.freeCtr + q))

/-- Bytes written to DRAM: whole granules are stored, the others merged with what a read of them gives, each enciphered under
its key (R207, R332, R335). A merge with an uncorrectable granule leaves it poisoned until a store covers it. -/
def State.writePa (s : State) (pa : Nat) (bs : List Byte) (gran key : Nat) : State :=
  let qs := granules pa bs.length gran
  let plain := key = 0 && qs.all fun q => covered q pa bs.length gran || s.hbm.exact gran key q
  let ps := fun (q : Nat) => (granPieces gran q).map (32 * ·)
  let gone := qs.flatMap ps
  { s with
    hbm := { s.hbm with
      bytes := if plain then s.hbm.bytes.dramPut gran pa bs
        else qs.foldl (fun m q => m.dramPut gran q (s.sealed key q (laidOver (s.granRead gran key q) q pa bs))) s.hbm.bytes
      tags := (qs.flatMap (granPieces gran)).foldl (fun t p => Table.set t p { gran := gran, key := key }) s.hbm.tags
      poison := (s.hbm.poison.filter fun p => !gone.contains p) ++
        (qs.filter fun q => !covered q pa bs.length gran && s.mergeBad gran key q).flatMap ps }
    freeCtr := if plain then s.freeCtr else s.freeCtr + pa + bs.length + 1024 }

/-- The G64 map with key slot 0, bypassing every store buffer: page tables, queues, images (R308, R313, R321). -/
def State.readG64 (s : State) (pa n : Nat) : State × Option (List Byte) := s.readPa pa n 1 0
def State.writeG64 (s : State) (pa : Nat) (bs : List Byte) : State := s.writePa pa bs 1 0

/-! ## Channels, rim agents and keys -/

/-- The rim agent of a place: 16 × edge + stack. -/
def rimOf (pa gran : Nat) : Nat := (channelsOf pa 1 gran).headD 0 / 32

/-- The count of a rim agent (R4). -/
def State.rimNow (s : State) (e : Nat) : Nat := Table.get 0 s.wafer.rimCycles e

/-- The partition owns the channel (R330, R400, R418). -/
def Part.owns (p : Part) (ch : Nat) : Bool := p.owned.contains (ch / 32) && !p.gone.contains ch

/-- A range lies on this wafer in channels that the partition owns (R296, R308, R313). -/
def State.ownsRange (s : State) (p pa n gran : Nat) : Bool :=
  paWafer pa = s.wafer.number && paWafer (pa + n - 1) = s.wafer.number &&
    (channelsOf pa n gran).all fun c => (s.partAt p).owns c

/-- The key slot n of a partition as a key number: 0 is plaintext (R419). -/
def State.keyId (s : State) (p n : Nat) : Nat :=
  if n = 0 then 0 else (Table.get {} (s.partAt p).keys n).id

/-- The slot is loaded for the tenant (R324 step 5, R419, R422). -/
def State.keyUsable (s : State) (p n tenant : Nat) : Bool :=
  n = 0 || (let k := Table.get {} (s.partAt p).keys n; k.state = 1 && k.tenant = tenant)

/-! ## Leased units -/

/-- The record of a unit: type and number (R392). -/
def unitKey (ty no : Nat) : Nat := ty * 2 ^ 20 + no
def State.unitAt (s : State) (ty no : Nat) : UnitState := Table.get {} s.wafer.units (unitKey ty no)

/-- A unit that is away from its work (Table 29·2). -/
def Lease.away : Lease → Bool
  | .save | .test | .restore | .retire | .retired => true
  | _ => false

/-- A range is homed on another wafer (R329). -/
def State.abroad (s : State) (pa : Nat) : Bool := paWafer pa ≠ s.wafer.number

/-- The Bolsar port that an address, or a name of a partition, takes to a wafer (R431). -/
def State.portTo (s : State) (wafer stem : Nat) : Option Nat :=
  let r := Table.get 0 s.wafer.bolsar wafer
  let ports := (List.range 32).filter fun i => bitOf r i
  if wafer = s.wafer.number || !bitOf r 63 || ports.isEmpty then none else ports[Config.portHash stem % ports.length]?

/-- Every channel that a range touches answers requests: a quiesced one holds them (R338, R399). A range homed on another wafer
asks for a port to it (R329, R431). -/
def State.channelsUp (s : State) (pa n gran : Nat) : Bool :=
  if s.abroad pa then (s.portTo (paWafer pa) (pa / 64)).isSome
  else (channelsOf pa n gran).all fun c => (s.unitAt 2 c).lease ≠ .test

/-- A configuration region is being reloaded: the traffic that it serves stands still (R387). -/
def State.reloading (s : State) (unit no : Nat) : Bool := s.reloads.any fun r => r.unit = unit && r.no = no

end Sys2Proof.Machine
end

