-- ==== Sys2Proof/Machine/Xlat.lean ====
section
/-! DEFINITION. Translation: the walk of R321 to R326, the TLBs of R327, the checks of R325, R422 and R431, and the
stream ranges of R339 and R340. -/

namespace Sys2Proof.Machine

/-- A failed translation: its cause (Table 27·1), the walk level it reached, and the address at which a range failed. The
cause `heldBack` is no fault: a channel under a lease holds the request (R338). -/
structure XFault where
  cause : Nat
  level : Nat := 0
  at_   : Option Nat := none
  deriving DecidableEq, Repr, Inhabited

/-- How an access uses a translation (R325). -/
inductive Use where
  | load | store | fetch | dict
  deriving DecidableEq, Repr, Inhabited

/-- Bytes that a leaf of a level maps (R321). -/
def leafBytes : Nat → Nat
  | 0 => 0x1000
  | 1 => 0x200000
  | _ => 0x40000000

/-- The index of a virtual address at a level (R321). -/
def walkIndex (va level : Nat) : Nat := va / 2 ^ (12 + 9 * level) % 512

/-- A page-table entry without its A and D bits (R326). -/
def pteCore (e : Nat) : Nat := e - e / 2 ^ 10 % 4 * 2 ^ 10

/-- The address PA[51:12] of an entry. -/
def ptePa (e : Nat) : Nat := e / 2 ^ 12 % 2 ^ 40 * 2 ^ 12

/-- An 8-byte entry read at the home rim agent under G64 with key slot 0 (R321); none when uncorrectable. -/
def State.readPte (s : State) (a : Nat) : State × Option Nat :=
  let r := s.readG64 a 8
  (r.1, r.2.map ofBytes)

/-- Reserved bits and values of an entry at a level (R324, item 3). -/
def pteBad (wafer level e : Nat) : Bool :=
  let leaf := bitAt e 1
  if leaf then
    bitsAt e 60 4 ≠ 0 || decide (2 < level) || (bitAt e 2 && bitAt e 3) || ptePa e % leafBytes level ≠ 0
  else
    bitsAt e 60 4 ≠ 0 || bitsAt e 52 8 ≠ 0 || bitsAt e 2 10 ≠ 0 || level = 0 || paWafer (ptePa e) ≠ wafer

/-- The CONT group of an entry agrees (R323). -/
def contOk (wafer level : Nat) (es : List Nat) : Bool :=
  match es with
  | [] => false
  | e0 :: _ =>
    decide (ptePa e0 % (16 * leafBytes level) = 0) &&
      (es.zipIdx.all fun p => bitAt p.1 0 && bitAt p.1 1 && !pteBad wafer level p.1 &&
        decide (ptePa p.1 = ptePa e0 + p.2 * leafBytes level) &&
        decide (pteCore p.1 - ptePa p.1 = pteCore e0 - ptePa e0))

/-- A leaf that the walk found. -/
structure Leaf where
  entry : Nat          -- the entry's value
  at_   : Nat          -- its physical address
  level : Nat
  deriving DecidableEq, Repr, Inhabited

/-- The walk from a table of a level down; fuel is the level (R321, R324). -/
def State.walkFrom (s : State) (va : Nat) : (level : Nat) → (table : Nat) → State × Except XFault Leaf
  | 0, table =>
    let a := table + 8 * walkIndex va 0
    let r := s.readPte a
    if !s.channelsUp a 8 1 then (s, .error { cause := heldBack })
    else
      match r.2 with
      | none => (r.1, .error { cause := walkFault, level := 0 })
      | some e =>
        if !bitAt e 0 then (r.1, .error { cause := pageFault, level := 0 })
        else if pteBad s.wafer.number 0 e then (r.1, .error { cause := walkFault, level := 0 })
        else (r.1, .ok { entry := e, at_ := a, level := 0 })
  | l + 1, table =>
    let a := table + 8 * walkIndex va (l + 1)
    let r := s.readPte a
    if !s.channelsUp a 8 1 then (s, .error { cause := heldBack })
    else
      match r.2 with
      | none => (r.1, .error { cause := walkFault, level := l + 1 })
      | some e =>
        if !bitAt e 0 then (r.1, .error { cause := pageFault, level := l + 1 })
        else if pteBad s.wafer.number (l + 1) e then (r.1, .error { cause := walkFault, level := l + 1 })
        else if bitAt e 1 then (r.1, .ok { entry := e, at_ := a, level := l + 1 })
        else State.walkFrom r.1 va l (ptePa e)

/-- The enabled root of a tenant (R320). -/
def Part.root (p : Part) (tenant : Nat) : Option Nat :=
  (p.roots.find? fun r => bitOf r 0 && field r 52 12 = tenant).map fun r => field r 12 40 * 2 ^ 12

/-- The entries of the group of 16 that an entry address lies in (R323). -/
def State.readGroup (s : State) (a : Nat) : State × List (Option Nat) :=
  (List.range 16).foldl (fun acc i =>
    let r := acc.1.readPte (a / 128 * 128 + 8 * i)
    (r.1, acc.2 ++ [r.2])) (s, [])

/-- The last checks of a walk, at the leaf (R324 items 4 and 5, R431), and the translation. -/
def State.leafEntry (s : State) (p tenant va : Nat) (l : Leaf) : State × Except XFault TlbEntry :=
  let e := l.entry
  let cont := bitAt e 4
  let g := if cont then s.readGroup l.at_ else (s, [])
  let es := g.2.filterMap id
  let bad : XFault := { cause := walkFault, level := l.level }
  if cont && (decide (es.length < 16) || !contOk s.wafer.number l.level es) then (g.1, .error bad)
  else
    let size := if cont then 16 * leafBytes l.level else leafBytes l.level
    let base := if cont then ptePa (es.headD 0) else ptePa e
    let gran := bitsAt e 5 2
    let w := paWafer base
    let route := Table.get 0 s.wafer.bolsar w
    if 1151 < w then (g.1, .error bad)
    else if w = s.wafer.number && !((channelsOf base size gran).all fun c => (s.partAt p).owns c) then (g.1, .error bad)
    else if !s.keyUsable p (bitsAt e 52 8) tenant then (g.1, .error bad)
    else if w ≠ s.wafer.number && !(bitOf route 63 && bitOf route (32 + p)) then (g.1, .error { cause := walkFault })
    else (g.1, .ok { tenant := tenant, part := p, va := va / size * size, size := size, pa := base,
                     key := bitsAt e 52 8, dirty := bitAt e 11, lat := bitsAt e 8 2, fe := bitAt e 7, gran := gran,
                     x := bitAt e 3, w := bitAt e 2 })

/-- A and D are set in the entry of the sub-page that the access touched (R326): the compare-and-set finds the entry
as the walk read it, since the walk is one step. -/
def State.setAD (s : State) (l : Leaf) (write : Bool) : State :=
  let e := l.entry
  let e1 := if bitAt e 10 then e else e + 2 ^ 10
  let e2 := if write && !bitAt e 11 then e1 + 2 ^ 11 else e1
  if e2 = e then s else s.writeG64 l.at_ (toBytes 8 e2)

/-- A whole walk (R320, R324, R326). -/
def State.walk (s : State) (p tenant va : Nat) (write : Bool) : State × Except XFault TlbEntry :=
  match (s.partAt p).root tenant with
  | none => (s, .error { cause := pageFault, level := 4 })
  | some root =>
    let r := s.walkFrom va 4 root
    match r.2 with
    | .error f => (r.1, .error f)
    | .ok l =>
      let q := r.1.leafEntry p tenant va l
      match q.2 with
      | .error f => (q.1, .error f)
      | .ok t =>
        if write && !t.w then (q.1.setAD l false, .ok t)
        else (q.1.setAD l write, .ok { t with dirty := t.dirty || write })

/-- A TLB entry covers an address of a tenant (R327). -/
def TlbEntry.covers (t : TlbEntry) (p tenant va : Nat) : Bool :=
  t.part = p && t.tenant = tenant && decide (t.va ≤ va) && decide (va < t.va + t.size)

/-- What a TLB holds beside an entry's own place. -/
def tlbRest (t : TlbEntry) (l : List TlbEntry) : List TlbEntry :=
  l.filter fun u => !(u.part = t.part && u.tenant = t.tenant && u.va = t.va && u.size = t.size)

/-- How many entries may make room for an entry: all of them when the TLB is full, and else none has to. -/
def tlbLosers (cap : Nat) (t : TlbEntry) (l : List TlbEntry) : Nat :=
  if (tlbRest t l).length < cap then 0 else (tlbRest t l).length

/-- An entry put into a TLB, which drops entry v when it is full (log entry 8). -/
def tlbPut (cap v : Nat) (t : TlbEntry) (l : List TlbEntry) : List TlbEntry :=
  t :: if (tlbRest t l).length < cap then tlbRest t l else removeAt (tlbRest t l) v

/-- The TLBs of the current core, its cluster and its field with an entry put in (R327); which entry of a full one goes is
a free value (log entry 8). -/
def State.tlbFill (s : State) (t : TlbEntry) : State :=
  let q := clusterOf s.cur
  let n1 := tlbLosers Config.microTlb t s.core.utlb
  let s1 := (s.chosen n1).onCore fun c => { c with utlb := tlbPut Config.microTlb (s.choice n1) t c.utlb }
  let n2 := tlbLosers Config.clusterTlb t (s1.clusterAt q).tlb
  let s2 := (s1.chosen n2).modCluster q fun c => { c with tlb := tlbPut Config.clusterTlb (s1.choice n2) t c.tlb }
  let last := Table.get [] s2.wafer.fieldTlb (fieldOf q)
  let n3 := tlbLosers Config.lastTlb t last
  (s2.chosen n3).onWafer fun w =>
    { w with fieldTlb := Table.set w.fieldTlb (fieldOf q) (tlbPut Config.lastTlb (s2.choice n3) t last) }

/-- The entry that a TLB of the current core, its cluster or its field holds for an address (R327). -/
def State.tlbFind (s : State) (p tenant va : Nat) : Option TlbEntry :=
  let q := clusterOf s.cur
  (s.core.utlb ++ (s.clusterAt q).tlb ++ Table.get [] s.wafer.fieldTlb (fieldOf q)).find? fun t => t.covers p tenant va

/-- The check of an access against a leaf (R325). -/
def useCheck (t : TlbEntry) : Use → Option Nat
  | .load => none
  | .store => if t.w then none else some writeFault
  | .fetch => if t.x then none else some 0x10
  | .dict => if t.x then none else some accessFault

/-- A translation of a virtual address in the context of a tenant of a partition: the TLBs, else a walk; a first write
through a clean translation walks again (R326); a slot that is no longer loaded raises WALK-FAULT (R422). -/
def State.translate (s : State) (p tenant va : Nat) (u : Use) : State × Except XFault TlbEntry :=
  let write := u = .store
  let finish := fun (s : State) (t : TlbEntry) =>
    match useCheck t u with
    | some c => (s, Except.error { cause := c })
    | none => (s.tlbFill t, .ok t)
  match s.tlbFind p tenant va with
  | some t =>
    if !s.keyUsable p t.key tenant then (s, .error { cause := walkFault })
    else if write && t.w && !t.dirty then
      let r := s.walk p tenant va true
      match r.2 with
      | .error f => (r.1, .error f)
      | .ok t' => finish r.1 t'
    else finish s t
  | none =>
    let r := s.walk p tenant va write
    match r.2 with
    | .error f => (r.1, .error f)
    | .ok t' => finish r.1 t'

/-- The physical address that a translation gives. -/
def TlbEntry.paOf (t : TlbEntry) (va : Nat) : Nat := t.pa + (va - t.va)

/-- WAITARG of a translation fault (Table 27·1): the address, and for a walk fault the level in [63:61]. -/
def XFault.arg (f : XFault) (va : Nat) : Word :=
  BitVec.ofNat 64 (if f.cause = walkFault then f.level * 2 ^ 61 + f.at_.getD va else f.at_.getD va)

/-- A translation as the running task makes it (R320). -/
def State.xlate (s : State) (va : Nat) (u : Use) : State × Except XFault TlbEntry :=
  s.translate s.core.task.part s.core.task.tenant va u

/-! ## Reading and writing virtual ranges whole: save areas, images, homes -/

/-- The parts of a virtual range page by page. -/
def pageParts (va n : Nat) : List (Nat × Nat) :=
  if n = 0 then []
  else (List.range ((va + n - 1) / 0x1000 - va / 0x1000 + 1)).map fun i =>
    let a := if i = 0 then va else (va / 0x1000 + i) * 0x1000
    (a, min (va + n) ((a / 0x1000 + 1) * 0x1000) - a)

/-- The address of the uncorrectable word of a range that does not read (R439). -/
def State.badVa (s : State) (va pa n gran : Nat) : Nat :=
  let g := granBytes gran
  (((List.range n).find? fun i => s.hbm.bad gran ((pa + i) / g * g)).elim va fun i => va + i) / 8 * 8

/-- n bytes of a virtual range of a tenant; the first fault with its address, cause 0x1F for an uncorrectable granule, or
`heldBack` at a channel under a lease (R338). -/
def State.readVa (s : State) (p tenant va n : Nat) (u : Use) : State × Except XFault (List Byte) :=
  (pageParts va n).foldl (fun acc part =>
    match acc.2 with
    | .error f => (acc.1, .error f)
    | .ok bs =>
      let r := acc.1.translate p tenant part.1 u
      match r.2 with
      | .error f => (r.1, .error { f with at_ := some part.1 })
      | .ok t =>
        let pa := t.paOf part.1
        let q := r.1.readPa pa part.2 t.gran (s.keyId p t.key)
        if !s.channelsUp pa part.2 t.gran then (r.1, .error { cause := heldBack })
        else
          match q.2 with
          | none => (q.1, .error { cause := dataFault, at_ := some (r.1.badVa part.1 pa part.2 t.gran) })
          | some b => (q.1, .ok (bs ++ b))) (s, .ok [])

/-- A virtual range of a tenant written whole; parts that do not translate are left out and reported. -/
def State.writeVa (s : State) (p tenant va : Nat) (bs : List Byte) : State × Option XFault :=
  (pageParts va bs.length).foldl (fun acc part =>
    let r := acc.1.translate p tenant part.1 .store
    match r.2 with
    | .error f => (r.1, if acc.2.isSome then acc.2 else some f)
    | .ok t => (r.1.writePa (t.paOf part.1) ((bs.drop (part.1 - va)).take part.2) t.gran (s.keyId p t.key), acc.2))
    (s, none)

/-! ## Stream ranges (R339, R340) -/

/-- Fields of a range entry (Table 23·7). -/
def rangeVa (e : BitVec 128) : Nat := field e 0 45 * 0x1000
def rangePa (e : BitVec 128) : Nat := field e 45 40 * 0x1000
def rangeBytes (e : BitVec 128) : Nat := field e 85 30 * 0x1000
def rangeGran (e : BitVec 128) : Nat := field e 125 2
def rangeLat (e : BitVec 128) : Nat := field e 123 2
def rangeKey (e : BitVec 128) : Nat := field e 115 8
def rangeV (e : BitVec 128) : Bool := bitOf e 127

/-- The range entry that covers a line, with its physical address (R340). -/
def Part.streamPa (p : Part) (va : Nat) : Option (Nat × BitVec 128) :=
  (p.ranges.find? fun e => rangeV e && decide (rangeVa e ≤ va) && decide (va < rangeVa e + rangeBytes e)).map
    fun e => (rangePa e + (va - rangeVa e), e)

end Sys2Proof.Machine
end

