-- ==== Sys2Proof/Machine/Queues.lean ====
section
/-! DEFINITION. Records entering ready queues (R301, R50), hardware queues (R308–R310, R427), and the entries that
schedulers post to them: fault messages (Table 27·4), completion entries (Table 21·7), with R438. -/

namespace Sys2Proof.Machine

/-! ## Records and ready queues -/

def State.setRec (s : State) (r : Rec) : State := { s with recs := Table.set s.recs r.addr r }
def State.recAt (s : State) (a : Nat) : Option Rec := Table.find s.recs a
def State.dropRec (s : State) (a : Nat) : State := { s with recs := Table.drop s.recs a }

/-- The priority of a record's level (R53). -/
def State.levelPrio (s : State) (r : Rec) : Nat := ((s.levelOf r).map (·.prio)).getD r.prio

/-- A record enters the ready queue of its PRIO in its share, stamped with the scheduler's firing sequence: at the tail, or at
the head with a sequence below every record of the share (R301, Table 3·3). -/
def State.queueUp (s : State) (r : Rec) (st : Nat) (head : Bool) : State :=
  let c := s.clusterAt r.share
  let r' := { r with st := st, seq := if head then 0 else c.seqNo + 1, since := c.cycle }
  let rest := c.ready.filter fun a => a ≠ r.addr
  (s.setRec r').setCluster r.share
    { c with ready := if head then r.addr :: rest else rest ++ [r.addr], seqNo := c.seqNo + 1 }

/-- A record enters the ready queue of its level's priority (R53, R301). -/
def State.ready (s : State) (r : Rec) (st : Nat) (head : Bool) : State := s.queueUp { r with prio := s.levelPrio r } st head

/-! ## Handles (Table 21·10) -/

def handleGen (h : Word) : Nat := field h 24 8
def handlePart (h : Word) : Nat := field h 16 6
def handleIdx (h : Word) : Nat := field h 0 16

def State.hqAt (s : State) (p i : Nat) : Hq := Table.get {} (s.partAt p).hqs i
def State.setHq (s : State) (p i : Nat) (q : Hq) : State := s.modPart p fun x => { x with hqs := Table.set x.hqs i q }

/-- The checks of R308. -/
def State.handleOk (s : State) (h : Word) : Bool :=
  field h 32 32 = 0 && !bitOf h 23 && decide (handlePart h < 16) && decide (handleIdx h < 4096) &&
    (s.hqAt (handlePart h) (handleIdx h)).en && (s.hqAt (handlePart h) (handleIdx h)).gen = handleGen h

/-- Entries in a queue and its capacity (R308). -/
def Hq.count (q : Hq) : Nat := (q.tail + 2 ^ 32 - q.head) % 2 ^ 32
def Hq.cap (q : Hq) : Nat := 2 ^ (q.logn + 4)

/-- Room for one more entry: a slice queue goes on in its spill area, and a held queue takes none (R310). -/
def Hq.room (q : Hq) : Bool :=
  if q.slice then !q.held && decide (q.count < q.cap + (if q.sbase = 0 then 0 else q.scap)) else decide (q.count < q.cap)

/-- A waiting record whose queue has become non-empty turns READY (R160, R309). -/
def State.wakeQueue (s : State) (p i : Nat) : State :=
  (s.recs.filter fun e => e.2.st = 3 && e.2.waitQ && e.2.part = p && handlePart e.2.waitArg = p && handleIdx e.2.waitArg = i).foldl
    (fun s e => s.ready { e.2 with waitQ := false } 1 false) s

/-- What follows an entry: the notification of R427 and the wake-up of R309, in one step. -/
def State.queueTurned (s : State) (p i : Nat) (wasEmpty : Bool) : State :=
  if !wasEmpty then s
  else
    let q := s.hqAt p i
    let s1 := if q.ien then
        let s0 := s.setHq p i { q with pend := true }
        if q.vec / 2 ^ 11 % 16 = 0 then
          s0.onWafer fun w => { w with msix := w.msix ++ [(q.vec / 2 ^ 15 % 2, q.vec % 2 ^ 11)] }
        else s0
      else s
    s1.wakeQueue p i

/-- Entries of a slice queue that stand in its spill area. -/
def Hq.spilled (q : Hq) : Nat := if q.slice then q.count - q.ents.length else 0
/-- The place of the entry added n-th: a ring of SCAP entries from SBASE on (R310, log entry 85). -/
def Hq.spillAt (q : Hq) (n : Nat) : Nat := q.sbase + 64 * (n % max 1 q.scap)
/-- The next entry of a slice queue goes to its spill area: the slice holds its first 2^(LOGN + 4) (R310). -/
def Hq.toSpill (q : Hq) : Bool := q.slice && (decide (q.cap ≤ q.ents.length) || decide (0 < q.spilled))
/-- The number of the first entry in the spill area. -/
def Hq.firstSpilled (q : Hq) : Nat := (q.tail + 2 ^ 32 - q.spilled) % 2 ^ 32

/-- The write of the next entry to the spill area faults: its place lies outside the channels that the partition owns on this
wafer (R308, R310). -/
def State.spillFaults (s : State) (p i : Nat) : Bool :=
  (s.hqAt p i).toSpill && !s.ownsRange p ((s.hqAt p i).spillAt (s.hqAt p i).tail) 64 1

/-- A 64-byte entry added at the tail of a queue that has room: to its ring, its slice, or its spill area (R308, R310). -/
def State.hqPut (s : State) (p i : Nat) (e : List Byte) : State :=
  let q := s.hqAt p i
  let was := decide (q.count = 0)
  let q' := { q with tail := (q.tail + 1) % 2 ^ 32 }
  let s1 := if q.toSpill then (s.setHq p i q').writeG64 (q.spillAt q.tail) e
    else if q.slice then s.setHq p i { q' with ents := q.ents ++ [e], bads := q.bads ++ [false] }
    else (s.setHq p i q').writeG64 (q.base + 64 * (q.tail % q.cap)) e
  s1.queueTurned p i was

/-- The first entries of the spill area move to the slice; one whose words are uncorrectable keeps them so (R62, R310). -/
def State.unspill (s : State) (p i : Nat) : Nat → State
  | 0 => s
  | n + 1 =>
    let q := s.hqAt p i
    if q.spilled = 0 then s
    else
      let r := s.readG64 (q.spillAt q.firstSpilled) 64
      (r.1.setHq p i { q with ents := q.ents ++ [r.2.getD (List.replicate 64 0)], bads := q.bads ++ [r.2.isNone] }).unspill p i n

/-- The head entry of a non-empty queue; none when its words are uncorrectable (R62, R384). -/
def State.hqHead (s : State) (p i : Nat) : State × Option (List Byte) :=
  let q := s.hqAt p i
  if q.slice then (s, if q.bads.headD false then none else some (q.ents.headD (List.replicate 64 0)))
  else s.readG64 (q.base + 64 * (q.head % q.cap)) 64

/-- The head entry removed; the first spilled entry takes the room in the slice. -/
def State.hqPop (s : State) (p i : Nat) : State :=
  let q := s.hqAt p i
  let n := q.spilled
  (s.setHq p i { q with head := (q.head + 1) % 2 ^ 32, ents := q.ents.drop 1, bads := q.bads.drop 1 }).unspill p i (min 1 n)

/-- BASE keeps the conditions of R308. -/
def State.hqPlaceOk (s : State) (p : Nat) (slice : Bool) (base : Nat) (logn : Nat) : Bool :=
  if slice then (s.partAt p).slices.contains (base / 2 ^ 48 / 4, base / 2 ^ 48 % 4)
  else base % 64 = 0 && base / 2 ^ 52 = 0 && s.ownsRange p base (64 * 2 ^ (logn + 4)) 1

/-! ## Posted entries -/

/-- A handle under which entries are posted: those for others are discarded (R438). -/
def State.posts (s : State) (h : Word) : Bool := h ≠ 0 && s.handleOk h

/-- An entry posted under a handle would be accepted or discarded now: none waits before it, and its queue has room and no
faulting spill write (R310, R381, R438). -/
def State.accepts (s : State) (h : Word) : Bool :=
  !s.posts h || ((s.hqAt (handlePart h) (handleIdx h)).room && !s.spillFaults (handlePart h) (handleIdx h) &&
    !((s.partAt (handlePart h)).posts.any fun x => x.1 = h))

/-- An entry is written to the queue of its handle; it waits behind earlier ones while the queue takes none (R297, R381),
and is discarded when the handle fails its checks at that moment (R438). -/
def State.postLater (s : State) (h : Word) (e : List Byte) : State :=
  if !s.posts h then s
  else if s.accepts h then s.hqPut (handlePart h) (handleIdx h) e
  else s.modPart (handlePart h) fun x => { x with posts := x.posts ++ [(h, e)] }

/-- The handle that names a queue as it stands (Table 21·10). -/
def Hq.handle (q : Hq) (p i : Nat) : Nat := q.gen * 2 ^ 24 + q.slice.toNat * 2 ^ 22 + p * 2 ^ 16 + i

/-- Fields of a fault message (Table 27·4). -/
structure Message where
  type   : Nat
  cause  : Nat := 0
  launch : Nat := 0
  core   : Nat := 0xFFFF
  eng    : Nat := 0
  addr   : Word := 0
  done   : Nat := 0
  left   : Nat := 0
  rec_   : Nat := 0
  aux    : Nat := 0
  deriving DecidableEq, Repr, Inhabited

/-- A fault message as 64 bytes (Table 27·4). -/
def Message.bytes (m : Message) : List Byte :=
  toBytes 64 (m.type % 256 * 2 ^ 504 + m.cause % 256 * 2 ^ 496 + m.launch % 2 ^ 16 * 2 ^ 480 + m.core % 2 ^ 16 * 2 ^ 464
    + m.eng % 256 * 2 ^ 456 + m.addr.toNat * 2 ^ 384 + m.done % 2 ^ 64 * 2 ^ 320 + m.left % 2 ^ 64 * 2 ^ 256
    + m.rec_ % 2 ^ 64 * 2 ^ 192 + m.aux % 2 ^ 64 * 2 ^ 128)

/-- A spill write of a queue faults: the queue is held, and the supervisor receives SPILL-FAULT (R310). -/
def State.spillHold (s : State) (p i : Nat) : State :=
  let h := s.hqAt p i
  (s.setHq p i { h with held := true }).postLater (s.partAt p).faultQ
    (Message.bytes { type := 5, cause := spillFault, addr := BitVec.ofNat 64 (h.handle p i), aux := h.handle p i })

/-- An entry posted; a spill write that it causes may fault, and then the queue is held before it (R310). -/
def State.post (s : State) (h : Word) (e : List Byte) : State :=
  let p := handlePart h
  let i := handleIdx h
  (if s.posts h && (s.hqAt p i).room && s.spillFaults p i then s.spillHold p i else s).postLater h e

/-- The first entry that waits for a queue, once the queue has room. -/
def State.drainPosts (s : State) (p i : Nat) : State :=
  match (s.partAt p).posts.find? fun x => handleIdx x.1 = i with
  | none => s
  | some x =>
    if !(s.hqAt p i).room then s
    else if s.spillFaults p i then s.spillHold p i
    else
      let s1 := s.modPart p fun y => { y with posts := y.posts.erase x }
      if s.handleOk x.1 then s1.hqPut p i x.2 else s1

/-- The queue of PART.FAULTQ takes a message now, or the message would be discarded: the event that it reports need not wait
(R381, R438). -/
def State.msgOpen (s : State) (p : Nat) : Bool := s.accepts (s.partAt p).faultQ

/-- A message to the queue of PART.FAULTQ (R381). -/
def State.message (s : State) (p : Nat) (m : Message) : State := s.post (s.partAt p).faultQ m.bytes

/-- A queue handle, whose bits [63:32] are zero, from the 32 bits of a launch record (Tables 21·1, 21·2). -/
def handle32 (n : Nat) : Word := BitVec.ofNat 64 (n % 2 ^ 32)

/-- A completion entry (Table 21·7) to the launch's completion queue (R297). -/
def State.complete (s : State) (cq type reason rgn launch tag : Nat) : State :=
  s.post (handle32 cq) (toBytes 64 (type + reason * 2 ^ 8 + rgn * 2 ^ 16 + launch * 2 ^ 32 + tag * 2 ^ 64))

end Sys2Proof.Machine
end

