-- ==== Sys2Proof/Machine/Domains.lean ====
section
/-! DEFINITION. Domain instances, level instances and shares, and what a share's staging holds (R35–R41, R51, R298, R301,
R318). -/

namespace Sys2Proof.Machine

/-! ## Domain instances (Table 1·1) -/

/-- A named core by cluster and rank: 256 × cluster + rank. -/
def placeOf (q rank : Nat) : Nat := 256 * q + rank

/-- The place of the core with a window number. -/
def State.placeOfCore (s : State) (w : Nat) : Nat := placeOf (clusterOf w) (s.coreAt w).rank

/-- The core that presents the rank of a place. -/
def State.coreOfPlace (s : State) (i : Nat) : Option Nat := s.rankCore (i / 256) (i % 256)

/-- The number of the domain instance of a kind that holds a place: a core by its place, a quad by its router, a cluster, a
field; a partition, wafer or domain has one instance in a partition. -/
def domNo (dom i : Nat) : Nat :=
  match dom with
  | 0 => i
  | 1 => coreRouter (i / 256) (i % 256)
  | 2 => i / 256
  | 3 => fieldOf (i / 256)
  | _ => 0

/-- A core is serviceable while it presents a rank in a serviceable cluster and is not retired (R10). -/
def State.coreServiceable (s : State) (w : Nat) : Bool :=
  s.serviceable (clusterOf w) && (s.coreAt w).named &&
    decide ((s.coreAt w).lease ≠ .retired) && decide ((s.coreAt w).lease ≠ .retire)

/-- Serviceable clusters of a partition. -/
def State.clustersOf (s : State) (p : Nat) : List Nat :=
  (List.range 192).filter fun q => s.clusterPart q = p && s.serviceable q

/-- Places of a cluster whose cores are serviceable. -/
def State.placesIn (s : State) (q : Nat) : List Nat :=
  ((List.range 192).map (placeOf q)).filter fun i => (s.coreOfPlace i).elim false s.coreServiceable

/-- A level instance's domain instance contains a place of its partition. -/
def LInst.holds (l : LInst) (i : Nat) : Bool := domNo l.dom i = l.no

/-- A level instance has a share in a cluster: its domain instance includes cores of it (R301). -/
def LInst.inCluster (l : LInst) (q : Nat) : Bool :=
  match l.dom with
  | 0 => l.no / 256 = q
  | 1 => routerCluster l.no = q
  | 2 => l.no = q
  | 3 => fieldOf q = l.no
  | _ => true

/-- The clusters of a level instance, in rising order. -/
def State.instClusters (s : State) (p : Nat) (l : LInst) : List Nat := (s.clustersOf p).filter l.inCluster

/-- The serviceable cores of a level instance, by window number. -/
def State.instCores (s : State) (p : Nat) (l : LInst) : List Nat :=
  ((s.instClusters p l).flatMap fun q => (s.placesIn q).filter l.holds).filterMap s.coreOfPlace

/-- The domain instances of a kind in a partition, within an enclosing level instance (R39). -/
def State.domInstances (s : State) (p dom : Nat) (within : Option LInst) : List Nat :=
  let qs := (s.clustersOf p).filter fun q => within.elim true fun l => l.inCluster q
  if dom ≤ 1 then
    ((qs.flatMap s.placesIn).filter fun i => within.elim true fun l => l.holds i).map (domNo dom) |>.dedup
  else (qs.map fun q => domNo dom (placeOf q 0)).dedup

/-! ## Level instances -/

/-- A level instance of a partition. -/
def Part.linst (x : Part) (launch level idx : Nat) : Option LInst :=
  x.linsts.find? fun l => l.launch = launch && l.level = level && l.idx = idx

/-- The level instance of a record: the instantiated one of its dispatch level that its path names (R38). Of instances whose
path is zero, LVLS being 0, it is the one that registered the record's template. -/
def State.instOf (s : State) (r : Rec) : Option LInst :=
  let n := max 1 r.dlvl
  (s.partAt r.part).linsts.find? fun l =>
    l.ready && l.launch = r.launch && l.level = n && l.path.drop (n - 1) = r.path.drop (n - 1) && (r.lvls ≠ 0 || l.idx = r.linst)

/-- The clusters of an instantiated level instance, each with a share in its scheduler. -/
def LInst.clusters (l : LInst) : List Nat := l.shares.map (·.1)

/-- The staging lines of an instance's share in a cluster (R318). -/
def LInst.linesIn (l : LInst) (q : Nat) : Nat := (Table.find l.shares q).getD 0

/-- The identity of a template instance, and the level instance that registered its template (R31). -/
def Entry.identity (e : Entry) : List Nat := [e.part, e.launch, e.tmpl, e.colour, e.gen, e.i, e.j, e.k, e.level, e.linst]

/-- One cluster among some, by an identity (log entry 102). -/
def homeAmong (id : List Nat) : List Nat → Nat
  | [] => 192
  | [q] => q
  | qs => qs.getD (Config.instanceHome id % qs.length) 0

/-- The cluster whose scheduler matches an instance: of a level instance wider than a cluster every scheduler registers the
templates, and each instance is held and fired by one of them (R37, R51, log entry 102). -/
def State.homeCluster (s : State) (e : Entry) : Option Nat :=
  ((s.partAt e.part).linst e.launch e.level e.linst).map fun l => homeAmong e.identity l.clusters

/-- The output names of a template, as its level instance has taken them from the scratchpad image (R46). -/
def State.outNames (s : State) (p launch level idx tmpl : Nat) : List Quad :=
  ((s.partAt p).linst launch level idx).elim [] fun l => (Table.find l.outs tmpl).getD []

/-- The output names of a task's template. -/
def State.taskOuts (s : State) (r : Rec) : List Quad := s.outNames r.part r.launch r.level r.linst r.tmpl

/-- The enclosing level instance: the one a level up whose path agrees (R39). -/
def Part.enclosing (x : Part) (l : LInst) : Option LInst :=
  x.linsts.find? fun o => o.launch = l.launch && o.level = l.level + 1 && o.path.drop l.level = l.path.drop l.level

/-- The level has one above it. -/
def Launch.top (l : Launch) : Nat := max 1 l.lvls

/-! ## Staging (R318) -/

/-- Lines that the elements of a stream register take off its core. -/
def streamLinesOf (width n : Nat) : Nat := (width * n + 63) / 64

/-- Lines of a staged landing: its double buffer (R72). -/
def Landing.lines (l : Landing) : Nat := (max l.a.length l.b.length) * 2 / 64

/-- Lines of a task's stream register while it is off its core. -/
def Stream.lines (w : Stream) : Nat :=
  match w.src with
  | .vm => 0
  | _ => streamLinesOf w.width w.buf.length

/-- Lines of an entry's landings. -/
def Entry.lines (e : Entry) : Nat :=
  (e.lands.map (·.lines)).sum + (e.streams.map fun x => x.2.lines).sum

/-- Lines of a record that is off its core. -/
def Rec.lines (r : Rec) : Nat := ((r.live.filter (·.full)).map (·.lines)).sum + (r.held.map (·.lines)).sum

/-- The running task with a record address. -/
def State.runnerOf (s : State) (a : Nat) : Option Nat :=
  (s.cur :: s.others.keys).find? fun w => (s.coreAt w).busy && (s.coreAt w).task.addr = a

/-- A STATE whose records stand in a ready queue (Table 3·2). -/
def stateWaits (st : Nat) : Bool := st = 1 || st = 4 || st = 7

/-- The level instance whose share in a cluster holds a record. -/
def State.inShare (s : State) (l : LInst) (r : Rec) : Bool :=
  match s.instOf r with
  | none => false
  | some x => x.launch = l.launch && x.level = l.level && x.idx = l.idx

/-- A launch that gives a level priority 7: its tasks keep their state in registers and virtual memory, and the region
conditions of R298 and R301 do not apply to them (R315). -/
def Launch.supervisory (l : Launch) : Bool := (l.levels.take (max 1 l.lvls)).any fun v => v.prio = 7

/-- The level of a template. -/
def Launch.tmplLevel (l : Launch) (t : Nat) : Nat := max 1 ((l.tmpls[t]?).elim 1 (·.dlvl))

/-- An entry belongs to the share of a level instance. -/
def Entry.isIn (e : Entry) (l : LInst) : Bool := e.launch = l.launch && e.level = l.level && e.linst = l.idx

/-- Lines in use in the share of a level instance in a cluster: its entries, its records off their cores, and landings of
running tasks that have not been moved. -/
def State.shareLines (s : State) (p q : Nat) (l : LInst) : Nat :=
  ((((s.clusterAt q).mstore.filter fun e => e.part = p && e.isIn l).map (·.lines)).sum
    + (((s.recs.filter fun r => r.2.part = p && r.2.share = q && s.inShare l r.2).map fun r => r.2.lines)).sum
    + ((((s.cur :: s.others.keys).map s.coreAt).filter fun c =>
        c.busy && c.task.part = p && c.task.share = q && s.inShare l c.task).map fun c =>
          ((c.task.live.filter (·.full)).map (·.lines)).sum).sum)

/-! ## The slices (R12) -/

/-- Lines of a packet's tile. -/
def Packet.lines (p : Packet) : Nat := (p.data.length + 63) / 64

/-- Lines that a slice's retained tiles take. -/
def Cluster.retLines (c : Cluster) (k : Nat) : Nat :=
  ((c.retained.filter fun r => r.slice = k && !r.gone).map fun r => r.pkt.lines).sum

/-- Staging lines that the shares of a cluster hold reserved (R318). -/
def State.reservedLines (s : State) (q : Nat) : Nat :=
  (((s.partAt (s.clusterPart q)).linsts.filter fun l => l.ready).map (·.linesIn q)).sum

/-- Lines of the slice queues that a slice holds (R308). -/
def State.queueLines (s : State) (q k : Nat) : Nat :=
  (((s.partAt (s.clusterPart q)).hqs.filter fun e => e.2.en && e.2.slice && e.2.base / 2 ^ 48 = 4 * q + k).map fun e => e.2.cap).sum

/-- Lines of a slice that are taken: its retained tiles, its queues, and a quarter of its cluster's staging with some more
lines (R12; that staging is spread evenly is log entry 90). -/
def State.sliceTaken (s : State) (q k more : Nat) : Nat :=
  (s.clusterAt q).retLines k + s.queueLines q k + (s.reservedLines q + more + 3) / 4

/-- The slices of a cluster have room for one more share (R318). -/
def State.stageRoom (s : State) (q : Nat) : Bool :=
  (List.range 4).all fun k => decide (s.sliceTaken q k (s.clusterAt q).lines ≤ Config.sliceLines)

/-- The share of a level instance in a cluster has room for more lines (R318). -/
def State.shareRoom (s : State) (p q : Nat) (l : LInst) (need : Nat) : Bool :=
  need = 0 || decide (s.shareLines p q l + need ≤ l.linesIn q)

/-- Matching-store entries in use: entries, and registrations of subscriptions that tasks hold (R164, R299); one that BIND
has made uses none (R166 names none, log entry 99). -/
def Cluster.used (c : Cluster) : Nat := c.mstore.length + (c.regs.filter fun g => g.task.isSome && g.stream.isNone).length

/-- The cluster's high-water marks (Tables 21·8, 22·3). -/
def State.notePeaks (s : State) (p q : Nat) : State :=
  let most := ((s.partAt p).linsts.filter fun l => l.ready && l.clusters.contains q).foldl (fun m l => max m (s.shareLines p q l)) 0
  s.modCluster q fun c => { c with fillPeak := max c.fillPeak c.used, peak := max c.peak most }

end Sys2Proof.Machine
end

