-- ==== Sys2Proof/Machine/Net.lean ====
section
/-! DEFINITION. Tile names, tensor descriptors, rendezvous and root slices, name-match tables, paths of the named class,
registrations, and how an endpoint sends a packet (R54–R85, R411). -/

namespace Sys2Proof.Machine

/-! ## Tile names (Table 5·1) -/

def nameTenant (n : Quad) : Nat := field n 116 12
def nameTensor (n : Quad) : Nat := field n 92 24
def nameColour (n : Quad) : Nat := field n 76 16
def nameGen (n : Quad) : Nat := field n 60 16
def nameI (n : Quad) : Nat := field n 44 16
def nameJ (n : Quad) : Nat := field n 28 16
def nameK (n : Quad) : Nat := field n 12 16
def nameKind (n : Quad) : Nat := field n 4 8
def nameRes (n : Quad) : Nat := field n 0 4
/-- Bits [127:12]: the name without its kind. -/
def nameStem (n : Quad) : Nat := field n 12 116

def nameOf (tenant tensor colour gen i j k kind : Nat) : Quad :=
  BitVec.ofNat 128 ((tenant % 2 ^ 12) * 2 ^ 116 + (tensor % 2 ^ 24) * 2 ^ 92 + (colour % 2 ^ 16) * 2 ^ 76
    + (gen % 2 ^ 16) * 2 ^ 60 + (i % 2 ^ 16) * 2 ^ 44 + (j % 2 ^ 16) * 2 ^ 28 + (k % 2 ^ 16) * 2 ^ 12 + (kind % 2 ^ 8) * 2 ^ 4)

def withKind (n : Quad) (kind : Nat) : Quad := setField n 4 8 kind
def withTenant (n : Quad) (t : Nat) : Quad := setField n 116 12 t

/-- The tensor ids reserved for device publications (R56). -/
def reservedTensor (t : Nat) : Bool := decide (0xFFFF00 ≤ t)

/-! ## Tensor descriptors (Table 5·3) -/

def descHome (d : BitVec 256) : Nat := field d 253 2
def descTsize (d : BitVec 256) : Nat := field d 249 4
def descFmt (d : BitVec 256) : Nat := field d 244 5
def descRlog (d : BitVec 256) : Nat := field d 240 4
def descClog (d : BitVec 256) : Nat := field d 236 4
def descSpread (d : BitVec 256) : Nat := field d 232 4
def descKey (d : BitVec 256) : Nat := field d 224 8
def descNI (d : BitVec 256) : Nat := field d 200 16
def descNJ (d : BitVec 256) : Nat := field d 184 16
def descNK (d : BitVec 256) : Nat := field d 168 16
def descBase (d : BitVec 256) : Nat := field d 96 57
def descWafer (d : BitVec 256) : Nat := field d 64 11

/-- Bytes of a tile (Table 5·3). -/
def tileBytes (d : BitVec 256) : Nat := 2 ^ (descTsize d + 6)

/-- The home address of a name (R60). -/
def homeVa (d : BitVec 256) (n : Quad) : Nat :=
  descBase d + ((nameK n * descNJ d + nameJ n) * descNI d + nameI n) * tileBytes d

/-- The name lies inside the extents of its tensor (R69). -/
def inExtent (d : BitVec 256) (n : Quad) : Bool :=
  decide (nameI n < descNI d) && decide (nameJ n < descNJ d) && decide (nameK n < descNK d)

/-- The valid descriptor of a tensor (R57, R59). -/
def State.desc (s : State) (p tenant tensor : Nat) : Option (BitVec 256) :=
  match (s.partAt p).descs.find? fun t => t.2.tenant = tenant && !t.2.ents.isEmpty with
  | none => none
  | some t => (Table.find t.2.ents tensor).filter fun d => bitOf d 255

def State.descOfName (s : State) (p : Nat) (n : Quad) : Option (BitVec 256) := s.desc p (nameTenant n) (nameTensor n)

/-! ## Rendezvous and root slices (R61, R62, R77) -/

/-- h of R61. -/
def rendHash (n : Quad) (spread : Nat) : Nat :=
  crc32c (toBytesBe 9 (nameTenant n * 2 ^ 60 + nameTensor n * 2 ^ 36 + nameColour n * 2 ^ 20 + nameGen n * 2 ^ 4
    + nameI n % 2 ^ spread))

/-- h of R77. -/
def rootHash (n : Quad) : Nat := crc32c (toBytesBe 15 (nameStem n))

/-- The cluster that serves the slices of cluster q (R62). -/
def State.standIn (s : State) (p q : Nat) : Nat :=
  if (s.clusterAt q).stage ≠ 7 then q
  else
    match ((List.range 4).map fun i => 4 * fieldOf q + i).find? s.serviceable with
    | some x => x
    | none => ((List.range 192).find? fun x => s.clusterPart x = p && s.serviceable x).getD q

/-- The slice that serves an entry of the partition's list. -/
def State.sliceFor (s : State) (p h : Nat) : Option (Nat × Nat) :=
  let l := (s.partAt p).slices
  (l[h % l.length]?).map fun e => (s.standIn p e.1, e.2)

/-- SPREAD of a name's tensor; 0 where the tensor has no valid descriptor, which the spec leaves open (log entry 103). -/
def State.spreadOf (s : State) (p tenant tensor : Nat) : Nat := ((s.desc p tenant tensor).map descSpread).getD 0

def State.rendSlice (s : State) (p : Nat) (n : Quad) : Option (Nat × Nat) :=
  s.sliceFor p (rendHash n (s.spreadOf p (nameTenant n) (nameTensor n)))

def State.rootSlice (s : State) (p : Nat) (n : Quad) : Option (Nat × Nat) := s.sliceFor p (rootHash n)

/-! ## Endpoints -/

/-- SRC of an endpoint: unique in the wafer (Table 5·7; the numbering is log entry 14). -/
def Endpoint.no : Endpoint → Nat
  | .core w => w
  | .sched q => 49152 + q
  | .slice q k => 49344 + 4 * q + k
  | .rim e => 50112 + e
  | .sienna => 50144

/-- The endpoint of a SRC. -/
def endpointOf (n : Nat) : Endpoint :=
  if n < 49152 then .core n
  else if n < 49344 then .sched (n - 49152)
  else if n < 50112 then .slice ((n - 49344) / 4) ((n - 49344) % 4)
  else if n < 50144 then .rim (n - 50112)
  else .sienna

/-- The lowest-numbered serviceable cluster of a partition (R387). -/
def State.firstCluster (s : State) (p : Nat) : Nat :=
  ((List.range 192).find? fun x => s.clusterPart x = p && s.serviceable x).getD 0

/-- The router beside an endpoint. Sienna's notices enter beside the lowest-numbered serviceable cluster. -/
def State.endpointRouter (s : State) (p : Nat) : Endpoint → Nat
  | .core w => coreRouter (clusterOf w) (s.coreAt w).rank
  | .sched q => schedRouter q
  | .slice q k => sliceRouter q k
  | .rim e => rimRouter e
  | .sienna => schedRouter (s.firstCluster p)

/-- The count by which an endpoint times its resends: its own (R4, R82). A cluster's scheduler and slices count one network
clock from one reset. -/
def State.clockOf (s : State) : Endpoint → Nat
  | .core w => (s.coreAt w).cycle.toNat
  | .sched q => (s.clusterAt q).cycle
  | .slice q _ => (s.clusterAt q).cycle
  | .rim e => s.rimNow e
  | .sienna => s.wafer.sienCycle

/-- The named class of a partition is held by its supervisor or by Sienna (R312). -/
def Part.namedHeld (x : Part) : Bool := x.holdNamed || x.sienNamed
def Part.circHeld (x : Part) : Bool := x.holdCirc || x.sienCirc

/-! ## Paths (R63, R409, R411); ports 0 N, 1 E, 2 S, 3 W -/

/-- The next direction of dimension order, X first. -/
def dimPort (r goal : Nat) : Option Nat :=
  if routerCol r < routerCol goal then some 1
  else if routerCol goal < routerCol r then some 3
  else if routerRow goal < routerRow r then some 0
  else if routerRow r < routerRow goal then some 2
  else none

def oppPort (d : Nat) : Nat := (d + 2) % 4

/-- The router one hop away. -/
def neighbour (r d : Nat) : Nat :=
  match d with
  | 0 => r - 128
  | 1 => r + 1
  | 2 => r + 128
  | _ => r - 1

/-- The next hop in a direction is a hole (R411). -/
def Router.hole (x : Router) (d : Nat) : Bool := !bitOf x.link (3 - d) || bitOf x.retd (3 - d)

/-- The hops of a route word; none when NSEG is 7 (Table 31·1). -/
def routePorts (w : Word) : Option (List Nat) :=
  if field w 61 3 = 7 then none
  else some ((List.range (field w 61 3)).flatMap fun i =>
    let seg := field w (45 - 9 * i) 9
    List.replicate (seg % 128) (seg / 128))

/-- The hops from a router to the next one at which dimension order goes on: one hop, or the detour of that direction;
none when no detour leads past the hole (R411). -/
def State.legOf (s : State) (r d : Nat) : Option (List Nat) :=
  let x := s.routerAt r
  if !x.hole d then some [d]
  else
    match routePorts (x.detour.getD d 0) with
    | none => none
    | some [] => none
    | some l => some l

/-- The router at the end of some hops. -/
def walkPorts (r : Nat) (l : List Nat) : Nat := l.foldl neighbour r

/-- The routers of a path after its first, each with the direction that leads back (R63). -/
def State.pathFrom (s : State) (r goal : Nat) : Nat → List (Nat × Nat)
  | 0 => []
  | n + 1 =>
    match dimPort r goal with
    | none => []
    | some d =>
      match s.legOf r d with
      | none => []
      | some l => (walkPorts r l, oppPort d) :: s.pathFrom (walkPorts r l) goal n

/-- Every hop of a path. -/
def State.hopsTo (s : State) (r goal : Nat) : Nat → List Nat
  | 0 => []
  | n + 1 =>
    match dimPort r goal with
    | none => []
    | some d =>
      match s.legOf r d with
      | none => []
      | some l => l ++ s.hopsTo (walkPorts r l) goal n

/-- The longest path of the mesh. -/
def pathFuel : Nat := 256

/-! ## Sending -/

/-- The next sequence number of an endpoint. -/
def State.seqOf (s : State) (e : Endpoint) : Nat := Table.get 0 s.seqs e.no

/-- A packet sealed with its source and the next sequence number (Table 5·7), and with the descriptor under which it is
accepted (R313). -/
def State.seal (s : State) (p : Nat) (e : Endpoint) (pkt : Packet) : State × Packet :=
  ({ s with seqs := Table.set s.seqs e.no ((s.seqOf e + 1) % 2 ^ 32) },
   { pkt with part := p, src := e.no, seq := s.seqOf e, origin := e, rsnd := false,
              members := if nameKind pkt.name = 3 then [(e.no, pkt.cidx)] else [], desc := s.descOfName p pkt.name })

/-- The router that a named packet makes for: its root router or its rendezvous router (R63, R77). -/
def State.goalOf (s : State) (p : Nat) (n : Quad) : Option Nat :=
  ((if nameKind n = 3 then s.rootSlice p n else s.rendSlice p n)).map fun e => sliceRouter e.1 e.2

/-- The slice that acknowledges deliveries of a name (R82). -/
def State.branchSender (s : State) (p : Nat) (n : Quad) : Endpoint :=
  match s.rendSlice p n with
  | some e => .slice e.1 e.2
  | none => .sienna

/-- The resend timeout of a partition's packets. -/
def State.dueFor (s : State) (p : Nat) (e : Endpoint) : Nat := s.clockOf e + (s.partAt p).netTimeout

/-- MCNT: 0 or 1 for a single contribution (Table 5·7). -/
def Packet.mcnt (p : Packet) : Nat := p.members.length
/-- The flits of a packet: its head, an extension flit when MCNT is 2 or more, and its payload (R81). -/
def Packet.flits (p : Packet) : Nat := 1 + (if 2 ≤ p.mcnt then 1 else 0) + p.lines

/-- The head flit without its check code (Table 5·7): bits [511:56]. -/
def Packet.head (p : Packet) : Nat :=
  p.name.toNat * 2 ^ 384 + p.cls % 4 * 2 ^ 382 + p.part % 64 * 2 ^ 376 + p.seq % 2 ^ 32 * 2 ^ 344 + p.src % 2 ^ 16 * 2 ^ 328
    + p.size % 16 * 2 ^ 324 + p.etag.toNat * 2 ^ 323 + p.rsnd.toNat * 2 ^ 322 + p.cop % 16 * 2 ^ 318 + p.cidx % 2 ^ 16 * 2 ^ 302
    + p.mcnt % 32 * 2 ^ 297 + p.res % 2 ^ 241 * 2 ^ 56

/-- A packet as a router reads it from another head flit; its member list stands in the extension flit. -/
def Packet.withHead (p : Packet) (h : Nat) : Packet :=
  { p with name := BitVec.ofNat 128 (bitsAt h 384 128), cls := bitsAt h 382 2, part := bitsAt h 376 6, seq := bitsAt h 344 32,
           src := bitsAt h 328 16, size := bitsAt h 324 4, etag := bitAt h 323, rsnd := bitAt h 322, cop := bitsAt h 318 4,
           cidx := bitsAt h 302 16, res := bitsAt h 56 241 }

/-- The port of a router at which a core injects: cores of a quad by x, then y. -/
def corePort (q rank : Nat) : Nat := 4 + coreY q rank % 2 * 2 + coreX q rank % 2

/-- The port at which an endpoint's packets enter the router beside it (log entry 14). -/
def State.endpointPort (s : State) : Endpoint → Nat
  | .core w => corePort (clusterOf w) (s.coreAt w).rank
  | _ => 8

/-- A packet put before a router on its way to its rendezvous or root router; until it leaves that router its source
still holds it (R312). -/
def State.launchUp (s : State) (e : Endpoint) (pkt : Packet) : State :=
  let r := s.endpointRouter pkt.part e
  { s with flights := s.flights ++ [{ at_ := r, from_ := 9, down := false, sender := s.branchSender pkt.part pkt.name,
                                      goal := (s.goalOf pkt.part pkt.name).getD r, route := [], pkt := pkt }] }

/-- An endpoint sends a packet and keeps it until it is acknowledged (R82). -/
def State.keepUp (s : State) (e : Endpoint) (pkt : Packet) : State :=
  let s1 := s.launchUp e pkt
  { s1 with kept := s1.kept ++ [{ owner := e, dest := none, pkt := pkt, due := s1.dueFor pkt.part e }] }

def State.inject (s : State) (p : Nat) (e : Endpoint) (pkt : Packet) : State :=
  let r := s.seal p e pkt
  r.1.keepUp e r.2

/-- A copy sent to one cluster scheduler by the unit that serves it (R69, R385). -/
def State.launchDown (s : State) (e : Endpoint) (q : Nat) (pkt : Packet) : State :=
  let r := s.endpointRouter pkt.part e
  { s with flights := s.flights ++ [{ at_ := r, from_ := 9, down := true, sender := e, goal := schedRouter q,
                                      route := s.hopsTo r (schedRouter q) pathFuel ++ [8], pkt := { pkt with served := true } }] }

def State.serve (s : State) (e : Endpoint) (q : Nat) (pkt : Packet) : State :=
  let s1 := s.launchDown e q pkt
  { s1 with kept := s1.kept ++ [{ owner := e, dest := some q, pkt := pkt, due := s1.dueFor pkt.part e }] }

/-- A notice answered to one cluster (R69, R75). -/
def State.answer (s : State) (p : Nat) (e : Endpoint) (q : Nat) (n : Quad) (kind reason : Nat) : State :=
  let r := s.seal p e { name := withKind n kind, reason := reason }
  r.1.serve e q r.2

/-- An error notice published under a name (R80, R82). -/
def State.errorNotice (s : State) (p : Nat) (e : Endpoint) (n : Quad) (reason : Nat) : State :=
  s.inject p e { name := withKind n 5, reason := reason }

def State.errorNotices (s : State) (p : Nat) (e : Endpoint) (n : Quad) (reason : Nat) : Nat → State
  | 0 => s
  | k + 1 => (s.errorNotice p e n reason).errorNotices p e n reason k

/-! ## Registrations (R65–R67) -/

/-- A coordinate satisfies a range (R65). -/
def Range.has (r : Range) (c : Nat) : Bool := decide (r.lo ≤ Nat.land c r.mask) && decide (Nat.land c r.mask ≤ r.hi)

/-- A range that only one coordinate can satisfy, with that coordinate: a full mask and equal bounds. -/
def Range.single (r : Range) : Option Nat := if r.mask = 0xFFFF && r.lo = r.hi then some r.lo else none

def NmEntry.matches (e : NmEntry) (n : Quad) : Bool :=
  e.tenant = nameTenant n && e.tensor = nameTensor n && (e.cany || e.colour = nameColour n) &&
    (e.gany || e.gen = nameGen n) && decide (nameKind n < 8) && bitAt e.kinds (nameKind n) &&
    e.ir.has (nameI n) && e.jr.has (nameJ n) && e.kr.has (nameK n)

/-- The entry of a registration with one output port. -/
def Reg.entry (g : Reg) (port : Nat) : NmEntry :=
  { tenant := g.tenant, tensor := g.tensor, colour := g.colour, cany := g.cany, gen := g.gen, gany := g.gany,
    kinds := g.kinds, ports := BitVec.ofNat 9 (2 ^ port), refs := 1, ir := g.ir, jr := g.jr, kr := g.kr }

def Reg.matches (g : Reg) (n : Quad) : Bool := (g.entry 8).matches n

/-- A notice kind that a registration did not declare still names its pattern (R75). -/
def Reg.matchesAny (g : Reg) (n : Quad) : Bool := { g.entry 8 with kinds := 0xFF }.matches n

/-- The two entries carry the same pattern. -/
def NmEntry.same (a b : NmEntry) : Bool :=
  a.tenant = b.tenant && a.tensor = b.tensor && a.colour = b.colour && a.cany = b.cany && a.gen = b.gen &&
    a.gany = b.gany && a.kinds = b.kinds && a.ir = b.ir && a.jr = b.jr && a.kr = b.kr

/-- The two entries may be merged (R67). -/
def NmEntry.kin (a b : NmEntry) : Bool :=
  a.tenant = b.tenant && a.tensor = b.tensor && a.colour = b.colour && a.cany = b.cany && a.gen = b.gen && a.gany = b.gany

/-- The merged range of a coordinate (R67). -/
def Range.join (a b : Range) : Range :=
  if a.mask = b.mask then { lo := min a.lo b.lo, hi := max a.hi b.hi, mask := a.mask } else {}

def NmEntry.join (a b : NmEntry) : NmEntry :=
  { a with kinds := Nat.lor a.kinds b.kinds, ports := a.ports ||| b.ports, refs := a.refs + b.refs,
           ir := a.ir.join b.ir, jr := a.jr.join b.jr, kr := a.kr.join b.kr }

/-- Entry i of a name-match table changed, with its number. -/
def Router.entryAt (x : Router) (i : Nat) (f : NmEntry → NmEntry) : Router × Nat :=
  ({ x with table := x.table.modify i f }, (x.table[i]?).elim 0 (·.no))

/-- A name-match table takes an entry, or rejects it (R65, R67); the number is that of the entry that carries the
registration from then on. -/
def Router.install (x : Router) (e : NmEntry) : Option (Router × Nat) :=
  match x.table.findIdx? (·.same e) with
  | some i => some (x.entryAt i fun o => { o with ports := o.ports ||| e.ports, refs := o.refs + 1 })
  | none =>
    if x.table.length < Config.routerEntries then
      let no := x.table.foldl (fun m o => max m o.no) 0 + 1
      some ({ x with table := x.table ++ [{ e with no := no }] }, no)
    else (x.table.findIdx? (·.kin e)).map fun i => x.entryAt i fun o => o.join e

/-- A registration leaves the entry that carries it (R65, R67); the flag reports a freed entry. -/
def Router.uninstall (x : Router) (no : Nat) : Router × Bool :=
  match x.table.findIdx? fun o => o.no = no with
  | none => (x, false)
  | some i =>
    if (x.table[i]?).elim true fun o => o.refs ≤ 1 then ({ x with table := removeAt x.table i }, true)
    else ((x.entryAt i fun o => { o with refs := o.refs - 1 }).1, false)

/-- Every bit of a number is set in a mask. -/
def within (m t : Nat) : Bool := Nat.land m t = t

/-- Numbers under a mask among which the least one from t on stands: t itself, or t with a bit set that it lacks and with
zeros below. -/
def submasksFrom (m t : Nat) : List Nat :=
  (if within m t then [t] else []) ++
    ((List.range 16).filter fun i => bitAt m i && !bitAt t i && within (m / 2 ^ (i + 1)) (t / 2 ^ (i + 1))).map fun i =>
      t / 2 ^ (i + 1) * 2 ^ (i + 1) + 2 ^ i

/-- A coordinate that is b modulo 2^SPREAD can satisfy a range. -/
def Range.reaches (r : Range) (spread b : Nat) : Bool :=
  let low := Nat.land b (r.mask % 2 ^ spread)
  (submasksFrom (r.mask / 2 ^ spread) ((r.lo - low + 2 ^ spread - 1) / 2 ^ spread)).any fun h =>
    decide (r.lo ≤ low + h * 2 ^ spread) && decide (low + h * 2 ^ spread ≤ r.hi)

/-- The values of I mod 2^SPREAD that an I range covers (R63). -/
def rangeBuckets (r : Range) (spread : Nat) : List Nat :=
  match r.single with
  | some c => [c % 2 ^ spread]
  | none => (List.range (2 ^ spread)).filter (r.reaches spread)

/-- The rendezvous slices that a pattern's names may have: one per spread bucket its I range covers (R63), and every
slice of the list when the pattern leaves its colour or generation free (log entry 15). -/
def State.rendezvousOf (s : State) (g : Reg) : List (Nat × Nat) :=
  if g.cany || g.gany then ((s.partAt g.part).slices.map fun e => (s.standIn g.part e.1, e.2)).dedup
  else
    ((rangeBuckets g.ir (s.spreadOf g.part g.tenant g.tensor)).filterMap fun b =>
      s.sliceFor g.part (rendHash (nameOf g.tenant g.tensor g.colour g.gen b 0 0 0)
        (s.spreadOf g.part g.tenant g.tensor))).dedup

/-- The routers that carry a registration, each with the port that leads to its cluster scheduler (R63). -/
def State.regPlaces (s : State) (g : Reg) : List (Nat × Nat) :=
  ((schedRouter g.cluster, 8) :: (s.rendezvousOf g).flatMap fun e =>
    s.pathFrom (schedRouter g.cluster) (sliceRouter e.1 e.2) pathFuel).dedup

/-- A registration of a cluster changed. -/
def State.modReg (s : State) (q no : Nat) (f : Reg → Reg) : State :=
  s.modCluster q fun c => { c with regs := c.regs.map fun x => if x.no = no then f x else x }

/-- A registration's entry installed at a router with an output port; none when the router rejects it (R67). -/
def State.installAt (s : State) (g : Reg) (e : Nat × Nat) : Option State :=
  ((s.routerAt e.1).install (g.entry e.2)).map fun x =>
    (s.setRouter e.1 x.1).modReg g.cluster g.no fun y => { y with places := y.places ++ [(e.1, x.2)] }

/-- The registration's entries installed along its paths; none when a router rejects it (R67). -/
def State.installReg (s : State) (g : Reg) : Option State :=
  (s.regPlaces g).foldl (fun acc e => acc.bind fun s => s.installAt g e) (some s)

/-- The pending registrations of a partition travel again (R67). -/
def State.retryPending (s : State) (p : Nat) : State :=
  s.clusters.foldl (fun s e =>
    let ps := e.2.regs.filter fun g => g.part = p && g.state = 2
    if ps.isEmpty then s
    else { s.modCluster e.1 (fun c => { c with regs := c.regs.map fun g => if g.part = p && g.state = 2 then { g with state := 0, places := [] } else g })
           with regFl := s.regFl ++ ps.map fun g => (e.1, g.no) }) s

/-- The registration leaves the entries that carry it (R65, R67). -/
def State.uninstallReg (s : State) (g : Reg) : State :=
  let r := g.places.foldl (fun acc e =>
    let x := (acc.1.routerAt e.1).uninstall e.2
    (acc.1.setRouter e.1 x.1, acc.2 || x.2)) (s, false)
  if r.2 then r.1.retryPending g.part else r.1

/-- A registration set out from its cluster scheduler (R63); one that a task holds takes an entry of the matching store
(R299). -/
def State.register (s : State) (g : Reg) : State :=
  let g1 := { g with no := s.regNo, state := 0, places := [] }
  let s1 : State := { s.modCluster g.cluster (fun c => { c with regs := c.regs ++ [g1] })
    with regNo := s.regNo + 1, regFl := s.regFl ++ [(g.cluster, s.regNo)] }
  if g.task.isSome then s1.notePeaks g.part g.cluster else s1

/-- A registration withdrawn (R165, R297). -/
def State.unregister (s : State) (g : Reg) : State :=
  let s1 := { s.modCluster g.cluster (fun c => { c with regs := c.regs.filter fun x => x.no ≠ g.no })
              with regFl := s.regFl.filter fun x => x.2 ≠ g.no }
  if g.state = 1 then s1.uninstallReg g else s1

def State.unregisterAll (s : State) (gs : List Reg) : State := gs.foldl State.unregister s

end Sys2Proof.Machine
end

