-- ==== Sys2Proof/Machine/Cw8.lean ====
section
/-! DEFINITION. CW8 compressed weights: blocks, runs and streams, with every check of the decompressor (R103–R106). -/

namespace Sys2Proof.Machine

/-- The bits of a byte string, each byte most significant bit first. -/
def msbBits (bs : List Byte) : List Bool := bs.flatMap fun b => (List.range 8).map fun i => b.getLsbD (7 - i)

/-- The number that some bits spell, first bit highest. -/
def bitsNum (l : List Bool) : Nat := l.foldl (fun a b => 2 * a + b.toNat) 0

/-- The deltas of Table 7·9 by TSEL. -/
def cwDelta (tsel ones : Nat) : Int :=
  let l : List Int := match tsel with
    | 0 => [0, -1, 1, -2, 2]
    | 1 => [0, 1, -1, 2, -2]
    | 2 => [0, -1, -2, -3, -4]
    | _ => [0, 1, 2, 3, 4]
  l.getD ones 0

/-- Leading ones of an exponent code, at most five. -/
def cwOnes : Nat → List Bool → Nat
  | 0, _ => 0
  | _ + 1, [] => 0
  | k + 1, b :: t => if b then 1 + cwOnes k t else 0

/-- One element code (R104): the decoded byte and the rest of the bits; none when it breaks R106. -/
def cwElem (bexp tsel : Nat) (bits : List Bool) : Option (Nat × List Bool) :=
  if bits.length < 5 then none
  else
    let s := bitsNum (bits.take 1)
    let m := bitsNum ((bits.drop 1).take 3)
    let rest := bits.drop 4
    let ones := cwOnes 5 rest
    if ones = 5 then
      if rest.length < 9 then none else some (s * 128 + bitsNum ((rest.drop 5).take 4) * 8 + m, rest.drop 9)
    else if rest.length ≤ ones then none
    else
      let e := (bexp : Int) + cwDelta tsel ones
      if e < 0 || 15 < e then none else some (s * 128 + e.toNat * 8 + m, rest.drop (ones + 1))

/-- n element codes. -/
def cwElems (bexp tsel : Nat) : Nat → List Bool → Option (List Nat × List Bool)
  | 0, bits => some ([], bits)
  | n + 1, bits =>
    match cwElem bexp tsel bits with
    | none => none
    | some (x, rest) => (cwElems bexp tsel n rest).map fun r => (x :: r.1, r.2)

/-- A block that fills a byte string exactly (R103, R106): its 32 E4M3 bytes. -/
def cwBlock (bs : List Byte) : Option (List Byte) :=
  match bs with
  | [] => none
  | h :: body =>
    let x := h.toNat
    let bexp := x / 16
    let tsel := x / 4 % 4
    let zero := x / 2 % 2 = 1
    let raw := x % 2 = 1
    if zero && raw then none
    else if (zero || raw) && x / 4 ≠ 0 then none
    else if zero then (if body = [0] then some (List.replicate 32 0) else none)
    else if raw then (if body.length = 33 && body.drop 32 = [0] then some (body.take 32) else none)
    else
      match cwElems bexp tsel 32 (msbBits body) with
      | none => none
      | some (l, rest) =>
        if bs.length % 2 = 0 && decide (rest.length < 16) && rest.all (· = false) then some (l.map (BitVec.ofNat 8)) else none

/-- The offset table of a run that holds n blocks (R105); none when it breaks the rule. -/
def cwTable (bs : List Byte) (n : Nat) : Option (List Nat) :=
  let l := (List.range 65).map fun i => ofBytes ((bs.drop (2 * i)).take 2)
  let ok := l.headD 1 = 0 && (l.all fun x => x % 2 = 0) &&
    ((List.range 64).all fun i => decide (l.getD i 0 ≤ l.getD (i + 1) 0)) &&
    ((List.range 64).all fun i => decide (i < n) || l.getD i 0 = l.getD 64 0)
  if ok then some l else none

/-- Bytes of an offset table. -/
def cwTableBytes : Nat := 130

/-- What stops a decoder: the offset of the block, or of the table, that fails. -/
abbrev CwRes := Except Nat (List Byte)

/-- Block b of a run at a base whose n blocks lie in a store of a size (R106). -/
def cwRunBlock (run : Nat → Nat → List Byte) (size base n b : Nat) : CwRes :=
  if size < base + cwTableBytes then .error base
  else
    match cwTable (run base cwTableBytes) n with
    | none => .error base
    | some l =>
      let o := base + cwTableBytes + l.getD b 0
      let k := l.getD (b + 1) 0 - l.getD b 0
      if size < o + k then .error o
      else
        match cwBlock (run o k) with
        | none => .error o
        | some x => .ok x

/-- Every block of one run, in order. -/
def cwRun (run : Nat → Nat → List Byte) (size base n : Nat) : CwRes :=
  (List.range n).foldl (fun acc b =>
    match acc with
    | .error e => .error e
    | .ok bs => (cwRunBlock run size base n b).map (bs ++ ·)) (.ok [])

/-- Bytes of the block area of a run, as entry 64 gives it. -/
def cwArea (run : Nat → Nat → List Byte) (base : Nat) : Nat := ofBytes (run (base + 128) 2)

/-- The base of run k of a stream (R105). -/
def cwRunBase (run : Nat → Nat → List Byte) : Nat → Nat → Nat
  | base, 0 => base
  | base, k + 1 => cwRunBase run (base + cwTableBytes + cwArea run base) k

/-- Block j of a stream of n blocks. -/
def cwStreamBlock (run : Nat → Nat → List Byte) (size base n j : Nat) : CwRes :=
  cwRunBlock run size (cwRunBase run base (j / 64)) (min 64 (n - j / 64 * 64)) (j % 64)

end Sys2Proof.Machine
end

