-- ==== Sys2Proof/Machine/Products.lean ====
section
/-! DEFINITION. What a part of the M slot names before it issues: the product that fmt selects, the ranges and their
checks, and the interlock with a weight-buffer load (R95, R265, R267, R268, R270, R274). -/

namespace Sys2Proof.Machine

/-! ## Formats (Table 7·5, R95, R267) -/

/-- The summation block of a pair of formats. -/
def sumBlock (fa fb : Fmt) (int : Bool) : Option Nat :=
  if int then
    (if (fa = .i8 || fa = .i4) && (fb = .i8 || fb = .i4) then some (if fa = .i4 && fb = .i4 then 64 else 32) else none)
  else if fa.isNarrow && (fb.isNarrow || fb = .cw8) then some (if fa = .e2m1 && fb = .e2m1 then 64 else 32)
  else if (fa = .f16 && fb = .f16) || (fa = .bf16 && fb = .bf16) then some 32
  else none

/-- A scale field: none, E8M0 or UE5M3. -/
def scaleSel : Nat → Option ScaleFmt
  | 1 => some .e8m0
  | 2 => some .ue5m3
  | _ => none

/-- What a product runs under. -/
structure Mma where
  fa  : Fmt
  fb  : Fmt
  int : Bool
  s   : Nat                 -- summation block
  kb  : Nat                 -- summation blocks
  q   : Nat                 -- elements of a scale block
  asc : Option ScaleFmt
  bsc : Option ScaleFmt
  rnd : Rnd
  deriving DecidableEq, Repr

/-- K, the scale blocks along it, and the width of B's elements once expanded. -/
def Mma.k (g : Mma) : Nat := g.kb * g.s
def Mma.nsb (g : Mma) : Nat := g.k / g.q
def Mma.fbx (g : Mma) : Fmt := if g.fb = .cw8 then .e4m3 else g.fb
def Mma.aBytes (g : Mma) : Nat := 32 * g.k * g.fa.width / 8
def Mma.bBytes (g : Mma) : Nat := 32 * g.k * g.fbx.width / 8

/-- The product that an fmt and the fields of an instruction select; none for FORMAT-FAULT (R95, R267, R434). -/
def mmaOf (fmt : Word) (k2 wb : Bool) (beats : Nat) (reduced : Bool) : Option Mma :=
  match fmtA fmt, fmtB fmt with
  | some fa, some fb =>
    match sumBlock fa fb (fmtAcc fmt) with
    | none => none
    | some s =>
      let kb := if k2 then 2 else 1
      let wide := if fa = .f16 || fa = .bf16 then 2 else 1
      if (fmtAsc fmt ≠ 0 && !fa.isNarrow) || (fmtBsc fmt ≠ 0 && !(fb.isNarrow || fb = .cw8)) then none
      else if beats ≠ 32 * kb * wide || (fb = .cw8 && !wb) || (reduced && (fa = .e2m1 || fb = .e2m1)) then none
      else some { fa := fa, fb := fb, int := fmtAcc fmt, s := s, kb := kb, q := if fmtBlk16 fmt then 16 else 32,
                  asc := scaleSel (fmtAsc fmt), bsc := scaleSel (fmtBsc fmt), rnd := fmtRndDet fmt }
  | _, _ => none

/-- A range that an instruction names: in the weight buffer or the scratchpad, with its alignment. -/
structure Rng where
  w  : Bool := false
  a  : Nat
  n  : Nat
  al : Nat := 64

def Rng.leaves (r : Rng) : Bool := decide ((if r.w then Config.wbufBytes else Config.spadBytes) < r.a + r.n)

/-- ACCESS-FAULT before ALIGN-FAULT. -/
def rngFault (l : List Rng) : Option (Nat × Word) :=
  match l.find? Rng.leaves with
  | some r => some (accessFault, BitVec.ofNat 64 r.a)
  | none => (l.find? fun r => r.a % r.al ≠ 0).map fun r => (alignFault, BitVec.ofNat 64 r.a)

/-- The tracked ranges of an instruction: those in the scratchpad (R270). -/
def rngTracks (l : List Rng) : List (Nat × Nat) := (l.filter fun r => !r.w).map fun r => (r.a, r.n)

/-- The cluster of the current core is in reduced service (R434). -/
def State.reduced (s : State) : Bool := (s.clusterAt (clusterOf s.cur)).stage = 4

/-- The weight-buffer bytes that a WLD has still to write (R274). -/
def MOp.wldPending (m : MOp) : Option (Nat × Nat) :=
  match m.i with
  | .wld f => let unit := if f.cw8 then 32 else 64
              some (m.a + unit * m.done, (if f.cw8 then 32 * m.c else m.c) - unit * m.done)
  | _ => none

/-- A part waits for the WLDs that still write a range of the weight buffer. -/
def Engines.wldOver (e : Engines) (a n : Nat) : Bool :=
  e.mq.any fun m => match m.wldPending with
    | some p => overlaps p.1 p.2 a n
    | none => false
def Engines.wldAny (e : Engines) : Bool := e.mq.any fun m => m.wldPending.isSome

/-- A WLD still writes the offset table of a CW8 run, or the block area whose length that table gives (R105, R274). -/
def Core.cwOver (c : Core) (b : Nat) : Bool :=
  c.eng.wldOver b cwTableBytes || c.eng.wldOver b (cwTableBytes + cwArea c.wbuf.run b)

/-- The ranges of an MMA (R265). -/
def mmaRanges (g : Mma) (wb : Bool) (a b c : Nat) : List Rng :=
  [{ a := a, n := g.aBytes }, { w := wb, a := b, n := if g.fb = .cw8 then cwTableBytes else g.bBytes }]
    ++ (if g.asc.isSome then [{ a := c, n := 32 * g.nsb }] else [])
    ++ (if g.bsc.isSome then [{ a := c + 32 * g.nsb, n := 32 * g.nsb, al := 1 }, { a := c, n := 0 }] else [])

/-- The ranges of an MMA.G: A, the group table and A's scales (R268). -/
def mmaGRanges (g : Mma) (groups a b c : Nat) : List Rng :=
  [{ a := a, n := g.aBytes }, { a := b, n := 8 * groups }]
    ++ (if g.asc.isSome then [{ a := c, n := 32 * g.nsb }] else [])

/-- The checks of a WLD (R274). -/
def wldFault (cw8 : Bool) (a b n : Nat) : Option (Nat × Word) :=
  let out := if cw8 then 32 * n else n
  let limits := if cw8 then decide (n = 0) || decide (4096 < n) else decide (n = 0) || decide (Config.wbufBytes < n)
  if limits then some (accessFault, BitVec.ofNat 64 b)
  else
    let dst : Rng := { w := true, a := a, n := out }
    match rngFault (if cw8 then [dst] else [dst, { a := b, n := n }]) with
    | some e => some e
    | none => if (if cw8 then b % 2 else n % 64) ≠ 0 then some (alignFault, BitVec.ofNat 64 b) else none

/-- The instruction is interlocked with a WLD that has still to write (R274); one that faults is not. -/
def State.mLocked (s : State) (i : Instr) : Bool :=
  let fmt := s.core.fmt
  let r := fun (x : SReg) => (s.core.readS .m x).toNat
  match i with
  | .mma f =>
    (match mmaOf fmt f.k2 f.wb (f.beat.toNat + 1) s.reduced with
     | none => false
     | some g => (rngFault (mmaRanges g f.wb (r f.a) (r f.b) (r f.c))).isNone && f.wb &&
         (if g.fb = .cw8 then s.core.cwOver (r f.b) else s.core.eng.wldOver (r f.b) g.bBytes))
  | .mmaG f =>
    (match mmaOf fmt f.k2 true (f.beat.toNat + 1) s.reduced with
     | none => false
     | some g => (rngFault (mmaGRanges g (f.groups.toNat + 1) (r f.a) (r f.b) (r f.c))).isNone && s.core.eng.wldAny)
  | .wld f =>
    (wldFault f.cw8 (r f.a) (r f.b) (r f.c)).isNone &&
      s.core.eng.wldOver (r f.a) (if f.cw8 then 32 * r f.c else r f.c)
  | _ => false

end Sys2Proof.Machine
end

