-- ==== Sys2Proof/Machine/Ops.lean ====
section
/-! DEFINITION. The shared operations of a running task: how a part issues, waits, faults and retires its bundle
(R118–R129), taking an exception (R376, R377) and coming back from one (R26, R377), every suspension point (R26, R128,
R231, R389), and checkpoint holds (R382, R383). -/

namespace Sys2Proof.Machine

/-- What the body of a part answers. -/
inductive Res where
  /-- The part has had its effect. -/
  | done (s : State)
  /-- The part waits in place and has changed nothing (R126, R153). -/
  | wait
  /-- The part has passed its checks and waits for an interlock of its unit (R126, R274). -/
  | lock
  /-- The part stays in its slot queue until its bank can serve it (R210). -/
  | bank
  /-- The part waits, having asked for something meanwhile: a translation, or a full-empty word. -/
  | stay (s : State)
  /-- A precise fault: its cause and WAITARG (R376). -/
  | fault (cause : Nat) (arg : Word)
  /-- A precise fault of a part that has walked the page tables; with cause `heldBack`, a wait in place (R338). -/
  | faultIn (s : State) (cause : Nat) (arg : Word)
  /-- The task has left its core (R26). -/
  | leave (s : State)
  deriving Repr

/-! ## The bundles in flight (R118–R126) -/

/-- The bundles in flight, oldest first. -/
def Core.flight (c : Core) : List Latch := if c.lat.on then c.older ++ c.lat :: c.younger else []

/-- The bundle at a place of the flight comes into focus. -/
def Core.focusOn (c : Core) (n : Nat) : Core :=
  match c.flight[n]? with
  | none => c
  | some b => { c with older := c.flight.take n, lat := b, younger := c.flight.drop (n + 1) }

/-- The oldest bundle comes into focus. -/
def State.front (s : State) : State := s.onCore fun c => c.focusOn 0

/-- What a bundle adds to the nominal count of the next (R119), as far as its dispatch knows it. -/
def Latch.step (l : Latch) : Nat := 1 + bundleStall l.bits

/-- A write of SYS.WR to a register of the core that later bundles see (R183). -/
def Core.sysApply (c : Core) (w : Nat × Word) : Core :=
  if w.1 = 0 then { c with scb := bitOf w.2 0 }
  else if w.1 = 1 then { c with srnd := if w.2 = 0 then 1 else w.2 }
  else if w.1 = 5 then { c with chainEn := bitOf w.2 63, tok := BitVec.ofNat 32 w.2.toNat }
  else c

/-- What SYS.WR of a bundle wrote takes effect (R183). -/
def Core.applySys (c : Core) (b : Latch) : Core := b.sysw.reverse.foldl Core.sysApply c

/-- The oldest bundles whose parts have all issued leave, and the next comes into focus (R118, R123). -/
def Core.leaveFront (c : Core) : List Latch → Core
  | [] => { c with older := [], lat := {}, younger := [] }
  | b :: rest =>
    if b.todo = [] then Core.leaveFront { c.applySys b with hist := (b.at_ :: c.hist).take 16 } rest
    else { c with older := [], lat := b, younger := rest }

/-- The nominal count from which on bundles are still to issue. -/
def Core.horizon (c : Core) : Nat := if c.lat.on then c.lat.at_ else c.nominal

/-- The oldest bundles leave once complete; old values and configurations that no bundle can see any more go with them
(R118, R120, R145). -/
def Core.retire (c : Core) : Core :=
  let d := c.leaveFront c.flight
  let e := d.mature d.horizon
  { e with old := e.old.filter fun o => e.horizon < o.upto }

/-- The slots' last parts once one of slot k has issued; in a SYNC bundle every queue has passed it (R119, R124). -/
def Core.paceAfter (c : Core) (k : Slot) : List (Nat × Nat) :=
  (List.range 6).map fun i => if i = k.num || bundleSync c.lat.bits then (c.elapsed, c.lat.at_) else c.pace.getD i (0, 0)

/-- The part of slot k has issued (R118). -/
def Core.finish (c : Core) (k : Slot) : Core :=
  let c1 := { c with pace := c.paceAfter k,
                     lat := { c.lat with todo := c.lat.todo.erase k, done := c.lat.done ++ [k], joined := true } }
  if c1.lat.todo = [] && c1.older.isEmpty then c1.retire else c1

def State.finish (s : State) (k : Slot) : State := { s with core := s.core.finish k }

/-- The part of slot k waits in this cycle, for an interlock or in place: others may issue before it (R121, R153). -/
def State.hold (s : State) (k : Slot) (inPlace : Bool) : State :=
  { s with core := { s.core with lat := { s.core.lat with
      waits := k :: s.core.lat.waits, inPlace := if inPlace then k :: s.core.lat.inPlace else s.core.lat.inPlace,
      joined := true } } }

/-- A wait in place, at which a suspension may be taken (R128, R153). -/
def State.waitPart (s : State) (k : Slot) : State := s.hold k true
/-- A wait for an interlock (R121). -/
def State.interlock (s : State) (k : Slot) : State := s.hold k false

/-- A wait for an interlock of its unit, its checks passed: later bundles are not held by it (R126, R274). -/
def State.lockPart (s : State) (k : Slot) : State :=
  (s.hold k false).onCore fun c => { c with lat := { c.lat with passed := k :: c.lat.passed } }

/-- Every part of a SYNC bundle waits together (R124). -/
def State.syncWait (s : State) : State :=
  { s with core := { s.core with lat := { s.core.lat with waits := s.core.lat.todo } } }

/-- A cycle has passed: parts that waited may try again. -/
def Latch.wake (b : Latch) : Latch := { b with waits := [], inPlace := [] }

/-- n cycles pass on the core (log entry 9). -/
def Core.pass (c : Core) (n : Nat) : Core :=
  { c.landFlags (c.elapsed + n) with
    waiting := false
    cycle := c.cycle + BitVec.ofNat 64 n
    elapsed := c.elapsed + n
    older := c.older.map Latch.wake
    lat := c.lat.wake
    younger := c.younger.map Latch.wake
    lands := c.lands.filter fun x => c.elapsed + n < x.at_ }

/-- Every other part of the bundle has issued (R159, R160, R162, R177). -/
def State.alone (s : State) (k : Slot) : Bool := s.core.lat.todo.erase k = []

/-! ## The context save area (R389, Table 27·5) -/

/-- CORE.FRAME as a word (Table 11·4). -/
def Frame.word (f : Frame) : Word :=
  BitVec.ofNat 64 (f.old % 16 * 2 ^ 22 + f.n % 32 * 2 ^ 17 + f.held % 32 * 2 ^ 12 + f.pend % 32 * 2 ^ 7 + f.tag % 16)

def Frame.ofWord (w : Word) : Frame :=
  { old := field w 22 4, n := field w 17 5, held := field w 12 5, pend := field w 7 5, tag := field w 0 4 }

/-- Registers of a file as bytes, register 0 first. -/
def fileBytes {n w : Nat} (v : Vector (BitVec w) n) (k : Nat) : List Byte := v.toList.flatMap fun x => toBytes k x.toNat

/-- A file of registers from bytes. -/
def fileOf (n w : Nat) (bs : List Byte) : Vector (BitVec w) n :=
  Vector.ofFn fun i => BitVec.ofNat w (ofBytes ((bs.drop (i.val * (w / 8))).take (w / 8)))

def predBits (p : Vector Bool 16) : Nat := packElems 1 (p.toList.map Bool.toNat)

/-- The 32 bytes of a stream register in a save area or a core window: state, element width, binding and position (Tables 11·5,
27·5); where they stand among the 32 is log entry 12. -/
def Stream.word (w : Stream) : Nat :=
  let st := match w.st with
    | .unbound => 0
    | .bound => 1
    | .ended => 2
  let b := match w.src with
    | .none => 0
    | .sub k => 1 * 2 ^ 16 + k % 256 * 2 ^ 24
    | .name n => 2 * 2 ^ 16 + n.toNat * 2 ^ 64
    | .vm => 3 * 2 ^ 16 + w.stop % 2 ^ 64 * 2 ^ 64 + w.window % 2 ^ 64 * 2 ^ 128
  st + w.width % 256 * 2 ^ 8 + b + w.pos % 2 ^ 64 * 2 ^ 192

/-- A stream register from its 32 bytes, with what its share's staging kept for it (R389). -/
def Stream.ofWord (x : Nat) (held : Stream) : Stream :=
  let pos := bitsAt x 192 64
  let y : Stream := { st := if bitsAt x 0 8 = 1 then .bound else .ended, width := max 1 (bitsAt x 8 8), pos := pos }
  let kept := { y with buf := held.buf, marker := held.marker }
  if bitsAt x 0 8 = 0 || 2 < bitsAt x 0 8 then {}
  else
    match bitsAt x 16 8 with
    | 1 => { kept with src := .sub (bitsAt x 24 8) }
    | 2 => { kept with src := .name (BitVec.ofNat 128 (bitsAt x 64 128)) }
    | 3 => { y with src := .vm, stop := bitsAt x 64 64, window := bitsAt x 128 64, nextVa := pos / 64 * 64, cleared := true,
                    marker := bitsAt x 0 8 = 1 && decide (bitsAt x 64 64 ≤ pos) }
    | _ => y

/-- The stream registers as bytes. -/
def streamBytes (w : Vector Stream 8) : List Byte := w.toList.flatMap fun x => toBytes 32 x.word

/-- The bytes of a save area whose contents the spec does not give: two gaps (log entry 12). -/
def openImageBytes : Nat := 0x1E0

/-- The save area: registers from 0x0000, the stream registers at 0x9400, the replay block at 0x9500, the frame pool at 0x9800;
the gaps are free bytes from a place of the counter on (log entry 12). -/
def Core.image (c : Core) (n : Nat) (replay : List Byte) : List Byte :=
  fileBytes c.z 4096 ++ fileBytes c.live.v 128 ++ fileBytes c.live.s 8 ++ fileBytes c.live.m 16 ++ fileBytes c.live.n 16
    ++ toBytes 8 (predBits c.live.p) ++ toBytes 8 c.live.fmt.toNat ++ toBytes 8 c.live.frame.word.toNat
    ++ toBytes 8 c.lcs.toNat ++ freeBytes n 0xE0 ++ streamBytes c.w ++ (replay ++ List.replicate 0x200 0).take 0x200
    ++ freeBytes (n + 0xE0) 0x100 ++ fileBytes c.live.pool 8

/-- Registers from a save area. -/
def Regs.ofImage (bs : List Byte) : Regs :=
  let at_ := fun o n => (bs.drop o).take n
  { v := fileOf 32 1024 (at_ 0x8000 0x1000), s := fileOf 64 64 (at_ 0x9000 0x200), m := fileOf 8 128 (at_ 0x9200 0x80),
    n := fileOf 8 128 (at_ 0x9280 0x80),
    p := let x := ofBytes (at_ 0x9300 8); Vector.ofFn fun i => bitAt x i.val,
    fmt := BitVec.ofNat 64 (ofBytes (at_ 0x9308 8)), frame := Frame.ofWord (BitVec.ofNat 64 (ofBytes (at_ 0x9310 8))),
    pool := fileOf 256 64 (at_ 0x9800 0x800) }

/-! ## The replay block (R377, Table 27·2) -/

/-- Registers whose pre-bundle value a resumed bundle needs: written by a marked part, read by an unmarked one. -/
def Core.replayRefs (c : Core) : List RegRef :=
  let reads := c.lat.todo.flatMap fun k =>
    match bundlePart c.lat.bits k with
    | .ok i => match i.uses with
      | some u => u.reads
      | none => []
    | .error _ => []
  (reads.filter fun r => match c.locOf r with
    | some l => c.lat.wrote.any fun w => w.2 = l
    | none => false).dedup

/-- One REG entry: file, register number, value (Table 27·2). -/
def regEntry (file no val : Nat) : Nat := file + no * 2 ^ 8 + val * 2 ^ 64

/-- The replay block as 512 bytes; the values are those from before the bundle, with every latency window ended (R128). -/
def Core.replayBlock (c : Core) : List Byte :=
  let rs := c.replayRefs
  let val := fun (r : RegRef) => (c.locOf r).elim 0 c.before
  let regs := (rs.filterMap fun r => match r with
    | .s i => some (regEntry 0 i.val (val r))
    | .m i => some (regEntry 1 i.val (val r))
    | _ => none).take 8
  let vecs := rs.filterMap fun r => match r with
    | .v i => some (i.val, val r)
    | _ => none
  let vec := fun n => (vecs[n]?).getD (0, 0)
  let vno := fun n => if n < vecs.length then (vec n).1 + 1 else 0
  let pre : Vector Bool 16 := Vector.ofFn fun i => decide (c.before (.p i) = 1)
  let tagv := c.live.frame.tag ≠ c.view.tag
  toBytes 512 (predBits pre + regs.length * 2 ^ 16 + (if tagv then c.view.tag * 2 ^ 24 + 2 ^ 31 else 0)
    + packElems 192 regs * 2 ^ 64 + vno 0 * 2 ^ 1600 + vno 1 * 2 ^ 1608 + (vec 0).2 * 2 ^ 2048 + (vec 1).2 * 2 ^ 3072)

/-- The frame under which the unmarked parts of a resumed bundle resolve names (R377). -/
def replayFrame (f : Frame) (block : List Byte) : Option Frame :=
  let x := ofBytes block
  if bitAt x 31 then some { f with tag := bitsAt x 24 4 } else none

/-- The values that the unmarked parts of a resumed bundle read in place of the files (R377). -/
def replaySaved (f : Frame) (block : List Byte) : List (Loc × Nat) :=
  let x := ofBytes block
  let g := (replayFrame f block).getD f
  let preds := (List.finRange 16).filterMap fun i => (pLoc i).map fun l => (l, bitsAt x i.val 1)
  let regs := (List.range (bitsAt x 16 8)).filterMap fun e =>
    let o := 64 + 192 * e
    let no := bitsAt x (o + 8) 8
    if bitsAt x o 8 = 0 then (sLoc g (Fin.ofNat 64 no)).map fun l => (l, bitsAt x (o + 64) 64)
    else (mLoc (Fin.ofNat 8 no)).map fun l => (l, bitsAt x (o + 64) 128)
  let vec := fun vn at_ => if bitsAt x vn 8 = 0 then [] else [(Loc.v (Fin.ofNat 32 (bitsAt x vn 8 - 1)), bitsAt x at_ 1024)]
  preds ++ regs ++ vec 1600 2048 ++ vec 1608 3072

/-! ## Leaving a core -/

/-- The entry is the marker of a MARK or a FENCE. -/
def AccKind.isMark : AccKind → Bool
  | .mark .. => true
  | _ => false

/-- Nothing that the task issued is still under way (R128, R231, R379); a marker with nothing behind it holds nothing. -/
def Engines.quiet (e : Engines) : Bool :=
  e.mq.isEmpty && e.cps.isEmpty && e.hashes.isEmpty && e.lcs.isEmpty && e.shadow.isEmpty &&
    e.holds.isEmpty && (e.acc.all fun a => a.kind.isMark) && e.pubs.isEmpty && e.awaits.isEmpty

/-- Stores that wait at Bolsar ports: at domain scope they are performed on their home wafer alone (Table 15·7). -/
def State.abroadStores (s : State) (scope : Nat) : List StBuf :=
  if scope < 6 then [] else s.wafer.bolsarOut.filterMap fun f => match f.2 with
    | .store e => some e
    | _ => none

/-- Every virtual store of a task that issued before a moment, and every store that a load of it has returned, has been
performed at a scope (R228, Table 15·7); stores of engines count when asked for (R229). -/
def State.storesOut (s : State) (q task no scope : Nat) (eng : Bool) : Bool :=
  decide (scope < 3) || ((s.clusterAt q).stbuf ++ s.abroadStores scope).all fun b =>
    (b.eng && !eng) || (!(b.task = task && decide (b.no < no)) && !b.readers.contains task)

/-- Every virtual store of the running task has been performed at a scope. -/
def State.storesDone (s : State) (scope : Nat) : Bool :=
  s.storesOut (clusterOf s.cur) s.core.task.addr s.stamp scope true

/-- The scope number of the task's dispatch level. -/
def State.levelScope (s : State) : Nat := s.scopeNo .level

/-- The stores ahead of every marker of the task have been performed at its scope. -/
def State.marksOut (s : State) : Bool :=
  s.core.eng.acc.all fun a => match a.kind with
    | .mark scope _ => s.storesDone scope
    | _ => true

/-- No channel under a lease holds the save area, so that the registers can be written back (R338). -/
def State.saveUp (s : State) : Bool :=
  !(s.wafer.units.any fun u => u.2.lease = .test) ||
    (pageParts s.core.task.csa Config.saveBytes).all fun p =>
      match (s.xlate p.1 .store).2 with
      | .ok t => s.channelsUp (t.paOf p.1) p.2 t.gran
      | .error f => f.cause ≠ heldBack

/-- A suspension point may be taken: every issued part has completed, and the FENCE of R231 holds. -/
def State.settled (s : State) : Bool := s.core.eng.quiet && s.storesDone s.levelScope && s.marksOut && s.saveUp

/-- What a stream register keeps while its task is off the core (R389): an SBIND generator's unread lines are dropped
and requested again from the position of the next element. -/
def Stream.offCore (w : Stream) : Stream :=
  match w.src with
  | .vm => { w with buf := [], asked := [], nextVa := w.pos / 64 * 64, marker := w.marker && decide (w.stop ≤ w.pos) }
  | _ => { w with asked := [] }

/-- The core without its task. -/
def Core.idle (c : Core) : Core :=
  { c with busy := false, waiting := false, task := {}, old := [], lands := [], fmtQ := [], flagQ := [], older := [], lat := {},
           younger := [], pace := [], hist := [], nominal := 0, elapsed := 0, mOcc := 0, eOcc := 0, w := Vector.replicate 8 {},
           eng := {}, pre := .none, doom := none, lcs := 0, regBad := [] }

/-- The write-back of R26: the registers go to the save area, CTXV is set, and the record leaves the core; with it goes
the place at which a marked C part has dispatch go on (R156, log entry 97), and what SYS.WR wrote stands (R183). -/
def State.writeBack (s : State) (replay : List Byte) (f : Rec → Rec) : State × Rec :=
  let c := (s.core.applySys s.core.lat).settleFmt
  let g := f { c.task with ctxv := true, held := c.w.toList.map Stream.offCore }
  let r := { g with jump := if g.scm = 0 then none else c.lat.target }
  let s0 := { s with core := c, freeCtr := s.freeCtr + openImageBytes }
  let s1 := (s0.writeVa r.part r.tenant r.csa (c.image s.freeCtr replay)).1
  ((({ s1 with core := s1.core.idle }).setRec r).notePeaks r.part r.share, r)

/-- No replay block. -/
def noReplay : List Byte := List.replicate 512 0

/-- SCM of a partly executed bundle: C, S0, S1, V, M and E from high to low (Table 3·1). -/
def scmOf (done : List Slot) : Nat := (done.map fun k => 2 ^ (5 - k.num)).sum

/-- The slots that SCM marks. -/
def scmSlots (scm : Nat) : List Slot := allSlots.filter fun k => bitAt scm (5 - k.num)

/-- The replay block of the bundle in focus, when a part of it has issued (R377). -/
def State.replayHere (s : State) : List Byte := if s.core.lat.done = [] then noReplay else s.core.replayBlock

/-- A write-back, and what becomes of the record then. A record that the supervisor's write has had refused, and a task
that a checkpoint hold ends, come back as FAULTED at any suspension point (R23, R383). -/
def State.leaveWith (s : State) (replay : List Byte) (f : Rec → Rec) (after : State → Rec → State) : State :=
  match s.core.doom with
  | some d =>
    (s.writeBack replay fun r => { f r with st := 6, cause := d.1, waitArg := d.2, waitQ := false, spawn := none }).1
  | none => let w := s.writeBack replay f; after w.1 w.2

/-! ## Taking an exception (R376, R382, R383) -/

/-- A launch enters a checkpoint hold: its other running tasks are asked to leave (R383). -/
def State.checkpointHold (s : State) (p launch cause : Nat) : State :=
  let s1 := s.modLaunch p launch fun l => { l with hold := some cause, reached := false }
  (s1.cur :: s1.others.keys).dedup.foldl (fun s w =>
    let c := s.coreAt w
    if c.busy && c.task.part = p && c.task.launch = launch && c.pre = .none then s.setCore w { c with pre := .supervisor } else s) s1

/-- A precise fault: the record is written back FAULTED with PC at the bundle, SCM marking the parts that issued, FCNT
incremented, CAUSE and WAITARG set, the registers and the replay block saved; a message of TYPE 0x01 is posted (R376,
R381), and a level's fault limit may start a checkpoint hold (R382). -/
def State.takeFault (s : State) (pc : Half) (scm : Nat) (replay : List Byte) (cause : Nat) (arg : Word) : State :=
  let flim := ((s.levelOf s.core.task).map (·.flim)).getD 0
  let past := decide (flim ≠ 0) && decide (flim < min 255 (s.core.task.fcnt + 1))
  let w := s.writeBack replay fun r =>
    { r with st := 6, pc := pc, scm := scm, fcnt := min 255 (r.fcnt + 1),
             cause := if past then 0x31 else cause, waitArg := if past then BitVec.ofNat 64 cause else arg }
  let s1 := w.1.message w.2.part
    { type := 1, cause := cause, launch := w.2.launch, core := s.cur, addr := arg, rec_ := w.2.addr }
  if past then s1.checkpointHold w.2.part w.2.launch 0x31 else s1

/-- A precise fault of the part of slot k: no part of the bundle that has not issued does, and the fault is taken once
every part of the earlier bundles has completed (R129, R376). In the common cycle of a SYNC bundle its other parts issue
too (R124). -/
def State.faultPart (s : State) (k : Slot) (cause : Nat) (arg : Word) : State :=
  { s with core := { s.core with lat := { s.core.lat with
      fault := if s.core.lat.fault.isSome then s.core.lat.fault else some (k, cause, arg)
      waits := k :: s.core.lat.waits, joined := true } } }

/-- The precise fault of the bundle in focus is taken. -/
def State.takeNoted (s : State) : State :=
  match s.core.lat.fault with
  | none => s
  | some (_, cause, arg) => s.takeFault s.core.lat.pc (scmOf s.core.lat.done) s.replayHere cause arg

/-- An uncorrectable register word (R439): a checkpoint hold with cause DATA-FAULT, WAITARG the register with bit 63. -/
def regCode : RegRef → Nat
  | .s i => i.val
  | .p i => 0x100 + i.val
  | .v i => 0x200 + i.val
  | .m i => 0x300 + i.val
  | .z i => 0x400 + i.val
  | .n i => 0x500 + i.val

def State.registerDataFault (s : State) (k : Slot) (r : RegRef) : State :=
  let s1 := (s.onCore fun c => { c with doom := some (0x1F, BitVec.ofNat 64 (2 ^ 63 + regCode r)), pre := .supervisor }).waitPart k
  s1.checkpointHold s1.core.task.part s1.core.task.launch 0x1F

/-! ## Issuing a part -/

/-- The guard of a part (R116). -/
def Core.guardTrue (c : Core) (k : Slot) (g : Guard) : Bool := c.readP k g.p != g.neg

/-- A register that a part writes whole holds a correct word again (R384). -/
def State.mend (s : State) (ws : List RegRef) : State :=
  if s.core.regBad = [] then s
  else { s with core := { s.core with regBad := s.core.regBad.filter fun r => !ws.contains r } }

/-- A part of the bundle in focus stands under an interlock: one of its registers is awaited, or its unit holds it
(R120, R121, R274). -/
def State.partHeld (s : State) (k : Slot) : Bool :=
  match bundlePart s.core.lat.bits k with
  | .error _ => false
  | .ok i =>
    match i.uses with
    | none => false
    | some u =>
      s.core.awaited k (.p u.g.p) ||
        (s.core.guardTrue k u.g && (u.reads.any (s.core.awaited k) || u.writes.any (s.core.owing k) || s.mLocked i))

/-- The parts of a SYNC bundle issue together: an interlock of one of them holds them all (R124). -/
def State.syncHeld (s : State) : Bool :=
  bundleSync s.core.lat.bits && !s.core.lat.joined && s.core.lat.todo.any s.partHeld

/-- A part issues: interlocks first (R120, R121), then the guard (R116), then the body; a fault is precise (R376). -/
def State.issueAs (s : State) (u : Uses) (body : State → Res) : State :=
  if s.syncHeld then s.syncWait
  else if s.core.awaited u.slot (.p u.g.p) then s.interlock u.slot
  else if !s.core.guardTrue u.slot u.g then s.finish u.slot
  else if u.reads.any (s.core.awaited u.slot) || u.writes.any (s.core.owing u.slot) then s.interlock u.slot
  else
    match (RegRef.p u.g.p :: u.reads).find? fun r => s.core.regBad.contains r with
    | some r => s.registerDataFault u.slot r
    | none =>
      match body s with
      | .done s' => (s'.mend u.writes).finish u.slot
      | .wait => s.waitPart u.slot
      | .lock => s.lockPart u.slot
      | .bank => s.interlock u.slot
      | .stay s' => s'.waitPart u.slot
      | .fault cause arg => s.faultPart u.slot cause arg
      | .faultIn s' cause arg => if cause = heldBack then s'.waitPart u.slot else s'.faultPart u.slot cause arg
      | .leave s' => s'

/-- exec of a slot instruction. -/
def State.issue (s : State) (i : Instr) (body : State → Res) : Host.Outcome State Fault Refusal :=
  match i.uses with
  | none => .next s
  | some u => .next (s.issueAs u body)

/-- A body that only writes registers of the current core. -/
def State.compute (s : State) (i : Instr) (f : Core → Core) : Host.Outcome State Fault Refusal :=
  s.issue i fun s => .done { s with core := f s.core }

/-! ## Suspension points (R26, Table 3·3) -/

/-- The record goes back to READY at the tail of its priority, with a cause and a PC. -/
def State.suspendReady (s : State) (cause : Nat) (pc : Half) (scm : Nat) (replay : List Byte) (st : Nat) (head : Bool) :
    State :=
  s.leaveWith replay (fun r => { r with cause := cause, pc := pc, scm := scm, waitArg := 0 }) fun s r => s.ready r st head

/-- PC and SCM of a suspension where the core stands: at the oldest bundle in flight, which a wait holds (R128, R153), or
at a bundle boundary, where SCM is zero. -/
def State.stopPc (s : State) : Half := if s.core.lat.on then s.core.lat.pc else s.core.task.pc
def State.stopScm (s : State) : Nat := if s.core.lat.on then scmOf s.core.lat.done else 0
def State.stopReplay (s : State) : List Byte := if s.core.lat.on then s.replayHere else noReplay

/-- A suspension where the core stands, with its oldest bundle in focus. -/
def State.suspendHere (s : State) (cause : Nat) (st : Nat) (head : Bool) : State :=
  s.suspendReady cause s.stopPc s.stopScm s.stopReplay st head

/-! ## Coming back (R26, R377) -/

/-- The registers of a save area reloaded into the current core, before its first bundle. -/
def Core.reload (c : Core) (r : Rec) (image : List Byte) : Core :=
  { c with live := Regs.ofImage image, z := fileOf 8 32768 (image.take 0x8000),
           lcs := BitVec.ofNat 3 (ofBytes ((image.drop 0x9318).take 8)),
           w := Vector.ofFn fun i =>
             Stream.ofWord (ofBytes ((image.drop (0x9400 + 32 * i.val)).take 32)) ((r.held[i.val]?).getD {}) }

/-- A record returns from FAULTED to READY: CAUSE is cleared and it enters the queue of its PRIO (R187). -/
def State.returnRec (s : State) (r : Rec) (head : Bool) : State := s.queueUp { r with cause := 0 } 1 head

end Sys2Proof.Machine
end

