-- ==== Sys2Proof/Machine/Operands.lean ====
section
/-! DEFINITION. Every operand form: the value operand of CR, sB or LITERAL of SR, the immediates of SI and SM, shift
amounts, jump targets (R149, R192, R194, R204). -/

namespace Sys2Proof.Machine

/-- V of the CR format (R149). -/
def Core.val (c : Core) : Val → Word
  | .reg b => c.readS .c b
  | .lit v => v.setWidth 64
  | .imm v => v.setWidth 64

/-- sB, or LITERAL sign-extended (R149, R192). -/
def Core.srcS (c : Core) (k : Slot) : SrcB → Word
  | .reg b => c.readS k b
  | .lit v => v.signExtend 64

/-- sB, or LITERAL zero-extended (R192). -/
def Core.srcZ (c : Core) (k : Slot) : SrcB → Word
  | .reg b => c.readS k b
  | .lit v => v.setWidth 64

/-- The second operand of SI, sign-extended (R149). -/
def imm17Sext : Imm17 → Word
  | .imm v => v.signExtend 64
  | .lit v => v.signExtend 64

/-- The operand of MOVI.Z, zero-extended (R196). -/
def imm17Zext : Imm17 → Word
  | .imm v => v.setWidth 64
  | .lit v => v.setWidth 64

/-- The offset of SM (R204). -/
def offSext : Off → Word
  | .imm v => v.signExtend 64
  | .lit v => v.signExtend 64

/-- A shift amount: X[5:0], B[7:0] or LITERAL[7:0] (R194). -/
def Core.shAmt (c : Core) (k : Slot) : ShAmt → Nat
  | .reg b => (c.readS k b).toNat % 256
  | .lit v => v.toNat % 256
  | .imm n => n.toNat

/-- An FP32 operand: bits [31:0], or the LITERAL as a pattern (R198). -/
def Core.srcF (c : Core) (k : Slot) : SrcB → Nat
  | .reg b => (c.readS k b).toNat % 2 ^ 32
  | .lit v => v.toNat

/-- The target of JMP (R156). -/
def Core.jmpTarget (c : Core) : JmpDest → Half
  | .reg a => (c.readS .c a).setWidth 32
  | .lit v => v

/-- The effective address of R204. -/
def Core.ea (c : Core) (k : Slot) (a b : SReg) (o : Off) : Word := c.readS k a + c.readS k b + offSext o

/-- The effective address of an atomic, whose B field holds the operand (R204). -/
def Core.eaAtom (c : Core) (k : Slot) (a : SReg) (o : Off) : Word := c.readS k a + offSext o

/-- The target pc + sext(OFF) (R156), modulo 2^32. -/
def offTarget (pc : Half) (off : BitVec 27) : Half := pc + off.signExtend 32

/-! ## Scratchpad ranges (R151, R384) -/

/-- The check of R151 on an offset. -/
def scratchCheck (a : Word) (align : Nat) : Option (Nat × Word) :=
  if a.toNat / 2 ^ 21 ≠ 0 then some (accessFault, a)
  else if a.toNat % align ≠ 0 then some (alignFault, a)
  else none

/-- The first uncorrectable word that a range touches. -/
def badIn (bad : List Nat) (a n : Nat) : Option Nat := bad.find? fun w => overlaps w 8 a n

/-- The uncorrectable words left after a range has been written: a word written whole is mended. -/
def badAfter (bad : List Nat) (a n : Nat) : List Nat := bad.filter fun w => !(decide (a ≤ w) && decide (w + 8 ≤ a + n))

/-- Bytes written to the scratchpad. -/
def Core.spadPut (c : Core) (a : Nat) (bs : List Byte) : Core :=
  { c with spad := c.spad.write a bs, spadBad := badAfter c.spadBad a bs.length }

/-- Bytes of the scratchpad. -/
def Core.spadGet (c : Core) (a n : Nat) : List Byte := c.spad.run a n

end Sys2Proof.Machine
end

