-- ==== Sys2Proof/Machine/Tracks.lean ====
section
/-! DEFINITION. Where an access goes and what it meets there: the checks of Table 15·1, the ranges that engines track
(R270, R288, R360), the units under a lease (R205, R338), and the ordering of one task's accesses (R227–R230). -/

namespace Sys2Proof.Machine

/-! ## Ranges that engines hold -/

/-- The scratchpad ranges that a Celadon command reads, held whole until its last byte is read (R270, R360). -/
def LcCmd.sources : LcCmd → List (Nat × Nat)
  | .tbl _ src n map _ => [(src, 384 * n), (map, 16)]
  | .run _ _ a nb _ _ nin _ => [(a, 8 * nb * nin)]
  | .tslice fmt nt thr _ a f nb => [(a, (fmt / 2 + 1) * 64 * f * nb), (thr, (fmt / 2 + 1) * nt * f)]
  | .unslice _ w _ a nv nb => [(a, 8 * nv * w * nb)]
  | .pop _ a ng g nb => [(a, 8 * ng * g * nb)]

/-- What a Celadon output command has still to write. -/
def LcCmd.dest : LcCmd → List (Nat × Nat)
  | .tbl .. => []
  | .run _ d _ nb ocnt _ _ done => [(d + 8 * ocnt * done, 8 * ocnt * (nb - done))]
  | .tslice _ nt _ d _ f nb => [(d, 8 * f * nt * nb)]
  | .unslice e _ d _ nv nb => [(d, e * 64 * nv * nb)]
  | .pop d _ ng _ nb => [(d, 128 * ng * nb)]

/-- The scratchpad range that a copy command reads, held whole until its last byte is read (R270). -/
def CpCmd.sources (c : CpCmd) : List (Nat × Nat) :=
  match c.kind with
  | .cp _ .loc => [(c.a, c.n)]
  | .win _ _ => [(c.a, c.n)]
  | _ => []

/-- The core whose window an address names: rank EA[28:21] of the cluster (Table 15·1, R206). -/
def State.winCore (s : State) (ea : Nat) : Option Nat := s.rankCore (clusterOf s.cur) (ea / 2 ^ 21 % 256)

/-- A core's scratchpad as the current core reaches it: its own is local (R205). -/
def State.bankSpace (s : State) (w : Nat) : Space4 := if w = s.cur then .loc else .win w

/-- The physical ranges of a virtual range, as far as its pages translate. -/
def State.paRanges (s : State) (va n : Nat) : List (Nat × Nat) :=
  (pageParts va n).filterMap fun p => match (s.xlate p.1 .store).2 with
    | .ok t => some (t.paOf p.1, p.2)
    | .error _ => none

/-- What a copy command has still to write. -/
def State.cpDest (s : State) (c : CpCmd) : List (Space4 × Nat × Nat) :=
  let d := c.d + c.done
  let n := c.n - c.done
  match c.kind with
  | .cp .loc _ => [(.loc, d, n)]
  | .cp .win _ => [(s.bankSpace ((s.winCore d).getD s.cur), d % 2 ^ 21, n)]
  | .cp .vm _ => (s.paRanges d n).map fun r => (.vm, r)
  | .win f k => ((List.range k).map fun i => (s.bankSpace ((s.rankCore (clusterOf s.cur) (f + i)).getD s.cur), c.a + c.done, n)).filter
      fun d => d.1 ≠ .loc

def HashCmd.sources : HashCmd → List (Nat × Nat)
  | .sha _ _ _ a n => [(a, n)]
  | .crc _ _ a n => [(a, n)]

def HashCmd.dest : HashCmd → List (Nat × Nat)
  | .sha _ _ d _ _ => [(d, 128)]
  | .crc .. => []

/-- A matrix operation's shadow destination: ZST alone has one (R271). -/
def MOp.dest (m : MOp) : List (Nat × Nat) :=
  match m.i with
  | .zst f => [(m.a, 4096 / 2 ^ f.sz.toNat)]
  | _ => []

/-- The scratchpad ranges that the current core's engines track, each with the number of its command (R270, R360). -/
def Engines.tracked (e : Engines) : List (Nat × Nat × Nat) :=
  (e.mq.flatMap fun m => m.track.map fun r => (m.no, r)) ++ (e.cps.flatMap fun c => c.sources.map fun r => (c.no, r))
    ++ (e.hashes.flatMap fun h => h.2.sources.map fun r => (h.1, r)) ++ e.lcs.flatMap fun l => l.2.sources.map fun r => (l.1, r)

/-- The shadow destinations that have not committed, each with the number of its command: lines written, and what
commands at work have still to write (R288). -/
def State.uncommitted (s : State) : List (Nat × Space4 × Nat × Nat) :=
  let e := s.core.eng
  e.shadow.map (fun l => (l.no, l.sp, l.addr, l.data.length))
    ++ e.cps.flatMap (fun c => (s.cpDest c).map fun d => (c.no, d))
    ++ (e.hashes.flatMap fun h => h.2.dest.map fun d => (h.1, .loc, d))
    ++ (e.mq.flatMap fun m => m.dest.map fun d => (m.no, .loc, d))
    ++ e.lcs.flatMap fun l => l.2.dest.map fun d => (l.1, .loc, d)

/-- Bytes of the scratchpad that a publication has still to capture (R169). -/
def PubJob.pending (p : PubJob) : List (Nat × Nat) :=
  (p.srcs.foldl (fun (acc : Nat × List (Nat × Nat)) r =>
    (acc.1 - r.2, if acc.1 < r.2 then acc.2 ++ [(r.1 + acc.1, r.2 - acc.1)] else acc.2)) (p.data.length, [])).2

/-- A store of the task to a range waits: an engine command that issued before it tracks the range, a shadow of such a
command has not committed there, or a publication before it has still to capture it (R169, R270, R288). -/
def State.storeHeld (s : State) (no : Nat) (sp : Space4) (a n : Nat) : Bool :=
  (sp = .loc && ((s.core.eng.tracked.any fun r => decide (r.1 < no) && overlaps r.2.1 r.2.2 a n) ||
      s.core.eng.pubs.any fun p => decide (p.no < no) && p.pending.any fun r => overlaps r.1 r.2 a n)) ||
    s.uncommitted.any fun d => decide (d.1 < no) && d.2.1 = sp && overlaps d.2.2.1 d.2.2.2 a n

/-! ## Leased units -/

/-- The sibling is under a lease or lost: accesses to its window are held (R205). -/
def State.windowHeld (s : State) (w : Nat) : Bool := (s.coreAt w).lease.away

/-! ## The checks of R210 -/

/-- What an instruction asks of a full-empty page (R216). -/
inductive FeNeed where
  | any | required | forbidden
  deriving DecidableEq, Repr, Inhabited

def FeNeed.bad (n : FeNeed) (fe : Bool) : Bool :=
  match n with
  | .any => false
  | .required => !fe
  | .forbidden => fe

/-- The EA checks of Table 15·1, then alignment (R210, items 1 and 2). -/
def State.eaCheck (s : State) (sp : Space) (ea : Word) (n align : Nat) : Option (Nat × Word) :=
  let bad :=
    match sp with
    | .loc => decide (2 ^ 21 ≤ ea.toNat)
    | .win => decide (2 ^ 29 ≤ ea.toNat) || decide (191 < ea.toNat / 2 ^ 21) ||
        (match s.winCore ea.toNat with
         | none => true
         | some w => match (s.coreAt w).region with
           | some r => !(r.1 = s.core.task.part && r.2.1 = s.core.task.launch && decide (ea.toNat % 2 ^ 21 + n ≤ r.2.2))
           | none => true)
    | .vm => decide (2 ^ 57 ≤ ea.toNat)
  if bad then some (accessFault, ea) else if ea.toNat % align ≠ 0 then some (alignFault, ea) else none

/-- The place of an access that has passed its first checks: the translation and the full-empty check (R210, items 3
and 4). The own rank's window is the own scratchpad (R205). -/
def State.spotOf (s : State) (sp : Space) (ea : Word) (u : Use) (need : FeNeed) : State × Except (Nat × Word) Spot :=
  match sp with
  | .loc => (s, .ok (.loc ea.toNat))
  | .win =>
    match s.winCore ea.toNat with
    | none => (s, .error (accessFault, ea))
    | some w => (s, .ok (if w = s.cur then .loc (ea.toNat % 2 ^ 21) else .win w (ea.toNat % 2 ^ 21)))
  | .vm =>
    let r := s.xlate ea.toNat u
    match r.2 with
    | .error f => (r.1, .error (f.cause, f.arg ea.toNat))
    | .ok t =>
      if need.bad t.fe then (r.1, .error (accessFault, ea))
      else (r.1, .ok (.vm ea.toNat (t.paOf ea.toNat) t.gran (s.keyId s.core.task.part t.key) t.fe t.lat))

/-- Checks of one access in the order of R210. -/
def State.place (s : State) (sp : Space) (ea : Word) (n align : Nat) (u : Use) (need : FeNeed) :
    State × Except (Nat × Word) Spot :=
  match s.eaCheck sp ea n align with
  | some f => (s, .error f)
  | none => s.spotOf sp ea u need

/-! ## What a place holds -/

/-- The space and the address of a place, by which places are compared. -/
def Spot.space : Spot → Space4 × Nat
  | .loc o => (.loc, o)
  | .win w o => (.win w, o)
  | .vm _ pa _ _ _ _ => (.vm, pa)

/-- A place moved up. -/
def Spot.shift (p : Spot) (i : Nat) : Spot :=
  match p with
  | .loc o => .loc (o + i)
  | .win w o => .win w (o + i)
  | .vm va pa g key fe lat => .vm (va + i) (pa + i) g key fe lat

/-- The address of a word that a place names, as a fault reports it. -/
def Spot.word (p : Spot) (w : Nat) : Nat :=
  match p with
  | .loc _ => w
  | .win _ o => w - o
  | .vm va _ _ _ _ _ => va

/-- The byte that a store buffer's entry holds for an address. -/
def StBuf.byte (e : StBuf) (a : Nat) : Option Byte := if e.pa ≤ a then (e.data[a - e.pa]?).join else none

/-- A byte in the newest store that a cluster's store buffer holds for it (R223). -/
def bufByte (b : List StBuf) (a : Nat) : Option Byte := b.reverse.findSome? fun e => e.byte a

/-- The entry holds a byte of a range. -/
def StBuf.hits (e : StBuf) (pa n : Nat) : Bool :=
  overlaps e.pa e.data.length pa n && (List.range n).any fun i => (e.byte (pa + i)).isSome

/-- The entries whose bytes a load returns note the task that reads them (R228). -/
def noteReader (t pa n : Nat) (e : StBuf) : StBuf :=
  if e.hits pa n && !e.readers.contains t then { e with readers := t :: e.readers } else e

/-- n bytes of memory as the core with window number w reads them for its task; none when uncorrectable (R223). -/
def State.readVm (s : State) (w pa n gran key : Nat) : State × Option (List Byte) :=
  let q := clusterOf w
  let b := (s.clusterAt q).stbuf
  if !(b.any fun e => e.hits pa n) then s.readPa pa n gran key
  else
    let s1 := s.modCluster q fun c => { c with stbuf := c.stbuf.map (noteReader (s.coreAt w).task.addr pa n) }
    if (List.range n).all fun i => (bufByte b (pa + i)).isSome then
      (s1, some ((List.range n).map fun i => (bufByte b (pa + i)).getD 0))
    else
      let r := s1.readPa pa n gran key
      (r.1, r.2.map fun bs => bs.zipIdx.map fun x => (bufByte b (pa + x.2)).getD x.1)

/-- n bytes of a place as the core with window number w reaches it; the address of an uncorrectable word when there is
one (R384, R439). -/
def State.readSpot (s : State) (w : Nat) (p : Spot) (n : Nat) : State × Except Nat (List Byte) :=
  match p with
  | .loc o =>
    match badIn (s.coreAt w).spadBad o n with
    | some x => (s, .error x)
    | none => (s, .ok ((s.coreAt w).spadGet o n))
  | .win v o =>
    match badIn (s.coreAt v).spadBad o n with
    | some x => (s, .error ((s.coreAt v).rank * 2 ^ 21 + x))
    | none => (s, .ok ((s.coreAt v).spadGet o n))
  | .vm va pa gran key _ _ =>
    let r := s.readVm w pa n gran key
    match r.2 with
    | none => (r.1, .error (s.badVa va pa n gran))
    | some bs => (r.1, .ok bs)

/-- An entry of the store buffer for the task of a core. -/
def State.bufEntry (s : State) (w no pa gran key lat : Nat) (bs : List (Option Byte)) : StBuf :=
  { pa := pa, data := bs, gran := gran, key := key, lat := lat, task := (s.coreAt w).task.addr, no := no }

/-- Bytes stored at a place by the core with window number w: a bank takes them at once, memory through the cluster
store buffer (R223, Table 15·7). -/
def State.writeSpot (s : State) (w no : Nat) (p : Spot) (bs : List Byte) : State :=
  match p with
  | .loc o => s.modCore w fun c => c.spadPut o bs
  | .win v o => s.modCore v fun c => c.spadPut o bs
  | .vm _ pa gran key _ lat =>
    s.modCluster (clusterOf w) fun c => { c with stbuf := c.stbuf ++ [s.bufEntry w no pa gran key lat (bs.map some)] }

/-! ## Order among the task's own accesses (R226–R230) -/

/-- Two places share a byte. -/
def Spot.meets (a : Spot) (n : Nat) (b : Spot) (k : Nat) : Bool :=
  a.space.1 = b.space.1 && overlaps a.space.2 n b.space.2 k

/-- The access writes its location. -/
def AccKind.writes : AccKind → Bool
  | .loadFe _ => true
  | .atom .. => true
  | .store .. => true
  | _ => false

/-- The access has still to perform. -/
def Access.waits (a : Access) : Bool := !a.asked && !a.deferred

/-- The access shares a byte with a list of places. -/
def Access.touches (a : Access) (parts : List (Spot × Nat)) : Bool :=
  a.parts.any fun p => parts.any fun x => p.1.meets p.2 x.1 x.2

/-- An access of the task that issued before a moment and has still to perform shares a byte with some places, and one
of the two writes (R227, R232). -/
def Core.behind (c : Core) (no : Nat) (parts : List (Spot × Nat)) (writes : Bool) : Bool :=
  c.eng.acc.any fun a => a.waits && decide (a.no < no) && (writes || a.kind.writes) && a.touches parts

/-- A marker that issued before a moment has still to open (R228). -/
def Core.marked (c : Core) (no : Nat) : Bool := c.eng.acc.any fun a => a.kind.isMark && decide (a.no < no)

/-- The task is on its way off the core: a bundle that ends its stay waits in place, or it is asked to leave. -/
def Core.leaving (c : Core) : Bool :=
  c.pre ≠ .none || c.flight.any fun b => b.inPlace.contains .c && match bundlePart b.bits .c with
    | .ok (.halt _) | .ok (.yield _) | .ok (.waitQ _) | .ok (.waitS _) | .ok (.trap _) | .ok (.spawn _) => true
    | _ => false

/-- Line reads of a generator that was bound before a moment have still to perform (R343); the lines that a departing
task has not read are dropped with it (R389, log entry 64). -/
def Core.linesAhead (c : Core) (no : Nat) : Bool :=
  !c.leaving && c.w.toList.any fun x => x.src = .vm && x.st = .bound && decide (x.no < no) &&
    (!x.asked.isEmpty || decide (x.nextVa < x.stop))

/-- Every access that the task of a core issued before a moment is performed at a scope (R224, R228, R169). -/
def State.performed (s : State) (w no scope : Nat) (eng : Bool) : Bool :=
  let c := s.coreAt w
  (c.eng.acc.all fun a => decide (no ≤ a.no) || a.asked) && !c.linesAhead no &&
    s.storesOut (clusterOf w) c.task.addr no scope eng

/-- An engine writes copies, stored tiles or Celadon outputs that FENCE waits for (R229). -/
def Engines.fenced (e : Engines) : Bool :=
  e.cps.isEmpty && (e.mq.all fun m => m.dest.isEmpty) && (e.lcs.all fun l => l.2.dest.isEmpty) &&
    e.shadow.all fun l => l.eng = .hash

/-! ## The store queue as the task's own reads see it (R227) -/

/-- The stores of a task that issued before a moment and have still to perform, byte string by place. -/
def Core.pendingStores (c : Core) (no : Nat) : List (Spot × List Byte) :=
  c.eng.acc.flatMap fun a =>
    match a.kind with
    | .store bs _ =>
      if a.waits && decide (a.no < no) then
        (a.parts.foldl (fun (acc : List Byte × List (Spot × List Byte)) p =>
          (acc.1.drop p.2, acc.2 ++ [(p.1, acc.1.take p.2)])) (bs, [])).2
      else []
    | _ => []

/-- The byte that the latest of some stores puts at a place. -/
def storeByte (l : List (Spot × List Byte)) (sp : Space4) (a : Nat) : Option Byte :=
  l.reverse.findSome? fun p => if p.1.space.1 = sp && p.1.space.2 ≤ a then p.2[a - p.1.space.2]? else none

/-- The bytes of a place as a read of the task that issues at a moment finds them: its own earlier stores stand before
what the place holds (R227). -/
def Core.overlay (c : Core) (no : Nat) (p : Spot) (bs : List Byte) : List Byte :=
  let l := c.pendingStores no
  if l.isEmpty then bs else bs.zipIdx.map fun x => (storeByte l p.space.1 (p.space.2 + x.2)).getD x.1

/-- Bytes of the scratchpad as a part of the task that issues now reads them. -/
def State.spadSeen (s : State) (a n : Nat) : List Byte := s.core.overlay s.stamp (.loc a) (s.core.spadGet a n)

/-- An access of the task is numbered and joins its queues (R226). -/
def State.enqueue (s : State) (a : Access) : State :=
  { s.onEng fun e => { e with acc := e.acc ++ [{ a with no := s.stamp }] } with stamp := s.stamp + 1 }

end Sys2Proof.Machine
end

