-- ==== Sys2Proof/Machine/Control.lean ====
section
/-! DEFINITION. Control transfers, loops, frames, suspension, HALT and TRAP, the predicate instructions, CYCLE.RD and the
fmt instructions (R143–R145, R156–R162, R180, R184–R186). -/

namespace Sys2Proof.Machine

/-! ## Transfers of control (R156, R157) -/

/-- Dispatch goes on at a target, with the penalty of R119. No bundle behind this one has been dispatched (R118). -/
def Core.jump (c : Core) (t : Half) (penalty : Nat) : Core :=
  { c with lat := { c.lat with target := some t, penalty := penalty }, task := { c.task with pc := t },
           nominal := c.nominal + penalty }

def execBr (f : CJ) (s : State) : Host.Outcome State Fault Refusal :=
  s.compute (.br f) fun c => c.jump (offTarget c.lat.pc f.off) 2

def execJmp (f : CJmp) (s : State) : Host.Outcome State Fault Refusal :=
  s.compute (.jmp f) fun c => c.jump (c.jmpTarget f.t) 2

def execCall (f : CJr) (s : State) : Host.Outcome State Fault Refusal :=
  s.compute (.call f) fun c => (c.writeS .c 1 f.r (c.lat.next.setWidth 64)).jump (offTarget c.lat.pc f.off) 2

def execRet (f : CA) (s : State) : Host.Outcome State Fault Refusal :=
  s.compute (.ret f) fun c => c.jump ((c.readS .c f.a).setWidth 32) 2

def execLoopSet (f : CAV) (s : State) : Host.Outcome State Fault Refusal :=
  s.compute (.loopSet f) fun c => c.writeS .c 1 f.a (c.val f.v)

def execLoopEnd (f : CJr) (s : State) : Host.Outcome State Fault Refusal :=
  s.compute (.loopEnd f) fun c =>
    let n := c.readS .c f.r
    if 1 < n.toNat then (c.writeS .c 1 f.r (n - 1)).jump (offTarget c.lat.pc f.off) 0 else c.writeS .c 1 f.r 0

/-! ## Frames (R143, R144, R158) -/

/-- The pool with one slot of zeros. -/
def clearSlot (pool : Vector Word 256) (slot : Nat) : Vector Word 256 :=
  Vector.ofFn fun i => if i.val / 16 = slot then 0 else pool.get i

/-- The location lies in a slot of the frame pool. -/
def Loc.inSlot (slot : Nat) : Loc → Bool
  | .f i => i.val / 16 = slot
  | _ => false

/-- A new frame: the parts of this bundle and of earlier ones go on under the frame that stood before (R158). -/
def Core.setFrame (c : Core) (f : Frame) : Core :=
  let note := fun (b : Latch) => { b with frame := some (b.frame.getD c.live.frame) }
  { c with live := { c.live with frame := f }, older := c.older.map note, lat := note c.lat }

/-- A slot newly allocated reads zero (R143). -/
def Core.newSlot (c : Core) (f : Frame) : Core :=
  let d := c.setFrame f
  { d with live := { d.live with pool := clearSlot d.live.pool f.tag },
           old := d.old.filter fun o => !o.loc.inSlot f.tag }

/-- A part of an earlier bundle has still to read or write a register of a slot (R121). -/
def Core.slotNamed (c : Core) (slot : Nat) (all : Bool) (bs : List Latch) : Bool :=
  bs.any fun b => b.todo.any fun j => (namesOf b.bits j all).any fun r => ((locIn (c.viewOf b) r).map (Loc.inSlot slot)).getD false

/-- FRAME.ALLOC takes a slot once no earlier part has still to read or write what the slot held (R121, log entry 3). -/
def State.allocSlot (s : State) (f : Frame) : Res :=
  if s.core.slotNamed f.tag true s.core.older then .wait else .done (s.onCore fun c => c.newSlot f)

def execFrameAlloc (f : CImm) (s : State) : Host.Outcome State Fault Refusal :=
  s.issue (.frameAlloc f) fun s =>
    let fr := s.core.live.frame
    if fr.n = 0 then s.allocSlot { old := 0, n := f.n.toNat, held := 1, pend := 0, tag := 0 }
    else if fr.n ≠ f.n.toNat then .fault illegalOp 0
    else if fr.n - fr.held = 0 then .wait
    else s.allocSlot { fr with tag := (fr.tag + 1) % fr.n, held := fr.held + 1 }

def execFrameFree (f : CNone) (s : State) : Host.Outcome State Fault Refusal :=
  s.issue (.frameFree f) fun s =>
    let fr := s.core.live.frame
    if fr.held = fr.pend then .fault illegalOp 0
    else .done (s.onCore fun c => c.setFrame { fr with pend := fr.pend + 1 })

/-- The oldest marked slot is released (R144). -/
def Frame.release (f : Frame) : Frame :=
  if f.held = 1 then {} else { f with held := f.held - 1, pend := f.pend - 1, old := (f.old + 1) % f.n }

/-- The bundles in flight up to the FRAME.FREE that marked the oldest slot: those that go on under an earlier frame. -/
def Core.freeing (c : Core) : List Latch := c.flight.filter fun b => b.frame.isSome

/-- The release of the oldest marked slot may take place: every pending write into it has landed, those of fixed latency,
of interlocked loads and of engines, and those of parts before its FRAME.FREE that have not issued (R144). -/
def Core.releasable (c : Core) : Bool :=
  let slot := c.live.frame.old
  decide (0 < c.live.frame.pend) && !(c.eng.awaits.any fun l => l.inSlot slot)
    && !(c.lands.any fun x => x.loc.inSlot slot && decide (c.elapsed < x.at_)) && !c.slotNamed slot false c.freeing

def execFrameSlotRelease (core : Nat) (s : State) : Host.Outcome State Fault Refusal :=
  let c := s.coreAt core
  if c.releasable then .next (s.setCore core { c with live := { c.live with frame := c.live.frame.release } }) else .next s

/-! ## Suspension (R159–R162) -/

/-- Its bundle is the oldest in flight and every other part of it has issued. -/
def State.last (s : State) : Bool := s.core.older.isEmpty && s.alone .c

/-- An instruction that leaves its core waits until every other part has issued and everything issued has completed
(R26, R128). -/
def State.mayLeave (s : State) : Bool := s.last && s.settled

/-- The write-back of YIELD (R159). -/
def State.yieldNow (s : State) : State := s.suspendReady 1 s.core.lat.next 0 noReplay 1 false

def execYield (f : CNone) (s : State) : Host.Outcome State Fault Refusal :=
  s.issue (.yield f) fun s => if s.mayLeave then .leave s.yieldNow else .wait

/-- The task waits for a condition: its record is written back WAITING. -/
def State.suspendWaiting (s : State) (arg : Word) (onQueue : Bool) : State :=
  s.leaveWith noReplay (fun r =>
    { r with st := 3, cause := 2, pc := s.core.lat.next, scm := 0, waitArg := arg, waitQ := onQueue }) fun s _ => s

def execWaitQ (f : CA) (s : State) : Host.Outcome State Fault Refusal :=
  s.issue (.waitQ f) fun s =>
    let h := s.core.readS .c f.a
    if !s.handleOk h || handlePart h ≠ s.core.task.part then .fault queueFault h
    else if 0 < (s.hqAt (handlePart h) (handleIdx h)).count then .done s
    else if s.mayLeave then .leave (s.suspendWaiting h true)
    else .wait

/-- The declaration of a subscription of the running task. -/
def State.subDecl (s : State) (k : Nat) : Option SubDecl := (s.tmplOf s.core.task).bind fun t => t.subs[k]?

/-- The visible half of a landing (R72). -/
def Landing.visible (l : Landing) : List Byte := if l.half then l.b else l.a

/-- A staged delivery of subscription k moved into its buffer in one step (R72, R160). -/
def Core.moveLanding (c : Core) (k off : Nat) : Core :=
  match c.task.live.find? fun l => l.k = k && l.full with
  | none => c
  | some l =>
    let c1 := c.spadPut off l.visible
    { c1 with task := { c1.task with live := c1.task.live.map fun x => if x.k = k then { x with full := false } else x } }

/-- WAIT.S (R160). The move of a delivery into its buffer waits for earlier accesses of the task to those bytes (log entry
64). -/
def execWaitS (f : CSub) (s : State) : Host.Outcome State Fault Refusal :=
  s.issue (.waitS f) fun s =>
    match s.subDecl f.k.val with
    | none => .fault nameFault (BitVec.ofNat 64 (0x10 + f.k.val))
    | some d =>
      if d.strm then .fault nameFault (BitVec.ofNat 64 (0x10 + f.k.val))
      else if bitOf s.core.task.sat f.k.val then
        (if s.core.behind s.stamp [(.loc (64 * d.land), 2 ^ (d.lsize + 6))] true then .wait
         else .done (s.onCore fun c => c.moveLanding f.k.val (64 * d.land)))
      else if s.mayLeave then .leave (s.suspendWaiting (BitVec.ofNat 64 f.k.val) false)
      else .wait

/-- The save area of a task goes back to its level's pool (R25). -/
def State.freeSave (s : State) (r : Rec) : State :=
  s.modLaunch r.part r.launch fun l =>
    { l with levels := l.levels.modify ((if r.dlvl = 0 then 1 else r.dlvl) - 1) fun v =>
        { v with used := v.used.erase ((r.csa - v.csa) / Config.saveBytes) } }

/-- The registrations that a task holds are removed (R161, R164, R166). -/
def State.dropHeldRegs (s : State) (r : Rec) : State :=
  s.unregisterAll ((s.clusterAt r.share).regs.filter fun g => g.task = some r.addr)

/-- The task completes: its record goes to DONE (R161). -/
def State.haltTask (s : State) : State :=
  let r := s.core.task
  ((s.onCore fun c =>
      let d := (c.applySys c.lat).settleFmt
      { d.idle with live := { d.live with frame := {} } })
    |>.dropHeldRegs r |>.freeSave r).dropRec r.addr

/-- HALT completes once every other part has issued and every access and engine command has completed (R161). -/
def State.mayHalt (s : State) : Bool := s.last && s.core.eng.quiet

def execHalt (f : CNone) (s : State) : Host.Outcome State Fault Refusal :=
  s.issue (.halt f) fun s => if s.mayHalt then .leave s.haltTask else .wait

def execTrap (f : CImm) (s : State) : Host.Outcome State Fault Refusal :=
  s.issue (.trap f) fun s =>
    if s.mayLeave then .leave (s.takeFault s.core.lat.next 0 noReplay softwareTrap (f.n.setWidth 64)) else .wait

/-! ## Predicates (R180) -/

def Core.predA (c : Core) (f : CP2) : Bool := c.readP .c f.pa != f.ia
def Core.predB (c : Core) (f : CP2) : Bool := c.readP .c f.pb != f.ib

def execPand (f : CP2) (s : State) : Host.Outcome State Fault Refusal :=
  s.compute (.pand f) fun c => c.writeP .c 1 f.pd (c.predA f && c.predB f)

def execPor (f : CP2) (s : State) : Host.Outcome State Fault Refusal :=
  s.compute (.por f) fun c => c.writeP .c 1 f.pd (c.predA f || c.predB f)

def execPxor (f : CP2) (s : State) : Host.Outcome State Fault Refusal :=
  s.compute (.pxor f) fun c => c.writeP .c 1 f.pd (c.predA f != c.predB f)

def execPnot (f : CP1) (s : State) : Host.Outcome State Fault Refusal :=
  s.compute (.pnot f) fun c => c.writeP .c 1 f.pd (!(c.readP .c f.pa != f.ia))

def execPmov (f : CP1) (s : State) : Host.Outcome State Fault Refusal :=
  s.compute (.pmov f) fun c => c.writeP .c 1 f.pd (c.readP .c f.pa != f.ia)

/-! ## The cycle counter and fmt (R145, R184–R186) -/

def execCycleRd (f : CA) (s : State) : Host.Outcome State Fault Refusal :=
  s.compute (.cycleRd f) fun c => c.writeS .c 1 f.a c.cycle

/-- The latest configuration written, whether or not it shows yet. -/
def Core.lastFmt (c : Core) : Word := c.fmtQ.foldl (fun f q => withConfig f q.2) c.live.fmt

/-- A new value of fmt: the flags at once, the configuration four steps on (R145). -/
def Core.setFmt (c : Core) (v : Word) : Core :=
  { c.landFlags c.elapsed with
    live := { c.live with fmt := withFlags c.live.fmt (v.setWidth 6) }, fmtQ := c.fmtQ ++ [(c.lat.at_ + 4, v)] }

/-- The last beat of a matrix operation ended before a cycle, and its flags have still to be ORed in (R96). -/
def Core.flagsDue (c : Core) (e : Nat) : Bool :=
  match c.eng.mq.find? fun m => !m.ran with
  | none => false
  | some m => decide (m.ends < e) && !(c.eng.holds.any fun h => h.eng = .matrix)

/-- The test of R95; a write of the sticky flags comes after every OR of an earlier cycle (R96). -/
def State.fmtWrite (s : State) (v : Word) (f : Core → Core) : Res :=
  if !fmtLegal v then .fault illegalOp 0 else if s.core.flagsDue s.core.elapsed then .lock else .done (s.onCore f)

def State.fmtSet (s : State) (v : Word) : Res := s.fmtWrite v fun c => c.setFmt v

def execFmtSet (f : CA) (s : State) : Host.Outcome State Fault Refusal :=
  s.issue (.fmtSet f) fun s => s.fmtSet (s.core.readS .c f.a)

def execFmtSetH (f : CLit) (s : State) : Host.Outcome State Fault Refusal :=
  s.issue (.fmtSetH f) fun s =>
    let v := setField s.core.lastFmt 32 32 f.lit.toNat
    if fmtLegal v then .done (s.onCore fun c => { c with fmtQ := c.fmtQ ++ [(c.lat.at_ + 4, v)] }) else .fault illegalOp 0

def execFmtSetC (f : CMask) (s : State) : Host.Outcome State Fault Refusal :=
  s.issue (.fmtSetC f) fun s =>
    s.fmtWrite s.core.lastFmt fun c =>
      let d := c.landFlags c.elapsed
      { d with live := { d.live with fmt := withFlags d.live.fmt (d.live.fmt.setWidth 6 &&& ~~~f.mask) } }

def execFmtRd (f : CA) (s : State) : Host.Outcome State Fault Refusal :=
  s.issue (.fmtRd f) fun s =>
    if s.core.flagsDue (s.core.elapsed + 1) then .lock
    else .done (s.onCore fun c => c.writeS .c 1 f.a (withFlags c.fmt c.sticky))

end Sys2Proof.Machine
end

