-- ==== Sys2Proof/Machine/Memory.lean ====
section
/-! DEFINITION. The memory instructions (R204–R231): loads, stores, vectors of lanes, full-empty words, atomics, fences and
prefetch, and the steps by which virtual accesses reach their rim agents and return. -/

namespace Sys2Proof.Machine

/-! ## Sizes and values -/

/-- Bytes of a load or a store (Table 15·5). -/
def ldBytes : LdSize → Nat
  | .i8 | .n8 => 1
  | .i16 | .n16 => 2
  | .i32 | .n32 => 4
  | .w64 => 8

def stBytes : StSize → Nat
  | .b8 => 1
  | .b16 => 2
  | .b32 => 4
  | .b64 => 8

/-- The value that LD writes (R211). -/
def ldExt (z : LdSize) (n : Nat) : Nat :=
  match z with
  | .i8 => (sextTo 8 n).toNat
  | .i16 => (sextTo 16 n).toNat
  | .i32 => (sextTo 32 n).toNat
  | _ => n

/-- The runs of bytes that a mask admits, each with its offset. -/
def maskRuns (km : Quad) : List (Nat × Nat) :=
  ((List.range 128).foldl (fun (acc : List (Nat × Nat)) i =>
    if !bitOf km i then acc
    else
      match acc.getLast? with
      | some (o, n) => if o + n = i then acc.dropLast ++ [(o, n + 1)] else acc ++ [(i, 1)]
      | none => [(i, 1)]) [])

/-- The data of a masked vector load, with zeros where nothing was read. -/
def spreadBytes (km : Quad) (bs : List Byte) : List Byte :=
  ((List.range 128).foldl (fun (acc : List Byte × List Byte) i =>
    if bitOf km i then (acc.1 ++ [acc.2.headD 0], acc.2.drop 1) else (acc.1 ++ [0], acc.2)) ([], bs)).1

/-- Bytes of a vector with those that a mask admits replaced (R212). -/
def mergeBytes (km : Quad) (old : Nat) (bs : List Byte) : Nat :=
  ofBytes (bs.zipIdx.map fun b => if bitOf km b.2 then b.1 else BitVec.ofNat 8 (bitsAt old (8 * b.2) 8))

/-- The old value of an atomic as it is written (R218, R219, R220). -/
def Atom.result (a : Atom) (m : Nat) : Nat :=
  match a.op with
  | .fadd | .nibLo | .nibHi => m
  | _ => if a.size = 4 && !a.uns then (sextTo 32 m).toNat else m

/-- The smaller and the larger of two w-bit numbers. -/
def minW (w : Nat) (uns : Bool) (m b : Nat) : Nat :=
  if uns then min m b else if signed w b < signed w m then b else m
def maxW (w : Nat) (uns : Bool) (m b : Nat) : Nat :=
  if uns then max m b else if signed w m < signed w b then b else m

/-- The new contents that an atomic leaves (R218–R220). -/
def Atom.new (a : Atom) (m : Nat) : Nat :=
  let w := 8 * a.size
  let b := a.b % 2 ^ w
  match a.op with
  | .add => (m + b) % 2 ^ w
  | .min => minW w a.uns m b
  | .max => maxW w a.uns m b
  | .and => Nat.land m b
  | .or => Nat.lor m b
  | .xor => Nat.xor m b
  | .swp => b
  | .cas => if m = b then a.c % 2 ^ w else m
  | .fadd => (addF .f32 .rne (decodeF .f32 m) (decodeF .f32 b)).1
  | .nibLo => m / 16 * 16 + b % 16
  | .nibHi => b % 16 * 16 + m % 16

/-- The register that an access writes. -/
def AccKind.dest : AccKind → Option Loc
  | .load d _ => d
  | .loadV d _ => some (.v d)
  | .gather d _ _ => some (.v d)
  | .loadFe d => d
  | .atom _ d => d
  | .name d => some (.n d)
  | .peek d => d
  | .store .. => none
  | .mark .. => none

/-- The register that an access is still to write (R146). -/
def Access.reg (a : Access) : Option Loc := if a.dead then none else a.kind.dest

/-- Lanes of a vector replaced by the elements read (R213). -/
def mergeLanes (w old : Nat) (lanes : List Nat) (bs : List Byte) : Nat :=
  lanes.zipIdx.foldl (fun v l =>
    (setField (BitVec.ofNat 1024 v) (8 * w * l.1) (8 * w) (ofBytes ((bs.drop (w * l.2)).take w))).toNat) old

/-- The value that an access writes, from the register's old value and the data. -/
def AccKind.value (k : AccKind) (old : Nat) (bs : List Byte) : Nat :=
  match k with
  | .load _ z => ldExt z (ofBytes bs)
  | .loadV _ km => mergeBytes km old (spreadBytes km bs)
  | .gather _ wide lanes => mergeLanes (if wide then 8 else 4) old lanes bs
  | .atom a _ => a.result (ofBytes bs)
  | _ => ofBytes bs

/-- A register written by an access whose data is at hand. -/
def Core.putAccess (c : Core) (k : Slot) (lat : Nat) (a : AccKind) (bs : List Byte) : Core :=
  match a.dest with
  | none => c
  | some l => c.writeLoc k lat l (a.value (c.before l) bs)

/-- A register written by an access whose data has come back (R210). -/
def Core.landAccess (c : Core) (a : Access) (bs : List Byte) : Core :=
  match a.reg with
  | none => c
  | some l => c.land (some l) (a.kind.value (c.live.get l) bs)

/-- An access joins its queues; its register is interlocked (R210, R226). -/
def State.queueAccess (s : State) (a : Access) : State :=
  let dead := (a.kind.dest.map (s.core.overtaken a.slot)).getD false
  (s.onCore fun c => c.await a.slot 1 a.kind.dest).enqueue { a with dead := dead }

/-! ## Full-empty words (R214–R217) -/

def feWord (pa : Nat) : Nat := pa / 8 * 8
/-- The word is full. -/
def Hbm.full (h : Hbm) (pa : Nat) : Bool := !h.empty.contains (feWord pa)
def Hbm.setFull (h : Hbm) (pa : Nat) : Hbm := { h with empty := h.empty.filter fun w => w ≠ feWord pa }
def Hbm.setEmpty (h : Hbm) (pa : Nat) : Hbm := { h with empty := feWord pa :: h.empty.filter fun w => w ≠ feWord pa }
/-- The deferred list of a word: cores and the slots of their waiting parts. -/
def Hbm.waiters (h : Hbm) (pa : Nat) : List (Nat × Nat) := Table.get [] h.defer (feWord pa)

/-- The deferred access of a slot. -/
def Core.deferredAt (c : Core) (slot : Nat) : Option Access := c.eng.acc.find? fun a => a.deferred && a.slot.num = slot

/-- A deferred access answered: with data, or, where its word is uncorrectable, with none (R439). -/
def Core.answer (c : Core) (slot : Nat) (bs : Option (List Byte)) : Core :=
  { c with eng := { c.eng with acc := c.eng.acc.map fun a =>
      if a.deferred && a.slot.num = slot then { a with asked := bs.isSome, bad := bs.isNone, data := bs.getD [] } else a } }

/-- One full-empty access performed at the rim agent, on a word that is full: the data it returns (R215, R216). -/
def State.feServe (s : State) (k : AccKind) (p : Spot) (n : Nat) : State × Option (List Byte) :=
  match p with
  | .vm _ pa gran key _ _ =>
    let r := s.readPa pa n gran key
    match r.2 with
    | none => r
    | some bs =>
      match k with
      | .loadFe _ => ({ r.1 with hbm := r.1.hbm.setEmpty pa }, some bs)
      | .atom a _ => (r.1.writePa pa (toBytes a.size (a.new (ofBytes bs))) gran key, some bs)
      | _ => (r.1, some bs)
  | _ => (s, none)

/-- A deferred list served from its head, as long as the word is full (R217). -/
def State.feDrain (s : State) (pa : Nat) : List (Nat × Nat) → State
  | [] => { s with hbm := { s.hbm with defer := Table.drop s.hbm.defer (feWord pa) } }
  | (w, slot) :: rest =>
    if !s.hbm.full pa then { s with hbm := { s.hbm with defer := Table.set s.hbm.defer (feWord pa) ((w, slot) :: rest) } }
    else
      match (s.coreAt w).deferredAt slot with
      | none => s.feDrain pa rest
      | some a =>
        let p := a.parts.headD (.loc 0, 0)
        let r := s.feServe a.kind p.1 p.2
        (r.1.modCore w fun c => c.answer slot r.2).feDrain pa rest

/-- A store to a full-empty page: the word becomes full and its deferred list is served (R215, R217). -/
def State.feStore (s : State) (pa : Nat) (bs : List Byte) (gran key : Nat) : State :=
  let was := s.hbm.full pa
  let s1 := s.writePa pa bs gran key
  let s2 := { s1 with hbm := s1.hbm.setFull pa }
  if was then s2 else s2.feDrain pa (s2.hbm.waiters pa)

/-- A part asks for a full-empty word that is empty: it joins the deferred list and waits in place (R217). -/
def State.feWait (s : State) (a : Access) (pa : Nat) : State :=
  { s.enqueue { a with deferred := true }
    with hbm := { s.hbm with defer := Table.set s.hbm.defer (feWord pa) (s.hbm.waiters pa ++ [(s.cur, a.slot.num)]) } }

/-- The state without an access in the queues. -/
def State.popAccess (s : State) (a : Access) : State := s.onEng fun e => { e with acc := e.acc.erase a }

/-- A waiting part whose request has been answered completes; one whose word is uncorrectable goes into its queue, which
holds it (R439). -/
def State.takeAnswer (s : State) (a : Access) : Res :=
  if a.asked then .done ((s.onCore fun c => c.putAccess a.slot 1 a.kind a.data).popAccess a)
  else if a.bad then .done ((s.popAccess a).queueAccess { a with deferred := false, bad := false })
  else .wait

/-- An access of the task still to perform, or a marker, keeps one to these places from performing now (R227, R228). -/
def State.accessBarred (s : State) (parts : List (Spot × Nat)) : Bool :=
  s.core.marked s.stamp || s.core.eng.acc.any fun a => a.waits && a.touches parts

/-- A plain load, an LD.FE or an atomic of a full-empty page, which its part awaits (R215–R217). -/
def State.feAccess (s : State) (a : Access) (p : Spot) (n : Nat) : Res :=
  match p with
  | .vm va pa gran key fe lat =>
    if s.accessBarred [(p, n)] || !s.channelsUp pa n gran || s.storeHeld s.stamp .vm pa n then .stay s
    else if !s.hbm.full pa || !(s.hbm.waiters pa).isEmpty then .stay (s.feWait a pa)
    else
      let r := s.feServe a.kind (.vm va pa gran key fe lat) n
      match r.2 with
      | none => .done (r.1.queueAccess a)
      | some bs => .done (r.1.onCore fun c => c.putAccess a.slot 1 a.kind bs)
  | _ => .stay s

/-! ## Loads -/

/-- The first uncorrectable word of the own scratchpad that an access meets (R439). -/
def Core.badParts (c : Core) (parts : List (Spot × Nat)) : Option Nat :=
  parts.findSome? fun p => match p.1 with
    | .loc o => badIn c.spadBad o p.2
    | _ => none

/-- Bytes of places in the own scratchpad as a part that issues now reads them. -/
def State.localBytes (s : State) (parts : List (Spot × Nat)) : List Byte :=
  parts.flatMap fun p => s.spadSeen p.1.space.2 p.2

/-- A local LD or LDV stays in its slot while a marker, or an access to its bytes that it cannot read past, is ahead. -/
def State.bankBusy (s : State) (parts : List (Spot × Nat)) : Bool :=
  s.core.marked s.stamp || s.core.eng.acc.any fun a => a.waits && a.touches parts &&
    (match a.kind with
     | .store .. => false
     | _ => true)

/-- A load of places that have passed their checks: a local LD or LDV reads its bank at issue (R210), any other load goes
through the queue. A local word that is uncorrectable is a precise fault (R439). -/
def State.loadFrom (s : State) (k : Slot) (lat : Nat) (kind : AccKind) (sp : Space) (parts : List (Spot × Nat)) : Res :=
  let a : Access := { kind := kind, slot := k, parts := parts }
  match sp with
  | .loc =>
    match s.core.badParts parts with
    | some w => .faultIn s dataFault (BitVec.ofNat 64 w)
    | none =>
      if lat = 1 then .done (s.queueAccess a)
      else if s.bankBusy parts then .bank
      else .done (s.onCore fun c => c.putAccess k lat kind (s.localBytes parts))
  | _ => .done (s.queueAccess a)

/-- One access that returns data, after its checks (R210–R212, R215). -/
def State.loadOne (s : State) (k : Slot) (lat : Nat) (kind : AccKind) (sp : Space) (ea : Word) (n : Nat) (use : Use)
    (need : FeNeed) : Res :=
  match s.core.deferredAt k.num with
  | some a => s.takeAnswer a
  | none =>
    let r := s.place sp ea n n use need
    match r.2 with
    | .error f => .faultIn r.1 f.1 f.2
    | .ok p =>
      match p with
      | .vm _ _ _ _ true _ => r.1.feAccess { kind := kind, slot := k, parts := [(p, n)] } p n
      | _ => r.1.loadFrom k lat kind sp [(p, n)]

def execLd (f : MLd) (s : State) : Host.Outcome State Fault Refusal :=
  s.issue (.ld f) fun s =>
    s.loadOne f.k.slot 4 (.load (sLoc s.core.view f.d) f.sz) f.sp (s.core.ea f.k.slot f.a f.b f.off) (ldBytes f.sz) .load .any

/-- LDV (R212): only the bytes that the mask admits are read. -/
def State.loadVector (s : State) (k : Slot) (d : VReg) (km : Quad) (sp : Space) (ea : Word) : Res :=
  let r := s.place sp ea 128 128 .load .forbidden
  match r.2 with
  | .error f => .faultIn r.1 f.1 f.2
  | .ok p =>
    let parts := (maskRuns km).map fun x => (p.shift x.1, x.2)
    if parts.isEmpty then .done r.1 else r.1.loadFrom k 6 (.loadV d km) sp parts

def execLdv (f : MVec) (s : State) : Host.Outcome State Fault Refusal :=
  s.issue (.ldv f) fun s =>
    s.loadVector f.k.slot f.v (s.core.readM f.k.slot f.km) f.sp (s.core.ea f.k.slot f.a f.b f.off)

/-! ## Lanes (R213) -/

/-- Bytes of a lane, and how many lanes there are. -/
def gatherWidth (wide : Bool) : Nat := if wide then 8 else 4
def gatherLanes (wide : Bool) (km : Quad) : List Nat := (List.range (if wide then 16 else 32)).filter fun n => bitOf km n

/-- EA(n) of R213. -/
def Core.laneEa (c : Core) (f : MGat) (n : Nat) : Word :=
  let w := gatherWidth f.wide
  c.readS f.k.slot f.a + BitVec.ofNat 64 (elem (c.readV f.k.slot f.vb) (8 * w) n * w)

/-- Every active lane checked, the lowest failing lane first. -/
def State.placeLanes (s : State) (f : MGat) (u : Use) (lanes : List Nat) : State × Except (Nat × Word) (List (Spot × Nat)) :=
  lanes.foldl (fun acc n =>
    match acc.2 with
    | .error e => (acc.1, .error e)
    | .ok ps =>
      let w := gatherWidth f.wide
      let r := acc.1.place f.sp (acc.1.core.laneEa f n) w w u .forbidden
      match r.2 with
      | .error e => (r.1, .error e)
      | .ok p => (r.1, .ok (ps ++ [(p, w)]))) (s, .ok [])

def execLdvG (f : MGat) (s : State) : Host.Outcome State Fault Refusal :=
  s.issue (.ldvG f) fun s =>
    let lanes := gatherLanes f.wide (s.core.readM f.k.slot f.km)
    let r := s.placeLanes f .load lanes
    match r.2 with
    | .error e => .faultIn r.1 e.1 e.2
    | .ok ps => if ps.isEmpty then .done r.1 else r.1.loadFrom f.k.slot 1 (.gather f.v f.wide lanes) f.sp ps

/-! ## Stores (R211–R213, R226) -/

/-- A store whose places have passed their checks enters the store queue. -/
def State.storeTo (s : State) (k : Slot) (parts : List (Spot × Nat)) (bs : List Byte) (lanes : Bool) : State :=
  if parts.isEmpty then s else s.enqueue { kind := .store bs lanes, slot := k, parts := parts }

def execSt (f : MSt) (s : State) : Host.Outcome State Fault Refusal :=
  s.issue (.st f) fun s =>
    let n := stBytes f.sz
    let r := s.place f.sp (s.core.ea f.k.slot f.a f.b f.off) n n .store .any
    match r.2 with
    | .error e => .faultIn r.1 e.1 e.2
    | .ok p => .done (r.1.storeTo f.k.slot [(p, n)] (toBytes n (s.core.readS f.k.slot f.d).toNat) false)

/-- The bytes of a vector that a mask admits, in ascending order. -/
def maskedBytes (km : Quad) (v : Nat) : List Byte :=
  (maskRuns km).flatMap fun x => toBytes x.2 (v / 2 ^ (8 * x.1))

def execStv (f : MVec) (s : State) : Host.Outcome State Fault Refusal :=
  s.issue (.stv f) fun s =>
    let r := s.place f.sp (s.core.ea f.k.slot f.a f.b f.off) 128 128 .store .forbidden
    match r.2 with
    | .error e => .faultIn r.1 e.1 e.2
    | .ok p =>
      let km := s.core.readM f.k.slot f.km
      .done (r.1.storeTo f.k.slot ((maskRuns km).map fun x => (p.shift x.1, x.2))
        (maskedBytes km (s.core.readV f.k.slot f.v).toNat) false)

def execStvS (f : MGat) (s : State) : Host.Outcome State Fault Refusal :=
  s.issue (.stvS f) fun s =>
    let lanes := gatherLanes f.wide (s.core.readM f.k.slot f.km)
    let r := s.placeLanes f .store lanes
    match r.2 with
    | .error e => .faultIn r.1 e.1 e.2
    | .ok ps =>
      let w := gatherWidth f.wide
      let v := s.core.readV f.k.slot f.v
      .done (r.1.storeTo f.k.slot ps (lanes.flatMap fun n => toBytes w (elem v (8 * w) n)) true)

/-! ## LD.FE, ST.FE and PEEK.FE (R216) -/

def execLdFe (f : MFe) (s : State) : Host.Outcome State Fault Refusal :=
  s.issue (.ldFe f) fun s =>
    s.loadOne f.k.slot 1 (.loadFe (sLoc s.core.view f.d)) .vm (s.core.ea f.k.slot f.a f.b f.off) 8 .store .required

def execStFe (f : MFe) (s : State) : Host.Outcome State Fault Refusal :=
  s.issue (.stFe f) fun s =>
    let ea := s.core.ea f.k.slot f.a f.b f.off
    let r := s.place .vm ea 8 8 .store .required
    match r.2 with
    | .error e => .faultIn r.1 e.1 e.2
    | .ok p =>
      match p with
      | .vm _ pa gran key _ _ =>
        if r.1.accessBarred [(p, 8)] || !r.1.channelsUp pa 8 gran || r.1.storeHeld r.1.stamp .vm pa 8 then .stay r.1
        else if r.1.hbm.full pa then .faultIn r.1 feFault ea
        else .done (r.1.feStore pa (toBytes 8 (s.core.readS f.k.slot f.d).toNat) gran key)
      | _ => .stay r.1

def execPeekFe (f : MPeek) (s : State) : Host.Outcome State Fault Refusal :=
  s.issue (.peekFe f) fun s =>
    let r := s.place .vm (s.core.ea f.k.slot f.a f.b f.off) 8 8 .load .required
    match r.2 with
    | .error e => .faultIn r.1 e.1 e.2
    | .ok p => .done (r.1.queueAccess { kind := .peek (pLoc f.pd), slot := f.k.slot, parts := [(p, 8)] })

/-! ## Atomics (R218–R221) -/

/-- One atomic, after its checks: a local one checks its bank word at issue (R439), and each is performed from the queues
(R210, R215, R221). -/
def State.atomic (s : State) (k : Slot) (a : Atom) (d : Option Loc) (sp : Space) (ea : Word) : Res :=
  match s.core.deferredAt k.num with
  | some x => s.takeAnswer x
  | none =>
    let r := s.place sp ea a.size a.size .store .any
    match r.2 with
    | .error f => .faultIn r.1 f.1 f.2
    | .ok p =>
      let acc : Access := { kind := .atom a d, slot := k, parts := [(p, a.size)] }
      match p with
      | .vm _ _ _ _ true _ => r.1.feAccess acc p a.size
      | _ =>
        match (if sp = .loc then r.1.core.badParts acc.parts else none) with
        | some w => .faultIn r.1 dataFault (BitVec.ofNat 64 w)
        | none => .done (r.1.queueAccess acc)

/-- The operation of an integer atomic with the operands it reads at issue. -/
def Core.atomOf (c : Core) (f : MAtom) (op : AtomOp) : Atom :=
  { op := op, size := if f.w64 then 8 else 4, uns := f.uns, b := (c.readS f.k.slot f.b).toNat,
    c := if op = .cas then (c.readS f.k.slot f.d).toNat else 0 }

def State.intAtomic (s : State) (f : MAtom) (op : AtomOp) : Res :=
  s.atomic f.k.slot (s.core.atomOf f op) (sLoc s.core.view f.d) f.sp (s.core.eaAtom f.k.slot f.a f.off)

def execAtomAdd (f : MAtom) (s : State) : Host.Outcome State Fault Refusal := s.issue (.atomAdd f) fun s => s.intAtomic f .add
def execAtomMin (f : MAtom) (s : State) : Host.Outcome State Fault Refusal := s.issue (.atomMin f) fun s => s.intAtomic f .min
def execAtomMax (f : MAtom) (s : State) : Host.Outcome State Fault Refusal := s.issue (.atomMax f) fun s => s.intAtomic f .max
def execAtomAnd (f : MAtom) (s : State) : Host.Outcome State Fault Refusal := s.issue (.atomAnd f) fun s => s.intAtomic f .and
def execAtomOr (f : MAtom) (s : State) : Host.Outcome State Fault Refusal := s.issue (.atomOr f) fun s => s.intAtomic f .or
def execAtomXor (f : MAtom) (s : State) : Host.Outcome State Fault Refusal := s.issue (.atomXor f) fun s => s.intAtomic f .xor
def execAtomSwp (f : MAtom) (s : State) : Host.Outcome State Fault Refusal := s.issue (.atomSwp f) fun s => s.intAtomic f .swp
def execAtomCas (f : MAtom) (s : State) : Host.Outcome State Fault Refusal := s.issue (.atomCas f) fun s => s.intAtomic f .cas

def execAtomFadd (f : MAtomF) (s : State) : Host.Outcome State Fault Refusal :=
  s.issue (.atomFadd f) fun s =>
    s.atomic f.k.slot { op := .fadd, size := 4, uns := true, b := (s.core.readS f.k.slot f.b).toNat, c := 0 }
      (sLoc s.core.view f.d) f.sp (s.core.eaAtom f.k.slot f.a f.off)

def execAtomNib (f : MNib) (s : State) : Host.Outcome State Fault Refusal :=
  s.issue (.atomNib f) fun s =>
    s.atomic f.k.slot
      { op := if f.hi then .nibHi else .nibLo, size := 1, uns := true, b := (s.core.readS f.k.slot f.b).toNat, c := 0 }
      (sLoc s.core.view f.d) f.sp (s.core.eaAtom f.k.slot f.a f.off)

/-! ## MARK, FENCE and PREF (R222, R228, R229) -/

/-- The marker of a MARK or a FENCE enters both queues. -/
def State.mark (s : State) (k : Slot) (scope : Nat) (fence : Bool) : State :=
  s.enqueue { kind := .mark scope fence, slot := k, parts := [] }

def execMark (f : MFence) (s : State) : Host.Outcome State Fault Refusal :=
  s.issue (.mark f) fun s => .done (s.mark f.k.slot (s.scopeNo f.scope) false)

/-- FENCE waits until every engine write has been committed (R229), then marks its queues. -/
def execFence (f : MFence) (s : State) : Host.Outcome State Fault Refusal :=
  s.issue (.fence f) fun s => if s.core.eng.fenced then .done (s.mark f.k.slot (s.scopeNo f.scope) true) else .wait

/-- PREF changes nothing but the TLBs, and drops whatever would fault (R222). -/
def execPref (f : MPref) (s : State) : Host.Outcome State Fault Refusal :=
  s.issue (.pref f) fun s =>
    let ea := s.core.ea f.k.slot f.a f.b f.off
    if 2 ^ 57 ≤ ea.toNat then .done s
    else
      let r := s.xlate (ea.toNat / 2 ^ (f.ext.toNat + 6) * 2 ^ (f.ext.toNat + 6)) .load
      match r.2 with
      | .error _ => .done s
      | .ok t => if r.1.channelsUp (t.paOf ea.toNat) 1 t.gran then .done r.1 else .done s

/-! ## The rim agents and the return of data (R210, R221, R223–R225) -/

/-- A store buffer's entries that must drain before the bytes of a range can be taken: those that hold one of them, and
those that an entry to be drained overlaps and that came before it (R221, R223). -/
def drainSet (b : List StBuf) (pa n : Nat) : List StBuf :=
  b.reverse.foldl (fun acc e =>
    if e.hits pa n || acc.any (fun x => overlaps x.pa x.data.length e.pa e.data.length) then e :: acc else acc) []

/-- The bytes of an entry as a list of whole runs, each with its address. -/
def StBuf.runs (e : StBuf) : List (Nat × List Byte) :=
  (e.data.zipIdx.foldl (fun (acc : List (Nat × List Byte)) x =>
    match x.1 with
    | none => acc
    | some b =>
      match acc.getLast? with
      | some (o, bs) => if o + bs.length = e.pa + x.2 then acc.dropLast ++ [(o, bs ++ [b])] else acc ++ [(e.pa + x.2, [b])]
      | none => [(e.pa + x.2, [b])]) [])

/-- An entry taken by its home rim agent. -/
def State.takeEntry (s : State) (e : StBuf) : State := e.runs.foldl (fun s r => s.writePa r.1 r.2 e.gran e.key) s

/-- The store-buffer entries of a cluster that overlap a range drain to memory in arrival order (R221). -/
def State.drainOver (s : State) (q pa n : Nat) : State :=
  let out := drainSet (s.clusterAt q).stbuf pa n
  out.foldl State.takeEntry (s.modCluster q fun c => { c with stbuf := c.stbuf.filter fun e => !out.contains e })

/-- What an atomic leaves at its place, and the value it found (R221). -/
def State.performAtom (s : State) (w : Nat) (t : Atom) (p : Spot) : State × Except Nat (List Byte) :=
  match p with
  | .vm va pa gran key _ _ =>
    let r := (s.drainOver (clusterOf w) pa t.size).readPa pa t.size gran key
    match r.2 with
    | none => (r.1, .error va)
    | some b => (r.1.writePa pa (toBytes t.size (t.new (ofBytes b))) gran key, .ok b)
  | _ =>
    let r := s.readSpot w p t.size
    match r.2 with
    | .error e => (r.1, .error e)
    | .ok b => (r.1.writeSpot w 0 p (toBytes t.size (t.new (ofBytes b))), .ok b)

/-- One place of an access performed: the bytes it returns, or the address of an uncorrectable word. -/
def State.performAt (s : State) (w : Nat) (a : Access) (p : Spot) (n : Nat) : State × Except Nat (List Byte) :=
  match p, a.kind with
  | .vm _ pa _ _ _ _, .peek _ => (s, .ok [if s.hbm.full pa then 1 else 0])
  | .vm va _ _ _ true _, k =>
    let r := s.feServe k p n
    (r.1, match r.2 with
      | none => .error va
      | some bs => .ok bs)
  | _, .atom t _ => s.performAtom w t p
  | _, _ =>
    let r := s.readSpot w p n
    (r.1, r.2.map ((s.coreAt w).overlay a.no p))

/-- A masked store as one entry of the store buffer, with gaps where it leaves bytes alone (R208). -/
def entryBytes (parts : List (Spot × Nat)) (bs : List Byte) : List (Option Byte) :=
  let base := (parts.head?.map fun p => p.1.space.2).getD 0
  (parts.foldl (fun (acc : List Byte × List (Option Byte)) p =>
    (acc.1.drop p.2, acc.2 ++ List.replicate (p.1.space.2 - base - acc.2.length) none ++ (acc.1.take p.2).map some)) (bs, [])).2

/-- A store performed: at its banks, at its rim agent when the page is full-empty, else in the cluster store buffer
(R215, R223, Table 15·7). -/
def State.performStore (s : State) (w : Nat) (a : Access) (bs : List Byte) (lanes : Bool) : State :=
  match a.parts, lanes with
  | (.vm _ pa gran key true _, _) :: _, _ => s.feStore pa bs gran key
  | (.vm _ pa gran key false lat, _) :: _, false =>
    s.modCluster (clusterOf w) fun c => { c with stbuf := c.stbuf ++ [s.bufEntry w a.no pa gran key lat (entryBytes a.parts bs)] }
  | _, _ => (a.parts.foldl (fun (acc : State × List Byte) p =>
      (acc.1.writeSpot w a.no p.1 (acc.2.take p.2), acc.2.drop p.2)) (s, bs)).1

/-- An access performed: its data, or the address of an uncorrectable word (R439). -/
def State.performAccess (s : State) (w : Nat) (a : Access) : State × Except Nat (List Byte) :=
  match a.kind with
  | .mark .. => (s, .ok [])
  | .store bs lanes => (s.performStore w a bs lanes, .ok [])
  | _ => a.parts.foldl (fun acc p =>
      match acc.2 with
      | .error _ => acc
      | .ok bs =>
        let r := acc.1.performAt w a p.1 p.2
        (r.1, r.2.map (bs ++ ·))) (s, .ok [])

/-- The access takes the value of its word, so that a full-empty word must be full (R215, R216). -/
def AccKind.takesWord : AccKind → Bool
  | .load .. | .loadFe _ | .atom .. => true
  | _ => false

/-- A place of an access that goes to the store buffer of its cluster, and from there to memory (R223). -/
def Access.buffered (a : Access) (fe : Bool) : Bool :=
  match a.kind with
  | .store .. => !fe
  | _ => false

/-- The channels, and the siblings, of an access answer. -/
def State.accessUp (s : State) (a : Access) : Bool :=
  a.parts.all fun p => match p.1 with
    | .vm _ pa gran _ fe _ => a.buffered fe || s.channelsUp pa p.2 gran && (!fe || !a.kind.takesWord || s.hbm.full pa)
    | .win v _ => !s.windowHeld v
    | .loc _ => true

/-- The access may read past a store ahead of it, whose bytes it then returns (R227). -/
def Access.forwards (a : Access) : Bool :=
  match a.kind with
  | .load .. | .loadV .. | .gather .. | .name _ => true
  | _ => false

/-- The access waits for an earlier one of the queues: a marker, or one that shares a byte with it (R227, R228). -/
def Access.after (a b : Access) : Bool :=
  b.kind.isMark || (b.waits && b.touches a.parts && !(a.forwards && match b.kind with
    | .store .. => true
    | _ => false))

/-- A request as a rim agent holds it: the bytes it touches, their GRAN, its LAT, and the cycle at which it came (R338). -/
structure RimAsk where
  pa   : Nat
  n    : Nat
  gran : Nat
  lat  : Nat
  came : Nat
  deriving DecidableEq, Repr, Inhabited

/-- The class of a request: LAT 1, 2, 3 and 0 in this order, but a LAT 0 request that has waited 4,096 cycles comes first
(R338). -/
def rimClass (lat came now : Nat) : Nat := if lat = 0 then (if came + 4096 ≤ now then 0 else 4) else lat

/-- The requests of an access to rim agents. -/
def Access.asks (a : Access) (came : Nat) : List RimAsk :=
  a.parts.filterMap fun p => match p.1 with
    | .vm _ pa gran _ fe lat => if a.buffered fe then none else some { pa := pa, n := p.2, gran := gran, lat := lat, came := came }
    | _ => none

def StBuf.asks (e : StBuf) (came : Nat) : List RimAsk :=
  [{ pa := e.pa, n := e.data.length, gran := e.gran, lat := e.lat, came := came }]

/-- The request for the line at the head of a generator's, under its range's GRAN and LAT (R340). -/
def State.lineAsk (s : State) (core : Nat) (x : Stream) : List RimAsk :=
  match x.asked with
  | [] => []
  | (va, came) :: _ =>
    match (s.partAt (s.coreAt core).task.part).streamPa va with
    | none => []
    | some (pa, e) => [{ pa := pa, n := 64, gran := rangeGran e, lat := rangeLat e, came := came }]

/-- The requests that have come to their rim agents and can be served there. -/
def State.rimAsks (s : State) : List RimAsk :=
  ((s.cur :: s.others.keys).flatMap fun w =>
      ((s.coreAt w).eng.acc.flatMap fun a => if a.waits && s.accessUp a then a.came.elim [] a.asks else []) ++
        ((s.coreAt w).w.toList.flatMap (s.lineAsk w)).filter fun r => s.channelsUp r.pa r.n r.gran)
    ++ s.clusters.flatMap fun c => c.2.stbuf.flatMap fun e =>
      if s.channelsUp e.pa e.data.length e.gran then e.came.elim [] e.asks else []

/-- The class of a request by the clock of its rim agent. -/
def State.askClass (s : State) (r : RimAsk) : Nat := rimClass r.lat r.came (s.rimNow (rimOf r.pa r.gran))

/-- A request comes before another at a channel that both touch (R338). -/
def State.askBefore (s : State) (r x : RimAsk) : Bool :=
  decide (s.askClass r < s.askClass x) &&
    (channelsOf r.pa r.n r.gran).any fun c => (channelsOf x.pa x.n x.gran).contains c

/-- None of some requests has another before it at its channel (R338). -/
def State.rimTurn (s : State) (xs : List RimAsk) : Bool :=
  xs.all fun x => s.rimAsks.all fun r => !s.askBefore r x

/-- The access has still to come to its rim agent. -/
def Access.travels (a : Access) : Bool := a.came.isNone && !(a.asks 0).isEmpty

/-- The accesses of a core that have a step to take, with their places: those to different bytes in any order, those that
share a byte in program order, none past a marker; a store or an atomic also waits for engines and publications that
issued before it (R169, R227, R228, R270, R288). One for a rim agent comes there, and is then served in its turn (R338). -/
def State.openAccesses (s : State) (w : Nat) : List (Access × Nat) :=
  let f := s.focus w
  let l := f.core.eng.acc
  l.zipIdx.filter fun a => a.1.waits && !a.1.away &&
    match a.1.kind with
    | .mark scope fence => f.performed w a.1.no scope fence
    | k => !((l.take a.2).any a.1.after) &&
        !(k.writes && a.1.parts.any fun p => f.storeHeld a.1.no p.1.space.1 p.1.space.2 p.2) &&
        (a.1.travels || (f.accessUp a.1 && f.rimTurn (a.1.asks (a.1.came.getD 0))))

/-- The engine of a core holds a fault. -/
def Core.held (c : Core) (e : Eng) : Bool := c.eng.holds.any fun h => h.eng = e && h.posted

/-- The access returns data to its task. -/
def AccKind.returns : AccKind → Bool
  | .store .. | .mark .. => false
  | _ => true

/-- An access of the core with window number w that has been performed: its data is at hand, or it leaves its queue. -/
def Core.served (c : Core) (i : Nat) (a : Access) (bs : List Byte) : Core :=
  { c with eng := { c.eng with acc :=
      if a.kind.returns then c.eng.acc.modify i fun a => { a with asked := true, data := bs } else removeAt c.eng.acc i } }

/-- An access performed by its bank or its rim agent. One whose data is uncorrectable stays where it is: it becomes an
engine fault (R439). -/
def State.serveAccess (s : State) (w i : Nat) (a : Access) : State :=
  let r := s.performAccess w a
  match r.2 with
  | .error _ => s
  | .ok bs => r.1.modCore w fun c => c.served i a bs

/-- The place is asked of its home agent by the access itself, and not by the store buffer of its cluster. -/
def Access.asksHome (a : Access) (p : Spot) : Bool :=
  match p with
  | .vm _ _ _ _ fe _ => !a.buffered fe
  | _ => false

/-- The Bolsar port that a place homed on another wafer is reached by (R329, R431). -/
def State.portOf (s : State) (p : Space4 × Nat) : Option Nat :=
  if p.1 = .vm && s.abroad p.2 then s.portTo (paWafer p.2) (p.2 / 64) else none

/-- An entry of the queues of a core changed. -/
def Core.modAccess (c : Core) (i : Nat) (f : Access → Access) : Core :=
  { c with eng := { c.eng with acc := c.eng.acc.modify i f } }

/-- An access leaves for the wafer that its memory is homed on (R329). -/
def State.sendAbroad (s : State) (w i : Nat) (a : Access) (port : Nat) : State :=
  (s.modCore w fun c => c.modAccess i fun a => { a with away := true }).onWafer fun x =>
    { x with bolsarOut := x.bolsarOut ++ [(port, .access w a.no)] }

/-- A frame of memory reaches its home wafer: the access is performed, or the store accepted, there (R329, R431). -/
def State.homeFrame (s : State) : Frame4 → State
  | .name p => s.onWafer fun w => { w with remote := w.remote ++ [p] }
  | .store e => s.takeEntry e
  | .access w no =>
    match (s.coreAt w).eng.acc.zipIdx.find? fun a => a.1.no = no && a.1.away with
    | some (a, i) => (s.modCore w fun c => c.modAccess i fun a => { a with away := false }).serveAccess w i { a with away := false }
    | none => s

/-- The count of the rim agent of an access's first place. -/
def State.arrival (s : State) (a : Access) : Nat := (a.asks 0).head?.elim 0 fun r => s.rimNow (rimOf r.pa r.gran)

/-- An access of a core comes to its rim agent, or is performed: which of those that may take a step does is open (R227). -/
def execRimAccessRequest (core : Nat) (s : State) : Host.Outcome State Fault Refusal :=
  let l := s.openAccesses core
  match l[s.choice l.length]? with
  | none => .next s
  | some (a, i) =>
    if (s.coreAt core).held .queues then .next s
    else
      let t := s.chosen l.length
      if a.travels then
        .next (t.modCore core fun c => c.modAccess i fun a => { a with came := some (s.arrival a) })
      else
        match a.parts.findSome? fun p => if a.asksHome p.1 then s.portOf p.1.space else none with
        | some port => .next (t.sendAbroad core i a port)
        | none => .next (t.serveAccess core i a)

/-- The data of an access that has been performed lands in its register (R210, R225). -/
def execAccessDataReturn (core idx : Nat) (s : State) : Host.Outcome State Fault Refusal :=
  let c := s.coreAt core
  match c.eng.acc[idx]? with
  | none => .next s
  | some a =>
    if a.asked && !a.deferred then
      .next (s.setCore core { c.landAccess a a.data with
        eng := { (c.landAccess a a.data).eng with acc := removeAt c.eng.acc idx } })
    else .next s

/-- An entry of a cluster's store buffer comes to its home rim agent, unless an earlier one overlaps it (R223), and is taken
there in its turn (R338). -/
def execStoreBufferDrain (cluster idx : Nat) (s : State) : Host.Outcome State Fault Refusal :=
  let b := (s.clusterAt cluster).stbuf
  match b[idx]? with
  | none => .next s
  | some e =>
    if (b.take idx).any fun x => overlaps x.pa x.data.length e.pa e.data.length then .next s
    else if e.came.isNone then
      .next (s.modCluster cluster fun c => { c with stbuf := c.stbuf.modify idx fun e => { e with came := some (s.rimNow (rimOf e.pa e.gran)) } })
    else if !s.channelsUp e.pa e.data.length e.gran || !s.rimTurn (e.asks (e.came.getD 0)) then .next s
    else
      let t := s.modCluster cluster fun c => { c with stbuf := removeAt c.stbuf idx }
      match s.portOf (.vm, e.pa) with
      | some port => .next (t.onWafer fun w => { w with bolsarOut := w.bolsarOut ++ [(port, .store e)] })
      | none => .next (t.takeEntry e)

end Sys2Proof.Machine
end

