-- ==== Sys2Proof/Machine/Names.lean ====
section
/-! DEFINITION. Subscriptions and streams of a task, the name instructions, publication, markers, colours and spawning
(R42–R46, R141, R163–R179, R305, R342). -/

namespace Sys2Proof.Machine

/-! ## Name registers (R163) -/

/-- Lowest bit and width of a name field (Table 13·3). -/
def nameBits : NameField → Nat × Nat
  | .tenant => (116, 12)
  | .tensor => (92, 24)
  | .colour => (76, 16)
  | .gen => (60, 16)
  | .i => (44, 16)
  | .j => (28, 16)
  | .k => (12, 16)
  | .kind => (4, 8)

def execNameSetField (f : CName) (s : State) : Host.Outcome State Fault Refusal :=
  s.compute (.nameSetField f) fun c =>
    c.writeN 1 f.n (setField (c.readN f.n) (nameBits f.f).1 (nameBits f.f).2 (c.val f.v).toNat)

def execNameAdd (f : CName) (s : State) : Host.Outcome State Fault Refusal :=
  s.compute (.nameAdd f) fun c =>
    let b := nameBits f.f
    c.writeN 1 f.n (setField (c.readN f.n) b.1 b.2 (field (c.readN f.n) b.1 b.2 + (c.val f.v).toNat))

def execNameSetWhole (f : CNameW) (s : State) : Host.Outcome State Fault Refusal :=
  s.compute (.nameSetWhole f) fun c =>
    c.writeN 1 f.n (BitVec.ofNat 128 ((c.readS .c f.a).toNat * 2 ^ 64 + (c.readS .c f.b).toNat))

def execNameSetCopy (f : CNameC) (s : State) : Host.Outcome State Fault Refusal :=
  s.compute (.nameSetCopy f) fun c => c.writeN 1 f.n (c.readN f.m)

def execNameLd (f : CNameL) (s : State) : Host.Outcome State Fault Refusal :=
  s.issue (.nameLd f) fun s =>
    let a := s.core.readS .c f.a
    match scratchCheck a 16 with
    | some e => .fault e.1 e.2
    | none =>
      match badIn s.core.spadBad a.toNat 16 with
      | some w => .fault dataFault (BitVec.ofNat 64 w)
      | none => .done (s.queueAccess { kind := .name f.n, slot := .c, parts := [(.loc a.toNat, 16)] })

/-! ## Checks (R164, R166, R168) -/

/-- The first name register whose KIND or reserved bits are wrong (R168, item 1). -/
def badKind (kind : Nat) (ns : List (Nat × Quad)) : Option Nat :=
  (ns.find? fun x => nameKind x.2 ≠ kind || nameRes x.2 ≠ 0).map (·.1)

/-- A descriptor in the tenant of the running task. -/
def State.myDesc (s : State) (n : Quad) : Option (BitVec 256) := s.desc s.core.task.part s.core.task.tenant (nameTensor n)

/-- The first name register whose tensor is reserved or has no valid descriptor (R59; R168, item 2). -/
def State.badTensor (s : State) (ns : List (Nat × Quad)) : Option Nat :=
  (ns.find? fun x => reservedTensor (nameTensor x.2) || (s.myDesc x.2).isNone).map (·.1)

/-- TSIZE of a name's tensor, which gives the size of every tile that is published under it (R59). -/
def State.tsizeOf (s : State) (n : Quad) : Nat := ((s.myDesc n).map descTsize).getD 0

/-- The checks of R168 in order: names, tensors, source ranges with their tile sizes. -/
def State.checkPub (s : State) (kind : Nat) (ns : List (Nat × Quad)) (srcs : List (Word × Nat)) : Option (Nat × Word) :=
  match badKind kind ns with
  | some r => some (nameFault, BitVec.ofNat 64 r)
  | none =>
    match s.badTensor ns with
    | some r => some (nameFault, BitVec.ofNat 64 r)
    | none => srcs.findSome? fun a => scratchCheck a.1 (2 ^ (a.2 + 6))

/-- The name under which the running task publishes (R54). -/
def State.ownName (s : State) (n : Quad) : Quad := withTenant n s.core.task.tenant

/-! ## Subscriptions (R164, R165) -/

/-- The KINDS bits of a subscription: bits 0 to 2, and the notices it declares (R65, Table 21·5). -/
def subKinds (note : Nat) : Nat :=
  7 + (if bitAt note 2 then 2 ^ 6 else 0) + (if bitAt note 1 then 2 ^ 5 else 0) + (if bitAt note 0 then 2 ^ 4 else 0)

/-- The range that one coordinate alone satisfies. -/
def exactRange (c : Nat) : Range := { lo := c, hi := c, mask := 0xFFFF }

/-- A registration of an exact name held by the running task. -/
def State.ownReg (s : State) (n : Quad) (k kinds : Nat) (stream : Option Nat) : Reg :=
  let r := s.core.task
  { no := 0, tenant := r.tenant, tensor := nameTensor n, colour := nameColour n, cany := false, gen := nameGen n,
    gany := false, kinds := kinds, ir := exactRange (nameI n), jr := exactRange (nameJ n), kr := exactRange (nameK n),
    cluster := r.share, part := r.part, launch := r.launch, level := r.dlvl, tmpl := r.tmpl, sub := k, count := 1,
    contrib := false, task := some r.addr, stream := stream }

/-- The registrations that the running task holds on a subscription, and those that feed a stream register. -/
def State.subRegs (s : State) (k : Nat) : List Reg :=
  (s.clusterAt s.core.task.share).regs.filter fun g => g.task = some s.core.task.addr && g.stream = none && g.sub = k
def State.streamRegs (s : State) (w : Nat) : List Reg :=
  (s.clusterAt s.core.task.share).regs.filter fun g => g.task = some s.core.task.addr && g.stream = some w

/-- A bit of SAT written. -/
def setSat (sat : BitVec 8) (k : Nat) (b : Bool) : BitVec 8 := setField sat k 1 b.toNat

/-- The staged delivery of a subscription that has not been moved is discarded. -/
def Rec.dropStaged (r : Rec) (k : Nat) : Rec :=
  { r with live := r.live.map fun l => if l.k = k then { l with full := false } else l }

/-- SUB (R164). A delivery on k that is staged and has not been moved goes, whether or not a registration on k is still held:
step 3 speaks of the registration alone (log entry 100). -/
def execSubscribe (f : CNSub) (s : State) : Host.Outcome State Fault Refusal :=
  s.issue (.subscribe f) fun s =>
    let n := s.core.readN f.n
    let k := f.k.val
    let bad := BitVec.ofNat 64 f.n.val
    if nameKind n ≠ 0 || nameRes n ≠ 0 then .fault nameFault bad
    else if (s.myDesc n).isNone then .fault nameFault bad
    else
      match s.subDecl k with
      | none => .fault nameFault (BitVec.ofNat 64 (0x10 + k))
      | some d =>
        if d.strm || d.lsize ≠ s.tsizeOf n then .fault nameFault (BitVec.ofNat 64 (0x10 + k))
        else
          let s1 := s.unregisterAll (s.subRegs k)
          if Config.mstoreEntries ≤ (s1.clusterAt s.core.task.share).used then .wait
          else
            let s2 := s1.register (s.ownReg n k (subKinds d.note) none)
            .done (s2.onCore fun c => { c with task := { c.task.dropStaged k with sat := setSat c.task.sat k false } })

/-- The landing of a subscription holds a delivery under a name that has not been moved. -/
def Rec.stagedAs (r : Rec) (k : Nat) (n : Quad) : Bool := r.live.any fun l => l.k = k && l.full && l.name = n

def execUnsub (f : CNSub) (s : State) : Host.Outcome State Fault Refusal :=
  s.issue (.unsub f) fun s =>
    let n := s.ownName (s.core.readN f.n)
    let gs := (s.subRegs f.k.val).filter fun g => nameKind n = 0 && nameRes n = 0 && g.matches n
    if gs.isEmpty && !s.core.task.stagedAs f.k.val n then .done s
    else .done ((s.unregisterAll gs).onCore fun c =>
      { c with task := { c.task.dropStaged f.k.val with sat := setSat c.task.sat f.k.val true } })

/-! ## Streams (R141, R166, R167, R342) -/

/-- Bytes of a stream element; a 4-bit format is delivered as bytes (R166). -/
def elemBytes (t : Fmt) : Nat := if t.width ≤ 8 then 1 else t.width / 8

def Core.setW (c : Core) (i : WReg) (x : Stream) : Core := { c with w := c.w.set i.val x i.isLt }

def execBind (f : CBind) (s : State) : Host.Outcome State Fault Refusal :=
  s.issue (.bind f) fun s =>
    let n := s.core.readN f.n
    let bad := BitVec.ofNat 64 f.n.val
    if nameKind n ≠ 0 || nameRes n ≠ 0 then .fault nameFault bad
    else
      match (s.myDesc n).bind fun d => fmtOf (descFmt d) with
      | none => .fault nameFault bad
      | some t =>
        if t = .cw8 then .fault nameFault bad
        else if (s.core.w.get f.w).st ≠ .unbound then .fault streamFault (BitVec.ofNat 64 f.w.val)
        else
          let s1 := s.register (s.ownReg n 0 7 (some f.w.val))
          .done (s1.onCore fun c => c.setW f.w { st := .bound, src := .name (s.ownName n), width := elemBytes t })

def execWtst (f : CWtst) (s : State) : Host.Outcome State Fault Refusal :=
  s.issue (.wtst f) fun s =>
    let x := s.core.w.get f.w
    match x.st, x.buf, x.marker with
    | .bound, _ :: _, _ => .done (s.onCore fun c => c.writeP .c 1 f.pd false)
    | .bound, [], true =>
      .done ((s.unregisterAll (s.streamRegs f.w.val)).onCore fun c =>
        (c.setW f.w { x with st := .ended, marker := false }).writeP .c 1 f.pd true)
    | .bound, [], false => .wait
    | _, _, _ => .fault streamFault (BitVec.ofNat 64 f.w.val)

def execMovStream (f : SStream) (s : State) : Host.Outcome State Fault Refusal :=
  s.issue (.movStream f) fun s =>
    let x := s.core.w.get f.w
    match x.st, x.buf, x.marker with
    | .bound, e :: rest, _ =>
      .done (s.onCore fun c =>
        (c.setW f.w { x with buf := rest, pos := x.pos + x.width }).writeS f.k.slot 1 f.d (BitVec.ofNat 64 e))
    | .bound, [], false => .wait
    | _, _, _ => .fault streamFault (BitVec.ofNat 64 f.w.val)

/-! ## Publication (R168–R175, R305) -/

/-- The resend buffer of the current core has room for k packets more, beside those it keeps and those of publications
that are still to be captured (R170). -/
def State.resendRoom (s : State) (k : Nat) : Bool :=
  decide ((s.kept.filter fun x => x.owner = .core s.cur).length + (s.core.eng.pubs.map fun p => p.pkts.length).sum + k
    ≤ Config.resendEntries)

/-- A publication leaves its slot (R169): later bundles go on, and its release, capture and sending follow in order. -/
def State.pubJob (s : State) (scope : Option Nat) (srcs : List (Nat × Nat)) (pkts : List Packet) (circ : Bool) : State :=
  { s.onEng fun e => { e with pubs := e.pubs ++ [{ no := s.stamp, scope := scope, srcs := srcs, pkts := pkts, circ := circ }] }
    with stamp := s.stamp + 1 }

/-- The bytes that a range holds, and whether a word of them is uncorrectable (R384). -/
def State.capture (s : State) (a n : Nat) : List Byte × Bool := (s.core.spadGet a n, (badIn s.core.spadBad a n).isSome)

/-- The circuit id that feeds a registration's landing (Table 21·5). -/
def State.regCirc (s : State) (g : Reg) : Nat :=
  (((s.launchOf g.part g.launch).bind fun l => l.tmpls[g.tmpl]?).bind fun t => t.subs[g.sub]?).elim 0 (·.circ)

/-- The router of the current core. -/
def State.myRouter (s : State) : Nat := coreRouter (clusterOf s.cur) s.core.rank

/-- The circuit that a publication of the running task takes (R305): one that carries an output name of its tensor, whose
source is the core's quad, and whose destination has a landing fed by it. -/
def State.circuitOf (s : State) (n : Quad) : Option (Nat × Circuit) :=
  (s.tmplOf s.core.task).bind fun t =>
    (t.outs.zip (s.taskOuts s.core.task)).findSome? fun o =>
      (Table.find (s.partAt s.core.task.part).circs o.1.2).bind fun c =>
        if o.1.2 ≠ 0 && nameTensor o.2 = nameTensor n && c.src = s.myRouter &&
            (s.clusterAt c.dst).regs.any fun g => g.part = s.core.task.part && g.matches n && s.regCirc g = o.1.2
        then some (o.1.2, c) else none

/-- A registration that the circuit does not feed takes the publication too: it goes on the named class as well (R305). -/
def State.beyondCircuit (s : State) (c : Nat × Circuit) (n : Quad) : Bool :=
  s.clusters.any fun e => e.2.regs.any fun g =>
    g.part = s.core.task.part && g.matches n && !(e.1 = c.2.dst && s.regCirc g = c.1)

/-- The port of its router at which the current core injects. -/
def State.myPort (s : State) : Nat := corePort (clusterOf s.cur) s.core.rank

/-- A packet put on its circuit flit by flit, and kept until its cluster acknowledges it (R305). -/
def State.injectCircuit (s : State) (c : Nat × Circuit) (pkt : Packet) : State :=
  let e := Endpoint.core s.cur
  let x := { pkt with cls := 2, circ := c.1 }
  { s with
    cflits := s.cflits ++ (List.range pkt.flits).map fun i => { at_ := s.myRouter, from_ := s.myPort, sender := e, pkt := x, idx := i }
    kept := s.kept ++ [{ owner := e, dest := some c.2.dst, pkt := x, due := s.dueFor s.core.task.part e }] }

/-- A captured packet is sent: on a circuit that may carry it, and on the named class when no circuit carries it to every
registration that takes it (R171, R305). -/
def State.publish (s : State) (circ : Bool) (pkt : Packet) : State :=
  let p := s.core.task.part
  let e := Endpoint.core s.cur
  match (if circ then s.circuitOf pkt.name else none) with
  | some c =>
    let r := s.seal p e pkt
    (if s.beyondCircuit c pkt.name then r.1.keepUp e r.2 else r.1).injectCircuit c r.2
  | none => s.inject p e pkt

/-- A publication of the tile at an offset, once its packet has room (R169, R170). -/
def State.pubTile (s : State) (n : Quad) (a : Word) (scope back : Nat) : Res :=
  if !s.resendRoom 1 then .wait
  else .done (s.pubJob (some scope) [(a.toNat, 2 ^ (s.tsizeOf n + 6))]
    [{ name := s.ownName n, size := s.tsizeOf n, colourBack := back }] true)

/-! ### The capture of a publication (R169) -/

/-- Where the byte of a capture stands: its packet, and its offset in the scratchpad. -/
def capturePlace : List (Nat × Nat) → Nat → Nat → Nat × Nat
  | [], _, i => (i, 0)
  | (a, n) :: rest, at_, i => if at_ < n then (i, a + at_) else capturePlace rest (at_ - n) (i + 1)

/-- One byte of a capture: where it has changed since the capture began, it is the old or the new one (R9). -/
def racedByte (ctr i : Nat) (old new : Byte) : Byte := if old = new then new else if Config.freeBit (ctr + i) then new else old

/-- The next 64 bytes of the publication at the head are captured. -/
def State.captureStep (s : State) (p : PubJob) (first : List Byte) : State :=
  let o := p.data.length
  let x := capturePlace p.srcs o 0
  let now := s.core.spadGet x.2 64
  let bs := now.zipIdx.map fun b => racedByte s.freeCtr b.2 (first.getD (o + b.2) 0) b.1
  let tag := (badIn s.core.spadBad x.2 64).isSome
  { s.onEng fun e => { e with pubs := e.pubs.modify 0 fun p =>
      { p with data := p.data ++ bs, pkts := p.pkts.modify x.1 fun k => { k with etag := k.etag || tag } } }
    with freeCtr := if now = (first.drop o).take 64 then s.freeCtr else s.freeCtr + 64 }

/-- The packets of a publication with their tiles. -/
def PubJob.filled (p : PubJob) : List Packet :=
  ((p.pkts.zip (p.srcs ++ List.replicate p.pkts.length (0, 0))).foldl (fun (acc : List Byte × List Packet) x =>
    (acc.1.drop x.2.2, acc.2 ++ [{ x.1 with data := acc.1.take x.2.2 }])) (p.data, [])).2

/-- The publication at the head of a core's list goes on: its release, the capture in steps of 64 bytes, and, once it is
whole, its packets (R169, R171). -/
def State.pubStep (s : State) : State :=
  match s.core.eng.pubs with
  | [] => s
  | p :: rest =>
    if (p.srcs.map (·.2)).sum ≤ p.data.length && (p.first.isSome || p.scope.all fun sc => s.performed s.cur p.no sc false) then
      p.filled.foldl (fun s k => s.publish p.circ k) (s.onEng fun e => { e with pubs := rest })
    else
      match p.first with
      | some first => s.captureStep p first
      | none =>
        if p.scope.all fun sc => s.performed s.cur p.no sc false then
          s.onEng fun e => { e with pubs := { p with first := some (p.srcs.flatMap fun r => s.core.spadGet r.1 r.2) } :: rest }
        else s

def execPub (f : CPub) (s : State) : Host.Outcome State Fault Refusal :=
  s.issue (.pub f) fun s =>
    let n := s.core.readN f.n
    let a := s.core.readS .c f.a
    match s.checkPub 0 [(f.n.val, n)] [(a, s.tsizeOf n)] with
    | some e => .fault e.1 e.2
    | none => s.pubTile n a (s.scopeNo f.scope) 0

/-- The element type of a combining operation (Table 5·6). -/
def copFmt (cop : Nat) : Fmt :=
  match cop % 3 with
  | 0 => .f32
  | 1 => .bf16
  | _ => .i32

def execPubC (f : CPubC) (s : State) : Host.Outcome State Fault Refusal :=
  s.issue (.pubC f) fun s =>
    let n := s.core.readN f.n
    let a := s.core.readS .c f.a
    let x := (s.core.readS .c f.b).toNat
    let bad := BitVec.ofNat 64 f.n.val
    match s.checkPub 3 [(f.n.val, n)] [(a, s.tsizeOf n)] with
    | some e => .fault e.1 e.2
    | none =>
      if ((s.myDesc n).bind fun d => fmtOf (descFmt d)) ≠ some (copFmt f.cop.toNat) then .fault nameFault bad
      else if 65536 ≤ x then .fault nameFault bad
      else if !s.resendRoom 1 then .wait
      else
        .done (s.pubJob (some (s.scopeNo f.scope)) [(a.toNat, 2 ^ (s.tsizeOf n + 6))]
          [{ name := s.ownName n, size := s.tsizeOf n, cop := f.cop.toNat, cidx := x }] false)

/-- STEER (R173). The spec gives one range [sA] and two names: the range is checked with the tile size of the name that is
chosen (log entry 98). -/
def execSteer (f : CSteer) (s : State) : Host.Outcome State Fault Refusal :=
  s.issue (.steer f) fun s =>
    let pick := s.core.readP .c f.p
    let n := s.core.readN f.n
    let n2 := s.core.readN f.n2
    let a := s.core.readS .c f.a
    let m := if pick then n else n2
    match s.checkPub 0 [(f.n.val, n), (f.n2.val, n2)] [(a, s.tsizeOf m)] with
    | some e => .fault e.1 e.2
    | none => s.pubTile m a (s.scopeNo f.scope) 0

/-- The return name of a colour that SPAWN holds (R43, R174). -/
def Part.returnName (p : Part) (c : Nat) : Option Quad :=
  if c ≠ 0 && Table.find p.colours c = some .spawn then Table.find p.rets c else none

def execRetn (f : CRetn) (s : State) : Host.Outcome State Fault Refusal :=
  s.issue (.retn f) fun s =>
    let a := s.core.readS .c f.a
    match (s.partAt s.core.task.part).returnName s.core.task.colour with
    | none => .fault nameFault 8
    | some n =>
      match s.checkPub 0 [(8, n)] [(a, s.tsizeOf n)] with
      | some e => .fault e.1 e.2
      | none => s.pubTile n a (s.scopeNo f.scope) s.core.task.colour

/-- The drain marker of an output name (R46). -/
def markerName (out : Quad) (tenant colour gen i j k : Nat) : Quad := nameOf tenant (nameTensor out) colour gen i j k 1

def execDrain (f : CNone) (s : State) : Host.Outcome State Fault Refusal :=
  s.issue (.drain f) fun s =>
    let r := s.core.task
    let outs := s.taskOuts r
    if !s.resendRoom outs.length then .wait
    else .done (s.pubJob none [] (outs.map fun o => { name := markerName o r.tenant r.colour r.gen r.i r.j r.k }) false)

/-! ## Colours (R42–R45, R176–R179) -/

/-- The lowest number from k on that is no key of a table. -/
def lowestFree {α : Type} (k : Nat) : Table α → Nat
  | [] => k
  | (i, _) :: r => if i = k then lowestFree (k + 1) r else if i < k then lowestFree k r else k

/-- The colour that a drawer gets: none while the pool is empty or anyone waits (R45, R176). -/
def Part.draw (x : Part) : Option Nat :=
  if x.waiters.isEmpty && decide (lowestFree 1 x.colours ≤ 0xFFFF) then some (lowestFree 1 x.colours) else none

/-- The packet is of a colour that a tenant has returned. -/
def Packet.ofColour (k : Packet) (p tenant colour : Nat) : Bool :=
  k.part = p && nameColour k.name = colour && nameTenant k.name = tenant

/-- What the clusters and slices of a partition drop when a colour returns (R44): entries, retained publications, and arrivals
of that colour that wait in the spill queue. -/
def Cluster.dropColour (c : Cluster) (p : Nat) (launches : List Nat) (tenant colour : Nat) : Cluster :=
  { c with mstore := c.mstore.filter fun e => !(e.part = p && e.colour = colour && launches.contains e.launch)
           retained := c.retained.filter fun r => !r.pkt.ofColour p tenant colour
           spilled := c.spilled.filter fun x => !x.2.ofColour p tenant colour
           stale := c.stale + (c.spilled.filter fun x => x.2.ofColour p tenant colour).length }

/-- Entries leave a cluster's spill queue, whose own words tell nothing (log entry 85). -/
def State.popSpill (s : State) (h : Word) : Nat → State
  | 0 => s
  | n + 1 =>
    if (s.hqAt (handlePart h) (handleIdx h)).count = 0 then s
    else (s.hqPop (handlePart h) (handleIdx h)).popSpill h n

def State.dropColour (s : State) (p tenant colour : Nat) : State :=
  let ls := ((s.partAt p).launches.filter fun l => l.2.tenant = tenant).map (·.1)
  let s1 : State := { s with clusters := s.clusters.map fun e =>
      (e.1, if s.clusterPart e.1 = p then e.2.dropColour p ls tenant colour else e.2) }
  s.clusters.foldl (fun t e => if s.clusterPart e.1 = p
    then t.popSpill e.2.spillQ (e.2.spilled.filter fun x => x.2.ofColour p tenant colour).length else t) s1

/-- Eight bytes of a register in a save area, by its location (Table 27·5). -/
def saveOffset : Loc → Option Nat
  | .s i => some (0x9000 + 8 * i.val)
  | .f i => some (0x9800 + 8 * i.val)
  | _ => none

/-- A scalar register of a task that is off its core written in its save area. -/
def State.saveScalar (s : State) (r : Rec) (d : SReg) (v : Nat) : State :=
  let q := s.readVa r.part r.tenant (r.csa + 0x9310) 8 .load
  let f := match q.2 with
    | .ok bs => Frame.ofWord (BitVec.ofNat 64 (ofBytes bs))
    | .error _ => {}
  match (sLoc f d).bind saveOffset with
  | none => q.1
  | some o => (q.1.writeVa r.part r.tenant (r.csa + o) (toBytes 8 v)).1

/-- The arguments of a blocked SPAWN published under its colour by a scheduler. -/
def State.publishArgs (s : State) (p : Nat) (e : Endpoint) (c : Nat) (w : SpawnWait) : State :=
  ((w.names.zip w.tiles).zip (w.tags ++ List.replicate w.names.length false)).foldl (fun s x =>
    s.inject p e { name := setField x.1.1 76 16 c, size := x.1.2.length.log2 - 6, data := x.1.2, etag := x.2 }) s

/-- A SPAWN draws a colour: it is held, with its return name (R43). -/
def Part.hold (x : Part) (c : Nat) (ret : Quad) : Part :=
  { x with colours := Table.set x.colours c .spawn, rets := Table.set x.rets c ret }

/-- The waiter at the head completes its SPAWN under a colour (R45, R177). -/
def State.giveColour (s : State) (p c a : Nat) : State :=
  let s1 := s.modPart p fun x => { x with waiters := x.waiters.drop 1 }
  match s1.recAt a with
  | none => s1
  | some r =>
    match r.spawn with
    | none => s1
    | some w =>
      (((s1.modPart p fun x => x.hold c w.ret).publishArgs p (.sched r.share) c w).saveScalar r w.d c).ready
        { r with spawn := none } 1 false

/-- A colour returns to its pool (R44, R45). -/
def State.returnColour (s : State) (p tenant c : Nat) : State :=
  let s1 := (s.dropColour p tenant c).modPart p fun x => { x with colours := Table.drop x.colours c, rets := Table.drop x.rets c }
  match (s1.partAt p).waiters with
  | [] => s1
  | a :: _ => s1.giveColour p c a

/-- Offsets of the arguments of a SPAWN from their tile sizes (R177). -/
def argOffsets (a : Nat) : List Nat → List Nat
  | [] => []
  | [_] => [a]
  | n :: m :: t => a :: argOffsets (alignUp (a + n) m) (m :: t)

/-- The argument names and the tiles of a SPAWN, with their offsets. -/
def State.spawnArgs (s : State) (f : CSpawn) : List (Nat × Quad) × List (Word × Nat) :=
  let ns := (spawnNames f).map fun r => (r.val, s.core.readN r)
  let zs := ns.map fun n => s.tsizeOf n.2
  (ns, ((argOffsets (s.core.readS .c f.b).toNat (zs.map fun z => 2 ^ (z + 6))).map (BitVec.ofNat 64)).zip zs)

/-- The captured copies of the arguments. -/
def State.captureArgs (s : State) (f : CSpawn) : SpawnWait :=
  let as := s.spawnArgs f
  let ts := as.2.map fun a => s.capture a.1.toNat (2 ^ (a.2 + 6))
  { d := f.a, ret := s.ownName (s.core.readN f.n2), names := as.1.map fun n => s.ownName n.2, tiles := ts.map (·.1),
    tags := ts.map (·.2) }

/-- SPAWN leaves its core to wait for a colour (R45, R177). -/
def State.blockSpawn (s : State) (f : CSpawn) : State :=
  s.leaveWith noReplay (fun r =>
      { r with st := 5, cause := 4, pc := s.core.lat.next, scm := 0, waitArg := 0, spawn := some (s.captureArgs f) })
    fun t r => t.modPart s.core.task.part fun x => { x with waiters := x.waiters ++ [r.addr] }

/-- The packets of a SPAWN's arguments under a colour. -/
def State.argPackets (s : State) (f : CSpawn) (c : Nat) : List Packet :=
  (s.spawnArgs f).1.map fun n => { name := setField (s.ownName n.2) 76 16 c, size := s.tsizeOf n.2 }

/-- SPAWN and SPAWN.NB (R177). -/
def State.spawn (s : State) (f : CSpawn) (block : Bool) : Res :=
  let as := s.spawnArgs f
  match s.checkPub 0 (as.1 ++ [(f.n2.val, s.core.readN f.n2)]) as.2 with
  | some e => .fault e.1 e.2
  | none =>
    match (s.partAt s.core.task.part).draw with
    | some c =>
      if !s.resendRoom as.1.length then .wait
      else
        .done (((s.modPart s.core.task.part fun x => x.hold c (s.ownName (s.core.readN f.n2))).pubJob (some s.levelScope)
          (as.2.map fun a => (a.1.toNat, 2 ^ (a.2 + 6))) (s.argPackets f c) false).onCore
          fun k => k.writeS .c 1 f.a (BitVec.ofNat 64 c))
    | none =>
      if !block then .done (s.onCore fun k => k.writeS .c 1 f.a 0)
      else if s.mayLeave then .leave (s.blockSpawn f)
      else .wait

def execSpawn (f : CSpawn) (s : State) : Host.Outcome State Fault Refusal := s.issue (.spawn f) fun s => s.spawn f true

def execSpawnNb (f : CSpawn) (s : State) : Host.Outcome State Fault Refusal := s.issue (.spawnNb f) fun s => s.spawn f false

def execColourGet (f : CA) (s : State) : Host.Outcome State Fault Refusal :=
  s.issue (.colourGet f) fun s =>
    match (s.partAt s.core.task.part).draw with
    | none => .done (s.onCore fun k => k.writeS .c 1 f.a 0)
    | some c =>
      .done ((s.modPart s.core.task.part fun x => { x with colours := Table.set x.colours c .get }).onCore fun k =>
        k.writeS .c 1 f.a (BitVec.ofNat 64 c))

def execColourFree (f : CA) (s : State) : Host.Outcome State Fault Refusal :=
  s.issue (.colourFree f) fun s =>
    let v := s.core.readS .c f.a
    if Table.find (s.partAt s.core.task.part).colours v.toNat ≠ some .get then .fault colourFault v
    else .done (s.returnColour s.core.task.part s.core.task.tenant v.toNat)

end Sys2Proof.Machine
end

