-- ==== Sys2Proof/Machine/Match.lean ====
section
/-! DEFINITION. The matching store of a cluster scheduler: arrivals, staging, the duplicate filter, spill, notices, drain
markers and regions (R31–R34, R46–R49, R52, R72–R75, R83, R299, R300, R318, R408). -/

namespace Sys2Proof.Machine

/-! ## Records wherever they are -/

/-- A live record, off its core or running. -/
def State.anyRec (s : State) (a : Nat) : Option Rec :=
  match s.recAt a with
  | some r => some r
  | none => (s.runnerOf a).map fun w => (s.coreAt w).task

/-- A live record changed. -/
def State.modRec (s : State) (a : Nat) (f : Rec → Rec) : State :=
  match s.recAt a with
  | some r => s.setRec (f r)
  | none =>
    match s.runnerOf a with
    | some w => s.modCore w fun c => { c with task := f c.task }
    | none => s

/-! ## Identities (R31, R66) -/

/-- The instance coordinate that a name's coordinate gives (R66). -/
def keyCoord (keyed : Bool) (sh c : Nat) : Nat := if keyed then c / 2 ^ sh else 0

/-- The instance that a name reaches through a pattern registration. -/
def freshEntry (g : Reg) (d : SubDecl) (n : Quad) (nsub : Nat) : Entry :=
  { launch := g.launch, part := g.part, tmpl := g.tmpl, colour := nameColour n, gen := nameGen n,
    i := keyCoord d.keyI d.shI (nameI n), j := keyCoord d.keyJ d.shJ (nameJ n), k := keyCoord d.keyK d.shK (nameK n),
    sat := BitVec.ofNat 8 (0xFF - (2 ^ nsub - 1)), level := g.level, linst := g.linst }

/-- Two entries are of one identity (R31); the instances of an entry template are told apart by their level instances
(R317). -/
def Entry.sameId (a b : Entry) : Bool :=
  a.sole = b.sole && (!a.sole || a.linst = b.linst) && a.launch = b.launch && a.part = b.part && a.tmpl = b.tmpl && a.colour = b.colour && a.gen = b.gen && a.i = b.i &&
    a.j = b.j && a.k = b.k

/-- A record is of an entry's identity. -/
def Rec.isOf (r : Rec) (e : Entry) : Bool :=
  r.launch = e.launch && r.part = e.part && r.tmpl = e.tmpl && r.colour = e.colour && r.gen = e.gen && r.i = e.i &&
    r.j = e.j && r.k = e.k

def Sink.isOf (x : Sink) (e : Entry) : Bool :=
  x.launch = e.launch && x.part = e.part && x.tmpl = e.tmpl && x.colour = e.colour && x.gen = e.gen && x.i = e.i &&
    x.j = e.j && x.k = e.k

def sinkOf (e : Entry) (closed : BitVec 8) : Sink :=
  { launch := e.launch, part := e.part, tmpl := e.tmpl, colour := e.colour, gen := e.gen, i := e.i, j := e.j, k := e.k,
    closed := closed }

/-- The template of a registration, and of an entry. -/
def State.regTmpl (s : State) (g : Reg) : Option Tmpl := (s.launchOf g.part g.launch).bind fun l => l.tmpls[g.tmpl]?
def State.entryTmpl (s : State) (e : Entry) : Option Tmpl := (s.launchOf e.part e.launch).bind fun l => l.tmpls[e.tmpl]?

/-- Every declared subscription bit. -/
def allSubs (t : Tmpl) : BitVec 8 := BitVec.ofNat 8 (2 ^ t.subs.length - 1)

/-! ## Regions (R49) -/

/-- A template is a sink of a region. -/
def Region.isSink (r : Region) (t : Nat) : Bool := r.v && decide (r.sfirst ≤ t) && decide (t ≤ r.slast)

/-- An instance is counted for the regions whose sink it is. -/
def State.countSink (s : State) (e : Entry) : State :=
  s.modLaunch e.part e.launch fun l =>
    if (l.rgn0.isSink e.tmpl || l.rgn1.isSink e.tmpl) && !(l.sinks.any fun x => x.isOf e) then
      { l with sinks := l.sinks ++ [sinkOf e 0] }
    else l

/-- Every counted instance of a region has had every subscription closed. -/
def Launch.drained (l : Launch) (r : Region) : Bool :=
  let xs := l.sinks.filter fun x => r.isSink x.tmpl
  r.v && !r.drained && !xs.isEmpty &&
    xs.all fun x => (l.tmpls[x.tmpl]?).elim false fun t => x.closed &&& allSubs t = allSubs t

/-- The drain name of a region (R293). -/
def drainName (l : Launch) (r : Region) : Quad := nameOf l.tenant r.dtensor 0 0 0 0 0 2

/-- A region that has drained is reported once, with its end-of-run marker (R49). -/
def State.regionDrained (s : State) (p q launch : Nat) (second : Bool) : State :=
  match s.launchOf p launch with
  | none => s
  | some l =>
    let r := if second then l.rgn1 else l.rgn0
    if !l.drained r then s
    else
      let s1 := s.modLaunch p launch fun l =>
        if second then { l with rgn1 := { l.rgn1 with drained := true } } else { l with rgn0 := { l.rgn0 with drained := true } }
      (s1.inject p (.sched q) { name := drainName l r }).complete l.cq 3 0 second.toNat launch l.tag

/-! ## Arrivals -/

/-- The share of an entry's level instance has room for more lines (R318). -/
def State.entryRoom (s : State) (q : Nat) (e : Entry) (need : Nat) : Bool :=
  ((s.partAt e.part).linst e.launch e.level e.linst).elim true fun x => s.shareRoom e.part q x need

/-- The share that holds a record has room for more lines (R318). -/
def State.recRoom (s : State) (r : Rec) (need : Nat) : Bool :=
  (s.instOf r).elim true fun l => s.shareRoom r.part r.share l need

/-- A delivery into a landing's hidden half, which then becomes the visible one (R72). -/
def Landing.stage (l : Landing) (bs : List Byte) (n : Quad) : Landing :=
  if l.half then { l with a := bs, half := false, full := true, name := n }
  else { l with b := bs, half := true, full := true, name := n }

/-- A delivery staged among the landings of an instance or a task. -/
def stageIn (ls : List Landing) (k : Nat) (bs : List Byte) (n : Quad) : List Landing :=
  match ls.find? fun l => l.k = k with
  | some _ => ls.map fun l => if l.k = k then l.stage bs n else l
  | none => ls ++ [({ k := k } : Landing).stage bs n]

/-- Elements of a tile (R166). -/
def tileElems (w : Nat) (bs : List Byte) : List Nat :=
  (List.range (bs.length / w)).map fun i => ofBytes ((bs.drop (i * w)).take w)

/-- The element width that a tile's descriptor gives a stream. -/
def State.streamWidth (s : State) (p : Nat) (n : Quad) : Nat :=
  ((s.descOfName p n).bind fun d => fmtOf (descFmt d)).elim 1 elemBytes

/-- A stream with a tile appended. -/
def Stream.feed (x : Stream) (bs : List Byte) : Stream := { x with buf := x.buf ++ tileElems x.width bs }

/-- The order in which an instance of a level was satisfied (R25). -/
def State.nextOrder (s : State) (p launch : Nat) : Nat :=
  s.clusters.foldl (fun m c => c.2.mstore.foldl (fun m e => if e.part = p && e.launch = launch then max m (e.order.getD 0) else m) m) 0 + 1

/-- A subscription of an entry is satisfied; the last one gives the entry its place (R32, R33). -/
def State.satisfied (s : State) (e : Entry) (k : Nat) : Entry :=
  let sat := setSat e.sat k true
  { e with sat := sat, order := if sat = 0xFF && e.order.isNone then some (s.nextOrder e.part e.launch) else e.order }

/-- A matching-store entry replaced, or added. -/
def State.putEntry (s : State) (q : Nat) (e : Entry) : State :=
  let c := s.clusterAt q
  let s1 := match c.mstore.findIdx? (·.sameId e) with
    | some i => s.setCluster q { c with mstore := replaceAt c.mstore i e }
    | none => (s.setCluster q { c with mstore := c.mstore ++ [e] }).countSink e
  s1.notePeaks e.part q

/-- The task that holds a stream bound by a subscription of an identity, and its register (R32). -/
def State.streamTask (s : State) (e : Entry) (k : Nat) : Option (Nat × Nat) :=
  let bound := fun (ws : List Stream) => ws.findIdx? fun x => x.st = .bound && x.src = .sub k && !x.marker
  let off := s.recs.findSome? fun r => if r.2.isOf e then (bound r.2.held).map fun w => (r.1, w) else none
  match off with
  | some x => some x
  | none => (s.cur :: s.others.keys).findSome? fun w =>
      let c := s.coreAt w
      if c.busy && c.task.isOf e then (bound c.w.toList).map fun i => (c.task.addr, i) else none

/-- A stream register of a task changed, on its core or off it. -/
def State.modStream (s : State) (a w : Nat) (f : Stream → Stream) : State :=
  match s.recAt a with
  | some r => s.setRec { r with held := r.held.modify w f }
  | none =>
    match s.runnerOf a with
    | some i => s.modCore i fun c => c.setW (Fin.ofNat 8 w) (f (c.w.get (Fin.ofNat 8 w)))
    | none => s

/-- A tile fed to a stream register of a task; none when the lines of its share are short (R318, R389). -/
def State.feedTask (s : State) (a w : Nat) (bs : List Byte) : Option State :=
  match s.recAt a with
  | none => some (s.modStream a w fun x => x.feed bs)
  | some r =>
    let x := (r.held[w]?).getD {}
    if decide ((x.feed bs).lines ≤ Config.streamLines) && s.recRoom r ((x.feed bs).lines - x.lines) then
      some ((s.modStream a w fun x => x.feed bs).notePeaks r.part r.share)
    else none

/-- The entry of an identity in a cluster. -/
def State.entryOf (s : State) (q : Nat) (e : Entry) : Option Entry := (s.clusterAt q).mstore.find? (·.sameId e)

/-- A data arrival at an entry: its landing, its count, and its satisfaction; none when lines are short. -/
def State.arriveAt (s : State) (q : Nat) (e : Entry) (g : Reg) (d : SubDecl) (pkt : Packet) : Option State :=
  let k := g.sub
  if bitOf e.closed k then some s
  else if d.strm then
    let w := d.land % 8
    let x := ((e.streams.find? fun y => y.1 = w).map (·.2)).getD
      { st := .bound, src := .sub k, width := s.streamWidth g.part pkt.name }
    let y := x.feed pkt.data
    if decide (Config.streamLines < y.lines) || !s.entryRoom q e (y.lines - x.lines) then none
    else
      let e1 := { e with streams := (e.streams.filter fun y => y.1 ≠ w) ++ [(w, y)], data := true }
      some (s.putEntry q (s.satisfied e1 k))
  else
    let fresh := !(e.lands.any fun l => l.k = k)
    let need := if fresh then 2 * pkt.data.length / 64 else 0
    if !s.entryRoom q e need then none
    else
      let n := (e.counts[k]?).getD 0 + 1
      let e1 := { e with lands := stageIn e.lands k pkt.data pkt.name, counts := e.counts.set k n, data := true }
      some (s.putEntry q (if g.contrib || decide (d.count ≤ n) then s.satisfied e1 k else e1))

/-- The spill queue of a cluster, when its handle names a slice queue of a partition. -/
def State.spillOf (s : State) (q p : Nat) : Option (Nat × Nat) :=
  let h := (s.clusterAt q).spillQ
  if s.handleOk h && handlePart h = p && (s.hqAt p (handleIdx h)).slice then some (p, handleIdx h) else none

/-- A spill write of an arrival that is to be held has faulted, and holds the queue (R300, R310). -/
def State.spillTry (s : State) (q p : Nat) : State :=
  match s.spillOf q p with
  | none => s
  | some (p, i) =>
    if (decide (Config.mstoreEntries ≤ (s.clusterAt q).used) || !(s.clusterAt q).spilled.isEmpty) && (s.hqAt p i).room &&
        s.spillFaults p i then s.spillHold p i else s

/-- An arrival of an instance that has spilled already, or finds no entry, is spilled; none when the spill queue takes
nothing (R299, R300). The bytes of a spill entry are not stated. -/
def State.spill (s : State) (q : Nat) (g : Reg) (pkt : Packet) : Option State :=
  match s.spillOf q g.part with
  | none => none
  | some (p, i) =>
  if !(s.hqAt p i).room || s.spillFaults p i then none
  else
    let bytes := (List.range 64).map fun n => Config.freeByte (s.freeCtr + n)
    let s1 := { s with freeCtr := s.freeCtr + 64 }
    some ((s1.hqPut p i bytes).modCluster q fun c =>
      { c with spilled := c.spilled ++ [(g, pkt)], fillSpilled := min (2 ^ 32 - 1) (c.fillSpilled + 1) })

/-- An arrival of an identity waits in the spill queue. -/
def State.hasSpilled (s : State) (q : Nat) (e : Entry) : Bool :=
  (s.clusterAt q).spilled.any fun x =>
    (s.regTmpl x.1).elim false fun t => (t.subs[x.1.sub]?).elim false fun d => (freshEntry x.1 d x.2.name t.subs.length).sameId e

/-- Where an arrival of an identity goes: to its entry, to a new one, to the spill queue, or nowhere (R299, R300). -/
inductive Berth where
  | entry (e : Entry)
  | fresh
  | spill
  | none
  deriving Repr

/-- The place that an arrival of an identity finds in the matching store; one that comes back from the spill queue finds its
place first. -/
def State.berth (s : State) (q : Nat) (replay : Bool) (e : Entry) : Berth :=
  let c := s.clusterAt q
  match s.entryOf q e with
  | some e1 => if !replay && s.hasSpilled q e then .spill else .entry e1
  | none =>
    if !replay && (s.hasSpilled q e || !c.spilled.isEmpty || decide (Config.mstoreEntries ≤ c.used)) then .spill
    else if Config.mstoreEntries ≤ c.used then .none
    else .fresh

/-- One data arrival through one pattern registration (R31, R32, R34); none when it is to be held. Of the schedulers of a wide
level instance, the one that matches the instance takes it (R37, log entry 102). -/
def State.arrive (s : State) (q : Nat) (replay : Bool) (g : Reg) (pkt : Packet) : Option State :=
  match s.regTmpl g with
  | none => some s
  | some t =>
    match t.subs[g.sub]? with
    | none => some s
    | some d =>
      let e := freshEntry g d pkt.name t.subs.length
      if s.homeCluster e ≠ some q then some s
      else
        match if d.strm then s.streamTask e g.sub else none with
        | some x => s.feedTask x.1 x.2 pkt.data
        | none =>
          match s.berth q replay e with
          | .entry e1 => s.arriveAt q e1 g d pkt
          | .fresh => s.arriveAt q e g d pkt
          | .spill => s.spill q g pkt
          | .none => none

/-- A matching-store entry leaves the store. -/
def State.dropEntry (s : State) (q : Nat) (e : Entry) : State :=
  s.modCluster q fun c => { c with mstore := c.mstore.filter fun x => !x.sameId e }

/-- An entry is released unfired; it is an orphan when it discards a data arrival (R48). -/
def State.releaseEntry (s : State) (q : Nat) (e : Entry) : State :=
  (s.dropEntry q e).modCluster q fun c => { c with orphans := c.orphans + e.data.toNat }

/-! ## Deliveries to registrations that tasks hold (R164, R166, R408) -/

/-- A delivery for a SUB registration: it is staged, SAT is set and the registration goes; a task that waits for it turns
READY (R160, R164). None when lines are short. -/
def State.heldArrive (s : State) (g : Reg) (pkt : Packet) : Option State :=
  match g.task.bind s.anyRec with
  | none => some s
  | some r =>
    if !s.recRoom r (2 * pkt.data.length / 64) then none
    else
      let ls := stageIn r.live g.sub pkt.data pkt.name
      let s1 := ((s.modRec r.addr fun r =>
        { r with live := ls, sat := setSat r.sat g.sub true,
                 lhalf := setSat r.lhalf g.sub ((ls.find? fun l => l.k = g.sub).elim false (·.half)) }).notePeaks
          r.part r.share).unregister g
      match s1.recAt r.addr with
      | some r1 => some (if r1.st = 3 && !r1.waitQ && r1.waitArg = BitVec.ofNat 64 g.sub then s1.ready r1 1 false else s1)
      | none => some s1

/-- A delivery for a BIND registration. -/
def State.bindArrive (s : State) (g : Reg) (w : Nat) (pkt : Packet) : Option State :=
  match g.task with
  | none => some s
  | some a => s.feedTask a w pkt.data

/-- A task-held registration has accepted a pair (R408). -/
def State.markSeen (s : State) (q : Nat) (g : Reg) (pkt : Packet) : State :=
  s.modCluster q fun c =>
    { c with regs := c.regs.map fun x => if x.no = g.no then { x with seen := x.seen ++ [(pkt.src, pkt.seq)] } else x }

/-! ## Notices (R75, Table 5·5) -/

def noticeBytes (pkt : Packet) (g : Reg) : List Byte :=
  toBytes 64 (pkt.name.toNat * 2 ^ 384 + g.tmpl % 256 * 2 ^ 376 + g.sub % 8 * 2 ^ 373 + pkt.reason % 256 * 2 ^ 248 + pkt.body.toNat)

/-- The notice queue of a registration's dispatch level. -/
def State.noticeQueue (s : State) (g : Reg) : Word :=
  ((s.launchOf g.part g.launch).bind fun l => l.levelEntry (l.tmplLevel g.tmpl)).elim 0 fun v => handle32 v.nq

def State.lostNotice (s : State) (q : Nat) : State := s.modCluster q fun c => { c with noticeLost := c.noticeLost + 1 }

/-- A notice written to its queue; one that finds it full or was not declared is counted (R75). -/
def State.notice (s : State) (q : Nat) (g : Reg) (pkt : Packet) : State :=
  let h := s.noticeQueue g
  if !g.matches pkt.name then s.lostNotice q
  else if !s.posts h || !(s.hqAt (handlePart h) (handleIdx h)).room then s.lostNotice q
  else if s.spillFaults (handlePart h) (handleIdx h) then (s.spillHold (handlePart h) (handleIdx h)).lostNotice q
  else s.hqPut (handlePart h) (handleIdx h) (noticeBytes pkt g)

/-- A registration's instance for a name is matched by the scheduler; a task's registration is its own. -/
def State.isHome (s : State) (q : Nat) (g : Reg) (n : Quad) : Bool :=
  g.task.isSome ||
    match s.regTmpl g with
    | none => true
    | some t => (t.subs[g.sub]?).elim true fun d => s.homeCluster (freshEntry g d n t.subs.length) = some q

/-! ## A delivery (R72–R75, R83, R318) -/

/-- One registration per template subscription (R83). -/
def onePerSub (gs : List Reg) : List Reg :=
  gs.foldl (fun acc g => if acc.any fun x => x.launch = g.launch && x.tmpl = g.tmpl && x.sub = g.sub then acc else acc ++ [g]) []

/-- A registration takes a publication: one with an expected-contributor count no data tile but its combined publication
(R69, R80). -/
def Reg.takes (g : Reg) (pkt : Packet) : Bool :=
  g.part = pkt.part && g.matches pkt.name && (!g.contrib || nameKind pkt.name ≠ 0 || (pkt.comb = some g.count && !g.barred.contains pkt.name))

/-- Pattern registrations of a cluster that take a packet. -/
def Cluster.openRegs (c : Cluster) (pkt : Packet) : List Reg :=
  onePerSub (c.regs.filter fun g => g.takes pkt && g.task.isNone)

/-- Registrations of SUB and BIND that take a packet whose pair they have not accepted (R83, R408; log entry 45). -/
def Cluster.heldRegs (c : Cluster) (pkt : Packet) : List Reg :=
  c.regs.filter fun g => g.takes pkt && g.task.isSome && !g.seen.contains (pkt.src, pkt.seq)

/-- The pair of a packet is in the filter (R83). -/
def Cluster.filtered (c : Cluster) (pkt : Packet) : Bool := c.filter.any fun p => p.src = pkt.src && p.seq = pkt.seq

/-- Local cycles that a pair stays in the filter, and a combine's bitmap is kept (R83, R87). -/
def Part.keepFor (x : Part) : Nat := x.netRetain + x.netTimeout * (x.netLimit + 1)

/-- One arrival at one registration. -/
def State.arriveReg (s : State) (q : Nat) (g : Reg) (pkt : Packet) : Option State :=
  match nameKind pkt.name, g.task, g.stream with
  | 0, none, _ => s.arrive q false g pkt
  | 0, some _, none => s.heldArrive g pkt
  | 0, some _, some w => (s.bindArrive g w pkt).map fun t => t.markSeen q g pkt
  | 2, some a, some w => some ((s.modStream a w fun x => { x with marker := true }).markSeen q g pkt)
  | 2, none, _ =>
    some (match s.regTmpl g with
      | none => s
      | some t =>
        match t.subs[g.sub]? with
        | none => s
        | some d =>
          let e := freshEntry g d pkt.name t.subs.length
          if !d.strm || s.homeCluster e ≠ some q then s
          else
            match s.streamTask e g.sub with
            | some x => s.modStream x.1 x.2 fun y => { y with marker := true }
            | none =>
              match s.entryOf q e with
              | none => s
              | some e1 => s.putEntry q { e1 with streams := e1.streams.map fun y =>
                  if y.1 = d.land % 8 then (y.1, { y.2 with marker := true }) else y })
  | _, _, _ => some s

/-- The port of a name's rendezvous router that leads to a cluster scheduler (R63). -/
def State.branchPort (s : State) (goal q : Nat) : Nat :=
  ((s.pathFrom (schedRouter q) goal pathFuel).getLast?).elim 8 (·.2)

/-- The acknowledgement of a delivery to its sender: straight to a unit that sent it to this cluster alone, else up the tree
from the router beside the scheduler; a negative one stands at once at the rendezvous router (R82, R385). -/
def State.deliveryAck (s : State) (q : Nat) (x : Packet × Endpoint) (neg : Bool) : Ack :=
  let goal := (s.goalOf x.1.part x.1.name).getD 0
  { owner := x.2, src := x.1.src, seq := x.1.seq, name := x.1.name, part := x.1.part, neg := neg,
    dest := if x.1.served || x.1.cls = 2 then some q else none,
    at_ := if x.1.served || x.1.cls = 2 then none
      else if neg then some (goal, s.branchPort goal q) else some (schedRouter q, 8) }

def State.ackDelivery (s : State) (q : Nat) (x : Packet × Endpoint) : State :=
  let a := s.deliveryAck q x false
  if s.acks.contains a then s else { s with acks := s.acks ++ [a] }

/-- The pair enters the duplicate filter (R83). -/
def State.filterPair (s : State) (q : Nat) (pkt : Packet) : State :=
  s.modCluster q fun c =>
    { c with filter := c.filter ++ [{ src := pkt.src, seq := pkt.seq, due := c.cycle + (s.partAt pkt.part).keepFor }] }

/-- The colour of a name is not in use (R44). -/
def State.staleColour (s : State) (pkt : Packet) : Bool :=
  nameColour pkt.name ≠ 0 && (Table.find (s.partAt pkt.part).colours (nameColour pkt.name)).isNone

/-- Registrations of a cluster that have still to take their copy of a packet: each takes one of its own (R83). -/
def Cluster.copiesOf (c : Cluster) (pkt : Packet) : List Reg :=
  match pkt.copies with
  | none => (if c.filtered pkt then [] else c.openRegs pkt) ++ c.heldRegs pkt
  | some l => c.regs.filter fun g => l.contains g.no

/-- Copies of a packet's pair wait at the scheduler: a resend of it is dropped without acknowledgement (R83). -/
def Cluster.inHand (c : Cluster) (pkt : Packet) : Bool :=
  (c.heldIn ++ c.markers ++ c.inbox.filter fun x => x.1.copies.isSome).any fun y => y.1.src = pkt.src && y.1.seq = pkt.seq

/-- A delivery is accepted when its last copy has been taken: its pair enters the filter if a pattern registration took one,
and its sender is told (R82, R83). -/
def State.accept (s : State) (q : Nat) (x : Packet × Endpoint) : State :=
  if (s.clusterAt q).inHand x.1 then s
  else (if x.1.pattern then s.filterPair q x.1 else s).ackDelivery q x

/-- What a packet comes to when its scheduler first looks at it (R44, R75, R83): it is answered, or dropped, or its
registrations take their copies. A drain marker is set aside for its own step. -/
inductive Taken where
  | done (s : State)
  | drop (s : State)
  | split (pkt : Packet)
  deriving Repr

/-- Copies of pairs that are not in the filter yet. -/
def Cluster.pending (c : Cluster) : Nat :=
  ((c.heldIn ++ c.markers ++ c.inbox).filterMap fun x => if x.1.copies.isSome then some (x.1.src, x.1.seq) else none).dedup.length

def State.takeDelivery (s : State) (q : Nat) (x : Packet × Endpoint) : Taken :=
  let c := s.clusterAt q
  let pkt := x.1
  let gs := c.copiesOf pkt
  let byPattern := gs.any fun g => g.task.isNone
  let notes := if c.filtered pkt then []
    else c.regs.filter fun g => g.part = pkt.part && g.matchesAny pkt.name && s.isHome q g pkt.name
  let full := decide (Config.filterEntries ≤ c.filter.length + c.pending)
  if s.staleColour pkt then .done ((s.modCluster q fun c => { c with stale := c.stale + 1 }).ackDelivery q x)
  else if 4 ≤ nameKind pkt.name then
    if notes.isEmpty then .done (s.ackDelivery q x)
    else if full then .drop s
    else .done (((notes.foldl (fun s g => s.notice q g pkt) s).filterPair q pkt).ackDelivery q x)
  else if gs.isEmpty then .done (s.ackDelivery q x)
  else if byPattern && full then .drop s
  else if nameKind pkt.name = 1 then
    if byPattern then
      .done (s.modCluster q fun c => { c with
        markers := c.markers ++ [({ pkt with copies := some ((gs.filter fun g => g.task.isNone).map (·.no)), pattern := true }, x.2)] })
    else .done (s.ackDelivery q x)
  else .split { pkt with copies := some (gs.map (·.no)), pattern := byPattern }

/-- The shares that copies of a packet would enter. -/
def State.sharesOf (s : State) (q : Nat) (pkt : Packet) : List (Nat × Nat × Nat) :=
  ((s.clusterAt q).copiesOf pkt).filterMap fun g =>
    match g.task with
    | none => some (g.launch, g.level, g.linst)
    | some a => ((s.anyRec a).bind s.instOf).map fun l => (l.launch, l.level, l.idx)

/-- A copy waits behind one that is held for the same share (R318). -/
def State.behindHeld (s : State) (q : Nat) (before : List (Packet × Endpoint)) (pkt : Packet) : Bool :=
  let mine := s.sharesOf q pkt
  before.any fun y => (s.sharesOf q y.1).any mine.contains

/-- The packet as its landings take it. -/
def Packet.plain (pkt : Packet) : Packet := { pkt with copies := none, pattern := false }

/-- One copy, as its scheduler holds it. -/
def copyFor (x : Packet × Endpoint) (g : Reg) : Packet × Endpoint := ({ x.1 with copies := some [g.no] }, x.2)

/-- The copy of one registration is taken, or held for want of lines or behind one that is; the packet stands at place i of
the inbox until every registration has had its turn (R72, R83, R318). -/
def State.takeCopy (s : State) (q i : Nat) (x : Packet × Endpoint) : State :=
  let gs := (s.clusterAt q).copiesOf x.1
  if s.staleColour x.1 then (s.modCluster q fun c => { c with stale := c.stale + 1 }).accept q x
  else
    match gs[s.choice gs.length]? with
    | none => s.accept q x
    | some g =>
      let rest := (gs.filter fun y => y.no ≠ g.no).map (·.no)
      let back := fun (t : State) => if rest.isEmpty then t else t.modCluster q fun c =>
        { c with inbox := c.inbox.take i ++ [({ x.1 with copies := some rest }, x.2)] ++ c.inbox.drop i }
      let s1 := s.chosen gs.length
      let hold := back ((s1.spillTry q g.part).modCluster q fun c => { c with heldIn := c.heldIn ++ [copyFor x g] })
      if s1.behindHeld q (s1.clusterAt q).heldIn (copyFor x g).1 then hold
      else
        match s1.arriveReg q g x.1.plain with
        | none => hold
        | some t => (back t).accept q x

/-- A source sent one packet before another: sequence numbers wrap (Table 5·7). -/
def seqBefore (a b : Nat) : Bool :=
  decide (0 < (b + 2 ^ 32 - a % 2 ^ 32) % 2 ^ 32) && decide ((b + 2 ^ 32 - a % 2 ^ 32) % 2 ^ 32 < 2 ^ 31)

/-- An earlier packet of the same source and name, or of a name that differs only in KIND, is still kept for delivery, and a
registration of the cluster has still to take it: this one waits for it (R46, R74). -/
def State.overtakes (s : State) (q : Nat) (pkt : Packet) : Bool :=
  s.kept.any fun k => (k.dest = some q || k.port.isSome) && k.pkt.src = pkt.src && seqBefore k.pkt.seq pkt.seq &&
    nameStem k.pkt.name = nameStem pkt.name &&
      ((s.clusterAt q).inHand k.pkt || !((s.clusterAt q).copiesOf k.pkt).isEmpty)

/-- A drain marker of the same source, whose name differs only in KIND, has been delivered and not yet acted on (R46, R74). -/
def Cluster.behindMarker (c : Cluster) (pkt : Packet) : Bool :=
  c.markers.any fun m => m.1.src = pkt.src && nameStem m.1.name = nameStem pkt.name

/-- The deliveries of a scheduler that may be taken, with their places: no order is promised across sources or across
names (R74). -/
def State.deliverable (s : State) (q : Nat) (tagged : Bool) : List ((Packet × Endpoint) × Nat) :=
  let c := s.clusterAt q
  c.inbox.zipIdx.filter fun y =>
    let pkt := y.1.1
    (pkt.etag || pkt.badData) = tagged && (tagged || (!s.overtakes q pkt && (nameKind pkt.name = 1 || !c.behindMarker pkt)))

/-- A delivery at its cluster scheduler (R72–R75, R83, R408). -/
def execDelivery (cluster : Nat) (s : State) : Host.Outcome State Fault Refusal :=
  let l := s.deliverable cluster false
  match l[s.choice l.length]? with
  | none => .next s
  | some (x, i) =>
    let s1 := (s.chosen l.length).modCluster cluster fun c => { c with inbox := removeAt c.inbox i }
    if x.1.copies.isSome then .next (s1.takeCopy cluster i x)
    else if (s1.clusterAt cluster).inHand x.1 then .next s1
    else
      match s1.takeDelivery cluster x with
      | .done s2 => .next s2
      | .drop s2 => .next s2
      | .split pkt => .next (s1.takeCopy cluster i (pkt, x.2))

/-- A held copy that fits now is admitted, in order of arrival within its share (R318). -/
def State.admitHeld (s : State) (q : Nat) : List (Packet × Endpoint) → List (Packet × Endpoint) → State
  | _, [] => s
  | before, x :: rest =>
    let s1 := s.modCluster q fun c => { c with heldIn := before ++ rest }
    if s.staleColour x.1 then (s1.modCluster q fun c => { c with stale := c.stale + 1 }).accept q x
    else if s.behindHeld q before x.1 then s.admitHeld q (before ++ [x]) rest
    else
      match (s.clusterAt q).copiesOf x.1 with
      | [] => s1.accept q x
      | g :: _ =>
        match s1.arriveReg q g x.1.plain with
        | some t => t.accept q x
        | none => s.admitHeld q (before ++ [x]) rest


/-- A tagged delivery is not landed: its sender is told (R385). -/
def execNegativeAck (cluster : Nat) (s : State) : Host.Outcome State Fault Refusal :=
  let l := s.deliverable cluster true
  match l[s.choice l.length]? with
  | none => .next s
  | some (x, i) =>
    let s1 := (s.chosen l.length).modCluster cluster fun c => { c with inbox := removeAt c.inbox i }
    .next { s1 with acks := s1.acks ++ [s1.deliveryAck cluster x true] }

/-! ## Drain markers (R46–R49, R52) -/

/-- What markers have closed for an identity before this entry. -/
def Cluster.closedBefore (c : Cluster) (e : Entry) : BitVec 8 :=
  ((c.closures.find? fun x => x.isOf e).map (·.closed)).getD 0

/-- The closed mask of a counted sink, and the report of a region that it completes (R49). -/
def State.closeSink (s : State) (q : Nat) (e : Entry) (closed : BitVec 8) : State :=
  let s1 := s.modLaunch e.part e.launch fun l =>
    { l with sinks := l.sinks.map fun x => if x.isOf e then { x with closed := x.closed ||| closed } else x }
  (s1.regionDrained e.part q e.launch false).regionDrained e.part q e.launch true

/-- One marker at one instance: its subscription closes; when all are closed, the entry of a forwarding instance stays until
the instance forwards (R47, R48), and another entry is released unless it is satisfied and has still to fire. -/
def State.closeSub (s : State) (q : Nat) (t : Tmpl) (e : Entry) (k : Nat) : State :=
  let c := s.clusterAt q
  let all := setSat e.closed k true ||| c.closedBefore e
  let e1 := { e with closed := all }
  let full := all &&& allSubs t = allSubs t
  let s1 := (s.putEntry q e1).closeSink q e1 all
  if !full then
    s1.modCluster q fun c => { c with closures := (c.closures.filter fun x => !x.isOf e) ++ [sinkOf e all] }
  else
    let s2 := s1.modCluster q fun c =>
      { c with closures := c.closures.filter fun x => !x.isOf e, drainQ := if t.fwd then c.drainQ ++ [e1] else c.drainQ }
    if e1.sat = 0xFF || t.fwd then s2 else s2.releaseEntry q e1

/-- A marker through one pattern registration (R52): one that needs an entry while the store is full is spilled like a data
arrival (R299); none when it is to be held (R300). -/
def State.markReg (s : State) (q : Nat) (replay : Bool) (g : Reg) (pkt : Packet) : Option State :=
  match s.regTmpl g with
  | none => some s
  | some t =>
    match t.subs[g.sub]? with
    | none => some s
    | some d =>
      let e := freshEntry g d pkt.name t.subs.length
      if s.homeCluster e ≠ some q then some s
      else
        match s.berth q replay e with
        | .entry e1 => some (s.closeSub q t e1 g.sub)
        | .fresh => some (s.closeSub q t e g.sub)
        | .spill => s.spill q g pkt
        | .none => none

/-- The registrations of a cluster that have still to see a marker take it; those for which it is held keep it. -/
def State.markCopies (s : State) (q : Nat) (pkt : Packet) : State × List Nat :=
  ((s.clusterAt q).copiesOf pkt).foldl (fun acc g =>
    match acc.1.markReg q false g pkt.plain with
    | some t => (t, acc.2)
    | none => (acc.1, acc.2 ++ [g.no])) (s, [])

/-- The marker at place i of a scheduler: accepted once every registration has taken it (R52, R82, R83); none while nothing of
it can be taken. The spec does not say whether other markers go before one that is held (log entry 106). -/
def State.markOne (s : State) (q i : Nat) (x : Packet × Endpoint) : Option State :=
  let s1 := s.modCluster q fun c => { c with markers := removeAt c.markers i }
  let r := s1.markCopies q x.1
  if r.2.isEmpty then some (r.1.accept q x)
  else if r.2.length = ((s1.clusterAt q).copiesOf x.1).length then none
  else some (r.1.modCluster q fun c => { c with
    markers := c.markers.take i ++ [({ x.1 with copies := some r.2 }, x.2)] ++ c.markers.drop i })

def execDrainMarkerArrival (cluster : Nat) (s : State) : Host.Outcome State Fault Refusal :=
  .next (((s.clusterAt cluster).markers.zipIdx.findSome? fun m => s.markOne cluster m.2 m.1).getD
    (((s.clusterAt cluster).markers.head?).elim s fun m => s.spillTry cluster m.1.part))

/-! ## The spill queue's head (R299) -/

/-- A spilled arrival, or marker, takes its place. -/
def State.unspillOne (s : State) (q : Nat) (g : Reg) (pkt : Packet) : Option State :=
  if nameKind pkt.name = 1 then s.markReg q true g pkt else s.arrive q true g pkt

/-- Freed entries go to the head of the spill queue (R299). -/
def State.replaySpill (s : State) (q : Nat) : Nat → State
  | 0 => s
  | n + 1 =>
    match (s.clusterAt q).spilled with
    | [] => s
    | (g, pkt) :: rest =>
      match s.unspillOne q g pkt with
      | none => s
      | some s1 => ((s1.modCluster q fun c => { c with spilled := rest }).popSpill (s.clusterAt q).spillQ 1).replaySpill q n

def State.replay (s : State) (q : Nat) : State := s.replaySpill q (s.clusterAt q).spilled.length

/-- A scheduler admits what it can: spilled arrivals, by whatever step entries or lines have been freed, then held copies. -/
def execStagingAdmit (cluster : Nat) (s : State) : Host.Outcome State Fault Refusal :=
  let s1 := s.replay cluster
  .next (s1.admitHeld cluster [] (s1.clusterAt cluster).heldIn)

/-- A task of an identity has not completed. -/
def State.hasTask (s : State) (e : Entry) : Bool :=
  (s.recs.any fun r => r.2.isOf e) || ((s.cur :: s.others.keys).any fun w => (s.coreAt w).busy && (s.coreAt w).task.isOf e)

/-- A forwarding instance forwards: a marker under each output name, and its entry, if it has one, is released (R47, R48). -/
def execDrainForward (cluster idx : Nat) (s : State) : Host.Outcome State Fault Refusal :=
  match (s.clusterAt cluster).drainQ[idx]? with
  | none => .next s
  | some e =>
    if s.hasTask e || (s.entryOf cluster e).elim false fun x => x.sat = 0xFF then .next s
    else
      let s1 := s.modCluster cluster fun c => { c with drainQ := removeAt c.drainQ idx }
      let s2 := (s1.entryOf cluster e).elim s1 (s1.releaseEntry cluster)
      match s.launchOf e.part e.launch with
      | some l =>
        .next ((s.outNames e.part e.launch e.level e.linst e.tmpl).foldl (fun s o =>
          s.inject e.part (.sched cluster) { name := markerName o l.tenant e.colour e.gen e.i e.j e.k }) s2)
      | none => .next s2

/-- A pair leaves the duplicate filter when its time is over (R83). -/
def execFilterExpiry (cluster idx : Nat) (s : State) : Host.Outcome State Fault Refusal :=
  let c := s.clusterAt cluster
  match c.filter[idx]? with
  | none => .next s
  | some p => if p.due ≤ c.cycle then .next (s.setCluster cluster { c with filter := removeAt c.filter idx }) else .next s

end Sys2Proof.Machine
end

