-- ==== Sys2Proof/Machine/Launches.lean ====
section
/-! DEFINITION. Launches: their records and templates, acceptance and refusal, the placing and instantiation of level
instances, retirement, PART.END, PART.RESUME and re-placement (R36–R41, R112, R292–R298, R315–R318, R383). -/

namespace Sys2Proof.Machine

/-! ## Reading a launch record (Tables 21·1 to 21·5) -/

/-- A level entry (Table 21·2). -/
def levelOfBits (x : Nat) : Level :=
  { dom := bitsAt x 0 3, scope := bitsAt x 3 3, prio := bitsAt x 6 3, costart := bitAt x 9, hold := bitsAt x 12 4,
    flim := bitsAt x 16 8, tmpl := bitsAt x 24 8, count := bitsAt x 32 16, saves := bitsAt x 48 16,
    quantum := bitsAt x 64 32, nq := bitsAt x 96 32, csa := bitsAt x 128 57 }

/-- A region field (Table 21·3). -/
def regionOfBits (x : Nat) : Region :=
  { sfirst := bitsAt x 0 8, slast := bitsAt x 8 8, dtensor := bitsAt x 16 24, v := bitAt x 40 }

/-- A coordinate range of a subscription record. -/
def rangeOfBits (x : Nat) : Range := { lo := bitsAt x 32 16, hi := bitsAt x 16 16, mask := bitsAt x 0 16 }

/-- A subscription record (Table 21·5). -/
def subOfBits (x : Nat) : SubDecl :=
  { tensor := bitsAt x 0 24, colour := bitsAt x 24 16, cfix := bitAt x 40, gen := bitsAt x 41 16, gfix := bitAt x 57,
    note := bitsAt x 58 3, contrib := bitAt x 61, strm := bitAt x 62, count := bitsAt x 64 16, land := bitsAt x 80 15,
    lsize := bitsAt x 96 4, ir := rangeOfBits (bitsAt x 128 48), jr := rangeOfBits (bitsAt x 176 48),
    kr := rangeOfBits (bitsAt x 224 48), shI := bitsAt x 272 4, shJ := bitsAt x 276 4, shK := bitsAt x 280 4,
    keyI := bitAt x 286, keyJ := bitAt x 285, keyK := bitAt x 284, circ := bitsAt x 287 11 }

/-- A template's header fields beside its subscriptions (Table 21·4). -/
structure TmplHead where
  entry : Nat
  dlvl  : Nat
  fwd   : Bool
  nsub  : Nat
  nout  : Nat
  outs  : List (Nat × Nat)      -- scratchpad offsets and circuit ids
  subs  : List SubDecl
  clean : Bool                  -- no reserved bit or value is set
  deriving DecidableEq, Repr, Inhabited

/-- The bits of a number outside some fields are zero. -/
def onlyBits (x : Nat) (fs : List (Nat × Nat)) : Bool :=
  fs.foldl (fun y f => y - bitsAt y f.1 f.2 * 2 ^ f.1) x = 0

def tmplOfBits (x : Nat) : TmplHead :=
  let nsub := min 8 (bitsAt x 36 4)
  let nout := min 8 (bitsAt x 40 4)
  let sub := fun k => bitsAt x (512 + 384 * k) 384
  { entry := bitsAt x 0 32, dlvl := bitsAt x 32 3, fwd := bitAt x 35, nsub := nsub, nout := nout,
    outs := (List.range nout).map fun q => (16 * bitsAt x (64 + 32 * q) 17, bitsAt x (81 + 32 * q) 11),
    subs := (List.range nsub).map fun k => subOfBits (sub k),
    clean := decide (bitsAt x 36 4 ≤ 8) && decide (bitsAt x 40 4 ≤ 8) &&
      onlyBits x ([(0, 44)] ++ (List.range nout).map (fun q => (64 + 32 * q, 28)) ++ (List.range nsub).map fun k => (512 + 384 * k, 384)) &&
      ((List.range nsub).all fun k => onlyBits (sub k) [(0, 63), (64, 31), (96, 4), (128, 170)]) }

/-- The fields of a launch record. -/
structure LaunchRec where
  ver   : Nat
  lvls  : Nat
  kernel : Nat
  tenant : Nat
  ntmpl : Nat
  code  : Nat
  clen  : Nat
  dlen  : Nat
  dict  : Nat
  data  : Nat
  dsize : Nat
  cq    : Nat
  rgn0  : Region
  rgn1  : Region
  ttab  : Nat
  levels : List Level
  clean : Bool
  deriving DecidableEq, Repr, Inhabited

def launchOfBits (x : Nat) : LaunchRec :=
  let lvls := bitsAt x 8 3
  let entry := fun l => bitsAt x (512 + 192 * l) 192
  { ver := bitsAt x 0 8, lvls := lvls, kernel := bitsAt x 16 16, tenant := bitsAt x 32 12, ntmpl := bitsAt x 44 8 + 1,
    code := bitsAt x 64 57, clen := bitsAt x 128 32, dlen := bitsAt x 160 14, dict := bitsAt x 192 57,
    data := bitsAt x 256 57, dsize := bitsAt x 320 21, cq := bitsAt x 352 32, rgn0 := regionOfBits (bitsAt x 384 64),
    rgn1 := regionOfBits (bitsAt x 448 64), ttab := bitsAt x 1856 57,
    levels := (List.range 7).map fun l => levelOfBits (entry l),
    clean := onlyBits x ([(0, 11), (16, 28), (44, 8), (64, 57), (128, 32), (160, 14), (192, 57), (256, 57), (320, 21),
        (352, 32), (384, 41), (448, 41), (1856, 57)] ++ (List.range (min 7 (lvls + 1))).map fun l => (512 + 192 * l, 192)) &&
      ((List.range (min 7 (lvls + 1))).all fun l => onlyBits (entry l) [(0, 10), (12, 173)]) &&
      ((List.range (max 1 lvls)).all fun l => (levelOfBits (entry l)).dom ≠ 7 && (levelOfBits (entry l)).scope ≠ 7 &&
        (levelOfBits (entry l)).csa % 4096 = 0) &&
      bitsAt x 64 1 = 0 && bitsAt x 192 6 = 0 && bitsAt x 256 6 = 0 && bitsAt x 1856 9 = 0 }

/-- The levels that the record declares: entries 1 to LVLS, or entry 1 when LVLS is 0 (R293). -/
def LaunchRec.used (r : LaunchRec) : List Level := r.levels.take (max 1 r.lvls)

/-! ## The checks of R295 -/

/-- The pages of a virtual range under a use: whether every one translates, and whether the answer is held back at a unit under
a lease (R338). -/
def State.mapped (s : State) (p tenant va n : Nat) (u : Use) : State × Bool × Bool :=
  (pageParts va n).foldl (fun acc x =>
    let r := acc.1.translate p tenant x.1 u
    match r.2 with
    | .ok _ => (r.1, acc.2.1 && decide (x.1 + x.2 ≤ 2 ^ 57), acc.2.2)
    | .error f => (r.1, false, acc.2.2 || f.cause = heldBack)) (s, true, false)

/-- Every virtual place that a launch record names translates (reason 0x09), or an answer is held back. -/
def State.launchMapped (s : State) (p : Nat) (r : LaunchRec) : State × Bool × Bool :=
  ([(r.code, 2 * r.clen, Use.fetch), (r.dict, 48 * (r.dlen + 1), Use.dict), (r.data, r.dsize, Use.load),
      (r.ttab, 512 * r.ntmpl, Use.load)] ++ r.used.map fun l => (l.csa, Config.saveBytes * l.saves, Use.load)).foldl
    (fun acc x =>
      let m := acc.1.mapped p r.tenant x.1 x.2.1 x.2.2
      (m.1, acc.2.1 && m.2.1, acc.2.2 || m.2.2)) (s, true, false)

/-- Bytes of a virtual range, if they can be read. -/
def State.peekVa (s : State) (p tenant va n : Nat) : State × Option (List Byte) :=
  let r := s.readVa p tenant va n .load
  match r.2 with
  | .ok bs => (r.1, some bs)
  | .error _ => (r.1, none)

/-- The templates of a launch record; one that cannot be read is left to reason 0x09. -/
def State.readTmpls (s : State) (p : Nat) (r : LaunchRec) : State × List TmplHead :=
  (List.range r.ntmpl).foldl (fun acc t =>
    let q := acc.1.peekVa p r.tenant (r.ttab + 512 * t) 512
    (q.1, acc.2 ++ (q.2.map fun bs => tmplOfBits (ofBytes bs)).toList)) (s, [])

/-- Output names from a launch's scratchpad image, zero beyond it; none when the image cannot be read (R46, R294). -/
def State.imageNames (s : State) (p tenant data dsize : Nat) (outs : List (Nat × Nat)) : State × Option (List Quad) :=
  outs.foldl (fun acc o =>
    match acc.2 with
    | none => acc
    | some ns =>
      if o.1 + 16 ≤ dsize then
        let q := acc.1.peekVa p tenant (data + o.1) 16
        (q.1, q.2.map fun bs => ns ++ [BitVec.ofNat 128 (ofBytes bs)])
      else (acc.1, some (ns ++ [0]))) (s, some [])

/-- The output names of the templates of a launch record that can be read. -/
def State.launchNames (s : State) (p : Nat) (r : LaunchRec) (ts : List TmplHead) : State × List Quad :=
  ts.foldl (fun acc t =>
    let q := acc.1.imageNames p r.tenant r.data r.dsize t.outs
    (q.1, acc.2 ++ q.2.getD [])) (s, [])

/-- The template of a launch. -/
def TmplHead.tmpl (t : TmplHead) : Tmpl :=
  { entry := BitVec.ofNat 32 t.entry, dlvl := t.dlvl, fwd := t.fwd, subs := t.subs, outs := t.outs }

/-- A subscription's tensor has a valid descriptor, whose TSIZE its landing agrees with (R59, reason 0x08). -/
def State.subFits (s : State) (p tenant : Nat) (d : SubDecl) : Bool :=
  match s.desc p tenant d.tensor with
  | none => false
  | some x => d.strm || d.lsize = descTsize x

/-- An output name may be published (R55). -/
def State.outFits (s : State) (p tenant : Nat) (n : Quad) : Bool :=
  nameKind n = 0 && nameRes n = 0 && !reservedTensor (nameTensor n) && (s.desc p tenant (nameTensor n)).isSome

/-- Adjacent levels keep their domains in order (R36). -/
def domsRise : List Level → Bool
  | a :: b :: t => decide (a.dom ≤ b.dom) && domsRise (b :: t)
  | _ => true

def Region.inRange (r : Region) (n : Nat) : Bool := !r.v || (decide (r.sfirst < n) && decide (r.slast < n) && decide (r.sfirst ≤ r.slast))

/-- The first free launch identifier of a partition from i on, after 65,535 from 1. -/
def Part.freeLaunch (x : Part) : Nat → Nat → Nat
  | 0, i => i % 65535 + 1
  | n + 1, i => if x.launches.any fun l => l.1 = i % 65535 + 1 then x.freeLaunch n (i + 1) else i % 65535 + 1

/-- The refusal reasons that apply to a record whose templates have been read (Table 21·6). -/
def State.refusals (s : State) (p : Nat) (sup : Bool) (r : LaunchRec) (ts : List TmplHead) (names : List Quad) (maps : Bool) : List Nat :=
  let ls := r.used
  let qOk := fun (n : Nat) => s.handleOk (handle32 n) && handlePart (handle32 n) = p
  List.flatten [
    if r.ver ≠ 1 || !r.clean || !(ts.all (·.clean)) then [1] else [],
    if ls.any fun l => decide (l.scope < l.dom) then [2] else [],
    if !sup && ls.any fun l => l.prio = 7 then [3] else [],
    if !domsRise ls then [4] else [],
    if ls.any fun l => l.costart && decide ((s.domInstances p l.dom none).length < l.count) then [5] else [],
    if (ls.any fun l => l.count = 0 || l.saves = 0 || decide (l.quantum < 1024)) || r.clen = 0 || r.dsize % 64 ≠ 0 ||
        decide (Config.spadBytes < r.dsize) || ((ls.any fun l => l.prio = 7) && r.dsize ≠ 0) ||
        (ts.any fun t => decide (r.clen ≤ t.entry) || t.subs.any fun d => decide (10 < d.lsize) || d.count = 0) ||
        (r.lvls = 0 && (ls.any fun l => l.dom ≠ 0)) then [6] else [],
    if (ls.any fun l => decide (r.ntmpl ≤ l.tmpl)) || !r.rgn0.inRange r.ntmpl || !r.rgn1.inRange r.ntmpl ||
        (ts.any fun t => decide (r.lvls < t.dlvl)) then [7] else [],
    if (ts.any fun t => !(t.subs.all (s.subFits p r.tenant))) || !(names.all (s.outFits p r.tenant)) then [8] else [],
    if !maps then [9] else [],
    if !qOk r.cq || (ls.any fun l => l.nq ≠ 0 && !qOk l.nq) ||
        (ts.any fun t => (t.subs.any fun d => d.note ≠ 0) && ((ls[max 1 t.dlvl - 1]?).elim true fun l => l.nq = 0)) then [10] else [],
    if 0xFFFF ≤ (s.partAt p).launches.length then [11] else []]

/-! ## Level instances of a launch (R35, R39) -/

/-- The paths of the instances of the levels from the outermost down to level n, each a list of seven indices. -/
def pathsFrom (counts : List Nat) (n : Nat) : Nat → List (List Nat)
  | 0 => [[0, 0, 0, 0, 0, 0, 0]]
  | k + 1 =>
    (pathsFrom counts n k).flatMap fun path =>
      (List.range ((counts[n - 1 - k]?).getD 0)).map fun i => path.set (n - 1 - k) i

/-- The unplaced level instances of a launch. With LVLS 0 PATH is zero. -/
def levelInsts (id : Nat) (r : LaunchRec) : List LInst :=
  let ls := r.used
  let counts := ls.map (·.count)
  let n := ls.length
  (List.range n).flatMap fun k =>
    let level := n - k
    let l := (ls[level - 1]?).getD default
    ((pathsFrom counts n (k + 1)).zipIdx).map fun x =>
      { launch := id, level := level, path := if r.lvls = 0 then [0, 0, 0, 0, 0, 0, 0] else x.1, idx := x.2,
        dom := l.dom, no := 0 }

/-- A launch accepted under an identifier (R296). -/
def LaunchRec.launch (r : LaunchRec) (ts : List Tmpl) (tag : Nat) : Launch :=
  { kernel := r.kernel, tenant := r.tenant, lvls := r.lvls, code := r.code, clen := r.clen, dlen := r.dlen, dict := r.dict,
    data := r.data, dsize := r.dsize, cq := r.cq, rgn0 := r.rgn0, rgn1 := r.rgn1, tag := tag,
    levels := r.levels, tmpls := ts }

def State.acceptLaunch (s : State) (p : Nat) (sup : Bool) (r : LaunchRec) (ts : List Tmpl) (tag : Nat) : State :=
  let id := (s.partAt p).freeLaunch 65535 (s.choice 65535)
  ((s.chosen 65535).modPart p fun x =>
    { x with launches := Table.set x.launches id (r.launch ts tag), linsts := x.linsts ++ levelInsts id r,
             supLaunch := if sup && x.supLaunch = 0 then id else x.supLaunch }).complete r.cq 1 0 0 id tag

/-- A launch-queue entry taken (R295, R296); none while a unit under a lease holds back what the checks read (R338). A record
outside the partition's channels, or not aligned to 256 (R292, log entry 107), is refused before it is read: what names its
completion queue is not known then, so that its entry has no target (R438). -/
def State.takeLaunch (s : State) (p : Nat) (sup : Bool) (e : List Byte) : Option State :=
  let x := ofBytes e
  let pa := bitsAt x 0 52
  let tag := bitsAt x 64 64
  if !s.ownsRange p pa 256 1 || pa % 256 ≠ 0 then some (s.complete 0 2 9 0 0 tag)
  else if !s.channelsUp pa 256 1 then none
  else
    let r := s.readG64 pa 256
    match r.2 with
    | none => some r.1
    | some bs =>
      let l := launchOfBits (ofBytes bs)
      let m := r.1.launchMapped p l
      let ts := m.1.readTmpls p l
      let ns := ts.1.launchNames p l ts.2
      let bad := (if bitsAt x 52 12 ≠ 0 || x / 2 ^ 128 ≠ 0 then [1] else []) ++ ns.1.refusals p sup l ts.2 ns.2 m.2.1
      if m.2.2 then none
      else
        match bad with
        | [] => some (ns.1.acceptLaunch p sup l (ts.2.map (·.tmpl)) tag)
        | why :: _ => some (ns.1.complete l.cq 2 why 0 0 tag)

/-- The launch of a partition's Sienna agents: one level of the cluster domain at priority 7, with an instance on every
serviceable cluster (R315). What its tasks do is Sienna's work, which the model gives as steps of its own; the rest of its
record, which the spec does not give, is free (log entry 43). -/
def State.acceptAgents (s : State) (p : Nat) : State :=
  let id := (s.partAt p).freeLaunch 65535 (s.choice 65535)
  let free := fun n => freeHalf (s.freeCtr + 2 * n)
  let level : Level := { dom := 2, scope := 2, prio := 7, costart := false, hold := 0, flim := 0, tmpl := 0,
                         count := (s.clustersOf p).length, saves := 1, quantum := free 0 + 1024, nq := 0, csa := 4096 * free 1 }
  let l : Launch := { kernel := free 2, tenant := free 3 % 4096, lvls := 1, code := 2 * free 4, clen := free 5 + 1,
                      dlen := free 6 % 2 ^ 14, dict := 64 * free 7, data := 64 * free 8, dsize := 0, cq := 0, rgn0 := {},
                      rgn1 := {}, tag := free 9, levels := [level], tmpls := [] }
  { (s.chosen 65535).modPart p fun x => { x with
      agents := false
      launches := Table.set x.launches id l
      linsts := x.linsts ++ (s.clustersOf p).zipIdx.map fun q =>
        { launch := id, level := 1, path := [q.2, 0, 0, 0, 0, 0, 0], idx := q.2, dom := 2, no := q.1, ready := true,
          shares := [(q.1, 0)] } } with freeCtr := (s.chosen 65535).freeCtr + 20 }

/-- The launch queues of a partition that hold an entry: the supervisor's, or the ordinary ones (R296, R315). -/
def State.launchQueues (s : State) (p : Nat) (sup : Bool) : List Nat :=
  (if sup then [64] else List.range 64).filter fun i => (s.hqAt p i).en && decide (0 < (s.hqAt p i).count)

/-- A launch-queue entry is taken. Sienna's agents stand in the supervisor's queue before anything that the host enqueues
there (R315). -/
def execLaunchAccept (part : Nat) (sup : Bool) (s : State) : Host.Outcome State Fault Refusal :=
  let qs := s.launchQueues part sup
  if sup && (s.partAt part).agents then .next (s.acceptAgents part)
  else
    match qs[s.choice qs.length]? with
    | none => .next s
    | some i =>
      let r := (s.chosen qs.length).hqHead part i
      let s1 := (r.1.hqPop part i).drainPosts part i
      match r.2 with
      | none => .next s1
      | some e => .next ((s1.takeLaunch part sup e).getD s)

/-! ## Instantiation (R37, R39, R40, R298) -/

/-- Every serviceable core of a domain instance holds no region, or the launch's own (R39, R298), which a launch at priority 7
does not ask (R315). -/
def State.qualifies (s : State) (p : Nat) (l : Launch) (x : LInst) : Bool :=
  l.supervisory || (s.instCores p x).all fun w => match (s.coreAt w).region with
    | none => true
    | some r => r.1 = p && r.2.1 = x.launch

/-- The kernel's dictionary, loaded into a cluster's code store unless it stands there (R112); none when it does not fit
or cannot be read. -/
def State.loadDict (s : State) (p q kernel tenant va n : Nat) (auto : Bool) : Option State :=
  let c := s.clusterAt q
  if c.dicts.any fun d => d.kernel = kernel && d.part = p then some s
  else if Config.codeStoreBytes < (c.dicts.map fun d => 48 * d.entries.length).sum + 48 * n then none
  else
    let r := s.readVa p tenant va (48 * n) .dict
    match r.2 with
    | .error _ => none
    | .ok bs =>
      let es := (List.range n).map fun i => BitVec.ofNat 384 (ofBytes ((bs.drop (48 * i)).take 48))
      some (r.1.modCluster q fun c => { c with dicts := c.dicts ++ [{ kernel := kernel, part := p, entries := es, auto := auto }] })

/-- A core takes the launch's region, with its image, unless it holds it already (R37, R298). -/
def Core.takeRegion (c : Core) (p launch size : Nat) (image : List Byte) : Core :=
  if c.region.isSome then c
  else { c with region := some (p, launch, size), spad := c.spad.write 0 (image.take size),
                spadBad := badAfter c.spadBad 0 size }

/-- A registration of a template's subscription (R37, R66). -/
def subReg (p cluster : Nat) (x : LInst) (l : Launch) (t k : Nat) (d : SubDecl) : Reg :=
  { no := 0, tenant := l.tenant, tensor := d.tensor, colour := if d.cfix then d.colour else 0, cany := !d.cfix,
    gen := if d.gfix then d.gen else 0, gany := !d.gfix, kinds := subKinds d.note, ir := d.ir, jr := d.jr, kr := d.kr,
    cluster := cluster, part := p, launch := x.launch, level := x.level, linst := x.idx, tmpl := t, sub := k,
    count := d.count, contrib := d.contrib, task := none, stream := none }

/-- The templates whose subscriptions a level instance registers: the level's entry template, and every template whose
dispatch level is that level (R37). -/
def levelTmpls (l : Launch) (x : LInst) : List (Tmpl × Nat) :=
  l.tmpls.zipIdx.filter fun t => l.tmplLevel t.2 = x.level || (l.levelEntry x.level).elim false fun v => v.tmpl = t.2

/-- The registrations that one cluster scheduler of a level instance makes. -/
def levelRegs (p cluster : Nat) (l : Launch) (x : LInst) : List Reg :=
  (levelTmpls l x).flatMap fun t => t.1.subs.zipIdx.map fun d => subReg p cluster x l t.2 d.2 d.1

/-- The single instance of an entry template without subscriptions (R317). -/
def entryInstance (p : Nat) (l : Launch) (x : LInst) (order : Nat) : Option Entry :=
  (l.levelEntry x.level).bind fun v => (l.tmpls[v.tmpl]?).bind fun t =>
    if t.subs.isEmpty then
      some { launch := x.launch, part := p, tmpl := v.tmpl, colour := 0, gen := 0, i := 0, j := 0, k := 0, sat := 0xFF,
             order := some order, level := x.level, linst := x.idx, sole := true }
    else none

/-- The output names of a level instance's templates, taken from the scratchpad image (R46); none when it cannot be read. -/
def State.levelOuts (s : State) (p : Nat) (l : Launch) (x : LInst) : State × Option (List (Nat × List Quad)) :=
  (levelTmpls l x).foldl (fun acc t =>
    match acc.2 with
    | none => acc
    | some os =>
      let r := acc.1.imageNames p l.tenant l.data l.dsize t.1.outs
      (r.1, r.2.map fun ns => os ++ [(t.2, ns)])) (s, some [])

/-- The kernel's dictionary in the code store of every cluster of some; none while one has not the room (R112). -/
def State.loadDicts (s : State) (p : Nat) (l : Launch) (qs : List Nat) : Option State :=
  qs.foldl (fun acc q => acc.bind fun s => s.loadDict p q l.kernel l.tenant l.dict (l.dlen + 1) true) (some s)

/-- A level instance takes the launch's region on every core of its domain instance (R37, R298); none while the image cannot
be read. -/
def State.takeRegions (s : State) (p : Nat) (l : Launch) (x : LInst) : Option State :=
  if l.supervisory then some s
  else
    let im := if l.dsize = 0 then (s, some []) else s.peekVa p l.tenant l.data l.dsize
    im.2.map fun image =>
      (im.1.instCores p x).foldl (fun s w => s.modCore w fun c => c.takeRegion p x.launch l.dsize image) im.1

/-- A level instance of a partition replaced. -/
def State.putLinst (s : State) (p : Nat) (x y : LInst) : State :=
  s.modPart p fun z => { z with linsts := z.linsts.map fun o => if o = x then y else o }

/-- The clusters of a domain instance take their shares, each with its own staging lines (R318): the code, the output names and
the region stand there; none while anything that it needs is short. -/
def State.settleInst (s : State) (p : Nat) (l : Launch) (x : LInst) (no : Nat) : Option (State × LInst) :=
  let x0 := { x with no := no }
  let qs := s.instClusters p x0
  if qs.isEmpty || !s.qualifies p l x0 || !(qs.all s.stageRoom) then none
  else
    (s.loadDicts p l qs).bind fun s1 =>
      let os := s1.levelOuts p l x0
      os.2.bind fun outs =>
        let y := { x0 with ready := true, outs := outs, shares := qs.map fun q => (q, (s.clusterAt q).lines) }
        (os.1.takeRegions p l y).map fun s2 => (s2, y)

/-- One level instance placed on a domain instance and instantiated; none while anything that it needs is short. -/
def State.instantiate (s : State) (p : Nat) (l : Launch) (x : LInst) (no : Nat) : Option State :=
  (s.settleInst p l x no).bind fun r =>
    let y := r.2
    let s1 := (y.clusters.flatMap fun q => levelRegs p q l y).foldl State.register (r.1.putLinst p x y)
    match entryInstance p l y (s1.nextOrder p x.launch) with
    | none => some s1
    | some e =>
      let q := (s1.homeCluster e).getD 0
      if Config.mstoreEntries ≤ (s1.clusterAt q).used then none else some (s1.putEntry q e)

/-- Domain instances in the order in which a level instance tries them, from the k-th on: any may be the first (R39). -/
def rotated (nos : List Nat) (k : Nat) : List Nat := nos.drop k ++ nos.take k

/-- The first domain instance of a list on which a level instance can stand. -/
def State.placeOne (s : State) (p : Nat) (l : Launch) (x : LInst) (nos : List Nat) : Option (State × Nat) :=
  nos.findSome? fun no => (s.instantiate p l x no).map fun s => (s, no)

/-- Co-start: every instance of the level within its enclosing instance stands on an instance of its own, or none does
(R40). -/
def State.placeAll (s : State) (p : Nat) (l : Launch) (nos : List Nat) : List LInst → Option State
  | [] => some s
  | x :: rest =>
    match (s.chosen nos.length).placeOne p l x (rotated nos (s.choice nos.length)) with
    | none => none
    | some r => r.1.placeAll p l (nos.erase r.2) rest

def execLevelInstantiate (part launch level inst : Nat) (s : State) : Host.Outcome State Fault Refusal :=
  match (s.partAt part).linst launch level inst, s.launchOf part launch with
  | some x, some l =>
    let up := (s.partAt part).enclosing x
    if x.ready || l.ended || (decide (level < l.top) && up.elim true fun u => !u.ready) then .next s
    else
      let nos := s.domInstances part x.dom up
      match l.levelEntry level with
      | none => .next s
      | some v =>
        if v.costart then
          let all := (s.partAt part).linsts.filter fun o =>
            o.launch = launch && o.level = level && !o.ready && o.path.drop level = x.path.drop level
          .next ((s.placeAll part l nos all).getD s)
        else
          match (s.chosen nos.length).placeOne part l x (rotated nos (s.choice nos.length)) with
          | none => .next s
          | some r => .next r.1
  | _, _ => .next s

/-! ## The end of a launch (R297, R298, R316) -/

/-- Records of a launch, off cores and running. -/
def State.launchRecs (s : State) (p launch : Nat) : List Rec :=
  (s.recs.filter fun r => r.2.part = p && r.2.launch = launch).map (·.2)
def State.launchRunners (s : State) (p launch : Nat) : List Nat :=
  (s.cur :: s.others.keys).dedup.filter fun w =>
    (s.coreAt w).busy && (s.coreAt w).task.part = p && (s.coreAt w).task.launch = launch

/-- The matching-store entries, spilled arrivals, held deliveries and registrations of a launch released in every cluster
(R316). -/
def State.releaseLaunch (s : State) (p launch : Nat) (count : Bool) : State :=
  let regs := s.clusters.flatMap fun c => c.2.regs.filter fun g => g.part = p && g.launch = launch
  let s1 := s.unregisterAll regs
  s1.clusters.foldl (fun s e =>
    let mine := fun (x : Entry) => x.part = p && x.launch = launch
    let n := (e.2.mstore.filter mine).length
    let spilt := (e.2.spilled.filter fun x => x.1.part = p && x.1.launch = launch).length
    let s2 := s.modCluster e.1 fun c =>
      { c with mstore := c.mstore.filter fun x => !mine x
               spilled := c.spilled.filter fun x => !(x.1.part = p && x.1.launch = launch)
               closures := c.closures.filter fun x => !(x.part = p && x.launch = launch)
               drainQ := c.drainQ.filter fun x => !mine x
               orphans := if count then c.orphans + n else c.orphans }
    s2.popSpill e.2.spillQ spilt) s1

/-- PART.END (R316). -/
def State.endLaunch (s : State) (p launch : Nat) : State :=
  match s.launchOf p launch with
  | none => s
  | some _ => (s.modLaunch p launch fun l => { l with ended := true }).releaseLaunch p launch true

def execPartEnd (part : Nat) (v : Word) (s : State) : Host.Outcome State Fault Refusal :=
  .next (s.endLaunch part (field v 0 16))

/-- A checkpoint hold ends (R383). -/
def State.resumeLaunch (s : State) (p launch : Nat) : State :=
  s.modLaunch p launch fun l => { l with hold := none, reached := false }

def execPartResume (part : Nat) (v : Word) (s : State) : Host.Outcome State Fault Refusal :=
  .next (s.resumeLaunch part (field v 0 16))

/-- A launch may retire (R297). -/
def State.mayRetire (s : State) (p launch : Nat) (l : Launch) : Bool :=
  (s.launchRecs p launch).isEmpty && (s.launchRunners p launch).isEmpty &&
    (l.ended || ((l.rgn0.v || l.rgn1.v) && (!l.rgn0.v || l.rgn0.drained) && (!l.rgn1.v || l.rgn1.drained)))

/-- A core after a launch that held its region, or filled its weight buffer, is gone: a later launch of that number is
another (R275). -/
def Core.freeRegion (p launch : Nat) (c : Core) : Core :=
  { c with
    region := match c.region with
      | some r => if r.1 = p && r.2.1 = launch then none else some r
      | none => none
    wOwner := if c.wOwner = p * 65536 + launch then 0 else c.wOwner }

/-- A code store without the dictionary loaded for a kernel. -/
def Cluster.dropAuto (p kernel : Nat) (c : Cluster) : Cluster :=
  { c with dicts := c.dicts.filter fun d => !d.auto || !(d.part = p && d.kernel = kernel) }

/-- The Celadon slots that a launch owned return to EMPTY (R349, R373). -/
def Cluster.dropSlots (p launch : Nat) (c : Cluster) : Cluster :=
  { c with fab := c.fab.map fun f => if f.part = p && f.launch = launch then {} else f }

/-- A launch leaves: its level instances, registrations, regions, Celadon slots and the dictionary loaded for it. -/
def State.retireLaunch (s : State) (p launch : Nat) (l : Launch) : State :=
  let s1 := s.releaseLaunch p launch false
  let others := (s1.partAt p).launches.any fun x => x.1 ≠ launch && x.2.kernel = l.kernel
  let s2 : State := { s1 with core := s1.core.freeRegion p launch, others := s1.others.map fun e => (e.1, e.2.freeRegion p launch) }
  let s3 : State := { s2 with clusters := s2.clusters.map fun e =>
    (e.1, (if others then e.2 else e.2.dropAuto p l.kernel).dropSlots p launch) }
  (s3.modPart p fun x =>
    { x with launches := Table.drop x.launches launch, linsts := x.linsts.filter fun o => o.launch ≠ launch }).complete
      l.cq 4 0 0 launch l.tag

def execLaunchRetire (part launch : Nat) (s : State) : Host.Outcome State Fault Refusal :=
  match s.launchOf part launch with
  | none => .next s
  | some l => if s.mayRetire part launch l then .next (s.retireLaunch part launch l) else .next s

/-! ## A domain instance lost for good (R41) -/

/-- A registration belongs to a level instance, or to a task of its shares. -/
def State.regOf (s : State) (p : Nat) (x : LInst) (g : Reg) : Bool :=
  g.part = p && g.launch = x.launch &&
    match g.task with
    | none => g.level = x.level && g.linst = x.idx
    | some a => (s.anyRec a).elim false (s.inShare x)

/-- A delivery, or a marker, that a scheduler holds for a registration. -/
structure Waiting where
  reg  : Reg
  pkt  : Packet
  from_ : Endpoint
  mark : Bool
  deriving Repr

/-- What a cluster holds for the registrations of a level instance: copies, markers and spilled arrivals. -/
def State.waitingFor (s : State) (p q : Nat) (x : LInst) : List Waiting :=
  let c := s.clusterAt q
  let mine := c.regs.filter (s.regOf p x)
  let of := fun (mark : Bool) (y : Packet × Endpoint) =>
    (mine.filter fun g => y.1.copies.elim false fun l => l.contains g.no).map fun g =>
      ({ reg := g, pkt := y.1, from_ := y.2, mark := mark } : Waiting)
  c.heldIn.flatMap (of false) ++ c.markers.flatMap (of true) ++
    (c.spilled.filter fun y => s.regOf p x y.1).map fun y =>
      { reg := y.1, pkt := y.2, from_ := y.2.origin, mark := nameKind y.2.name = 1 }

/-- What moves from the clusters of a level instance when its shares change. -/
structure Moving where
  entries  : List Entry
  closures : List Sink
  drains   : List Entry
  waits    : List Waiting
  held     : List Reg
  recs     : List Nat
  runs     : List Nat
  deriving Repr

/-- The running tasks of a level instance with their shares in a cluster. -/
def State.runnersOf (s : State) (p q : Nat) (x : LInst) : List Nat :=
  (s.cur :: s.others.keys).dedup.filter fun w =>
    (s.coreAt w).busy && (s.coreAt w).task.part = p && (s.coreAt w).task.share = q && s.inShare x (s.coreAt w).task

/-- What a level instance has in a cluster. -/
def State.movingOf (s : State) (p q : Nat) (x : LInst) : Moving :=
  let c := s.clusterAt q
  let mine := fun (e : Entry) => e.part = p && e.isIn x
  { entries := c.mstore.filter mine, drains := c.drainQ.filter mine
    closures := c.closures.filter fun k => k.part = p && k.launch = x.launch &&
      ((s.launchOf p x.launch).elim false fun l => (levelTmpls l x).any fun t => t.2 = k.tmpl)
    waits := s.waitingFor p q x
    held := c.regs.filter fun g => g.task.isSome && s.regOf p x g
    runs := s.runnersOf p q x
    recs := (s.recs.filter fun r => r.2.part = p && r.2.share = q && s.inShare x r.2).map (·.1) }

/-- A cluster without what a level instance had in it. -/
def State.stripShare (s : State) (p q : Nat) (x : LInst) (m : Moving) : State :=
  let c0 := s.clusterAt q
  let gs := (c0.regs.filter (s.regOf p x)).map (·.no)
  let copies := fun (l : List (Packet × Endpoint)) => l.filterMap fun y =>
    match y.1.copies with
    | none => some y
    | some ns =>
      let rest := ns.filter fun n => !gs.contains n
      if rest.isEmpty then none else some ({ y.1 with copies := some rest }, y.2)
  let s1 := s.modCluster q fun c => { c with
    mstore := c.mstore.filter fun e => !m.entries.contains e
    drainQ := c.drainQ.filter fun e => !m.drains.contains e
    closures := c.closures.filter fun k => !m.closures.contains k
    heldIn := copies c.heldIn
    markers := copies c.markers
    spilled := c.spilled.filter fun y => !gs.contains y.1.no
    ready := c.ready.filter fun a => !m.recs.contains a }
  s1.popSpill c0.spillQ (c0.spilled.filter fun y => gs.contains y.1.no).length

/-- The registration of a cluster that does what another did before. -/
def Cluster.regLike (c : Cluster) (g : Reg) : Option Reg :=
  c.regs.find? fun h => h.part = g.part && h.launch = g.launch && h.level = g.level && h.linst = g.linst && h.tmpl = g.tmpl &&
    h.sub = g.sub && h.task = g.task && h.stream = g.stream

/-- What a scheduler held for a registration goes on at another cluster. -/
def State.landWaiting (s : State) (y : LInst) (q : Nat) (w : Waiting) : State :=
  let there := match w.reg.task with
    | some a => (s.anyRec a).elim q (·.share)
    | none =>
      ((s.regTmpl w.reg).bind fun t => (t.subs[w.reg.sub]?).map fun d =>
        homeAmong (freshEntry w.reg d w.pkt.name t.subs.length).identity y.clusters).getD q
  match (s.clusterAt there).regLike w.reg with
  | none => s
  | some g =>
    let k := ({ w.pkt with copies := some [g.no] }, w.from_)
    s.modCluster there fun c => if w.mark then { c with markers := c.markers ++ [k] } else { c with heldIn := c.heldIn ++ [k] }

/-- A place in the window of a core of one cluster, in another cluster: at the core of the same rank (R205, log entry 111). -/
def State.spotAt (s : State) (q t : Nat) (p : Spot) : Spot :=
  match p with
  | .win v o => if clusterOf v = q then .win ((s.rankCore t (s.coreAt v).rank).getD v) o else p
  | p => p

/-- A running task of a level instance whose share is in another cluster from now on: accesses held for a core of the cluster
that is lost are performed in the other (R205). -/
def State.moveRunner (s : State) (q t w : Nat) : State :=
  s.modCore w fun c => { c with
    task := { c.task with share := t }
    eng := { c.eng with acc := c.eng.acc.map fun a => { a with parts := a.parts.map fun x => (s.spotAt q t x.1, x.2) } } }

/-- What a level instance had in a cluster stands in those that its new form has: each instance in its own scheduler, each
record in a share there, the registrations of tasks made again, and what waited for them waiting there (R41). -/
def State.landShare (s : State) (p q : Nat) (x y : LInst) (m : Moving) : State :=
  let there := fun (a : Nat) => homeAmong [a] y.clusters
  let s1 := m.entries.foldl (fun s e => s.modCluster (homeAmong e.identity y.clusters) fun c => { c with mstore := c.mstore ++ [e] }) s
  let s2 := m.drains.foldl (fun s e => s.modCluster (homeAmong e.identity y.clusters) fun c => { c with drainQ := c.drainQ ++ [e] }) s1
  let s3 := m.closures.foldl (fun s k =>
    s.modCluster (homeAmong [p, k.launch, k.tmpl, k.colour, k.gen, k.i, k.j, k.k, x.level, x.idx] y.clusters) fun c =>
      { c with closures := c.closures ++ [k] }) s2
  let s4 := m.recs.foldl (fun s a =>
    match s.recAt a with
    | none => s
    | some r =>
      let t := s.setRec { r with share := there a }
      if stateWaits r.st then t.modCluster (there a) fun c => { c with ready := c.ready ++ [a] } else t) s3
  let s4r := m.runs.foldl (fun s w => s.moveRunner q (there (s.coreAt w).task.addr) w) s4
  let s5 := m.held.foldl (fun s g => s.register { g with cluster := there (g.task.getD 0) }) (s4r.unregisterAll m.held)
  m.waits.foldl (fun s w => s.landWaiting y q w) s5

/-- The matching stores of an instance's new clusters have room for what comes from others (R299). -/
def State.storesFit (s : State) (x y : LInst) (ms : List (Nat × Moving)) : Bool :=
  y.clusters.dedup.all fun q => decide ((s.clusterAt q).used + ((ms.flatMap fun m => m.2.entries).filter fun e =>
    homeAmong e.identity y.clusters = q).length + (ms.flatMap fun m => m.2.held).length ≤ Config.mstoreEntries || x.clusters.contains q)

/-- The shares of a level instance change: clusters that it leaves give up what they have, clusters that join register its
subscriptions, and everything stands in the new ones. None while a matching store has not the room. -/
def State.rehome (s : State) (p : Nat) (l : Launch) (x y : LInst) : Option State :=
  let gone := x.clusters.dedup.filter fun q => !y.clusters.contains q
  let new := y.clusters.dedup.filter fun q => !x.clusters.contains q
  let ms := gone.map fun q => (q, s.movingOf p q x)
  if !s.storesFit x y ms then none
  else
    let s1 := ms.foldl (fun s m => s.stripShare p m.1 x m.2) s
    let level := gone.flatMap fun q => (s1.clusterAt q).regs.filter fun g => g.task.isNone && s1.regOf p x g
    let s2 := (s1.unregisterAll level).putLinst p x y
    let s3 := (new.flatMap fun q => levelRegs p q l y).foldl State.register s2
    some (ms.foldl (fun s m => s.landShare p m.1 x y m.2) s3)

/-- The tasks of a level instance are FAULTED for want of capacity (R41); one that waited for a colour waits no longer. -/
def State.noCapacityTasks (s : State) (p : Nat) (x : LInst) : State :=
  (s.recs.filter fun r => r.2.part = p && r.2.st ≠ 6 && s.inShare x r.2).foldl (fun s r =>
    ((s.modCluster r.2.share fun c => { c with ready := c.ready.filter fun a => a ≠ r.1 }).modPart p fun z =>
      { z with waiters := z.waiters.filter fun a => a ≠ r.1 }).setRec
        { r.2 with st := 6, cause := noCapacity, waitArg := 0, spawn := none }) s

/-- A level instance with its share in one cluster moved to another. -/
def LInst.moved (x : LInst) (q t : Nat) : LInst :=
  { x with shares := x.shares.map fun e => if e.1 = q then (t, ((x.shares.find? fun d => d.1 = t).map (·.2)).getD e.2) else e }

/-- A level instance that has lost a cluster, but not its last core, keeps its domain instance: what it had there goes to its
lowest-numbered serviceable cluster, which the spec leaves open (log entry 111). -/
def State.leaveCluster (s : State) (p : Nat) (l : Launch) (x : LInst) : State :=
  match x.clusters.find? (fun q => !s.serviceable q), (s.instClusters p x).head? with
  | some q, some t => (s.rehome p l x (x.moved q t)).getD s
  | _, _ => s

/-- A level instance whose domain instance has lost its last serviceable core for good goes to another one of the domain, or,
when the partition has none, its tasks are FAULTED (R41); while others hold the instances that there are, it waits. -/
def execLevelReplace (part launch level inst : Nat) (s : State) : Host.Outcome State Fault Refusal :=
  match (s.partAt part).linst launch level inst, s.launchOf part launch with
  | some x, some l =>
    if !x.ready then .next s
    else if !(s.instCores part x).isEmpty then .next (s.leaveCluster part l x)
    else
      let all := (s.domInstances part x.dom none).filter fun no => no ≠ x.no
      let nos := all.filter fun no => s.qualifies part l { x with no := no }
      match nos[s.choice nos.length]? with
      | none => .next (if all.isEmpty then s.noCapacityTasks part x else s)
      | some no =>
        .next ((((s.chosen nos.length).settleInst part l x no).bind fun r => r.1.rehome part l x r.2).getD s)
  | _, _ => .next s

end Sys2Proof.Machine
end

