-- ==== Sys2Proof/Machine/Tasks.lean ====
section
/-! DEFINITION. Tasks: firing, dispatch to a core and the loading of their state, quantum expiry, pre-emption and aging
(R25–R28, R33, R38, R50, R51, R53, R72, R128, R217, R261, R275, R301–R303, R377). -/

namespace Sys2Proof.Machine

/-! ## Firing (R25, R33) -/

/-- A record address is in use (R441). -/
def State.recLive (s : State) (a : Nat) : Bool := (s.recAt a).isSome || (s.runnerOf a).isSome

/-- A record address of a cluster (R441). -/
def recAddress (q i : Nat) : Nat := q * 2 ^ 22 + i * 2 ^ 6

/-- The first free record index of a cluster from i on, after 65,535 from 0; none while all are live. -/
def State.freeRec (s : State) (q : Nat) : Nat → Nat → Option Nat
  | 0, _ => none
  | n + 1, i => if s.recLive (recAddress q (i % 65536)) then s.freeRec q n (i + 1) else some (i % 65536)

/-- The save areas of a level's pool that are free (R25). -/
def Level.freeAreas (v : Level) : List Nat := (List.range v.saves).filter fun i => !v.used.contains i

/-- No instance of the level was satisfied earlier and has still to fire (R25). -/
def State.firstInOrder (s : State) (l : Launch) (e : Entry) : Bool :=
  s.clusters.all fun c => c.2.mstore.all fun x =>
    !(x.part = e.part && x.launch = e.launch && l.tmplLevel x.tmpl = l.tmplLevel e.tmpl && decide (x.order.getD (e.order.getD 0) < e.order.getD 0))

/-- LHALF of an instance's landings (R72). -/
def halves (ls : List Landing) : BitVec 8 := ls.foldl (fun h l => setSat h l.k l.half) 0

/-- The stream registers of a task before its first dispatch (R261). -/
def firstStreams (xs : List (Nat × Stream)) : List Stream :=
  (List.range 8).map fun w => ((xs.find? fun x => x.1 = w).map (·.2)).getD {}

/-- The record of a fired instance (Table 3·1). -/
def firedRec (q addr area : Nat) (l : Launch) (t : Tmpl) (v : Level) (x : LInst) (e : Entry) : Rec :=
  { st := 1, prio := v.prio, pc := t.entry, kernel := l.kernel, tmpl := e.tmpl, lvls := l.lvls, dlvl := t.dlvl,
    sat := 0xFF, lhalf := halves e.lands, launch := e.launch, tenant := l.tenant, colour := e.colour, gen := e.gen,
    i := e.i, j := e.j, k := e.k, path := x.path, csa := v.csa + Config.saveBytes * area, addr := addr, part := e.part,
    share := q, level := x.level, linst := x.idx, live := e.lands, held := firstStreams e.streams }

/-- The scheduler in whose share a fired record stands: the one that fired it, if the instance of its dispatch level has a share
there, else one of that instance's; none while that instance does not exist yet. -/
def State.shareOf (s : State) (q : Nat) (r : Rec) : Option Nat :=
  (s.instOf r).map fun d => if d.clusters.contains q then q else homeAmong [r.addr] d.clusters

/-- A satisfied instance fires: its entry is freed and its record is READY (R33). -/
def State.fire (s : State) (q : Nat) (e : Entry) : State :=
  match s.launchOf e.part e.launch with
  | none => s
  | some l =>
    let level := l.tmplLevel e.tmpl
    match l.levelEntry level, l.tmpls[e.tmpl]?, (s.partAt e.part).linst e.launch e.level e.linst with
    | some v, some t, some x =>
      let free := v.freeAreas
      let s0 := s.chosen free.length
      match free[s.choice free.length]?, s0.freeRec q 65536 (s0.choice 65536) with
      | some area, some no =>
        if l.ended || l.hold.isSome || e.sat ≠ 0xFF || !s.firstInOrder l e then s
        else
          let r := firedRec q (recAddress q no) area l t v x e
          match s.shareOf q r with
          | none => s
          | some share =>
            let s1 := ((s0.chosen 65536).dropEntry q e).modLaunch e.part e.launch fun l =>
              { l with levels := l.levels.modify (level - 1) fun v => { v with used := area :: v.used } }
            s1.ready { r with share := share } 1 false
      | _, _ => s
    | _, _, _ => s

def execInstanceFire (cluster idx : Nat) (s : State) : Host.Outcome State Fault Refusal :=
  match (s.clusterAt cluster).mstore[idx]? with
  | none => .next s
  | some e => .next (s.fire cluster e)

/-! ## Choosing a record (R38, R51, R301) -/

/-- The first task of the partition supervisor goes to the core that SUPV names (R315). -/
def State.supvFits (s : State) (w : Nat) (r : Rec) : Bool :=
  let p := s.partAt r.part
  !(p.supLaunch = r.launch && !p.supRun) || w = p.supv

/-- A core may run a task of a record: it lies in the domain instance of the record's dispatch level, or with LVLS 0 anywhere in
the partition (R38), and holds the launch's region, which a launch at priority 7 does not ask (R301, R315). -/
def State.mayRun (s : State) (w : Nat) (r : Rec) : Bool :=
  match s.launchOf r.part r.launch, s.instOf r with
  | some l, some x =>
    l.hold.isNone && s.clusterPart (clusterOf w) = r.part && (r.lvls = 0 || x.holds (s.placeOfCore w)) &&
      (l.supervisory || (s.coreAt w).region.elim false fun g => g.1 = r.part && g.2.1 = r.launch) &&
      s.supvFits w r
  | _, _ => false

/-- The first record of highest priority among those of a queue that a core may run. -/
def State.bestOf (s : State) (w : Nat) (queue : List Nat) : Option Rec :=
  queue.foldl (fun best a =>
    match s.recAt a with
    | none => best
    | some r =>
      if !s.mayRun w r then best
      else
        match best with
        | none => some r
        | some b => if b.prio < r.prio then some r else best) none

/-- The records of highest priority that other clusters' shares offer a core: one of a cluster. -/
def State.elsewhere (s : State) (w : Nat) : List Rec :=
  let best := s.clusters.filterMap fun c => if c.1 = clusterOf w then none else s.bestOf w c.2.ready
  best.filter fun r => best.all fun b => decide (b.prio ≤ r.prio)

/-- The records that an idle core may be given: of its own cluster's shares, else of another cluster's (R51). -/
def State.offers (s : State) (w : Nat) : List Rec :=
  match s.bestOf w (s.clusterAt (clusterOf w)).ready with
  | some r => [r]
  | none => s.elsewhere w

/-- The record that an idle core is given: across clusters, which of equal priority is unspecified (R301). -/
def State.pick (s : State) (w : Nat) : Option Rec := (s.offers w)[s.choice (s.offers w).length]?

/-- The core takes dispatches: serviceable, in service, and its field running (R303, R436). -/
def State.coreOpen (s : State) (w : Nat) : Bool :=
  s.coreServiceable w && (s.coreAt w).lease = .service && !s.wafer.stopped.contains (fieldOf (clusterOf w))

/-! ## Loading a task (R26, R72, R261, R275, R389) -/

/-- Every register as a task's first dispatch sets it (R261). -/
def Regs.fresh (names : List (Nat × Quad)) : Regs :=
  { Regs.reset with n := Vector.ofFn fun i => ((names.find? fun x => x.1 = i.val).map (·.2)).getD 0 }

/-- The names of the tiles in the landings of a task. -/
def Rec.landingNames (r : Rec) : List (Nat × Quad) := (r.live.filter (·.full)).map fun l => (l.k, l.name)

/-- Staged landings moved into their buffers (R72). -/
def Core.moveAll (c : Core) (t : Tmpl) : Core :=
  { c.task.live.foldl (fun c l => match t.subs[l.k]? with
      | some d => if l.full then c.spadPut (64 * d.land) l.visible else c
      | none => c) c with
    task := { c.task with live := c.task.live.map fun l => { l with full := false } } }

/-- The launch whose weights a core holds, as one number. -/
def Rec.owner (r : Rec) : Nat := r.part * 65536 + r.launch

/-- The core with a task's record, before its registers. -/
def Core.seat (c : Core) (r : Rec) : Core :=
  { c.idle with busy := true, task := r, wOwner := r.owner,
                wbuf := if c.wOwner = r.owner then c.wbuf else [], wbufBad := if c.wOwner = r.owner then c.wbufBad else [] }

/-- The core with the registers of a first dispatch. -/
def Core.firstLoad (c : Core) (r : Rec) : Core :=
  let g := Regs.fresh r.landingNames
  { c with live := g, z := Vector.replicate 8 0, lcs := 0, w := Vector.ofFn fun i => (r.held[i.val]?).getD {} }

/-- A reload that fails: the record is FAULTED with CTXV kept, and a message is posted (R376, R384). -/
def State.reloadFault (s : State) (r : Rec) (w : Nat) (f : XFault) : State :=
  let arg := f.arg r.csa
  (s.setRec { r with st := 6, cause := f.cause, waitArg := arg, fcnt := min 255 (r.fcnt + 1) }).message r.part
    { type := 1, cause := f.cause, launch := r.launch, core := w, addr := arg, rec_ := r.addr }

/-- A record leaves its queue for a core. -/
def State.unqueue (s : State) (r : Rec) : State :=
  (s.modCluster r.share fun c => { c with ready := c.ready.filter fun a => a ≠ r.addr }).dropRec r.addr

/-- A task dispatched to the current core (R27, R301). -/
def State.dispatch (s : State) (r0 : Rec) : State :=
  let r := { r0 with st := 2, prio := s.levelPrio r0 }
  let s1 := (s.unqueue r0).modPart r.part fun p => if p.supLaunch = r.launch then { p with supRun := true } else p
  match s.tmplOf r with
  | none => s
  | some t =>
    if !r.ctxv then s1.onCore fun c => ((c.seat r).firstLoad r).moveAll t
    else
      let q := s1.readVa r.part r.tenant r.csa Config.saveBytes .load
      match q.2 with
      | .error f => if f.cause = heldBack || !s.msgOpen r.part then s else q.1.reloadFault { r0 with prio := s.levelPrio r0 } s.cur f
      | .ok image => q.1.onCore fun c => ((c.seat r).reload r image).moveAll t

def execTaskDispatch (core : Nat) (s : State) : Host.Outcome State Fault Refusal :=
  if (s.coreAt core).busy || !s.coreOpen core then .next s
  else
    match s.pick core with
    | none => .next s
    | some r => .next (((s.chosen (s.offers core).length).focus core).dispatch r)

/-! ## Leaving the core (R28, R128, R153, R217, R302, R303) -/

/-- The quantum of the running task has run out (R302). -/
def State.quantumOut (s : State) : Bool :=
  match s.levelOf s.core.task with
  | some l => s.core.busy && decide (l.quantum ≤ s.core.elapsed)
  | none => false

/-- The bundle waits in place: a part of it does, and none of its others can issue now (R126, R128). -/
def Latch.standing (b : Latch) : Bool := !b.inPlace.isEmpty && (b.todo.all fun k => b.waits.contains k) && b.fault.isNone

/-- The core stands between bundles, or at a bundle that waits in place (R128); its oldest bundle is in focus. -/
def State.atBoundary (s : State) : Bool := !s.core.lat.on || (s.core.older.isEmpty && s.core.lat.standing)

/-- The unanswered full-empty requests of the current core are withdrawn (R217). -/
def State.withdrawFe (s : State) : State :=
  { s.onEng (fun e => { e with acc := e.acc.filter fun a => !(a.deferred && !a.asked) }) with
    hbm := { s.hbm with defer := (s.hbm.defer.map fun d => (d.1, d.2.filter fun x => x.1 ≠ s.cur)).filter fun d => !d.2.isEmpty } }

/-- A full-empty request of the current core has been answered: its instruction completes first (R217). -/
def State.feAnswered (s : State) : Bool := s.core.eng.acc.any fun a => a.deferred && a.asked

/-- The C part of the bundle in focus, while it has not issued and its guard is true. -/
def State.cHeld (s : State) : Option Instr :=
  if !s.core.lat.on || !s.core.lat.todo.contains .c then none
  else
    match bundlePart s.core.lat.bits .c with
    | .error _ => none
    | .ok i => if i.uses.elim false fun u => s.core.guardTrue .c u.g then some i else none

/-- The C part of the bundle in focus is a FRAME.ALLOC that waits (R27). -/
def State.frameWaits (s : State) : Bool :=
  match s.cHeld with
  | some (.frameAlloc _) => true
  | _ => false

/-- The task completes in this cycle, or consumes an end-of-run marker: no suspension is taken (R28). -/
def State.completing (s : State) : Bool :=
  match s.cHeld with
  | some (.halt _) => s.mayHalt
  | some (.wtst f) => !(s.core.w.get f.w).buf.isEmpty || (s.core.w.get f.w).marker
  | _ => false

/-- The bundle is a YIELD's, whose own write-back is the one made when quantum expiry falls on it (R159). -/
def State.yielding (s : State) : Bool :=
  match s.cHeld with
  | some (.yield _) => true
  | _ => false

/-- An ABORT or a REL of the current core that waits at the fabric is withdrawn (R374). -/
def State.withdrawClose (s : State) : State :=
  s.modCluster (clusterOf s.cur) fun c =>
    { c with fab := c.fab.map fun f => if f.closing = some s.cur then { f with closing := none } else f }

/-- A suspension of a core when it may be taken (R128), with its oldest bundle in focus. A deferred request and an LC.CTX
that wait are withdrawn with it (R217, R374); one that has been answered completes first. -/
def State.suspendIf (s : State) (leave : State → State) : State :=
  let s1 := s.front
  let s2 := s1.withdrawFe
  if !s1.core.busy || !s1.atBoundary || s1.feAnswered || s1.completing || !s2.settled then s else leave s2.withdrawClose

def execQuantumExpiry (core : Nat) (s : State) : Host.Outcome State Fault Refusal :=
  let s1 := s.focus core
  if !s1.quantumOut || s1.front.yielding then .next s
  else
    let t := s1.suspendIf fun s => if s.frameWaits then s.suspendHere 3 4 false else s.suspendHere 5 1 false
    .next (if t = s1 then s else t)

/-- The scheduler wants a pre-emption (R303): a priority-7 record of a share stands READY, no core of its domain
instance is idle, and the current core runs the lowest priority, and among equals the longest, of the share's cluster. -/
def State.schedulerWants (s : State) (w : Nat) : Bool :=
  let q := clusterOf w
  let c := s.coreAt w
  let running := ((s.cur :: s.others.keys).dedup.filter fun x => clusterOf x = q && (s.coreAt x).busy).map fun x =>
    ((s.coreAt x).task.prio, (s.coreAt x).elapsed)
  decide (c.task.prio < 7) && c.busy &&
    (running.all fun x => decide (c.task.prio < x.1) || (c.task.prio = x.1 && decide (x.2 ≤ c.elapsed))) &&
    (s.clusterAt q).ready.any fun a => (s.recAt a).elim false fun r =>
      r.prio = 7 && r.st = 1 && s.supvFits w r && (s.instOf r).elim false fun x =>
        (if r.lvls = 0 then (s.clustersOf r.part).all fun c => ((s.placesIn c).filterMap s.coreOfPlace).all fun v => (s.coreAt v).busy
           else (s.instCores r.part x).all fun v => (s.coreAt v).busy)

def execPreEmption (core : Nat) (s : State) : Host.Outcome State Fault Refusal :=
  let s1 := s.focus core
  if s1.core.pre = .none && !s.schedulerWants core then .next s
  else
    let s2 := if s1.core.pre = .none then s1.onCore fun c => { c with pre := .scheduler } else s1
    let t := s2.suspendIf fun s => s.suspendHere 6 7 true
    .next (if t = s1 then s else t)

/-- A deferred full-empty request is withdrawn while its core's task is to leave (R217). -/
def execDeferredRequestWithdrawn (core : Nat) (s : State) : Host.Outcome State Fault Refusal :=
  let s1 := s.focus core
  if s1.core.busy && (s1.quantumOut || s1.core.pre ≠ .none) then .next s1.withdrawFe else .next s

/-! ## Aging (R50, R53) -/

def execAgingPromotion (cluster rec_ : Nat) (s : State) : Host.Outcome State Fault Refusal :=
  let c := s.clusterAt cluster
  match s.recAt rec_ with
  | none => .next s
  | some r =>
    if c.ready.contains rec_ && decide (r.since + Config.agingCycles ≤ c.cycle) && decide (r.prio < 6) then
      .next ((s.setRec { r with prio := r.prio + 1, since := r.since + Config.agingCycles, seq := c.seqNo + 1 }).setCluster
        cluster { c with ready := (c.ready.filter fun a => a ≠ rec_) ++ [rec_], seqNo := c.seqNo + 1 })
    else .next s

end Sys2Proof.Machine
end

