-- ==== Sys2Proof/Machine/Bundles.lean ====
section
/-! DEFINITION. BUNDLE_DISPATCH: the fetch of a code index, the dictionary, the checks of R129 in their order, and the
splitting of a bundle into the slot queues (R108–R131, R377). -/

namespace Sys2Proof.Machine

/-- The launch of the running task. -/
def State.myLaunch (s : State) : Option Launch := s.launchOf s.core.task.part s.core.task.launch

/-! ## Fetching (R108–R111) -/

/-- n halfwords of the code stream from pc on; FETCH-FAULT carries the PC, a failed translation its address (R111). -/
def State.fetchHalves (s : State) (l : Launch) (pc n : Nat) : State × Except (Nat × Word) (List Byte) :=
  if l.clen < pc + n then (s, .error (fetchFault, BitVec.ofNat 64 s.core.task.pc.toNat))
  else
    (pageParts (l.code + 2 * pc) (2 * n)).foldl (fun acc part =>
      match acc.2 with
      | .error e => (acc.1, .error e)
      | .ok bs =>
        let r := acc.1.readVa s.core.task.part s.core.task.tenant part.1 part.2 .fetch
        match r.2 with
        | .error f =>
          (r.1, .error (f.cause, if f.cause = fetchFault then BitVec.ofNat 64 s.core.task.pc.toNat else f.arg part.1))
        | .ok b => (r.1, .ok (bs ++ b))) (s, .ok [])

/-- Little-endian halfwords of a byte string (R108). -/
def halves16 (bs : List Byte) : List Nat := (List.range (bs.length / 2)).map fun q => ofBytes ((bs.drop (2 * q)).take 2)

/-- The dictionary of a kernel in a cluster (R112). -/
def State.dictOf (s : State) (q p kernel : Nat) : List BundleWord :=
  (((s.clusterAt q).dicts.find? fun d => d.kernel = kernel && d.part = p).map (·.entries)).getD []

/-- A fetched bundle and how far PC advances (R109). -/
def State.fetchBundle (s : State) (l : Launch) : State × Except (Nat × Word) (BundleWord × Nat) :=
  let pc := s.core.task.pc.toNat
  let r := s.fetchHalves l pc 1
  match r.2 with
  | .error e => (r.1, .error e)
  | .ok bs =>
    let x := ofBytes bs
    match codeIndex x with
    | .bad => (r.1, .error (illegalIndex, BitVec.ofNat 64 x))
    | .empty => (r.1, .ok (0, 1))
    | .dict n =>
      (match (s.dictOf (clusterOf s.cur) s.core.task.part l.kernel)[n]? with
       | none => (r.1, .error (illegalIndex, BitVec.ofNat 64 x))
       | some b => (r.1, .ok (b, 1)))
    | .escape =>
      let e := r.1.fetchHalves l (pc + 1) 24
      match e.2 with
      | .error f => (e.1, .error f)
      | .ok body => (e.1, .ok (escapedBundle (halves16 body), 25))

/-! ## Checking (R122, R127, R129) -/

/-- Beats of an M or E part. -/
def partBeats (b : BundleWord) (k : Slot) : Nat := bitsAt (bundleWord b k) 45 6 + 1

/-- A valid part of the M or E slot finds its slot occupied (R127). -/
def Core.scheduleBad (c : Core) (todo : List Slot) : Option Nat :=
  if todo.contains .m && decide (c.nominal < c.mOcc) then some 4
  else if todo.contains .e && decide (c.nominal < c.eOcc) then some 5
  else none

/-- A register in the encoding of SCOREBOARD-FAULT (Table 27·1). -/
def scbCode : RegRef → Nat
  | .s i => i.val
  | .p i => 2 ^ 6 + i.val
  | .v i => 2 ^ 7 + i.val
  | .m i => 2 ^ 7 + 2 ^ 6 + i.val
  | .n i => i.val
  | .z i => i.val

/-- The registers that the parts of a bundle read, with their slots, in the order in which the checks go through them: a
part's guard comes first, and what it reads otherwise only when its guard is true (R116). The rules give no order among
several registers of one bundle; this one, slot by slot from C, is the model's (log entry 101). -/
def Core.readsOf (c : Core) (b : BundleWord) (todo : List Slot) : List (Slot × RegRef) :=
  todo.flatMap fun k =>
    match bundlePart b k with
    | .error _ => []
    | .ok i => i.uses.elim [] fun u =>
        (k, .p u.g.p) :: (if c.guardTrue k u.g then u.reads.map fun r => (k, r) else [])

/-- The core as a bundle that is dispatched now stands to it. -/
def Core.atDispatch (c : Core) : Core := { c with lat := { at_ := c.nominal } }

/-- A part would read a value of its own slot before its latency has passed (R122): the first such register. Where several reads
are stale, the spec does not say which one WAITARG names: that of the lowest slot is taken, its guard before its operands in
the order in which Uses lists them (log entry 101). -/
def Core.scbBad (c : Core) (b : BundleWord) (todo : List Slot) : Option Nat :=
  let d := c.atDispatch
  ((d.readsOf b todo).find? fun x => (d.locOf x.2).elim false fun l => (d.stale x.1 l).isSome).map fun x =>
    x.1.num * 2 ^ 8 + scbCode x.2

/-- With the checking scoreboard on, a guard of the bundle is still to be written (R122, log entry 3). -/
def Core.scbWaits (c : Core) (b : BundleWord) (todo : List Slot) : Bool :=
  c.scb && todo.any fun k =>
    match bundlePart b k with
    | .error _ => false
    | .ok i => i.uses.elim false fun u => c.atDispatch.awaited k (.p u.g.p)

/-- The checks of R129 after the fetch. -/
def Core.dispatchCheck (c : Core) (b : BundleWord) (todo : List Slot) : Option (Nat × Word) :=
  match bundleCheck b with
  | some e => some (illegalOp, BitVec.ofNat 64 e.1)
  | none =>
    match c.scheduleBad todo with
    | some k => some (scheduleFault, BitVec.ofNat 64 k)
    | none => if c.scb then (c.scbBad b todo).map fun x => (scoreboardFault, BitVec.ofNat 64 x) else none

/-! ## Splitting (R118, R377) -/

/-- A bundle as dispatch splits it: its nominal count, its valid parts, and those that SCM marks as issued; the unmarked
parts of a resumed bundle read the values of the replay block and resolve names under its TAG (R377). -/
def Core.newLatch (c : Core) (b : BundleWord) (adv : Nat) (marked : List Slot) (block : List Byte) : Latch :=
  { on := true, pc := c.task.pc, next := c.task.pc + BitVec.ofNat 32 adv, bits := b, at_ := c.nominal,
    todo := (bundleSlots b).filter fun k => !marked.contains k, done := (bundleSlots b).filter marked.contains,
    frame := if marked = [] then none else replayFrame c.live.frame block,
    saved := if marked = [] then [] else replaySaved c.live.frame block }

/-- The locations that the marked parts of a resumed bundle wrote (R146, R377). -/
def Core.markedWrites (c : Core) (b : Latch) : List (Slot × Loc) :=
  let d := { c with lat := b }
  b.done.flatMap fun k =>
    match bundlePart b.bits k with
    | .error _ => []
    | .ok i => i.uses.elim [] fun u =>
        if d.guardTrue k u.g then u.writes.filterMap fun r => (d.locOf r).map fun l => (k, l) else []

/-- The penalty of a taken transfer that a marked C part of a resumed bundle has made (R119, R156). -/
def markedPenalty (b : BundleWord) (jump : Option Half) : Nat :=
  match jump, bundlePart b .c with
  | some _, .ok (.loopEnd _) => 0
  | some _, .ok _ => 2
  | _, _ => 0

/-- A bundle joins those in flight; with no part left it leaves at once. -/
def Core.push (c : Core) (b : Latch) : Core :=
  if c.lat.on then { c with younger := c.younger ++ [b] }
  else
    let d := { c with older := [], lat := b, younger := [] }
    if b.todo = [] then d.retire else d

/-- A bundle is split into the slot queues: it stands behind those in flight, dispatch goes on at what follows it or where
a marked C part has sent it (R156, R377), and the M and E slots are occupied (R127). -/
def Core.latch (c : Core) (b : BundleWord) (adv : Nat) (marked : List Slot) (block : List Byte) : Core :=
  let l0 := c.newLatch b adv marked block
  let l := { l0 with wrote := c.markedWrites l0 }
  let jump := if marked.contains .c then c.task.jump else none
  { c with
    waiting := false
    nominal := c.nominal + l.step + markedPenalty b jump
    mOcc := if l.todo.contains .m then c.nominal + partBeats b .m else c.mOcc
    eOcc := if l.todo.contains .e then c.nominal + partBeats b .e else c.eOcc
    task := { c.task with scm := 0, jump := none, pc := jump.getD l.next } }.push l

/-- Dispatch of the next bundle waits for the instruction: one of those of R125, or a SYS.WR (R183). -/
def holdsDispatch : Instr → Bool
  | .br _ | .jmp _ | .call _ | .ret _ | .loopEnd _ | .yield _ | .waitQ _ | .waitS _ | .halt _ | .trap _ | .sysWr _ => true
  | _ => false

def Latch.stopsDispatch (b : Latch) : Bool :=
  b.todo.contains .c &&
    (match bundlePart b.bits .c with
     | .error _ => false
     | .ok i => holdsDispatch i)

/-- Dispatch may go on: no bundle in flight holds it (R125), faults, or has a SYS.WR to take effect (R122), and none is so
old that R123 keeps every part of the next one back. How far dispatch runs ahead otherwise is the model's choice (log entry
3). With the checking scoreboard on, it follows the bundle before it (R122). -/
def Core.dispatchOpen (c : Core) : Bool :=
  !c.waiting && decide (c.flight.length < 16) && (!c.scb || c.flight.isEmpty) &&
    c.flight.all fun b => !b.stopsDispatch && b.fault.isNone && b.sysw.isEmpty

/-! ## Which part issues next (R118, R119, R123, R124, R126) -/

/-- Instructions that R126 does not cover: they raise no precise fault when they issue, and wait for interlocks alone. -/
def plainPart : Instr → Bool
  | .br _ | .jmp _ | .call _ | .ret _ | .loopSet _ | .loopEnd _ | .nameSetField _ | .nameSetWhole _ | .nameSetCopy _
  | .nameAdd _ | .pand _ | .por _ | .pxor _ | .pnot _ | .pmov _ | .cycleRd _ | .fmtRd _ | .add _ | .addi _ | .sub _
  | .mul _ | .mulh _ | .mulhN _ | .div _ | .divN _ | .rem _ | .remN _ | .min _ | .minN _ | .max _ | .maxN _ | .and _
  | .or _ | .xor _ | .andn _ | .shl _ | .shr _ | .shrN _ | .rot _ | .clz _ | .ctz _ | .popc _ | .bfx _ | .bfi _
  | .sext _ | .zext _ | .mov _ | .movi _ | .moviZ _ | .moviH _ | .sel _ | .cmpCc _ | .cmpiCc _ | .lea _ | .fadd _
  | .fsub _ | .fmul _ | .ffma _ | .fmin _ | .fmax _ | .fcmpCc _ | .fcvt _ | .vadd _ | .vsub _ | .vmul _ | .vfma _
  | .vmin _ | .vmax _ | .vabs _ | .vneg _ | .vand _ | .vor _ | .vxor _ | .vshl _ | .vshr _ | .vcmpCc _ | .vsel _
  | .vcas _ | .vcasX _ | .vperm _ | .vperm2 _ | .vbcastScalar _ | .vbcastLane _ | .vbcastLiteral _ | .vshuf _
  | .vredAdd _ | .vredMax _ | .vredMin _ | .vscanAdd _ | .vrcpE _ | .vrsqE _ | .vexp2 _ | .vlog2 _ | .vcvt _
  | .vscl _ | .vpack _ | .vunpack _ | .vmovS _ | .vext _ | .viota _ | .mand _ | .mor _ | .mnot _ | .vpopc _ => true
  | _ => false

/-- The part of slot k of a bundle has passed its fault checks and ended its wait, or has none of either (R126). -/
def Latch.passes (b : Latch) (k : Slot) : Bool :=
  b.passed.contains k ||
    match bundlePart b.bits k with
    | .error _ => true
    | .ok i => plainPart i

/-- A queue has come to a nominal count: its next part stands at least its nominal distance behind its last (R119). -/
def Core.queueAt (c : Core) (k n : Nat) : Bool :=
  let x := c.pace.getD k (0, 0)
  decide (x.1 + (n - x.2) ≤ c.elapsed)

/-- Every queue has come to a nominal count. -/
def Core.queuesAt (c : Core) (n : Nat) : Bool := (List.range 6).all fun k => c.queueAt k n

/-- An earlier bundle lets the part of slot k of a later one issue: it has left that queue, holds none that R126 covers and
none of SYNC, and takes no fault. -/
def Latch.letsPass (b : Latch) (k : Slot) : Bool :=
  !b.todo.contains k && b.fault.isNone && (b.todo.all b.passes) && (!bundleSync b.bits || b.joined)

/-- The part of slot k of bundle n of the flight may issue in this cycle. -/
def Core.mayIssue (c : Core) (n : Nat) (b : Latch) (k : Slot) : Bool :=
  !b.waits.contains k && c.queueAt k.num b.at_ && (b.fault.isNone || (bundleSync b.bits && b.joined)) &&
    ((c.flight.take n).all fun a => a.letsPass k) && (!bundleSync b.bits || (n = 0 && c.queuesAt b.at_)) &&
    (c.hist[15 - n]?).elim true c.queuesAt

/-- The part that issues next: of the oldest bundle first, and slot by slot from C (log entry 3). -/
def Core.nextPart (c : Core) : Option (Nat × Slot) :=
  c.flight.zipIdx.findSome? fun b => (b.1.todo.find? fun k => c.mayIssue b.2 b.1 k).map fun k => (b.2, k)

/-- Parts of a SYNC bundle whose common cycle has come have still to be tried in it (R124). -/
def Core.syncUntried (c : Core) : Bool :=
  c.flight.any fun b => bundleSync b.bits && b.joined && b.todo.any fun k => !b.waits.contains k

/-- The current core takes no dispatch now, and lets another step come first. -/
def State.standBy (s : State) : State := s.onCore fun c => { c with waiting := true }

/-- A fault at dispatch: earlier bundles complete first (R129). A fetch that a channel under a lease holds waits (R338). -/
def State.dispatchFault (s : State) (e : Nat × Word) : State :=
  if e.1 ≠ heldBack && s.core.flight.isEmpty && s.settled then s.takeFault s.core.task.pc 0 noReplay e.1 e.2 else s.standBy

/-- The code store of a cluster is being reloaded (R387). -/
def State.codeFrozen (s : State) (q : Nat) : Bool := s.reloading 3 q

/-- The cluster's cores dispatch nothing under a thermal hold or stop (R436). -/
def State.clockStopped (s : State) (q : Nat) : Bool := s.wafer.stopped.contains (fieldOf q)

def State.dispatchBundle (s : State) (l : Launch) : State :=
  let r := s.fetchBundle l
  match r.2 with
  | .error e => r.1.dispatchFault e
  | .ok (b, adv) =>
    let marked := scmSlots s.core.task.scm
    let todo := (bundleSlots b).filter fun k => !marked.contains k
    if r.1.core.scbWaits b todo then r.1.standBy
    else
      match r.1.core.dispatchCheck b todo with
      | some e => r.1.dispatchFault e
      | none =>
        if marked = [] then r.1.onCore fun c => c.latch b adv [] []
        else
          let t := s.core.task
          let q := r.1.readVa t.part t.tenant (t.csa + 0x9500) 512 .load
          match q.2 with
          | .error f => q.1.dispatchFault (f.cause, f.arg (t.csa + 0x9500))
          | .ok block => q.1.onCore fun c => c.latch b adv marked block

/-- The current core fetches, checks and splits the bundle at its PC; a task that is to leave its core dispatches no more
(R128). -/
def execBundleDispatch (s : State) : Host.Outcome State Fault Refusal :=
  if !s.core.busy || !s.core.dispatchOpen then .next s
  else if s.quantumOut || s.core.pre ≠ .none || s.codeFrozen (clusterOf s.cur) || s.clockStopped (clusterOf s.cur) then .next s.standBy
  else
    match s.myLaunch with
    | none => .next s.standBy
    | some l => .next (s.dispatchBundle l)

end Sys2Proof.Machine
end

