-- ==== Sys2Proof/Machine/Holds.lean ====
section
/-! DEFINITION. Partition registers: PART.HOLD, PART.LOAD and its images, NET.CFG, XLAT.ROOT, RIM.FE.CLR, RIM.KEY.SLOT,
CLUS.STAGE and CLUS.MSTORE.FILL (R58, R85, R107, R299, R306, R312–R314, R318, R320, R339, R341, R421, R422). -/

namespace Sys2Proof.Machine

/-! ## PART.HOLD (R312, Table 21·13) -/

/-- A flight, or a circuit flit, stands at its source: it has not been injected. -/
def Flight.atSource (f : Flight) : Bool := f.from_ = 9
def CFlit.atSource (f : CFlit) : Bool := decide (4 ≤ f.from_) && decide (f.from_ ≤ 7)

/-- The partition of a router, through its cluster's field. -/
def State.routerPart (s : State) (r : Nat) : Nat := s.clusterPart (routerCluster r)

/-- NAMEQ: the class is held, and no packet of it is between routers. -/
def State.namedQuiet (s : State) (p : Nat) : Bool :=
  (s.partAt p).namedHeld && s.flights.all fun f => f.pkt.part ≠ p || f.atSource

def State.circQuiet (s : State) (p : Nat) : Bool :=
  (s.partAt p).circHeld && s.cflits.all fun f => f.pkt.part ≠ p || f.atSource

/-- Cores of a partition that the state lists. -/
def State.coresOfPart (s : State) (p : Nat) : List Nat :=
  (s.cur :: s.others.keys).dedup.filter fun w => s.clusterPart (clusterOf w) = p

/-- A stream register of a core has no request unanswered: a line held by an engine fault has had its answer (R283, R340). -/
def Core.streamsQuiet (c : Core) : Bool :=
  c.w.toList.zipIdx.all fun x => x.1.asked.isEmpty || c.eng.holds.any fun h => h.eng = .stream && h.w = x.2

def State.strQuiet (s : State) (p : Nat) : Bool :=
  (s.partAt p).holdStr && (s.coresOfPart p).all fun w => (s.coreAt w).streamsQuiet

def State.holdWord (s : State) (p : Nat) : Word :=
  let x := s.partAt p
  BitVec.ofNat 64 (x.holdNamed.toNat + x.holdCirc.toNat * 2 + x.holdStr.toNat * 4 + (s.namedQuiet p).toNat * 2 ^ 8
    + (s.circQuiet p).toNat * 2 ^ 9 + (s.strQuiet p).toNat * 2 ^ 10)

def State.writeHold (s : State) (p : Nat) (v : Word) : State :=
  s.modPart p fun x => { x with holdNamed := bitOf v 0, holdCirc := bitOf v 1, holdStr := bitOf v 2 }

def execPartHoldNamed (part : Nat) (on : Bool) (s : State) : Host.Outcome State Fault Refusal :=
  .next (s.writeHold part (setField (s.holdWord part) 0 1 on.toNat))
def execPartHoldCirc (part : Nat) (on : Bool) (s : State) : Host.Outcome State Fault Refusal :=
  .next (s.writeHold part (setField (s.holdWord part) 1 1 on.toNat))
def execPartHoldStr (part : Nat) (on : Bool) (s : State) : Host.Outcome State Fault Refusal :=
  .next (s.writeHold part (setField (s.holdWord part) 2 1 on.toNat))

/-! ## NET.CFG (R85, Table 5·8) -/

def Part.netWord (x : Part) : Word := BitVec.ofNat 64 (x.netRetain * 2 ^ 32 + x.netTimeout * 2 ^ 16 + x.netLimit * 2 ^ 12)

def State.writeNetCfg (s : State) (p : Nat) (v : Word) : State :=
  let retain := field v 32 32
  let timeout := field v 16 16
  let limit := field v 12 4
  if !(s.partAt p).holdNamed || !s.namedQuiet p || retain < 4096 || timeout < 256 || limit = 0 then s
  else s.modPart p fun x => { x with netRetain := retain, netTimeout := timeout, netLimit := limit }

def execNetCfgWrite (part : Nat) (v : Word) (s : State) : Host.Outcome State Fault Refusal := .next (s.writeNetCfg part v)

/-! ## XLAT.ROOT (R320, Table 23·1) -/

/-- The register's fields; reserved bits read zero. -/
def rootFields (v : Word) : Word := BitVec.ofNat 64 (field v 12 52 * 2 ^ 12 + field v 0 1)

def State.writeRoot (s : State) (p i : Nat) (v : Word) : State :=
  let w := rootFields v
  let clash := ((s.partAt p).roots.zipIdx.any fun r => r.2 ≠ i && bitOf r.1 0 && field r.1 52 12 = field w 52 12)
  if bitOf w 0 && clash then s else s.modPart p fun x => { x with roots := x.roots.set i w }

def execXlatRootWrite (part idx : Nat) (v : Word) (s : State) : Host.Outcome State Fault Refusal :=
  .next (s.writeRoot part (idx % 16) v)

/-! ## RIM.FE.CLR (R341, Table 23·8) -/

/-- The full-empty words of some frames that lie in channels of the partition become empty. -/
def State.writeFeClr (s : State) (p : Nat) (v : Word) : State :=
  let frames := (List.range (field v 52 12)).map fun i => (field v 12 40 + i) * 4096
  let mine := frames.filter fun f => s.ownsRange p f 4096 1
  let words := mine.flatMap fun f => (List.range 512).map fun i => f + 8 * i
  { s with hbm := { s.hbm with empty := words ++ s.hbm.empty.filter fun w => !mine.contains (w / 4096 * 4096) } }

def execRimFeClr (part : Nat) (v : Word) (s : State) : Host.Outcome State Fault Refusal := .next (s.writeFeClr part v)

/-! ## RIM.KEY.SLOT (R421, R422, Table 31·7) -/

def Part.keyWord (x : Part) : Word :=
  let k := Table.get {} x.keys x.keySel
  BitVec.ofNat 64 (k.state * 2 ^ 62 + k.tenant * 2 ^ 48 + k.kid * 2 ^ 16 + x.keySel)

/-- A slot selected, and cleared when asked: a loaded slot turns clearing. -/
def Part.selectKey (x : Part) (v : Word) (clear : Bool) : Part :=
  let n := field v 0 8
  let k := Table.get {} x.keys n
  { x with keySel := n, keys := if clear && k.state = 1 then Table.set x.keys n { k with state := 2 } else x.keys }

def State.writeKeySlot (s : State) (p : Nat) (v : Word) : State := s.modPart p fun x => x.selectKey v (field v 60 2 = 1)

def execKeySlotSelect (part : Nat) (v : Word) (s : State) : Host.Outcome State Fault Refusal :=
  .next (s.modPart part fun x => x.selectKey v false)

def execKeySlotClear (part : Nat) (v : Word) (s : State) : Host.Outcome State Fault Refusal :=
  .next (s.modPart part fun x => x.selectKey v true)

/-- Accesses that a rim agent has accepted under a key: store-buffer entries and lines on their way name it. -/
def State.keyBusy (s : State) (key : Nat) : Bool :=
  (s.clusters.any fun c => c.2.stbuf.any fun e => e.key = key) ||
    (s.cur :: s.others.keys).any fun w =>
      ((s.coreAt w).eng.shadow.any fun l => l.sp = .vm && l.key = key) ||
      (s.coreAt w).eng.acc.any fun a => !a.asked && a.parts.any fun p =>
        match p.1 with
        | .vm _ _ _ k _ _ => k = key
        | _ => false

/-- A clearing slot becomes empty once no accepted request names it (R422). -/
def execKeySlotEmpty (part slot : Nat) (s : State) : Host.Outcome State Fault Refusal :=
  match Table.find (s.partAt part).keys slot with
  | none => .next s
  | some k =>
    if k.state = 2 && !s.keyBusy k.id then .next (s.modPart part fun x => { x with keys := Table.drop x.keys slot })
    else .next s

/-! ## CLUS.STAGE and CLUS.MSTORE.FILL (Tables 21·8, 22·3) -/

def Cluster.stageWord (c : Cluster) : Word :=
  BitVec.ofNat 64 (min 0xFFFF c.heldIn.length * 2 ^ 32 + min 0xFFFF c.peak * 2 ^ 16 + c.lines)

/-- The highest lines in use by one share now. -/
def State.mostLines (s : State) (q : Nat) : Nat :=
  ((s.partAt (s.clusterPart q)).linsts.filter fun l => l.ready && l.clusters.contains q).foldl
    (fun m l => max m (s.shareLines (s.clusterPart q) q l)) 0

/-- A read starts PEAK again from what stands now. -/
def State.readStage (s : State) (q : Nat) : State × Word :=
  (s.modCluster q fun c => { c with peak := s.mostLines q }, (s.clusterAt q).stageWord)

def State.writeStage (s : State) (q : Nat) (v : Word) : State :=
  if field v 0 16 < 2 then s else s.modCluster q fun c => { c with lines := field v 0 16 }

def execClusStageRead (cluster : Nat) (s : State) : Host.Outcome State Fault Refusal := .next (s.readStage cluster).1
def execClusStageWrite (cluster : Nat) (v : Word) (s : State) : Host.Outcome State Fault Refusal := .next (s.writeStage cluster v)

def Cluster.fillWord (c : Cluster) : Word :=
  BitVec.ofNat 64 (c.fillSpilled * 2 ^ 32 + min 0x1FFF (max c.fillPeak c.used) * 2 ^ 16 + min 0x1FFF c.used)

def State.readFill (s : State) (q : Nat) : State × Word :=
  (s.modCluster q fun c => { c with fillSpilled := 0, fillPeak := c.used }, (s.clusterAt q).fillWord)

def execClusMstoreFillRead (cluster : Nat) (s : State) : Host.Outcome State Fault Refusal := .next (s.readFill cluster).1

/-! ## PART.LOAD (R313, Table 21·14) -/

def Part.loadWord (x : Part) : Word :=
  BitVec.ofNat 64 (x.loadBusy.toNat * 2 ^ 63 + x.loadRes * 2 ^ 48 + x.load.tslot * 2 ^ 40 + x.load.pa / 4096 % 2 ^ 40)

/-- A write while BUSY is ignored whole; one with OP nonzero starts a load. A nonzero reserved field makes a reserved OP
of it, which ends with RESULT 0x04. -/
def State.writeLoad (s : State) (p : Nat) (v : Word) : State :=
  s.modPart p fun x =>
    if x.loadBusy then x
    else
      let op := if field v 56 7 ≠ 0 && field v 44 4 ≠ 0 then 15 else field v 44 4
      { x with loadBusy := decide (op ≠ 0), load := { op := op, tslot := field v 40 4, pa := field v 0 40 * 4096 } }

def execPartLoadDescriptors (part : Nat) (v : Word) (s : State) : Host.Outcome State Fault Refusal :=
  .next (s.writeLoad part (setField v 44 4 1))
def execPartLoadRanges (part : Nat) (v : Word) (s : State) : Host.Outcome State Fault Refusal :=
  .next (s.writeLoad part (setField v 44 4 2))
def execPartLoadCircuits (part : Nat) (v : Word) (s : State) : Host.Outcome State Fault Refusal :=
  .next (s.writeLoad part (setField v 44 4 3))

/-- Bytes of an image; none when it does not lie in owned channels or cannot be read. -/
def State.imageBytes (s : State) (p pa n : Nat) : State × Option (List Byte) :=
  if !s.ownsRange p pa (max n 1) 1 then (s, none) else s.readG64 pa n

/-- Number i of n bytes in an image. -/
def numAt (bs : List Byte) (i n : Nat) : Nat := ofBytes ((bs.drop i).take n)

/-! ### Descriptor tables (R57, R58, R107) -/

/-- No reserved field or value of a valid descriptor is set (R58). -/
def descClean (d : BitVec 256) : Bool :=
  field d 216 8 = 0 && field d 153 15 = 0 && field d 75 21 = 0 && field d 0 64 = 0 && descHome d ≠ 3 &&
    decide (descTsize d ≤ 10) && decide (descSpread d ≤ 4) && (fmtOf (descFmt d)).isSome

/-- The fill test (R58), or for CW8 the test of R107. -/
def descFills (d : BitVec 256) : Bool :=
  let n := 2 ^ (descRlog d + descClog d)
  match fmtOf (descFmt d) with
  | some .cw8 => n % 32 = 0
  | some t => n * t.width = 8 * tileBytes d
  | none => false

def descOk (d : BitVec 256) : Bool :=
  !bitOf d 255 || (descClean d && descFills d && descNI d ≠ 0 && descNJ d ≠ 0 && descNK d ≠ 0)

/-- The valid entries of a table. -/
def descEntries (bs : List Byte) (n : Nat) : List (Nat × BitVec 256) :=
  (List.range n).map fun t => (t, BitVec.ofNat 256 (numAt bs (64 + 32 * t) 32))

def State.loadDescs (s : State) (p : Nat) (ld : Load) : State × Nat :=
  let h := s.imageBytes p ld.pa 64
  match h.2 with
  | none => (h.1, 3)
  | some hd =>
    let tenant := numAt hd 0 2
    let n := numAt hd 4 4
    if 2 ^ 12 ≤ tenant || 2 ^ 24 < n || numAt hd 2 2 ≠ 0 || numAt hd 8 56 ≠ 0 then (h.1, 2)
    else
      let b := h.1.imageBytes p ld.pa (64 + 32 * n)
      match b.2 with
      | none => (b.1, 3)
      | some bs =>
        let es := descEntries bs n
        if (es.any fun e => !descOk e.2) || (s.partAt p).descs.any fun t => t.1 ≠ ld.tslot && t.2.tenant = tenant then (b.1, 2)
        else
          (b.1.modPart p fun x =>
            { x with descs := if n = 0 then Table.drop x.descs ld.tslot
                else Table.set x.descs ld.tslot { tenant := tenant, ents := es.filter fun e => bitOf e.2 255 } }, 0)

/-! ### Stream ranges (R339) -/


/-- Some word of a physical range is empty or has deferred requests. -/
def State.touchesFe (s : State) (pa n : Nat) : Bool :=
  (s.hbm.empty.any fun w => overlaps w 8 pa n) || s.hbm.defer.any fun d => overlaps d.1 8 pa n

def State.rangesOk (s : State) (p : Nat) (es : List (BitVec 128)) : Bool :=
  let vs := es.filter rangeV
  (vs.all fun e => rangeBytes e ≠ 0 && s.ownsRange p (rangePa e) (rangeBytes e) (rangeGran e) &&
      !s.touchesFe (rangePa e) (rangeBytes e)) &&
    (vs.zipIdx.all fun a => vs.zipIdx.all fun b => a.2 = b.2 || !overlaps (rangeVa a.1) (rangeBytes a.1) (rangeVa b.1) (rangeBytes b.1))

def State.loadRanges (s : State) (p : Nat) (ld : Load) : State × Nat :=
  if !(s.partAt p).holdStr || !s.strQuiet p then (s, 1)
  else
    let b := s.imageBytes p ld.pa 1024
    match b.2 with
    | none => (b.1, 3)
    | some bs =>
      let es := (List.range 64).map fun e => BitVec.ofNat 128 (numAt bs (16 * e) 16)
      if s.rangesOk p es then (b.1.modPart p fun x => { x with ranges := es }, 0) else (b.1, 2)

/-! ### Circuits, slot tables and detours (R304–R306, R314, R411) -/

/-- A route word keeps the form of Table 31·1; NSEG 7 stands for no route. -/
def routeOk (w : Word) : Bool :=
  field w 61 3 = 7 || (field w 54 3 = 0 && (List.range 6).all fun i =>
    let seg := field w (45 - 9 * i) 9
    if i < field w 61 3 then seg % 128 ≠ 0 else seg = 0)

/-- A circuit entry from its 32 bytes; none when a reserved byte is nonzero. -/
def circuitOfBytes (n : Nat) : Option Circuit :=
  if onlyBits n [(0, 32), (64, 64)] && decide (bitsAt n 24 8 ≤ 8) && decide (bitsAt n 0 16 < 9216) && decide (bitsAt n 16 8 < 192) &&
      routeOk (BitVec.ofNat 64 (bitsAt n 64 64)) && bitsAt n 125 3 ≠ 7 then
    some { src := bitsAt n 0 16, dst := bitsAt n 16 8, port := bitsAt n 24 8, path := BitVec.ofNat 64 (bitsAt n 64 64) }
  else none

/-- The routers of a circuit with the port by which it leaves each. -/
def Circuit.places (c : Circuit) : List (Nat × Nat) :=
  let hops := (routePorts c.path).getD []
  let steps := hops.foldl (fun (acc : List (Nat × Nat) × Nat) d => (acc.1 ++ [(acc.2, d)], neighbour acc.2 d)) ([], c.src)
  steps.1 ++ [(steps.2, c.port)]

/-- The routers of a partition in rising order (R314). -/
def State.routersOf (s : State) (p : Nat) : List Nat := (List.range 9216).filter fun r => s.routerPart r = p

/-- A slot-table entry (R304). -/
def slotV (e : BitVec 16) : Bool := bitOf e 15
def slotIn (e : BitVec 16) : Nat := field e 11 4
def slotCirc (e : BitVec 16) : Nat := field e 0 11

/-- The slot tables of one router from its record. -/
def slotsOf (bs : List Byte) : List (List (BitVec 16)) :=
  (List.range 9).map fun p => (List.range 64).map fun i => BitVec.ofNat 16 (numAt bs (128 * p + 2 * i) 2)

/-- The field of a router. -/
def routerField (r : Nat) : Nat := fieldOf (routerCluster r)

/-- The entry of a router's output port at a slot. -/
def slotAt (t : Table (List (List (BitVec 16)))) (r port slot : Nat) : BitVec 16 :=
  (((Table.get [] t r).getD port []).getD slot 0)

/-- The input port of a circuit at place i of its path: a core's at its source, and then the port that the path comes in by, at a
field stitch too (R305, R306). -/
def Circuit.comesBy (c : Circuit) (i port : Nat) : Bool :=
  match i with
  | 0 => decide (4 ≤ port) && decide (port ≤ 7)
  | n + 1 => (c.places[n]?).elim false fun x => port = oppPort x.2

/-- A path ends in the circuit's destination cluster (R305, R306). -/
def Circuit.arrives (c : Circuit) : Bool := (c.places.getLast?).elim false fun x => routerCluster x.1 = c.dst

/-- A valid entry stands on its circuit's path, names the input port that the path comes in by, and is followed there
(R306). -/
def followed (cs : Table Circuit) (t : Table (List (List (BitVec 16)))) (r port slot : Nat) (e : BitVec 16) : Bool :=
  match Table.find cs (slotCirc e) with
  | none => false
  | some c =>
    let ps := c.places
    match ps.findIdx? fun x => x = (r, port) with
    | none => false
    | some i =>
      c.comesBy i (slotIn e) &&
      match ps[i + 1]? with
      | none => true
      | some nx =>
        if routerField nx.1 ≠ routerField r then true
        else
          let f := slotAt t nx.1 nx.2 ((slot + 1) % 64)
          slotV f && slotCirc f = slotCirc e && slotIn f = oppPort port

/-- Each slot names each input port at most once across a router's ports (R306). -/
def inputsOnce (slots : List (List (BitVec 16))) : Bool :=
  (List.range 64).all fun i =>
    let ins := (slots.filterMap fun p => (p[i]?).bind fun e => if slotV e then some (slotIn e) else none)
    ins.dedup.length = ins.length

def State.slotsOk (s : State) (p : Nat) (cs : Table Circuit) (t : Table (List (List (BitVec 16)))) : Bool :=
  (t.all fun r => inputsOnce r.2 && r.2.zipIdx.all fun port => port.1.zipIdx.all fun e =>
      !slotV e.1 || (decide (slotIn e.1 ≤ 8) && followed cs t r.1 port.2 e.2 e.1)) &&
    (cs.all fun c => c.2.arrives && c.2.places.all fun x => s.routerPart x.1 = p)

def State.loadCircuits (s : State) (p : Nat) (ld : Load) : State × Nat :=
  if !(s.partAt p).holdCirc || !s.circQuiet p then (s, 1)
  else
    let rs := s.routersOf p
    let b := s.imageBytes p ld.pa (65536 + 1280 * rs.length)
    match b.2 with
    | none => (b.1, 3)
    | some bs =>
      let raw := (List.range 2048).map fun c => (c, numAt bs (32 * c) 32)
      let used := raw.filter fun x => x.2 ≠ 0
      let cs := used.filterMap fun x => (circuitOfBytes x.2).map fun c => (x.1, c)
      let recs := rs.zipIdx.map fun r => (r.1, (bs.drop (65536 + 1280 * r.2)).take 1280)
      let t := recs.map fun r => (r.1, slotsOf r.2)
      let det := recs.map fun r => (r.1, (List.range 4).map fun d => (BitVec.ofNat 64 (numAt r.2 (1152 + 8 * d) 8) : Word))
      let clean := cs.length = used.length && (used.all fun x => x.1 ≠ 0) && (recs.all fun r => numAt r.2 1184 96 = 0) &&
        det.all fun d => d.2.all routeOk
      if !clean || !s.slotsOk p cs t then (b.1, 2)
      else
        let s1 := b.1.modPart p fun x => { x with circs := cs }
        ((recs.zip det).foldl (fun s r =>
          s.modRouter r.1.1 fun x => { x with slots := slotsOf r.1.2, detour := r.2.2 }) s1, 0)

/-- A load ends: its image is read and checked whole, and takes effect or leaves the old table (R313). -/
def execPartLoadDone (part : Nat) (s : State) : Host.Outcome State Fault Refusal :=
  let x := s.partAt part
  if !x.loadBusy then .next s
  else
    let r := match x.load.op with
      | 1 => s.loadDescs part x.load
      | 2 => s.loadRanges part x.load
      | 3 => s.loadCircuits part x.load
      | _ => (s, 4)
    .next (r.1.modPart part fun x => { x with loadBusy := false, loadRes := r.2 })

end Sys2Proof.Machine
end

