-- ==== Sys2Proof/Machine/Efault.lean ====
section
/-! DEFINITION. CORE.EFAULT: engine holds, their retry, abandonment and limit (R379, R380, R383, Table 27·3). -/

namespace Sys2Proof.Machine

/-- ENG of CORE.EFAULT. -/
def engCode : Eng → Nat
  | .matrix => 0
  | .copy => 1
  | .hash => 2
  | .stream => 3
  | .celadon => 4
  | .queues => 5

/-- The oldest hold that a message has reported; a wait on a token shows none (R358, R379). -/
def Core.firstHold (c : Core) : Option Hold := c.eng.holds.find? (·.posted)

/-- CORE.EFAULT shows the oldest hold. -/
def Core.efaultWord (c : Core) : Word :=
  match c.firstHold with
  | none => 0
  | some h => BitVec.ofNat 64 (h.cause % 256 * 2 ^ 48 + engCode h.eng * 2 ^ 45 + h.w % 8 * 2 ^ 42 + 2 ^ 41)

/-- ENG of a fault message: CORE.EFAULT bits [47:42]. -/
def Hold.engField (h : Hold) : Nat := engCode h.eng * 8 + h.w % 8

/-- An access whose data the queues withhold or have still to fetch: the command of theirs that an abandonment ends. Stores,
markers and what has been performed go on, and a deferred request is withdrawn when the task leaves (R217, R383, R439). -/
def Access.withheld (a : Access) : Bool := a.kind.returns && !a.asked && !a.deferred

/-- Destinations that an engine's commands still owe. -/
def Engines.owed (e : Engines) : Eng → List Loc
  | .hash => e.hashes.filterMap fun h => match h.2 with
      | .crc _ d _ _ => d
      | _ => none
  | .queues => (e.acc.filter Access.withheld).filterMap Access.reg
  | _ => []

/-- An engine abandons its commands: uncommitted lines are discarded, tracked ranges and busy bits go (R383). -/
def Core.abandon (c : Core) (g : Eng) : Core :=
  let e := c.eng
  let e1 := { e with awaits := e.awaits.filter fun l => !(e.owed g).contains l, shadow := e.shadow.filter fun l => l.eng ≠ g,
                     holds := e.holds.filter fun h => h.eng ≠ g }
  match g with
  | .matrix => { c with eng := { e1 with mq := [] } }
  | .copy => { c with eng := { e1 with cps := [] } }
  | .hash => { c with eng := { e1 with hashes := [] } }
  | .celadon => { c with eng := { e1 with lcs := [] } }
  | .queues => { c with eng := { e1 with acc := e1.acc.filter fun a => !a.withheld } }
  | .stream => { c with eng := e1, w := c.w.map fun x => { x with asked := [] } }

/-- Every held engine of a launch abandons its commands (R383). -/
def State.abandonHolds (s : State) (p launch : Nat) : State :=
  (s.launchRunners p launch).foldl (fun s w =>
    s.modCore w fun c => (c.eng.holds.map (·.eng)).foldl Core.abandon c) s

/-- ACT = 1: the held access is tried again (R380). -/
def State.efaultRetry (s : State) (w : Nat) : State :=
  match (s.coreAt w).firstHold with
  | none => s
  | some h => s.modCore w fun c => { c with eng := { c.eng with holds := c.eng.holds.erase h } }

/-- A hold abandoned, and with it every hold of the launch; a checkpoint hold starts with a cause, and the task that
was held leaves as FAULTED with it (R380, R382, R383). -/
def State.abandonTask (s : State) (w cause last : Nat) : State :=
  let t := (s.coreAt w).task
  let s1 := s.abandonHolds t.part t.launch
  let s2 := s1.modCore w fun c => { c with doom := some (cause, BitVec.ofNat 64 last), pre := .supervisor }
  s2.checkpointHold t.part t.launch cause

/-- ACT = 2 (R380). -/
def State.efaultAbandon (s : State) (w : Nat) : State :=
  match (s.coreAt w).firstHold with
  | none => s
  | some h => s.abandonTask w holdLimit h.cause

def execCoreEfaultRetry (core : Nat) (s : State) : Host.Outcome State Fault Refusal := .next (s.efaultRetry core)
def execCoreEfaultAbandon (core : Nat) (s : State) : Host.Outcome State Fault Refusal := .next (s.efaultAbandon core)

/-- A write of CORE.EFAULT. -/
def State.writeEfault (s : State) (w : Nat) (v : Word) : State :=
  match field v 62 2 with
  | 1 => s.efaultRetry w
  | 2 => s.efaultAbandon w
  | _ => s

def execHoldLimit (core : Nat) (eng : Eng) (s : State) : Host.Outcome State Fault Refusal :=
  let c := s.coreAt core
  match c.eng.holds.find? fun h => h.eng = eng, s.levelOf c.task with
  | some h, some l => if h.since + 2 ^ (l.hold + 12) ≤ c.cycle.toNat then .next (s.abandonTask core holdLimit h.cause) else .next s
  | _, _ => .next s

/-- No task of a held launch runs any longer: the entry of TYPE 0x05 and the message of TYPE 0x03 are posted (R383). -/
def execCheckpointHoldReached (part launch : Nat) (s : State) : Host.Outcome State Fault Refusal :=
  match s.launchOf part launch with
  | none => .next s
  | some l =>
    match l.hold with
    | none => .next s
    | some cause =>
      if l.reached || !(s.launchRunners part launch).isEmpty || !s.msgOpen part then .next s
      else
        let s1 := s.modLaunch part launch fun l => { l with reached := true }
        .next ((s1.complete l.cq 5 cause 0 launch l.tag).message part { type := 3, cause := cause, launch := launch })

end Sys2Proof.Machine
end

