-- ==== Sys2Proof/Machine/Matrix.lean ====
section
/-! DEFINITION. The M slot: products, accumulator moves, conversions and the weight buffer (R95, R101, R262–R276, R290,
R291). An instruction that issues joins the engine's queue with the operands it captured; the engine performs the queue
in order, one instruction a step. -/

namespace Sys2Proof.Machine

/-! ## One element (R101, R266) -/

/-- The product of two scaled elements, exactly; an infinity times a zero sets NV. -/
def mulFV (a b : FV) : FV × Flags :=
  match a, b with
  | .nan, _ => (.nan, 0)
  | _, .nan => (.nan, 0)
  | .inf s, .inf t => (.inf (s != t), 0)
  | .inf s, .fin t m _ => if m = 0 then (.nan, flagNV) else (.inf (s != t), 0)
  | .fin t m _, .inf s => if m = 0 then (.nan, flagNV) else (.inf (s != t), 0)
  | .fin s m e, .fin t n f => (.fin (s != t) (m * n) (e + f), 0)

/-- Element i of a packed array, under scale j of a packed array of scale bytes. -/
def scaledAt (t : Fmt) (arr i : Nat) (sc : Option ScaleFmt) (scales j : Nat) : FV × Flags :=
  let x := decodeF t (bitsAt arr (t.width * i) t.width)
  match sc with
  | none => (x, 0)
  | some f => scaleVal x (decodeScale f (bitsAt scales (8 * j) 8))

/-- Packed operands as numbers, byte 0 lowest. -/
structure MmaData where
  a  : Nat
  sa : Nat
  b  : Nat
  sb : Nat

/-- The sum of summation block b for row r and column n. -/
def Mma.block (g : Mma) (d : MmaData) (r n b : Nat) : FV × Flags :=
  let acc := (List.range g.s).foldl (fun (acc : Sum × Flags) i =>
    let k := b * g.s + i
    let x := scaledAt g.fa d.a (r * g.k + k) g.asc d.sa (r * g.nsb + k / g.q)
    let y := scaledAt g.fbx d.b (n * g.k + k) g.bsc d.sb (n * g.nsb + k / g.q)
    let p := mulFV x.1 y.1
    (acc.1.push p.1, acc.2 ||| x.2 ||| y.2 ||| p.2)) ({}, 0)
  let t := acc.1.value g.rnd
  (t.1, t.2 ||| acc.2)

/-- The integer sum of a block. -/
def Mma.intBlock (g : Mma) (d : MmaData) (r n b : Nat) : Int :=
  (List.range g.s).foldl (fun acc i =>
    let k := b * g.s + i
    acc + intVal g.fa (bitsAt d.a (g.fa.width * (r * g.k + k)) g.fa.width)
        * intVal g.fbx (bitsAt d.b (g.fbx.width * (n * g.k + k)) g.fbx.width)) 0

/-- Element (r, n) from its accumulator: one rounding a block. -/
def Mma.element (g : Mma) (d : MmaData) (r n acc : Nat) : Nat × Flags :=
  (List.range g.kb).foldl (fun (a : Nat × Flags) b =>
    if g.int then (wrapInt 32 ((a.1 : Int) + g.intBlock d r n b), a.2)
    else
      let t := g.block d r n b
      let x := addF .f32 g.rnd (decodeF .f32 a.1) t.1
      (x.1, a.2 ||| t.2 ||| x.2)) (acc, 0)

/-- Rows lo to lo + count − 1 of a tile replaced by the product (R266, R269). -/
def Mma.rows (g : Mma) (d : MmaData) (z : BitVec 32768) (clr : Bool) (lo count : Nat) : BitVec 32768 × Flags :=
  let rs := (List.range 1024).map fun i =>
    let old := elem z 32 i
    if lo ≤ i / 32 && i / 32 < lo + count then g.element d (i / 32) (i % 32) (if clr then 0 else old) else (old, 0)
  (BitVec.ofNat 32768 (packElems 32 (rs.map (·.1))), rs.foldl (fun (f : Flags) (r : Nat × Flags) => f ||| r.2) 0)

/-! ## Checks at issue (R262, R267, R271, R274) -/

/-- FORMAT-FAULT and its WAITARG, fmt[63:44]. -/
def formatRes (fmt : Word) : Res := .fault formatFault (BitVec.ofNat 64 (field fmt 44 20))

/-- An instruction joins the matrix engine's queue: its beats begin (R264). -/
def State.mPush (s : State) (m : MOp) : Res :=
  .done { s.onCore fun c =>
      { c with eng := { c.eng with mq := c.eng.mq ++ [{ m with no := s.stamp, ends := c.elapsed + m.beats }] } }
    with stamp := s.stamp + 1 }

/-- Ranges checked, then the engine takes the instruction. -/
def State.mIssue (s : State) (l : List Rng) (m : MOp) : Res :=
  match rngFault l with
  | some f => .fault f.1 f.2
  | none => s.mPush { m with track := rngTracks l }

def execMma (f : MMma) (s : State) : Host.Outcome State Fault Refusal :=
  s.issue (.mma f) fun s =>
    let fmt := s.core.fmt
    let a := (s.core.readS .m f.a).toNat
    let b := (s.core.readS .m f.b).toNat
    let c := (s.core.readS .m f.c).toNat
    match mmaOf fmt f.k2 f.wb (f.beat.toNat + 1) s.reduced with
    | none => formatRes fmt
    | some g =>
      if s.mLocked (.mma f) then .lock
      else s.mIssue (mmaRanges g f.wb a b c) { i := .mma f, a := a, b := b, c := c, fmt := fmt, beats := f.beat.toNat + 1 }

/-- Fields of a group-table entry (Table 19·2). -/
def grpRows (e : Nat) : Nat := bitsAt e 0 6
def grpWoff (e : Nat) : Nat := 64 * bitsAt e 16 11
def grpSoff (e : Nat) : Nat := bitsAt e 32 21
def grpBad (e : Nat) : Bool := bitsAt e 53 11 ≠ 0 || bitsAt e 27 5 ≠ 0 || bitsAt e 6 10 ≠ 0

/-- Entry i of a group table. -/
def Core.grpEntry (c : Core) (base i : Nat) : Nat := ofBytes (c.spadGet (base + 8 * i) 8)

/-- The smallest range that covers every group's B scales (R270). -/
def Core.grpScales (c : Core) (g : Mma) (base groups : Nat) : List (Nat × Nat) :=
  let offs := (((List.range groups).map (c.grpEntry base)).filter fun e => grpRows e ≠ 0).map grpSoff
  match g.bsc, offs with
  | none, _ => []
  | some _, [] => []
  | some _, o :: t => let lo := t.foldl min o; [(lo, t.foldl max o + 32 * g.nsb - lo)]

def execMmaG (f : MMmaG) (s : State) : Host.Outcome State Fault Refusal :=
  s.issue (.mmaG f) fun s =>
    let fmt := s.core.fmt
    let a := (s.core.readS .m f.a).toNat
    let b := (s.core.readS .m f.b).toNat
    let c := (s.core.readS .m f.c).toNat
    let groups := f.groups.toNat + 1
    match mmaOf fmt f.k2 true (f.beat.toNat + 1) s.reduced with
    | none => formatRes fmt
    | some g =>
      let l := mmaGRanges g groups a b c
      match rngFault l with
      | some e => .fault e.1 e.2
      | none =>
        if s.mLocked (.mmaG f) then .lock
        else s.mPush { i := .mmaG f, a := a, b := b, c := c, fmt := fmt, beats := f.beat.toNat + 1,
                       track := rngTracks l ++ s.core.grpScales g b groups }

def execZclr (f : MZclr) (s : State) : Host.Outcome State Fault Refusal :=
  s.issue (.zclr f) fun s => s.mPush { i := .zclr f, fmt := s.core.fmt }

def execZld (f : MZld) (s : State) : Host.Outcome State Fault Refusal :=
  s.issue (.zld f) fun s =>
    let a := (s.core.readS .m f.a).toNat
    s.mIssue [{ a := a, n := 4096, al := 4096 }] { i := .zld f, a := a, fmt := s.core.fmt, beats := 64 }

/-- Bytes of a ZST. -/
def zstBytes (f : MZst) : Nat := 4096 / 2 ^ f.sz.toNat

def execZst (f : MZst) (s : State) : Host.Outcome State Fault Refusal :=
  s.issue (.zst f) fun s =>
    let a := (s.core.readS .m f.a).toNat
    match rngFault [{ a := a, n := zstBytes f, al := zstBytes f }] with
    | some e => .fault e.1 e.2
    | none => s.mPush { i := .zst f, a := a, fmt := s.core.fmt, beats := f.beat.toNat + 1 }

/-- ZCVT takes its draws when it issues (R98). -/
def execZcvt (f : MZcvt) (s : State) : Host.Outcome State Fault Refusal :=
  s.issue (.zcvt f) fun s =>
    let fmt := s.core.fmt
    let sto := fmtSto fmt && stoTarget f.tgt
    let m : MOp := { i := .zcvt f, fmt := fmt, srnd := s.core.srnd, beats := 16 }
    (s.onCore fun c => if sto then c.setSrnd (srndAfter c.srnd 1024) else c).mPush m

def execZadd (f : MZadd) (s : State) : Host.Outcome State Fault Refusal :=
  s.issue (.zadd f) fun s => s.mPush { i := .zadd f, fmt := s.core.fmt, beats := 16 }

/-- The end of a CW8 stream of n blocks in the scratchpad. -/
def Core.cwEnd (c : Core) (base n : Nat) : Nat := min Config.spadBytes (cwRunBase c.spadGet base ((n + 63) / 64))

def execWld (f : MWld) (s : State) : Host.Outcome State Fault Refusal :=
  s.issue (.wld f) fun s =>
    let a := (s.core.readS .m f.a).toNat
    let b := (s.core.readS .m f.b).toNat
    let n := (s.core.readS .m f.c).toNat
    match wldFault f.cw8 a b n with
    | some e => .fault e.1 e.2
    | none =>
      if s.mLocked (.wld f) then .lock
      else s.mPush { i := .wld f, a := a, b := b, c := n, fmt := s.core.fmt,
                     track := [(b, if f.cw8 then s.core.cwEnd b n - b else n)] }

def execMwait (f : MWaitI) (s : State) : Host.Outcome State Fault Refusal :=
  s.issue (.mwait f) fun s => if s.core.eng.mq.isEmpty then .done s else .wait

/-! ## The engine at work -/

/-- What the engine makes of an instruction: the core after it, the groups or units done, and what stops it. -/
abbrev MRes := Core × Nat × Option (Nat × Nat)

/-- The instruction has run to its end; its flags are ORed in (R96). -/
def Core.mDone (c : Core) (fl : Flags) : MRes := (c.raiseNow fl, 0, none)

/-- A tile written. -/
def Core.setZ (c : Core) (z : ZReg) (v : BitVec 32768) : Core := { c with z := c.z.set z.val v z.isLt }

/-- A number from scratchpad bytes. -/
def Core.spadNum (c : Core) (a n : Nat) : Nat := ofBytes (c.spadGet a n)

/-- The first uncorrectable word of some scratchpad ranges. -/
def Core.badOf (c : Core) (l : List (Nat × Nat)) : Option Nat := l.findSome? fun r => badIn c.spadBad r.1 r.2

/-- B of a product, from the scratchpad or the weight buffer, expanded; or what stops its fetch. -/
def Core.mmaB (c : Core) (g : Mma) (wb : Bool) (b : Nat) : Except (Nat × Nat) Nat :=
  if !wb then .ok (c.spadNum b g.bBytes)
  else if g.fb = .cw8 then
    match badIn c.wbufBad b cwTableBytes with
    | some w => .error (dataFault, w)
    | none =>
      if Config.wbufBytes < b + cwTableBytes + cwArea c.wbuf.run b then .error (decodeFault, b)
      else
        match badIn c.wbufBad b (cwTableBytes + cwArea c.wbuf.run b) with
        | some w => .error (dataFault, w)
        | none =>
          match cwRun c.wbuf.run Config.wbufBytes b g.k with
          | .error e => .error (decodeFault, e)
          | .ok bs => .ok (ofBytes bs)
  else
    match badIn c.wbufBad b g.bBytes with
    | some w => .error (dataFault, w)
    | none => .ok (ofBytes (c.wbuf.run b g.bBytes))

/-- MMA: no element is written when an operand stops it (R267). -/
def Core.runMma (c : Core) (m : MOp) (f : MMma) (g : Mma) : MRes :=
  match c.badOf m.track, c.mmaB g f.wb m.b with
  | some w, _ => (c, 0, some (dataFault, w))
  | none, .error e => (c, 0, some e)
  | none, .ok b =>
    let d : MmaData := { a := c.spadNum m.a g.aBytes, sa := c.spadNum m.c (32 * g.nsb), b := b,
                         sb := c.spadNum (m.c + 32 * g.nsb) (32 * g.nsb) }
    let r := g.rows d (c.z.get f.z) f.clr 0 32
    (c.setZ f.z r.1).mDone r.2

/-- Rows that the groups before g take. -/
def Core.grpStart (c : Core) (base g : Nat) : Nat := ((List.range g).map fun i => grpRows (c.grpEntry base i)).sum

/-- The bound check of group i (R269, R290). -/
def Core.grpBound (c : Core) (g : Mma) (base i : Nat) : Bool :=
  let e := c.grpEntry base i
  let w := grpWoff e
  let n := if g.fb = .cw8 then cwTableBytes + (if w + cwTableBytes ≤ Config.wbufBytes then cwArea c.wbuf.run w else 0) else g.bBytes
  decide (32 < grpRows e) || decide (32 < c.grpStart base i + grpRows e) || decide (Config.wbufBytes < w + n)
    || (g.bsc.isSome && decide (Config.spadBytes < grpSoff e + 32 * g.nsb))

/-- The groups of an MMA.G from group i on; fuel is what is left of them. -/
def Core.runGroups (c : Core) (m : MOp) (f : MMmaG) (g : Mma) (a sa : Nat) : (left : Nat) → (i : Nat) → MRes
  | 0, _ => c.mDone 0
  | left + 1, i =>
    let e := c.grpEntry m.b i
    if grpBad e then (c, i, some (boundFault, i))
    else if grpRows e = 0 then Core.runGroups c m f g a sa left (i + 1)
    else if c.grpBound g m.b i then (c, i, some (boundFault, i))
    else
      match c.mmaB g true (grpWoff e), (if g.bsc.isSome then badIn c.spadBad (grpSoff e) (32 * g.nsb) else none) with
      | .error x, _ => (c, i, some x)
      | .ok _, some w => (c, i, some (dataFault, w))
      | .ok b, none =>
        let d : MmaData := { a := a, sa := sa, b := b, sb := c.spadNum (grpSoff e) (32 * g.nsb) }
        let r := g.rows d (c.z.get f.z) f.clr (c.grpStart m.b i) (grpRows e)
        Core.runGroups ((c.setZ f.z r.1).raiseNow r.2) m f g a sa left (i + 1)

def Core.runMmaG (c : Core) (m : MOp) (f : MMmaG) (g : Mma) : MRes :=
  match c.badOf (rngTracks (mmaGRanges g (f.groups.toNat + 1) m.a m.b m.c)) with
  | some w => (c, m.done, some (dataFault, w))
  | none =>
    c.runGroups m f g (c.spadNum m.a g.aBytes) (c.spadNum m.c (32 * g.nsb)) (f.groups.toNat + 1 - m.done) m.done

/-- The elements of a converted tile (R272). -/
def Core.zcvtTile (c : Core) (m : MOp) (f : MZcvt) : Nat × Flags :=
  let src : Fmt := if fmtAcc m.fmt then .i32 else .f32
  let sto := fmtSto m.fmt && stoTarget f.tgt
  let z := c.z.get f.z2
  let r := (List.range 1024).foldl (fun (acc : Word × List Nat × Flags) i =>
    let x := if sto then srndNext acc.1 else acc.1
    let y := convElem src f.tgt (fmtRnd m.fmt (srndDraw x)) (fmtSat m.fmt) (elem z 32 i)
    (x, acc.2.1 ++ [y.1], acc.2.2 ||| y.2)) (m.srnd, [], 0)
  (packElems f.tgt.width r.2.1, r.2.2)

/-- The sum of two tiles (R273). -/
def Core.zaddTile (c : Core) (m : MOp) (f : MZadd) : Nat × Flags :=
  let a := c.z.get f.z
  let b := c.z.get f.z2
  let rs := (List.range 1024).map fun i =>
    if fmtAcc m.fmt then ((elem a 32 i + elem b 32 i) % 2 ^ 32, (0 : Flags))
    else addF .f32 (fmtRndDet m.fmt) (decodeF .f32 (elem a 32 i)) (decodeF .f32 (elem b 32 i))
  (packElems 32 (rs.map (·.1)), rs.foldl (fun (x : Flags) (r : Nat × Flags) => x ||| r.2) 0)

/-- The lines of a byte string laid in a shadow (R232). -/
def shadowLines (eng : Eng) (sp : Space4) (no a : Nat) (bs : List Byte) : List Shadow :=
  let first := a / 64
  (List.range ((a + bs.length + 63) / 64 - first)).filterMap fun i =>
    let lo := max a (64 * (first + i))
    let hi := min (a + bs.length) (64 * (first + i) + 64)
    if lo < hi then some { eng := eng, sp := sp, addr := lo, data := (bs.drop (lo - a)).take (hi - lo), no := no } else none

def Core.shadow (c : Core) (l : List Shadow) : Core := { c with eng := { c.eng with shadow := c.eng.shadow ++ l } }

/-- An instruction other than a WLD at the end of its beats. -/
def Core.runM (c : Core) (m : MOp) : MRes :=
  match m.i with
  | .mma f =>
    (match mmaOf m.fmt f.k2 f.wb m.beats false with
     | some g => c.runMma m f g
     | none => c.mDone 0)
  | .mmaG f =>
    (match mmaOf m.fmt f.k2 true m.beats false with
     | some g => c.runMmaG m f g
     | none => c.mDone 0)
  | .zclr f =>
    ((List.finRange 8).foldl (fun c i => if f.mask.getLsbD i.val then c.setZ i 0 else c) c).mDone 0
  | .zld f =>
    (match badIn c.spadBad m.a 4096 with
     | some w => (c, 0, some (dataFault, w))
     | none => (c.setZ f.z (BitVec.ofNat 32768 (c.spadNum m.a 4096))).mDone 0)
  | .zst f => (c.shadow (shadowLines .matrix .loc m.no m.a (toBytes (zstBytes f) (c.z.get f.z).toNat))).mDone 0
  | .zcvt f => let r := c.zcvtTile m f; (c.setZ f.z (BitVec.ofNat 32768 r.1)).mDone r.2
  | .zadd f => let r := c.zaddTile m f; (c.setZ f.z (BitVec.ofNat 32768 r.1)).mDone r.2
  | _ => c.mDone 0

/-- Bytes written to the weight buffer. -/
def Core.wbufPut (c : Core) (a : Nat) (bs : List Byte) : Core :=
  { c with wbuf := c.wbuf.write a bs, wbufBad := badAfter c.wbufBad a bs.length }

/-- Unit j of a WLD: 64 raw bytes, or the 32 bytes of a block (R274). -/
def Core.wldUnit (c : Core) (m : MOp) (cw8 : Bool) (j : Nat) : Except (Nat × Nat) (List Byte) :=
  if cw8 then
    match cwStreamBlock c.spadGet Config.spadBytes m.b m.c j with
    | .error e => .error (decodeFault, e)
    | .ok bs => .ok bs
  else
    match badIn c.spadBad (m.b + 64 * j) 64 with
    | some w => .error (dataFault, w)
    | none => .ok (c.spadGet (m.b + 64 * j) 64)

/-- The units of a WLD from unit j on. -/
def Core.wldFrom (c : Core) (m : MOp) (cw8 : Bool) : (left : Nat) → (j : Nat) → MRes
  | 0, _ => c.mDone 0
  | left + 1, j =>
    match c.wldUnit m cw8 j with
    | .error e => (c, j, some e)
    | .ok bs => Core.wldFrom (c.wbufPut (m.a + (if cw8 then 32 else 64) * j) bs) m cw8 left (j + 1)

/-- A WLD, as far as it goes. -/
def Core.runWld (c : Core) (m : MOp) (cw8 : Bool) : MRes :=
  match (if cw8 then c.badOf m.track else none) with
  | some w => (c, m.done, some (dataFault, w))
  | none => c.wldFrom m cw8 ((if cw8 then m.c else m.c / 64) - m.done) m.done

/-- What an instruction of the queue does when its turn has come. -/
def Core.runOp (c : Core) (m : MOp) : MRes :=
  match m.i with
  | .wld f => c.runWld m f.cw8
  | _ => c.runM m

/-- The instruction writes its tile a while after its last beat (R264); the others are done at its end. -/
def MOp.landing (m : MOp) : Option Nat :=
  match m.i with
  | .wld _ | .zst _ => none
  | .zclr _ => some 1
  | _ => some 8

/-- An instruction of the queue once it has run: what stopped it, or the end of its reads (R264, R270). -/
def Core.afterRun (r : MRes) (i : Nat) : Core :=
  { r.1 with eng := { r.1.eng with mq := match r.2.2 with
      | some _ => r.1.eng.mq.modify i fun m => { m with done := r.2.1 }
      | none =>
        match r.1.eng.mq[i]?.bind MOp.landing with
        | none => removeAt r.1.eng.mq i
        | some _ => r.1.eng.mq.modify i fun m => { m with ran := true, track := [] } } }

/-- An instruction reads its sources once every earlier access of the task to them has performed (R232). -/
def Core.sourcesIn (c : Core) (m : MOp) : Bool := !c.behind m.no (m.track.map fun r => (.loc r.1, r.2)) false

/-- The instruction that the engine performs next, in the order of issue: the first that has not run, WLDs aside, once its
last beat has ended (R264). -/
def Core.nextM (c : Core) : Option (Nat × MOp) :=
  (c.eng.mq.zipIdx.find? fun x => !x.1.ran && x.1.wldPending.isNone).bind fun x =>
    if x.1.ends ≤ c.elapsed && c.sourcesIn x.1 then some (x.2, x.1) else none

/-- The WLD that transfers next: the first, once every instruction that issued before it has run (R264, R274). -/
def Core.nextWld (c : Core) : Option (Nat × MOp) :=
  (c.eng.mq.zipIdx.find? fun x => !x.1.ran).bind fun x =>
    if x.1.wldPending.isSome && c.sourcesIn x.1 then some (x.2, x.1) else none

/-- The first instruction of the queue that has run and whose write has landed: it leaves, and with it the busy bits of its
tiles (R264). -/
def Core.mLanded (c : Core) : Option Nat :=
  (c.eng.mq.zipIdx.find? fun x => x.1.ran && decide (x.1.ends + x.1.landing.getD 0 ≤ c.elapsed)).map (·.2)

/-- The matrix engine of a core goes on: an instruction at the end of its last beat has its effect and ORs its flags in,
and one whose write lands leaves (R96, R264). -/
def Core.matrixStep (c : Core) : Core :=
  match c.nextM with
  | some x => Core.afterRun (c.runOp x.2) x.1
  | none =>
    match c.mLanded with
    | some i => { c with eng := { c.eng with mq := removeAt c.eng.mq i } }
    | none => c

def execMatrixWriteLand (core : Nat) (s : State) : Host.Outcome State Fault Refusal :=
  if (s.coreAt core).held .matrix then .next s else .next (s.modCore core Core.matrixStep)

/-- The transfer of a WLD ends, or goes as far as it can (R274). -/
def Core.wldStep (c : Core) : Core :=
  match c.nextWld with
  | some x => Core.afterRun (c.runOp x.2) x.1
  | none => c

def execWldTransferDone (core : Nat) (s : State) : Host.Outcome State Fault Refusal :=
  if (s.coreAt core).held .matrix then .next s else .next (s.modCore core Core.wldStep)

/-- What stops the matrix engine where it stands: its next instruction, or its next WLD (R269, R274). -/
def Core.matrixStop (c : Core) : Option (Nat × Nat) :=
  ([c.nextM, c.nextWld].filterMap id).findSome? fun x => (c.runOp x.2).2.2

end Sys2Proof.Machine
end

