-- ==== Sys2Proof/Machine/Engines.lean ====
section
/-! DEFINITION. The copy engine, the stream generators and the hash engine (R232, R278–R288, R340, R343, R358), and the
commit of their shadows. An engine event does as much as the machine then lets it. -/

namespace Sys2Proof.Machine

/-! ## An engine at work -/

/-- How far a piece of engine work gets. -/
inductive Go where
  | ok
  | wait
  | token                        -- it waits for a bank-ownership token (R358)
  | fault (cause addr : Nat)
  deriving DecidableEq, Repr, Inhabited

/-- Work done at a core with that core in focus. -/
def State.atCore (s : State) (w : Nat) (f : State → State) : State := (f (s.focus w)).focus s.cur

/-- The newest byte that an engine's earlier commands have still to commit at a place (R278). -/
def Engines.shadowByte (e : Engines) (g : Eng) (sp : Space4) (a : Nat) : Option Byte :=
  (e.shadow.reverse.find? fun l => l.eng = g && l.sp = sp && decide (l.addr ≤ a) && decide (a < l.addr + l.data.length)).bind
    fun l => l.data[a - l.addr]?

/-- A range as the next command of an engine reads it. -/
def Engines.through (e : Engines) (g : Eng) (sp : Space4) (a : Nat) (bs : List Byte) : List Byte :=
  if e.shadow.any fun l => l.eng = g && l.sp = sp then bs.zipIdx.map fun x => (e.shadowByte g sp (a + x.2)).getD x.1 else bs

/-- Every byte of a range stands in the engine's shadow, and whether some line of it is tagged. -/
def Engines.inShadow (e : Engines) (g : Eng) (sp : Space4) (a n : Nat) : Bool :=
  (List.range n).all fun i => (e.shadowByte g sp (a + i)).isSome
def Engines.tagged (e : Engines) (g : Eng) (sp : Space4) (a n : Nat) : Bool :=
  e.shadow.any fun l => l.eng = g && l.sp = sp && l.tag && overlaps l.addr l.data.length a n

/-- Scratchpad bytes as an engine of the current core reads them; the first uncorrectable word (R384). -/
def State.engineRead (s : State) (g : Eng) (a n : Nat) : Except Nat (List Byte) :=
  let e := s.core.eng
  if e.tagged g .loc a n then .error a
  else
    match badIn s.core.spadBad a n with
    | some w => if e.inShadow g .loc a n then .ok (e.through g .loc a (s.core.spadGet a n)) else .error w
    | none => .ok (e.through g .loc a (s.core.spadGet a n))

/-! ## Ranges of engine commands (R151, R279) -/

/-- The check of Table 15·1 over a whole range. -/
def State.rangeLeaves (s : State) (sp : Space) (a n : Nat) : Bool :=
  match sp with
  | .loc => decide (Config.spadBytes < a + n)
  | .vm => decide (2 ^ 57 < a + n)
  | .win => (s.eaCheck .win (BitVec.ofNat 64 a) n 1).isSome || decide (2 ^ 29 ≤ a)

/-- The copy engine takes a command when it has room (R278). -/
def State.cpPush (s : State) (c : CpCmd) : Res :=
  if 4 ≤ s.core.eng.cps.length then .wait
  else .done { s.onEng fun e => { e with cps := e.cps ++ [{ c with no := s.stamp }] } with stamp := s.stamp + 1 }

def execCp (f : ECp) (s : State) : Host.Outcome State Fault Refusal :=
  s.issue (.cp f) fun s =>
    let d := s.core.readS .e f.d
    let a := s.core.readS .e f.a
    let n := s.core.readS .e f.b
    if 2097152 < n.toNat then .fault accessFault a
    else if n = 0 then .done s
    else if s.rangeLeaves f.dst d.toNat n.toNat then .fault accessFault d
    else if s.rangeLeaves f.src a.toNat n.toNat then .fault accessFault a
    else if f.dst = .loc && f.src = .loc && overlaps d.toNat n.toNat a.toNat n.toNat then .fault accessFault d
    else if n.toNat % 64 ≠ 0 || d.toNat % 64 ≠ 0 then .fault alignFault d
    else if a.toNat % 64 ≠ 0 then .fault alignFault a
    else s.cpPush { kind := .cp f.dst f.src, d := d.toNat, a := a.toNat, n := n.toNat }

/-- The checks of R280 on a stored name: its descriptor, or none for NAME-FAULT. -/
def State.homeDesc (s : State) (n : Quad) : Option (BitVec 256) :=
  if nameKind n ≠ 0 || nameRes n ≠ 0 || reservedTensor (nameTensor n) then none
  else (s.myDesc n).filter fun d => descHome d = 1 && inExtent d n

/-- A name stored in the scratchpad (R151, R384). -/
def State.storedName (s : State) (a : Word) : Except (Nat × Word) Quad :=
  match scratchCheck a 16 with
  | some e => .error e
  | none =>
    match badIn s.core.spadBad a.toNat 16 with
    | some w => .error (dataFault, BitVec.ofNat 64 w)
    | none => .ok (BitVec.ofNat 128 (ofBytes (s.core.spadGet a.toNat 16)))

def execCpName (f : EDA) (s : State) : Host.Outcome State Fault Refusal :=
  s.issue (.cpName f) fun s =>
    match s.storedName (s.core.readS .e f.a) with
    | .error e => .fault e.1 e.2
    | .ok n =>
      match s.homeDesc n with
      | none => .fault nameFault 8
      | some d =>
        match scratchCheck (s.core.readS .e f.d) (tileBytes d) with
        | some e => .fault e.1 e.2
        | none => s.cpPush { kind := .cp .loc .vm, d := (s.core.readS .e f.d).toNat, a := homeVa d n, n := tileBytes d }

/-- A window range at a rank that the task's launch has reserved (Table 15·1). -/
def State.rankReaches (s : State) (rank a n : Nat) : Bool :=
  (s.eaCheck .win (BitVec.ofNat 64 (rank * 2 ^ 21 + a)) n 1).isNone

def execCpWin (f : EDAB) (s : State) : Host.Outcome State Fault Refusal :=
  s.issue (.cpWin f) fun s =>
    let d := s.core.readS .e f.d
    let a := s.core.readS .e f.a
    let n := s.core.readS .e f.b
    let r := d.toNat % 256
    let c := d.toNat / 256 % 256
    if 2097152 < n.toNat then .fault accessFault a
    else if d.toNat / 65536 ≠ 0 || c = 0 || 192 < c || 192 < r + c then .fault accessFault d
    else if n = 0 then .done s
    else if s.rangeLeaves .loc a.toNat n.toNat then .fault accessFault a
    else if (List.range c).any fun i => !s.rankReaches (r + i) a.toNat n.toNat then .fault accessFault d
    else if n.toNat % 64 ≠ 0 || a.toNat % 64 ≠ 0 then .fault alignFault a
    else s.cpPush { kind := .win r c, d := d.toNat, a := a.toNat, n := n.toNat }

def execCpWait (f : ENone) (s : State) : Host.Outcome State Fault Refusal :=
  s.issue (.cpWait f) fun s =>
    if s.core.eng.cps.isEmpty && (s.core.eng.shadow.all fun l => l.eng ≠ .copy) then .done s else .wait

/-! ### The copy engine at work (R279–R281, R358) -/

/-- A line of a command's end: its place, once the units there answer (R205, R338). -/
def State.endSpot (s : State) (sp : Space) (a : Nat) (u : Use) : State × Except Go Spot :=
  match sp with
  | .loc => (s, .ok (.loc a))
  | .win =>
    (match s.winCore a with
     | none => (s, .error (.fault accessFault a))
     | some w => if w = s.cur then (s, .ok (.loc (a % 2 ^ 21)))
                 else if s.windowHeld w then (s, .error .wait) else (s, .ok (.win w (a % 2 ^ 21))))
  | .vm =>
    let r := s.xlate a u
    match r.2 with
    | .error f => (r.1, .error (if f.cause = heldBack then .wait else .fault f.cause (f.arg a).toNat))
    | .ok t =>
      if t.fe then (r.1, .error (.fault accessFault a))
      else if !r.1.channelsUp (t.paOf a) 64 t.gran then (r.1, .error .wait)
      else (r.1, .ok (.vm a (t.paOf a) t.gran (s.keyId s.core.task.part t.key) false t.lat))

/-- The bank of a scratchpad offset (R357). -/
def bankOf (o : Nat) : Nat := o / 65536 % 32

/-- Where the local destination of a copy command begins: in the own scratchpad, also when the own window or the own rank
among those of CP.WIN names it (R205, R281, R358). -/
def State.localDest (s : State) (c : CpCmd) : Option Nat :=
  match c.kind with
  | .cp .loc _ => some c.d
  | .cp .win _ => if s.winCore c.d = some s.cur then some (c.d % 2 ^ 21) else none
  | .cp .vm _ => none
  | .win f n => if (List.range n).any fun i => s.rankCore (clusterOf s.cur) (f + i) = some s.cur then some c.a else none

/-- The next line of a command begins a bank. -/
def CpCmd.begins (c : CpCmd) (base : Nat) : Bool := c.done = 0 || bankOf (base + c.done) ≠ bankOf (base + c.done - 64)

/-- Lines of the copy engine that have still to commit in a bank of the own scratchpad. -/
def Engines.bankBusy (e : Engines) (b : Nat) : Bool := e.shadow.any fun l => l.eng = .copy && l.sp = .loc && bankOf l.addr = b

/-- A producer waits for the token of the bank it writes next (R358). -/
def State.producerWaits (s : State) (m : CpCmd) : Bool :=
  let c := s.core
  c.chainEn && (match s.localDest m with
    | some d => c.tok.getLsbD (bankOf (d + m.done)) || (m.begins d && c.eng.bankBusy (bankOf (d + m.done)))
    | none => false)

/-- A line written to the shadow at a place. -/
def Core.shadowAt (c : Core) (no : Nat) (p : Spot) (bs : List Byte) (tag : Bool) : Core :=
  let l : Shadow := { eng := .copy, sp := p.space.1, addr := p.space.2, data := bs, tag := tag, no := no }
  match p with
  | .vm _ _ gran key _ lat => c.shadow [{ l with gran := gran, key := key, lat := lat }]
  | _ => c.shadow [l]

/-- The places of a line at a command's destinations, and which of them it writes: CP.WIN leaves the bytes of the own rank
as they were, and its line there is an empty one (R281, R358). -/
def State.destSpots (s : State) (c : CpCmd) : State × Except Go (List (Spot × Bool)) :=
  match c.kind with
  | .cp dst _ =>
    let r := s.endSpot dst (c.d + c.done) .store
    (r.1, r.2.map fun p => [(p, true)])
  | .win f n =>
    (List.range n).foldl (fun acc i =>
      match acc.2 with
      | .error e => (acc.1, .error e)
      | .ok ps =>
        let r := acc.1.endSpot .win ((f + i) * 2 ^ 21 + c.a + c.done) .store
        (r.1, r.2.map fun p => ps ++ [(p, decide (p.space.1 ≠ .loc))])) (s, .ok [])

/-- A line of a command's source, and whether it is uncorrectable (R278, R384). -/
def State.sourceLine (s : State) (p : Spot) : State × List Byte × Bool :=
  let e := s.core.eng
  let sp := p.space
  let r := s.readSpot s.cur p 64
  match r.2 with
  | .ok bs => (r.1, e.through .copy sp.1 sp.2 bs, e.tagged .copy sp.1 sp.2 64)
  | .error _ => (r.1, e.through .copy sp.1 sp.2 (List.replicate 64 0), e.tagged .copy sp.1 sp.2 64 || !e.inShadow .copy sp.1 sp.2 64)

/-- The next line of the command at the head of the copy engine. -/
def State.cpLine (s : State) (c : CpCmd) : State × Go :=
  let src := match c.kind with
    | .cp _ x => x
    | .win _ _ => .loc
  if s.producerWaits c then (s, .token)
  else
    let a := s.endSpot src (c.a + c.done) .load
    match a.2 with
    | .error g => (a.1, g)
    | .ok p =>
      if a.1.core.behind c.no [(p, 64)] false then (a.1, .wait)
      else
        let d := a.1.destSpots c
        match d.2 with
        | .error g => (d.1, g)
        | .ok ps =>
          let x := d.1.sourceLine p
          (x.1.onCore fun k =>
            let k1 := ps.foldl (fun (k : Core) p => k.shadowAt c.no p.1 (if p.2 then x.2.1 else []) (p.2 && x.2.2)) k
            { k1 with eng := { k1.eng with cps := k1.eng.cps.modify 0 fun c => { c with done := c.done + 64 } } }, .ok)

/-- The lines of the command at the head, as far as they go. -/
def State.cpRun (s : State) : Nat → State × Go
  | 0 => (s, .ok)
  | n + 1 =>
    match s.core.eng.cps with
    | [] => (s, .ok)
    | c :: _ =>
      if c.n ≤ c.done then (s.onEng fun e => { e with cps := e.cps.drop 1 }, .ok)
      else
        let r := s.cpLine c
        match r.2 with
        | .ok => r.1.cpRun n
        | g => (r.1, g)

/-- The copy engine's head command, as far as it goes. -/
def State.copyGo (s : State) : State × Go := s.cpRun (((s.core.eng.cps.head?.map fun c => (c.n - c.done) / 64).getD 0) + 1)

/-! ## The hash engine (R285–R287) -/

/-- Room for one more hash command (R278). -/
def State.hashPush (s : State) (d : Option Loc) (h : HashCmd) : Res :=
  if 2 ≤ s.core.eng.hashes.length then .wait
  else .done { s.onCore fun c => let c1 := c.await .e 1 d; { c1 with eng := { c1.eng with hashes := c1.eng.hashes ++ [(s.stamp, h)] } }
               with stamp := s.stamp + 1 }

def execHashSha (f : EHash) (s : State) : Host.Outcome State Fault Refusal :=
  s.issue (.hashSha f) fun s =>
    let d := s.core.readS .e f.d
    let a := s.core.readS .e f.a
    let n := s.core.readS .e f.b
    if Config.spadBytes < a.toNat + n.toNat then .fault accessFault a
    else
      match scratchCheck d 128 with
      | some e => .fault e.1 e.2
      | none =>
        if !f.final && n.toNat % 128 ≠ 0 then .fault alignFault a
        else s.hashPush none (.sha f.init f.final d.toNat a.toNat n.toNat)

def execHashCrc (f : ECrc) (s : State) : Host.Outcome State Fault Refusal :=
  s.issue (.hashCrc f) fun s =>
    let a := s.core.readS .e f.a
    let n := s.core.readS .e f.b
    let d := sLoc s.core.view f.d
    if Config.spadBytes < a.toNat + n.toNat then .fault accessFault a
    else
      s.hashPush d (.crc (if f.init then 0 else (s.core.readS .e f.d).toNat % 2 ^ 32)
        (d.filter fun l => !s.core.overtaken .e l) a.toNat n.toNat)

def execHashWait (f : ENone) (s : State) : Host.Outcome State Fault Refusal :=
  s.issue (.hashWait f) fun s =>
    if s.core.eng.hashes.isEmpty && (s.core.eng.shadow.all fun l => l.eng ≠ .hash) then .done s else .wait

/-- The state area after a HASH.SHA over some bytes (Table 19·4). -/
def shaArea (init final : Bool) (area bs : List Byte) : List Byte :=
  let h := if init then shaInit else (List.range 8).map fun i => BitVec.ofNat 64 (ofBytesBe ((area.drop (8 * i)).take 8))
  let len := (if init then 0 else ofBytes ((area.drop 64).take 16)) + bs.length
  let m := if final then bs ++ 0x80 :: List.replicate ((128 - (bs.length + 17) % 128) % 128) 0 ++ toBytesBe 16 (8 * len) else bs
  shaBytes (shaBlocks h m (m.length / 128)) ++ toBytes 16 len ++ List.replicate 48 0

/-- The command at the head of the hash engine. -/
def State.hashGo (s : State) : State × Go :=
  match s.core.eng.hashes with
  | [] => (s, .ok)
  | (no, h) :: _ =>
    let pop := fun (c : Core) => { c with eng := { c.eng with hashes := c.eng.hashes.drop 1 } }
    match h with
    | .sha first last d a n =>
      if s.core.behind no [(.loc a, n), (.loc d, 128)] false then (s, .wait)
      else
        (match s.engineRead .hash a n, (if first then .ok [] else s.engineRead .hash d 128) with
         | .error w, _ => (s, .fault dataFault w)
         | .ok _, .error w => (s, .fault dataFault w)
         | .ok bs, .ok area => (s.onCore fun c => (pop c).shadow (shadowLines .hash .loc no d (shaArea first last area bs)), .ok))
    | .crc seed d a n =>
      if s.core.behind no [(.loc a, n)] false then (s, .wait)
      else
        (match s.engineRead .hash a n with
         | .error w => (s, .fault dataFault w)
         | .ok bs => (s.onCore fun c => (pop c).land d (crcChain seed bs), .ok))

/-! ## Streams (R283, R284, R340) -/

/-- The generator of a stream register stopped: its hold, if any, ends with it. -/
def Core.dropStream (c : Core) (i : WReg) : Core :=
  { c.setW i {} with eng := { c.eng with holds := c.eng.holds.filter fun h => !(h.eng = .stream && h.w = i.val) } }

def execSbind (f : ESbind) (s : State) : Host.Outcome State Fault Refusal :=
  s.issue (.sbind f) fun s =>
    let a := s.core.readS .e f.a
    let n := s.core.readS .e f.b
    let z := elemBytes f.fmt
    if (s.core.w.get f.w).st ≠ .unbound then .fault streamFault (BitVec.ofNat 64 f.w.val)
    else if a.toNat % z ≠ 0 || n.toNat % z ≠ 0 then .fault alignFault a
    else if s.rangeLeaves .vm a.toNat n.toNat then .fault accessFault a
    else .done { s.onCore fun c => c.setW f.w
        { st := .bound, src := .vm, width := z, marker := decide (n = 0), pos := a.toNat, nextVa := a.toNat / 64 * 64,
          stop := a.toNat + n.toNat, window := f.window.toNat + 1, no := s.stamp }
      with stamp := s.stamp + 1 }

def execScloseMarker (f : EA) (s : State) : Host.Outcome State Fault Refusal :=
  s.issue (.scloseMarker f) fun s =>
    match s.storedName (s.core.readS .e f.a) with
    | .error e => .fault e.1 e.2
    | .ok n =>
      if nameKind n ≠ 2 || nameRes n ≠ 0 || reservedTensor (nameTensor n) || (s.myDesc n).isNone then .fault nameFault 8
      else if !s.resendRoom 1 then .wait
      else .done (s.pubJob none [] [{ name := s.ownName n }] false)

def execScloseUnbind (f : EW) (s : State) : Host.Outcome State Fault Refusal :=
  s.issue (.scloseUnbind f) fun s =>
    if (s.core.w.get f.w).st = .unbound then .done s
    else .done ((s.unregisterAll (s.streamRegs f.w.val)).onCore fun c => c.dropStream f.w)

/-- A line that the generator may request now: its window has room, and its partition's streams are not held (R312). -/
def State.streamAsks (s : State) (core : Nat) (x : Stream) : Bool :=
  x.src = .vm && x.st = .bound && decide (x.nextVa < x.stop) && decide (x.nextVa < x.pos / 64 * 64 + 64 * x.window) &&
    !(s.partAt (s.coreAt core).task.part).holdStr

/-- The physical ranges of a stream's range, as far as the range table covers it (R340). -/
def State.streamRanges (s : State) (core : Nat) (x : Stream) : List (Nat × Nat) :=
  let p := s.partAt (s.coreAt core).task.part
  (pageParts x.pos (x.stop - x.pos)).filterMap fun r => (p.streamPa r.1).map fun e => (e.1, r.2)

/-- Reads of a stream may start: every earlier store of the task that overlaps its range has been accepted by its rim agent
(R283), and no marker of the task from before the SBIND stands (R343). -/
def State.streamClear (s : State) (core : Nat) (x : Stream) : Bool :=
  let c := s.coreAt core
  let rs := s.streamRanges core x
  !c.marked x.no &&
    (c.eng.acc.all fun a => !(a.waits && decide (a.no < x.no) && a.kind.writes) ||
      !a.touches (rs.map fun r => (.vm 0 r.1 0 0 false 0, r.2))) &&
    (s.clusterAt (clusterOf core)).stbuf.all fun b =>
      !(b.task = c.task.addr && decide (b.no < x.no)) || !(rs.any fun r => b.hits r.1 r.2)

/-- The rim agent of a core's column on its partition's edge (R340). -/
def State.columnAgent (s : State) (core : Nat) : Nat :=
  let col := clusterCol (clusterOf core)
  if (s.partAt (s.coreAt core).task.part).owned.contains col then col else 16 + col

/-- A generator asks for its next line (R283). -/
def execStreamLineRequest (core : Nat) (w : Fin 8) (s : State) : Host.Outcome State Fault Refusal :=
  let x := (s.coreAt core).w.get w
  if s.streamAsks core x && (x.cleared || s.streamClear core x) then
    .next (s.modCore core fun c =>
      c.setW w { x with asked := x.asked ++ [(x.nextVa, s.rimNow (s.columnAgent core))], nextVa := x.nextVa + 64, cleared := true })
  else .next s

/-- The line at the head of a generator's requests: its bytes, or what stops it (R340, R422, R439). -/
def State.streamLine (s : State) (core : Nat) (x : Stream) : State × Except Go (List Byte) :=
  match x.asked with
  | [] => (s, .error .wait)
  | (va, _) :: _ =>
    let t := (s.coreAt core).task
    match (s.partAt t.part).streamPa va with
    | none => (s, .error (.fault pageFault va))
    | some (pa, e) =>
      if !s.keyUsable t.part (rangeKey e) t.tenant then (s, .error (.fault walkFault va))
      else if !s.channelsUp pa 64 (rangeGran e) || s.reloading 5 (s.columnAgent core) || !s.rimTurn (s.lineAsk core x) then (s, .error .wait)
      else
        let r := s.readVm core pa 64 (rangeGran e) (s.keyId t.part (rangeKey e))
        match r.2 with
        | none => (r.1, .error (.fault dataFault (s.badVa va pa 64 (rangeGran e))))
        | some bs => (r.1, .ok bs)

/-- Elements of a byte string. -/
def elements (w : Nat) (bs : List Byte) : List Nat := (List.range (bs.length / w)).map fun i => ofBytes ((bs.drop (w * i)).take w)

/-- A stream after its next line has come: the elements of the range, and the marker behind the last. -/
def Stream.take (x : Stream) (va : Nat) (bs : List Byte) : Stream :=
  let at_ := x.pos + x.width * x.buf.length
  let part := (bs.drop (at_ - va)).take (x.stop - at_)
  { x with buf := x.buf ++ elements x.width part, asked := x.asked.drop 1, marker := decide (x.stop ≤ va + 64) }

/-- A stream generator holds a fault. -/
def Core.streamHeld (c : Core) (w : Nat) : Bool := c.eng.holds.any fun h => h.eng = .stream && h.w = w

/-- The line at the head of a generator's requests arrives. -/
def execStreamLineReturn (core : Nat) (w : Fin 8) (s : State) : Host.Outcome State Fault Refusal :=
  let x := (s.coreAt core).w.get w
  if (s.coreAt core).streamHeld w.val then .next s
  else
    let r := s.streamLine core x
    match r.2 with
    | .error _ => .next s
    | .ok bs => .next (r.1.modCore core fun c => c.setW w (x.take (x.asked.headD (0, 0)).1 bs))

/-! ## Shadows commit (R232, R288, R358) -/

/-- The token of a bank passes to the consumer when the last line of a producer in it has committed (R358). -/
def State.tokenAfter (s : State) (b : Nat) : State :=
  let c := s.core
  let more := match c.eng.cps.head? with
    | some m => (match s.localDest m with
      | some d => decide (m.done < m.n) && !m.begins d && bankOf (d + m.done) = b
      | none => false)
    | none => false
  if c.chainEn && !c.eng.bankBusy b && !more then s.onCore fun c => { c with tok := c.tok ||| BitVec.ofNat 32 (2 ^ b) } else s

/-- The uncorrectable words of a line that was copied with its error tag. -/
def lineWords (a n : Nat) : List Nat := (List.range ((n + 7) / 8)).map fun i => a / 8 * 8 + 8 * i

def Core.spadTag (c : Core) (l : Shadow) : Core :=
  let c1 := c.spadPut l.addr l.data
  if l.tag then { c1 with spadBad := lineWords l.addr l.data.length ++ c1.spadBad.filter fun x => !(lineWords l.addr l.data.length).contains x }
  else c1

/-- A tagged line reaches memory: what the store buffer holds for it drains first, and its granules are uncorrectable. -/
def State.vmTag (s : State) (q : Nat) (l : Shadow) : State :=
  let s1 := (s.drainOver q l.addr l.data.length).writePa l.addr l.data l.gran l.key
  { s1 with hbm := s1.hbm.taint l.gran l.addr l.data.length }

/-- One line commits at its destination; a committed virtual line is a store that the cluster's buffer has taken. -/
def State.commitLine (s : State) (w : Nat) (l : Shadow) : State :=
  match l.sp with
  | .loc =>
    let s1 := s.modCore w fun c => c.spadTag l
    if l.eng = .copy then s1.atCore w fun s => s.tokenAfter (bankOf l.addr) else s1
  | .win v => s.modCore v fun c => c.spadTag l
  | .vm =>
    if l.tag then s.vmTag (clusterOf w) l
    else s.modCluster (clusterOf w) fun c =>
      { c with stbuf := c.stbuf ++ [{ s.bufEntry w l.no l.addr l.gran l.key l.lat (l.data.map some) with eng := true }] }

/-- The batch that a run writes next goes on in the line: it is not whole yet. -/
def Engines.filling (e : Engines) (l : Shadow) : Bool :=
  l.eng = .celadon && (match e.lcs.head? with
    | some (_, .run _ d _ _ ocnt _ _ done) => decide (0 < done) && (d + 8 * ocnt * done) / 64 = l.addr / 64 &&
        decide (l.addr < d + 8 * ocnt * done)
    | _ => false)

/-- The place of a line. -/
def Shadow.spot (l : Shadow) : Spot :=
  match l.sp with
  | .loc => .loc l.addr
  | .win w => .win w l.addr
  | .vm => .vm 0 l.addr l.gran l.key false l.lat

/-- The line may commit: no earlier line of the shadow overlaps it, accesses of the task to its bytes that issued before
its command have performed (log entry 64), and its sibling's banks and its channel answer (R278, R205, R338). -/
def State.commits (s : State) (w i : Nat) (l : Shadow) : Bool :=
  let e := (s.coreAt w).eng
  !e.filling l && !(s.coreAt w).behind l.no [(l.spot, l.data.length)] true && (e.shadow.take i).all (fun x => !(x.sp = l.sp && overlaps x.addr x.data.length l.addr l.data.length)) &&
    (match l.sp with
     | .win v => !s.windowHeld v
     | .vm => !l.tag || s.channelsUp l.addr l.data.length l.gran
     | .loc => true)

/-- A line of a core's shadow commits, whole. -/
def execShadowCommit (core line : Nat) (s : State) : Host.Outcome State Fault Refusal :=
  let e := (s.coreAt core).eng
  match e.shadow[line]? with
  | none => .next s
  | some l =>
    if s.commits core line l then
      .next ((s.modCore core fun c => { c with eng := { c.eng with shadow := removeAt c.eng.shadow line } }).commitLine core l)
    else .next s

end Sys2Proof.Machine
end

