-- ==== Sys2Proof/Machine/Celadon.lean ====
section
/-! DEFINITION. The Celadon fabric (R344–R374): its slots, the commands of its cores, the loading and running of wirings,
its repair; and the steps of every engine of a core: a command done, a fault held (R379). -/

namespace Sys2Proof.Machine

/-! ## Cell words (Tables 25·1, 25·2) -/

def cellTT (w : CellWord) : Nat := field w 96 64
def cellSel (w : CellWord) (k : Nat) : Nat := field w (18 + 13 * k) 13
def cellLevel (w : CellWord) : Nat := field w 14 4
def cellEn (w : CellWord) : Bool := bitOf w 13

/-- The cell that a selector names. -/
def selCell (x : Nat) : Option Nat := if bitAt x 12 then none else some (x % 4096)

/-- A selector in image form is legal by itself. -/
def selOk (x : Nat) : Bool :=
  if bitAt x 12 then bitsAt x 10 2 = 0 || (bitsAt x 10 2 = 1 && bitsAt x 1 9 = 0) else bitsAt x 8 4 = 0

/-- The signal that a selector chooses, one bit a lane (R347). -/
def selSignal (nin : Nat) (planes : List Nat) (outs : Table Nat) (x : Nat) : Nat :=
  match selCell x with
  | some c => Table.get 0 outs c
  | none =>
    if bitsAt x 10 2 = 0 then (if x % 1024 < nin then planes.getD (x % 1024) 0 else 0)
    else if x % 2 = 1 then 2 ^ 64 - 1 else 0

/-- The output of a cell in all 64 lanes. -/
def cellOut (nin : Nat) (planes : List Nat) (outs : Table Nat) (w : CellWord) : Nat :=
  let sigs := (List.range 6).map fun k => selSignal nin planes outs (cellSel w k)
  packElems 1 ((List.range 64).map fun l =>
    bitsAt (cellTT w) (packElems 1 (sigs.map fun g => bitsAt g l 1)) 1)

/-- The outputs of a batch, level by level (R347). -/
def batchOuts (cells : Table CellWord) (nin : Nat) (planes : List Nat) : Table Nat :=
  (List.range 16).foldl (fun outs lv =>
    outs ++ (cells.filter fun c => cellEn c.2 && cellLevel c.2 = lv).map fun c => (c.1, cellOut nin planes outs c.2)) []

/-! ## Slots (R349, R355, R369) -/

/-- The fabric of the current core's cluster. -/
def State.fabSlot (s : State) (q n : Nat) : FabSlot := (s.clusterAt q).fab.get (Fin.ofNat 4 n)
def State.setSlot (s : State) (q n : Nat) (f : FabSlot) : State :=
  s.modCluster q fun c => { c with fab := c.fab.set (Fin.ofNat 4 n).val f (Fin.ofNat 4 n).isLt }

/-- A block is fused off (R344). -/
def Cluster.fused (c : Cluster) (b : Nat) : Bool := c.fuse.getLsbD b

/-- A slot belongs to the running task's launch. -/
def State.ownsSlot (s : State) (f : FabSlot) : Bool :=
  f.st ≠ .empty && f.part = s.core.task.part && f.launch = s.core.task.launch

/-- An ABORT or a REL of another core has reached the fabric and waits on the slot: commands that come after it find the slot
gone (R361). -/
def State.slotClosing (s : State) (f : FabSlot) : Bool := f.closing.any fun w => w ≠ s.cur

/-- The wiring rule of R355. -/
def wiringOk (cl : Cluster) (cells : Table CellWord) : Bool :=
  cells.all fun c => !cellEn c.2 || (List.range 6).all fun k =>
    match selCell (cellSel c.2 k) with
    | none => true
    | some x =>
      match Table.find cells x with
      | none => false
      | some w => cellEn w && !cl.fused (x / 16) && decide (cellLevel w < cellLevel c.2)

/-- The placed words in cell-index order (R356). -/
def placedBytes (cells : Table CellWord) : List Byte :=
  (List.range 4096).flatMap fun i => toBytes 20 (Table.get 0 cells i).toNat

def SlotSt.code : SlotSt → Nat
  | .empty => 0
  | .open_ => 1
  | .ready => 2
  | .poisoned => 3

/-- The status word (Table 25·10). -/
def FabSlot.status (f : FabSlot) : Word :=
  let r := f.rej.getD (0, 0, 0)
  BitVec.ofNat 64 (f.st.code * 2 ^ 60 + f.launch % 2 ^ 16 * 2 ^ 44 + r.1 % 256 * 2 ^ 32 + r.2.1 % 16 * 2 ^ 28
    + r.2.2 % 256 * 2 ^ 20 + f.blks.length * 2 ^ 8)

/-! ## Commands that the fabric answers in place (R359, R361, R369, R371, R373) -/

/-- The cluster of the current core. -/
def State.myCluster (s : State) : Nat := clusterOf s.cur

/-- A command that another core has at the fabric on a slot. -/
def State.slotBusy (s : State) (n : Nat) (run : Bool) : Bool :=
  (s.coresOf s.myCluster).any fun w => (s.coreAt w).eng.lcs.any fun l =>
    match l.2 with
    | .tbl k .. => !run && k = n
    | .run k .. => run && k = n
    | _ => false

/-- A slot operand: an owned slot in one of some states, else ACCESS-FAULT. -/
def State.slotArg (s : State) (v : Word) (sts : List SlotSt) : Option FabSlot :=
  if 4 ≤ v.toNat then none
  else
    let f := s.fabSlot s.myCluster v.toNat
    if s.ownsSlot f && !s.slotClosing f && sts.contains f.st then some f else none

def execLcCtxOpen (f : ED) (s : State) : Host.Outcome State Fault Refusal :=
  s.issue (.lcCtxOpen f) fun s =>
    if !s.core.eng.lcs.isEmpty then .wait
    else
      match (List.range 4).find? fun n => (s.fabSlot s.myCluster n).st = .empty with
      | none => .done (s.onCore fun c => c.writeS .e 1 f.d (BitVec.ofNat 64 (2 ^ 64 - 1)))
      | some n =>
        .done ((s.setSlot s.myCluster n { st := .open_, part := s.core.task.part, launch := s.core.task.launch }).onCore fun c =>
          c.writeS .e 1 f.d (BitVec.ofNat 64 n))

/-- The status that a commit writes, in the order of R371. -/
def commitStatus (cl : Cluster) (f : FabSlot) (expect : List Byte) : Nat :=
  if f.rej.isSome then 2 else if sha512 f.msg ≠ expect then 1 else if !wiringOk cl f.cells then 3 else 0

def execLcCtxCommit (f : EDAB) (s : State) : Host.Outcome State Fault Refusal :=
  s.issue (.lcCtxCommit f) fun s =>
    let a := s.core.readS .e f.a
    let b := s.core.readS .e f.b
    if !s.core.eng.lcs.isEmpty then .wait
    else
      match s.slotArg a [.open_] with
      | none => .fault accessFault a
      | some x =>
        match scratchCheck b 64 with
        | some e => .fault e.1 e.2
        | none =>
          if s.slotBusy a.toNat false || s.core.behind s.stamp [(.loc b.toNat, 64)] false then .wait
          else
            match badIn s.core.spadBad b.toNat 64 with
            | some w => .fault dataFault (BitVec.ofNat 64 w)
            | none =>
              let st := commitStatus (s.clusterAt s.myCluster) x (s.core.spadGet b.toNat 64)
              let s1 := if st = 0 then s.setSlot s.myCluster a.toNat { x with st := .ready } else s
              .done (s1.onCore fun c => c.writeS .e 1 f.d (BitVec.ofNat 64 st))

/-- ABORT and REL: the slot returns to EMPTY once the runs accepted earlier on it have finished; from the moment they reach
the fabric the slot is closing (R361, R373). -/
def State.emptySlot (s : State) (a : Word) (sts : List SlotSt) : Res :=
  if !s.core.eng.lcs.isEmpty then .wait
  else
    match s.slotArg a sts with
    | none => .fault accessFault a
    | some f =>
      if s.slotBusy a.toNat true then .stay (s.setSlot s.myCluster a.toNat { f with closing := some s.cur })
      else .done (s.setSlot s.myCluster a.toNat {})

def execLcCtxAbort (f : EA) (s : State) : Host.Outcome State Fault Refusal :=
  s.issue (.lcCtxAbort f) fun s => s.emptySlot (s.core.readS .e f.a) [.open_]

def execLcCtxRel (f : EA) (s : State) : Host.Outcome State Fault Refusal :=
  s.issue (.lcCtxRel f) fun s => s.emptySlot (s.core.readS .e f.a) [.ready, .poisoned]

def execLcStat (f : EStat) (s : State) : Host.Outcome State Fault Refusal :=
  s.issue (.lcStat f) fun s =>
    if !s.core.eng.lcs.isEmpty then .wait
    else
      let v : Word := if f.what = 0 then (s.fabSlot s.myCluster f.slot.toNat).status
        else BitVec.ofNat 64 (field (s.clusterAt s.myCluster).fuse (64 * (f.what.toNat - 1)) 64)
      .done (s.onCore fun c => c.writeS .e 1 f.d v)

/-! ## Commands that the fabric accepts (R359–R368) -/

/-- A command joins those outstanding at the fabric. -/
def State.lcPush (s : State) (c : LcCmd) : Res :=
  if 4 ≤ s.core.eng.lcs.length then .wait
  else .done { s.onEng fun e => { e with lcs := e.lcs ++ [(s.stamp, c)] } with stamp := s.stamp + 1 }

/-- Some ranges from aligned bases: ACCESS-FAULT before ALIGN-FAULT. -/
def State.lcIssue (s : State) (l : List (Nat × Nat)) (c : LcCmd) : Res :=
  match rngFault (l.map fun r => { a := r.1, n := r.2 }) with
  | some e => .fault e.1 e.2
  | none => s.lcPush c

def execLcTbl (f : ETbl) (s : State) : Host.Outcome State Fault Refusal :=
  s.issue (.lcTbl f) fun s =>
    let d := s.core.readS .e f.d
    let a := (s.core.readS .e f.a).toNat
    let n := s.core.readS .e f.b
    if n = 0 || 16 < n.toNat then .fault accessFault n
    else if (s.slotArg d [.open_]).isNone then .fault accessFault d
    else s.lcIssue [(a, 384 * n.toNat), (64 * f.map.toNat, 16)] (.tbl d.toNat a n.toNat (64 * f.map.toNat) 0)

def execLcSel (f : ESel) (s : State) : Host.Outcome State Fault Refusal :=
  s.issue (.lcSel f) fun s =>
    match f.k with
    | .imm k => .done (s.onCore fun c => { c with lcs := BitVec.ofNat 3 (4 + k.toNat) })
    | .reg a =>
      let v := s.core.readS .e a
      if 4 ≤ v.toNat then .fault accessFault v else .done (s.onCore fun c => { c with lcs := BitVec.ofNat 3 (4 + v.toNat) })

def execLcRun (f : EDAB) (s : State) : Host.Outcome State Fault Refusal :=
  s.issue (.lcRun f) fun s =>
    let d := (s.core.readS .e f.d).toNat
    let a := (s.core.readS .e f.a).toNat
    let b := s.core.readS .e f.b
    let nb := field b 48 16 + 1
    let ocnt := field b 32 13
    let ofirst := field b 16 12
    let nin := field b 0 11
    let slot := s.core.lcs.toNat % 4
    if !bitOf s.core.lcs 2 || (s.slotArg (BitVec.ofNat 64 slot) [.ready, .poisoned]).isNone then .fault accessFault (BitVec.ofNat 64 slot)
    else if field b 45 3 ≠ 0 || field b 28 4 ≠ 0 || field b 11 5 ≠ 0 || ocnt = 0 || 4096 < ocnt || nin = 0 || 1024 < nin ||
        4096 < ofirst + ocnt then .fault accessFault b
    else s.lcIssue [(d, 8 * ocnt * nb), (a, 8 * nin * nb)] (.run slot d a nb ocnt ofirst nin 0)

/-- Code and bytes of an element of LC.TSLICE and LC.UNSLICE. -/
def sliceCode : Fmt → Nat
  | .i8 => 0
  | .e4m3 => 1
  | _ => 2
def unsliceBytes : Fmt → Nat
  | .n8 => 1
  | .n16 => 2
  | _ => 4

def execLcTslice (f : ETslice) (s : State) : Host.Outcome State Fault Refusal :=
  s.issue (.lcTslice f) fun s =>
    let d := (s.core.readS .e f.d).toNat
    let a := (s.core.readS .e f.a).toNat
    let b := s.core.readS .e f.b
    let fs := field b 0 10 + 1
    let nb := field b 32 16 + 1
    let nt := f.nt.toNat + 1
    let cmd : LcCmd := .tslice (sliceCode f.fmt) nt (64 * f.thr.toNat) d a fs nb
    if field b 10 22 ≠ 0 || field b 48 16 ≠ 0 || 1024 < fs * nt then .fault accessFault b
    else s.lcIssue (cmd.dest ++ cmd.sources) cmd

def execLcUnslice (f : EUnslice) (s : State) : Host.Outcome State Fault Refusal :=
  s.issue (.lcUnslice f) fun s =>
    let d := (s.core.readS .e f.d).toNat
    let a := (s.core.readS .e f.a).toNat
    let b := s.core.readS .e f.b
    let nv := field b 0 12 + 1
    let nb := field b 32 16 + 1
    let w := f.w.toNat + 1
    let cmd : LcCmd := .unslice (unsliceBytes f.elt) w d a nv nb
    if field b 12 20 ≠ 0 || field b 48 16 ≠ 0 || 4096 < nv * w then .fault accessFault b
    else s.lcIssue (cmd.dest ++ cmd.sources) cmd

def execLcPop (f : EDAB) (s : State) : Host.Outcome State Fault Refusal :=
  s.issue (.lcPop f) fun s =>
    let d := (s.core.readS .e f.d).toNat
    let a := (s.core.readS .e f.a).toNat
    let b := s.core.readS .e f.b
    let ng := field b 0 12 + 1
    let g := field b 16 12 + 1
    let nb := field b 32 16 + 1
    let cmd : LcCmd := .pop d a ng g nb
    if field b 12 4 ≠ 0 || field b 28 4 ≠ 0 || field b 48 16 ≠ 0 || 4096 < ng * g then .fault accessFault b
    else s.lcIssue (cmd.dest ++ cmd.sources) cmd

def execLcWait (f : ENone) (s : State) : Host.Outcome State Fault Refusal :=
  s.issue (.lcWait f) fun s =>
    if s.core.eng.lcs.isEmpty && (s.core.eng.shadow.all fun l => l.eng ≠ .celadon) then .done s else .wait

/-! ## The fabric at work -/

/-- Banks that a range touches. -/
def rangeBanks (a n : Nat) : List Nat := if n = 0 then [] else (List.range ((a + n - 1) / 65536 - a / 65536 + 1)).map fun i => (a / 65536 + i) % 32

/-- The commands that consume tokens (R358). -/
def LcCmd.consumes : LcCmd → Bool
  | .tbl .. => true
  | .run .. => true
  | .tslice .. => true
  | _ => false

/-- What the next unit of a command reads. -/
def LcCmd.reads : LcCmd → List (Nat × Nat)
  | .tbl _ src _ map done => [(src + 384 * done, 384), (map, 16)]
  | .run _ _ a _ _ _ nin done => [(a + 8 * done * nin, 8 * nin)]
  | c => c.sources

/-- What a command has still to read. -/
def LcCmd.unread : LcCmd → List (Nat × Nat)
  | .tbl _ src n map done => [(src + 384 * done, 384 * (n - done)), (map, 16)]
  | .run _ _ a nb _ _ nin done => [(a + 8 * done * nin, 8 * (nb - done) * nin)]
  | c => c.sources

/-- What an LC.TBL has read. -/
def LcCmd.seen : LcCmd → List (Nat × Nat)
  | .tbl _ src _ map done => if done = 0 then [] else [(src, 384 * done), (map, 16)]
  | _ => []

/-- The command after its next unit; none when that was the last. -/
def LcCmd.next : LcCmd → Option LcCmd
  | .tbl slot src n map done => if done + 1 < n then some (.tbl slot src n map (done + 1)) else none
  | .run slot d a nb ocnt ofirst nin done => if done + 1 < nb then some (.run slot d a nb ocnt ofirst nin (done + 1)) else none
  | _ => none

/-- The head of a core's commands, having read some ranges, replaced by what is left of it, and the tokens of the banks it
has read out (R358). -/
def Core.lcAfter (c : Core) (now : LcCmd) (ranges : List (Nat × Nat)) (left : Option LcCmd) : Core :=
  let banks := (ranges.flatMap fun r => rangeBanks r.1 r.2).filter fun b =>
    !((left.elim [] LcCmd.unread).any fun r => (rangeBanks r.1 r.2).contains b)
  { c with
    eng := { c.eng with lcs := ((c.eng.lcs.take 1).flatMap fun h => left.toList.map fun l => (h.1, l)) ++ c.eng.lcs.drop 1 }
    tok := if c.chainEn && now.consumes then banks.foldl (fun t b => t &&& ~~~(BitVec.ofNat 32 (2 ^ b))) c.tok else c.tok }

/-- Output bytes join the shadow; a line that two batches share is one line. -/
def Shadow.joins (x l : Shadow) : Bool :=
  x.eng = l.eng && x.sp = l.sp && x.addr / 64 = l.addr / 64 && x.addr + x.data.length = l.addr

def Core.shadowGrow (c : Core) (l : Shadow) : Core :=
  match c.eng.shadow.findIdx? (·.joins l) with
  | some i => { c with eng := { c.eng with shadow := c.eng.shadow.modify i fun x => { x with data := x.data ++ l.data } } }
  | none => c.shadow [l]

def Core.lcOutput (c : Core) (no a : Nat) (bs : List Byte) : Core :=
  (shadowLines .celadon .loc no a bs).foldl Core.shadowGrow c

/-- Why a record is rejected (Table 25·6). -/
def recordReason (cl : Cluster) (f : FabSlot) (map rec : List Byte) : Nat :=
  let at_ := fun i n => (rec.drop i).take n
  let ib := ofBytes (at_ 320 1)
  let words := (List.range 16).map fun c => BitVec.ofNat 160 (ofBytes (at_ (20 * c) 20))
  let target := fun b => (map.getD b 0).toNat
  if ofBytes (at_ 380 4) ≠ crc32c (rec.take 380) then 1
  else if ib ≥ 16 || (at_ 321 59).any (· ≠ 0) || words.any fun w => field w 0 13 ≠ 0 then 2
  else if cl.fused (target ib) then 3
  else if f.blks.contains (target ib) then 4
  else if words.any fun w => (List.range 6).any fun k =>
      let x := cellSel w k
      !selOk x || (!bitAt x 12 && cl.fused (target (bitsAt x 4 4))) then 5
  else 0

/-- A cell word as LC.TBL places it (R353). -/
def placeWord (map : List Byte) (w : CellWord) : CellWord :=
  (List.range 6).foldl (fun w k =>
    let x := cellSel w k
    if bitAt x 12 then w else setField w (18 + 13 * k) 13 ((map.getD (bitsAt x 4 4) 0).toNat * 16 + x % 16)) w

/-- The words of an accepted record in the slot; a zero word is not listed. -/
def placeCells (cells : Table CellWord) (block : Nat) (words : List CellWord) : Table CellWord :=
  words.zipIdx.foldl (fun t w => if w.1 = 0 then Table.drop t (16 * block + w.2) else Table.set t (16 * block + w.2) w.1) cells

/-- One record into an OPEN slot: placed, or rejected with its reason (R353–R355). The IB and the target that the status
word shows of a record whose IB is 16 or more are free values. -/
def State.loadRecord (s : State) (q slot : Nat) (map rec : List Byte) : State × Bool :=
  let f := s.fabSlot q slot
  let f1 := { f with msg := f.msg ++ rec }
  let ib := ofBytes ((rec.drop 320).take 1)
  let reason := recordReason (s.clusterAt q) f map rec
  if reason ≠ 0 then
    if ib < 16 then (s.setSlot q slot { f1 with rej := some (reason, ib, (map.getD ib 0).toNat) }, false)
    else
      ({ s.setSlot q slot { f1 with rej := some (reason, (Config.freeByte s.freeCtr).toNat % 16, (Config.freeByte (s.freeCtr + 1)).toNat) }
         with freeCtr := s.freeCtr + 2 }, false)
  else
    let b := (map.getD ib 0).toNat
    let words := (List.range 16).map fun c => placeWord map (BitVec.ofNat 160 (ofBytes ((rec.drop (20 * c)).take 20)))
    (s.setSlot q slot { f1 with cells := placeCells f1.cells b words, blks := b :: f1.blks }, true)

/-- The plane numbers of a byte string. -/
def planesOf (bs : List Byte) (n : Nat) : List Nat := (List.range n).map fun i => ofBytes ((bs.drop (8 * i)).take 8)

/-- Bytes of planes. -/
def planeBytes (l : List Nat) : List Byte := l.flatMap (toBytes 8)

/-- x ≥ h for an element and a threshold (R365). -/
def sliceGe (code x h : Nat) : Bool :=
  match code with
  | 0 => decide (signed 8 h ≤ signed 8 x)
  | 1 => fcond .ge (decodeF .e4m3 x) (decodeF .e4m3 h)
  | _ => fcond .ge (decodeF .f16 x) (decodeF .f16 h)

/-- The planes of LC.TSLICE. -/
def tslicePlanes (code nt f nb : Nat) (src thr : List Byte) : List Nat :=
  let e := code / 2 + 1
  let el := fun (bs : List Byte) i => ofBytes ((bs.drop (e * i)).take e)
  (List.range nb).flatMap fun i => (List.range f).flatMap fun j => (List.range nt).map fun t =>
    packElems 1 ((List.range 64).map fun l => (sliceGe code (el src (64 * f * i + f * l + j)) (el thr (nt * j + t))).toNat)

/-- The elements of LC.UNSLICE. -/
def unsliceElems (w nv nb : Nat) (planes : List Nat) : List Nat :=
  (List.range nb).flatMap fun i => (List.range 64).flatMap fun l => (List.range nv).map fun v =>
    packElems 1 ((List.range w).map fun b => bitsAt (planes.getD (nv * w * i + w * v + b) 0) l 1)

/-- The counts of LC.POP. -/
def popCounts (ng g nb : Nat) (planes : List Nat) : List Nat :=
  (List.range nb).flatMap fun i => (List.range 64).flatMap fun l => (List.range ng).map fun k =>
    ((List.range g).map fun x => bitsAt (planes.getD (ng * g * i + g * k + x) 0) l 1).sum

/-- One batch of a run (R347, R364). -/
def runBatch (f : FabSlot) (ocnt ofirst nin : Nat) (bs : List Byte) : List Byte :=
  let outs := batchOuts f.cells nin (planesOf bs nin)
  planeBytes ((List.range ocnt).map fun j => Table.get 0 outs (ofirst + j))

/-- Why the head of the current core's commands cannot go on: an earlier access of the task (R360), a token (R358), or an
uncorrectable word of its source (R384). -/
def State.lcStop (s : State) (no : Nat) (c : LcCmd) : Option Go :=
  if s.core.behind no (c.reads.map fun r => (.loc r.1, r.2)) false then some .wait
  else if s.core.chainEn && c.consumes && (c.reads.flatMap fun r => rangeBanks r.1 r.2).any fun b => !s.core.tok.getLsbD b then some .token
  else (s.core.badOf c.reads).map fun w => .fault dataFault w

/-- The command at the head of the current core's commands, one unit of it: a record, a batch, or a whole tensor. -/
def State.celadonGo (s : State) : State × Go :=
  let q := s.myCluster
  match s.core.eng.lcs with
  | [] => (s, .wait)
  | (no, c) :: _ =>
    let get := fun (r : Nat × Nat) => s.core.spadGet r.1 r.2
    let after := fun (s : State) (left : Option LcCmd) => s.onCore fun k => k.lcAfter c c.reads left
    match c with
    | .tbl slot src _ map done =>
      let f := s.fabSlot q slot
      if !(s.ownsSlot f && f.st = .open_) || f.rej.isSome then (s.onCore fun k => k.lcAfter c c.seen none, .ok)
      else
        (match s.lcStop no c with
         | some g => (s, g)
         | none =>
           let r := s.loadRecord q slot (get (map, 16)) (get (src + 384 * done, 384))
           (after r.1 (if r.2 then c.next else none), .ok))
    | .run slot d a _ ocnt ofirst nin done =>
      let f := s.fabSlot q slot
      if f.st = .poisoned then (s, .fault dataFault f.badCell)
      else
        (match s.lcStop no c with
         | some g => (s, g)
         | none =>
           let out := runBatch f ocnt ofirst nin (get (a + 8 * done * nin, 8 * nin))
           ((after s c.next).onCore fun k => k.lcOutput no (d + 8 * ocnt * done) out, .ok))
    | .tslice code nt thr d a fs nb =>
      (match s.lcStop no c with
       | some g => (s, g)
       | none =>
         let e := code / 2 + 1
         let out := tslicePlanes code nt fs nb (get (a, e * 64 * fs * nb)) (get (thr, e * nt * fs))
         ((after s none).onCore fun k => k.lcOutput no d (planeBytes out), .ok))
    | .unslice e w d a nv nb =>
      (match s.lcStop no c with
       | some g => (s, g)
       | none =>
         let out := unsliceElems w nv nb (planesOf (get (a, 8 * nv * w * nb)) (nv * w * nb))
         ((after s none).onCore fun k => k.lcOutput no d (out.flatMap (toBytes e)), .ok))
    | .pop d a ng g nb =>
      (match s.lcStop no c with
       | some g => (s, g)
       | none =>
         let out := popCounts ng g nb (planesOf (get (a, 8 * ng * g * nb)) (ng * g * nb))
         ((after s none).onCore fun k => k.lcOutput no d (out.flatMap (toBytes 2)), .ok))

/-- Which kinds of command a step of the fabric takes. -/
def LcCmd.isTbl : LcCmd → Bool
  | .tbl .. => true
  | _ => false
def LcCmd.isRun : LcCmd → Bool
  | .run .. => true
  | _ => false

/-! ### Waits on tokens (R358, R379) -/

/-- An engine waits on a token: a hold that posts no message, from the cycle at which the wait began. -/
def Core.tokenHold (c : Core) (g : Eng) : Core :=
  if c.eng.holds.any fun h => h.eng = g then c
  else { c with eng := { c.eng with holds := c.eng.holds ++ [{ eng := g, cause := 0, addr := 0, since := c.cycle.toNat, posted := false }] } }

/-- The wait is over. -/
def Core.tokenFree (c : Core) (g : Eng) : Core :=
  { c with eng := { c.eng with holds := c.eng.holds.filter fun h => !(h.eng = g && !h.posted) } }

/-- An engine's piece of work, with the note of a wait on a token. -/
def State.noteToken (g : Eng) (r : State × Go) : State :=
  match r.2 with
  | .ok => r.1.onCore fun c => c.tokenFree g
  | .token => r.1.onCore fun c => c.tokenHold g
  | _ => r.1

/-- The head command of a core moves on. -/
def State.fabricGo (s : State) (w : Nat) : State := s.atCore w fun s => State.noteToken .celadon s.celadonGo

/-- The cores of a cluster whose head command is of a kind and can move. -/
def State.fabricReady (s : State) (q : Nat) (kind : LcCmd → Bool) : List Nat :=
  (s.coresOf q).filter fun w =>
    let c := s.coreAt w
    !c.held .celadon && c.eng.lcs.head?.elim false (fun h => kind h.2) && s.fabricGo w ≠ s

/-- One of them moves: commands of different cores reach the fabric in an unspecified order (R370). -/
def State.fabricStep (s : State) (q : Nat) (kind : LcCmd → Bool) : State :=
  let ws := s.fabricReady q kind
  match ws[s.choice ws.length]? with
  | some w => (s.chosen ws.length).fabricGo w
  | none => s

/-- The fabric reads one record of an LC.TBL (R353–R355, R372). -/
def execCeladonRecordLoad (cluster : Nat) (s : State) : Host.Outcome State Fault Refusal := .next (s.fabricStep cluster LcCmd.isTbl)

/-- The fabric runs one batch (R347, R370). -/
def execCeladonBatch (cluster : Nat) (s : State) : Host.Outcome State Fault Refusal := .next (s.fabricStep cluster LcCmd.isRun)

/-! ## Poison and repair (R356) -/

/-- A word of a READY slot is uncorrectable: its batches are held, and the supervisor is told (R381). -/
def execCeladonSlotPoisoned (cluster slot cell : Nat) (s : State) : Host.Outcome State Fault Refusal :=
  let f := s.fabSlot cluster slot
  if f.st ≠ .ready || 4096 ≤ cell || !s.msgOpen f.part then .next s
  else
    .next ((s.setSlot cluster slot { f with st := .poisoned, badCell := cell, mended := false }).message f.part
      { type := 6, cause := dataFault, launch := f.launch, addr := BitVec.ofNat 64 cell, aux := slot % 4 })

/-- The head command of a core is a run on a slot. -/
def Core.runsSlot (c : Core) (slot : Nat) : Bool :=
  match c.eng.lcs.head? with
  | some (_, .run k ..) => k = slot
  | _ => false

/-- A slot with cell words rewritten in placed form. -/
def FabSlot.rewrite (f : FabSlot) (words : CellWords) : FabSlot :=
  { f with cells := words.foldl (fun t w => if w.2 = 0 then Table.drop t (w.1 % 4096) else Table.set t (w.1 % 4096) w.2) f.cells
           mended := f.mended || words.any fun w => w.1 % 4096 = f.badCell }

/-- The supervisor rewrites cell words of a POISONED slot. Once the uncorrectable word is among those rewritten and the slot
passes its checks, it is READY again, and the held batches run; else it stays POISONED as rewritten (R356). -/
def execCeladonSlotRepair (cluster : Nat) (slot : SlotWords) (s : State) : Host.Outcome State Fault Refusal :=
  let n := slot.slot % 4
  let f := (s.fabSlot cluster n).rewrite slot.words
  if f.st ≠ .poisoned then .next s
  else if f.mended && f.placed = some (sha512 (placedBytes f.cells)) && wiringOk (s.clusterAt cluster) f.cells then
    .next ((s.coresOf cluster).foldl (fun s w =>
      s.modCore w fun c => if c.runsSlot n then { c with eng := { c.eng with holds := c.eng.holds.filter fun h => h.eng ≠ .celadon } } else c)
      (s.setSlot cluster n { f with st := .ready, badCell := 0, mended := false }))
  else .next (s.setSlot cluster n f)

/-- The management command that records the placed digest of a committed slot. -/
def execCeladonPlacedDigest (cluster slot : Nat) (s : State) : Host.Outcome State Fault Refusal :=
  let f := s.fabSlot cluster slot
  if f.st = .ready then .next (s.setSlot cluster slot { f with placed := some (sha512 (placedBytes f.cells)) }) else .next s

/-! ## Commands done, and faults held (R379–R382) -/

/-- The command at the head of an engine goes as far as it can. -/
def execEngineCommandDone (core : Nat) (eng : Eng) (s : State) : Host.Outcome State Fault Refusal :=
  let c := s.coreAt core
  if c.held eng && eng ≠ .queues then .next s
  else
    match eng with
    | .copy => .next (if c.eng.cps.isEmpty then s else s.atCore core fun s => State.noteToken .copy s.copyGo)
    | .hash => .next (if c.eng.hashes.isEmpty then s else s.atCore core fun s => s.hashGo.1)
    | .celadon =>
      .next (match c.eng.lcs.head? with
        | none => s
        | some h => if h.2.isTbl || h.2.isRun then s else s.atCore core fun s => State.noteToken .celadon s.celadonGo)
    | .matrix => .next s
    | .stream => .next s
    | .queues => .next (if c.eng.pubs.isEmpty then s else s.atCore core State.pubStep)

/-- What stops an engine now: the stream register, the cause and the address. -/
structure Stop where
  w     : Nat := 0
  cause : Nat
  addr  : Nat
  deriving DecidableEq, Repr, Inhabited

def Go.stop : Go → Option Stop
  | .fault c a => some { cause := c, addr := a }
  | _ => none

/-- The first generator whose line is stopped by a fault. -/
def State.streamStop (s : State) (w : Nat) : State × Option Stop :=
  (List.finRange 8).foldl (fun acc i =>
    if acc.2.isSome || (s.coreAt w).streamHeld i.val then acc
    else
      let r := acc.1.streamLine w ((s.coreAt w).w.get i)
      match r.2 with
      | .error (.fault c a) => (r.1, some { w := i.val, cause := c, addr := a })
      | _ => acc) (s, none)

/-- The first access that cannot be performed because its data is uncorrectable (R439): it writes nothing. -/
def State.queueStop (s : State) (w : Nat) : State × Option Stop :=
  (s, ((s.openAccesses w).filter fun a => !a.1.travels).findSome? fun a => match (s.performAccess w a.1).2 with
    | .error x => some { cause := dataFault, addr := x }
    | .ok _ => none)

/-- What stops an engine of a core, after it has gone as far as it can. -/
def State.engineStop (s : State) (w : Nat) (eng : Eng) : State × Option Stop :=
  let back := fun (r : State × Go) => (r.1.focus s.cur, r.2.stop)
  match eng with
  | .matrix =>
    let c := s.coreAt w
    (s.setCore w (if c.matrixStop.isSome then c.matrixStep.wldStep else c), c.matrixStop.map fun e => { cause := e.1, addr := e.2 })
  | .copy => back (s.focus w).copyGo
  | .hash => back (s.focus w).hashGo
  | .celadon => back (s.focus w).celadonGo
  | .stream => s.streamStop w
  | .queues => s.queueStop w

/-- Lines of a copy command: all it writes, and those of them that have still to commit. -/
def Engines.cpLines (e : Engines) (m : CpCmd) : Nat × Nat :=
  let k := match m.kind with
    | .cp _ _ => 1
    | .win _ n => n
  let all := k * (m.n / 64)
  (all, all - k * (m.done / 64) + (e.shadow.filter fun l => l.no = m.no).length)

/-- DONE and LEFT of the message (Table 27·4): lines committed, beats run or the group reached, and the lines, beats or
blocks outstanding. -/
def Core.progress (c : Core) : Eng → Nat × Nat
  | .matrix => (match c.eng.mq.find? fun m => !m.ran with
    | some m => (match m.i with
      | .mmaG f => (m.done, m.beats * (f.groups.toNat + 1 - m.done) / (f.groups.toNat + 1))
      | .wld f => (m.done, (if f.cw8 then m.c else m.c / 64) - m.done)
      | _ => (0, m.beats))
    | none => (0, 0))
  | .copy => (match c.eng.cps.head? with
    | some m => let n := c.eng.cpLines m; (n.1 - n.2, n.2)
    | none => (0, 0))
  | .celadon => (match c.eng.lcs.head? with
    | some (_, .tbl _ _ n _ done) => (done, n - done)
    | some (_, .run _ _ _ nb _ _ _ done) => (done, nb - done)
    | some (_, .tslice _ _ _ _ _ _ nb) => (0, nb)
    | some (_, .unslice _ _ _ _ _ nb) => (0, nb)
    | some (_, .pop _ _ _ _ nb) => (0, nb)
    | none => (0, 0))
  | .hash => (match c.eng.hashes.head? with
    | some (_, .sha _ _ _ _ n) => (0, (n + 127) / 128)
    | some (_, .crc _ _ _ n) => (0, (n + 63) / 64)
    | none => (0, 0))
  | .stream => (0, (c.w.toList.map fun x => x.asked.length).sum)
  | .queues => (0, (c.eng.acc.filter fun a => !a.asked && !a.kind.isMark).length)

/-- An engine that already holds a fault takes no second one. -/
def Core.engineHeld (c : Core) (eng : Eng) : Bool := if eng = .stream then (List.range 8).all c.streamHeld else c.held eng

/-- An engine fault: the hold, FCNT and the message (R379); past the level's fault limit a checkpoint hold (R382). -/
def State.holdEngine (s : State) (w : Nat) (eng : Eng) (x : Stop) : State :=
  let h : Hold := { eng := eng, w := x.w, cause := x.cause, addr := x.addr, since := (s.coreAt w).cycle.toNat }
  let s1 := s.modCore w fun c =>
    { c with eng := { c.eng with holds := c.eng.holds.filter (fun y => y.posted || y.eng ≠ eng) ++ [h] }
             task := { c.task with fcnt := min 255 (c.task.fcnt + 1) } }
  let t := (s1.coreAt w).task
  let d := (s1.coreAt w).progress eng
  let s2 := s1.message t.part { type := 2, cause := x.cause, launch := t.launch, core := w, eng := h.engField,
                                addr := BitVec.ofNat 64 x.addr, done := d.1, left := d.2, rec_ := t.addr }
  let flim := ((s2.levelOf t).map (·.flim)).getD 0
  if flim ≠ 0 && flim < t.fcnt then s2.abandonTask w faultLimit x.cause else s2

/-- An engine's fault stands, unreported, until its message is accepted: the bound of its hold counts from then (R380, R381,
R438). -/
def execEngineFault (core : Nat) (eng : Eng) (s : State) : Host.Outcome State Fault Refusal :=
  let c := s.coreAt core
  if !c.busy || c.engineHeld eng || !s.msgOpen c.task.part then .next s
  else
    let r := s.engineStop core eng
    match r.2 with
    | none => .next s
    | some x => .next (r.1.holdEngine core eng x)

end Sys2Proof.Machine
end

