-- ==== Sys2Proof/Machine/Units.lean ====
section
/-! DEFINITION. Suspicion scores (R392) and the numbers of the units Sienna knows (Table 29·4). -/

namespace Sys2Proof.Machine

/-- The unit number of the link that a router's port leads to: its west or north router and outgoing port E or S. -/
def linkUnit (r port : Nat) : Nat :=
  match port with
  | 0 => neighbour r 0 + 2 ^ 14 * 2
  | 1 => r + 2 ^ 14
  | 2 => r + 2 ^ 14 * 2
  | _ => neighbour r 3 + 2 ^ 14

/-- Router and outgoing port of a link's unit number, and the far end of the link. -/
def linkRouter (u : Nat) : Nat := u % 2 ^ 14
def linkPort (u : Nat) : Nat := u / 2 ^ 14 % 16
def linkFar (u : Nat) : Nat := neighbour (linkRouter u) (linkPort u)

def State.modUnit (s : State) (ty no : Nat) (f : UnitState → UnitState) : State :=
  s.onWafer fun w => { w with units := Table.set w.units (unitKey ty no) (f (Table.get {} w.units (unitKey ty no))) }

/-- A score raised; additions saturate (R392). -/
def State.charge (s : State) (ty no n : Nat) : State :=
  s.modUnit ty no fun u => { u with score := min 0xFFFF (u.score + n) }

/-- The link by which a flit came in is charged (R84, R385). -/
def State.chargeLink (s : State) (r port n : Nat) : State := if port < 4 then s.charge 1 (linkUnit r port) n else s

/-- The state of a unit's lease. -/
def State.leaseOf (s : State) (ty no : Nat) : Lease := if ty = 0 then (s.coreAt no).lease else (s.unitAt ty no).lease

def State.setLease (s : State) (ty no : Nat) (l : Lease) : State :=
  if ty = 0 then s.modCore no fun c => { c with lease := l } else s.modUnit ty no fun u => { u with lease := l }

/-- What a dropped flit adds to a router's counter (R417). -/
def State.fwDropped (s : State) (r : Nat) : State := s.modRouter r fun x => { x with fwDrop := x.fwDrop + 1 }

/-- The firewall of a mesh port stops a flit (R417). -/
def Router.stops (x : Router) (inPort part : Nat) : Bool := decide (inPort < 4) && part ≠ 0x3F && x.part ≠ some part

end Sys2Proof.Machine
end

