-- ==== Sys2Proof/Machine/Routing.lean ====
section
/-! DEFINITION. Packets between routers (R63, R79, R84, R304–R307, R409–R411, R417), what rendezvous and root slices do
with them (R68, R71, R80, R82, R87, R386), registrations and late subscription (R63–R69), homes (R69, R71, R432) and
mirrored execution (R402–R404). -/

namespace Sys2Proof.Machine

/-! ## Contributions (R78, R79) -/

/-- Element width of a combining operation. -/
def copBytes (cop : Nat) : Nat := if cop % 3 = 1 then 2 else 4

/-- One combining step on one element (R78). -/
def combElem (cop a b : Nat) : Nat :=
  match cop with
  | 0 => (addF .f32 .rne (decodeF .f32 a) (decodeF .f32 b)).1
  | 1 => (addF .bf16 .rne (decodeF .bf16 a) (decodeF .bf16 b)).1
  | 2 => (a + b) % 2 ^ 32
  | 3 => minF .f32 a b
  | 4 => minF .bf16 a b
  | 5 => if signed 32 b < signed 32 a then b else a
  | 6 => maxF .f32 a b
  | 7 => maxF .bf16 a b
  | _ => if signed 32 a < signed 32 b then b else a

/-- Two tiles combined element by element. -/
def combTiles (cop : Nat) (a b : List Byte) : List Byte :=
  let w := copBytes cop
  (List.range (a.length / w)).flatMap fun i =>
    toBytes w (combElem cop (ofBytes ((a.drop (w * i)).take w)) (ofBytes ((b.drop (w * i)).take w)))

/-- The first packet that a router may merge with a contribution (R79, R87). -/
def mergesWith (a b : Packet) : Bool :=
  nameKind b.name = 3 && a.name = b.name && a.part = b.part && a.cop = b.cop && a.rsnd = b.rsnd && a.size = b.size &&
    decide (a.members.length + b.members.length ≤ Config.mergeLimit) && !a.etag && !b.etag && !a.badData && !b.badData &&
    !b.badHead && !(a.members.any fun m => b.members.any fun x => x.2 = m.2)

/-- The merged contribution. -/
def Packet.merge (a b : Packet) : Packet :=
  { a with members := a.members ++ b.members, data := combTiles a.cop a.data b.data }

/-! ## ROUTER_FORWARD -/

/-- Output ports of the entries that a name matches at a router (R63). -/
def Router.portsFor (x : Router) (n : Quad) : List Nat :=
  (List.range 9).filter fun p => x.table.any fun e => e.matches n && e.ports.getLsbD p

/-- A port leads down the tree whose root is the rendezvous router: the neighbour's path to it comes back through here. -/
def childPort (r goal p : Nat) : Bool := p = 8 || (decide (p < 4) && dimPort (neighbour r p) goal = some (oppPort p))

/-- A flight that takes some hops from a router. -/
def Flight.along (f : Flight) (r : Nat) (l : List Nat) : Option Flight :=
  match l with
  | [] => none
  | d :: t => some { f with at_ := neighbour r d, from_ := oppPort d, route := t }

/-- The slice beside a router, if there is one (log entry 7). -/
def sliceAt (r : Nat) : Option Nat := if routerRow r % 6 = 0 && routerCol r % 2 = 0 then some (routerCol r % 8 / 2) else none

/-- A slice has room for some more lines (R12, R68). -/
def State.sliceFits (s : State) (q k n : Nat) : Bool := decide (s.sliceTaken q k 0 + n ≤ Config.sliceLines)

/-- A copy delivered to the cluster scheduler beside a router. -/
def State.flightArrives (s : State) (r : Nat) (f : Flight) : State :=
  s.modCluster (routerCluster r) fun c => { c with inbox := c.inbox ++ [(f.pkt, f.sender)] }

/-- Copies of a publication to the ports of a router that lead to subscribers. -/
def State.copyOut (s : State) (r : Nat) (f : Flight) (ports : List Nat) : State :=
  ports.foldl (fun s p =>
    if p = 8 then s.flightArrives r f
    else
      match (s.legOf r p).bind (({ f with down := true } : Flight).along r) with
      | some g => { s with flights := s.flights ++ [g] }
      | none => s) s

/-- A slice on the way of a publication may keep a copy if it has the space (R68). -/
def State.passSlice (s : State) (r : Nat) (f : Flight) : State :=
  match sliceAt r with
  | none => s
  | some k =>
    let q := routerCluster r
    let c := s.clusterAt q
    if f.pkt.etag || s.staleColour f.pkt || !s.sliceFits q k f.pkt.lines then s
    else if s.choice 2 = 0 then s.chosen 2
    else
      (s.chosen 2).setCluster q { c with retained :=
        (c.retained.filter fun x => !(x.slice = k && x.pkt.part = f.pkt.part && x.pkt.name = f.pkt.name && !x.home)) ++
          [{ slice := k, pkt := f.pkt, due := c.cycle + (s.partAt f.pkt.part).netRetain, home := false }] }

/-- A publication on its way to its rendezvous router: copied to each port it matches, and forwarded (R63, R68). -/
def State.forwardUp (s : State) (r : Nat) (f : Flight) : State :=
  let s1 := s.copyOut r f ((s.routerAt r).portsFor f.pkt.name)
  if r = f.goal then
    s1.modCluster (routerCluster r) fun c => { c with pubs := c.pubs ++ [((sliceAt r).getD 0, f.pkt)] }
  else
    match ((dimPort r f.goal).bind (s.legOf r)).bind (f.along r) with
    | some g => let s2 := s1.passSlice r f; { s2 with flights := s2.flights ++ [g] }
    | none => s

/-- A contribution on its way to its root router, by itself. -/
def State.contribOn (s : State) (r : Nat) (f : Flight) : State :=
  if r = f.goal then s.modCluster (routerCluster r) fun c => { c with contribs := c.contribs ++ [f.pkt] }
  else
    match ((dimPort r f.goal).bind (s.legOf r)).bind (f.along r) with
    | some g => { s with flights := s.flights ++ [g] }
    | none => s

/-- Two contributions stand in one router, bound for the same output port, with the same way before them (R79). -/
def Flight.besides (f g : Flight) : Bool := g.at_ = f.at_ && g.from_ ≠ 9 && g.goal = f.goal && g.route = f.route

/-- A contribution leaves a router, which may first merge it with another that it holds (R79). -/
def State.forwardContrib (s : State) (r : Nat) (f : Flight) : State :=
  match s.flights.findIdx? fun g => f.besides g && mergesWith f.pkt g.pkt with
  | none => s.contribOn r f
  | some i =>
    match s.choice 2, s.flights[i]? with
    | 0, some g => { s.chosen 2 with flights := removeAt s.flights i ++ [{ f with pkt := f.pkt.merge g.pkt }] }
    | _, _ => (s.chosen 2).contribOn r f

/-- The ports by which a copy goes down the tree from a router: those of the entries it matches that lead away from the
rendezvous router (R63, log entry 109). -/
def State.treePorts (s : State) (r goal : Nat) (n : Quad) : List Nat := ((s.routerAt r).portsFor n).filter (childPort r goal)

/-- A flight that leaves its router, in the state from which it has been taken. -/
def State.forwardFlight (s : State) (r : Nat) (f : Flight) : State :=
  let f := if f.pkt.badData then { f with pkt := { f.pkt with etag := true, badData := false } } else f
  match f.route with
  | 8 :: _ => s.flightArrives r f
  | d :: t => (match f.along r (d :: t) with
    | some g => { s with flights := s.flights ++ [g] }
    | none => s)
  | [] =>
    if f.down then s.copyOut r f (s.treePorts r f.goal f.pkt.name)
    else if nameKind f.pkt.name = 3 then s.forwardContrib r f
    else s.forwardUp r f

/-- A packet that its source keeps until it is acknowledged (R82). -/
def Kept.ofSource (k : Kept) : Bool := k.dest.isNone && k.port.isNone

/-- A rendezvous slice has had a packet: it retains it, or a later publication of its name (R68). -/
def Retained.covers (r : Retained) (pkt : Packet) : Bool :=
  r.home && r.pkt.part = pkt.part &&
    ((r.pkt.src = pkt.src && r.pkt.seq = pkt.seq) || (r.pkt.name = pkt.name && r.past.contains (pkt.src, pkt.seq)))

/-- An earlier packet of the same source, whose name differs at most in its KIND, has still to reach its rendezvous slice
(R46, R74). -/
def State.followsOwn (s : State) (f : Flight) : Bool :=
  let i := (s.kept.findIdx? fun k => k.ofSource && k.pkt.src = f.pkt.src && k.pkt.seq = f.pkt.seq).getD s.kept.length
  (s.kept.take i).any fun k => (k.ofSource || k.pkt.cls = 2) && k.pkt.src = f.pkt.src && k.pkt.part = f.pkt.part &&
    nameStem k.pkt.name = nameStem f.pkt.name && !s.clusters.any fun c => c.2.retained.any (·.covers k.pkt)

/-- The endpoint that puts a flight before its first router. -/
def Flight.injector (f : Flight) : Endpoint := if f.down then f.sender else f.pkt.origin

/-- Flight i of the state enters its first router, moves on at a router, or is dropped there (R63, R81, R84, R385, R411,
R417). -/
def State.moveFlight (s : State) (i : Nat) (f : Flight) : State :=
  let s1 := { s with flights := removeAt s.flights i }
  if f.from_ = 9 then { s with flights := replaceAt s.flights i { f with from_ := s.endpointPort f.injector } }
  else if f.pkt.badHead || f.pkt.res ≠ 0 then s1.chargeLink f.at_ f.from_ 64
  else if (s.routerAt f.at_).stops f.from_ f.pkt.part then s1.fwDropped f.at_
  else (if f.pkt.badData then s1.chargeLink f.at_ f.from_ 64 else s1).forwardFlight f.at_ f

/-- The flight may move now (R312, R387, R46). -/
def State.flightReady (s : State) (f : Flight) : Bool :=
  !s.reloading 0 f.at_ &&
    !(f.from_ = 9 && ((s.partAt f.pkt.part).namedHeld || (!f.down && !f.pkt.rsnd && s.followsOwn f)))

/-- Flight i stands behind another packet of its source whose name differs at most in its KIND (R46, R74). -/
def State.behindOwn (s : State) (i : Nat) (f : Flight) : Bool :=
  (s.flights.take i).any fun g => g.at_ = f.at_ && s.flightReady g && g.pkt.src = f.pkt.src && g.pkt.part = f.pkt.part &&
    nameStem g.pkt.name = nameStem f.pkt.name

/-- The packets that a router may forward now. -/
def State.movable (s : State) (r : Nat) : List (Flight × Nat) :=
  s.flights.zipIdx.filter fun f => f.1.at_ = r && s.flightReady f.1 && !s.behindOwn f.2 f.1

/-- A router forwards one of its packets: no order is promised across sources or across names (R74). -/
def execRouterForward (router : Nat) (s : State) : Host.Outcome State Fault Refusal :=
  let l := s.movable router
  match l[s.choice l.length]? with
  | none => .next s
  | some f => .next ((s.chosen l.length).moveFlight f.2 f.1)

/-! ## ADDRESSED_ROUTE (R409, R410, R417) -/

/-- Addressed packet i moves one hop of its route, leaves the mesh, or is dropped. -/
def State.moveAddressed (s : State) (i : Nat) (a : Addressed) : State :=
  let drop := { s with addressed := removeAt s.addressed i }
  match routePorts a.route with
  | none => drop
  | some hops =>
    if (s.routerAt a.at_).stops a.inPort a.part then drop.fwDropped a.at_
    else
      match hops[a.hops]? with
      | some d =>
        let b := { a with at_ := neighbour a.at_ d, inPort := oppPort d, hops := a.hops + 1 }
        { s with addressed := replaceAt s.addressed i b }
      | none => { s with addressed := replaceAt s.addressed i { a with out := some (field a.route 57 4) } }

def execAddressedRoute (router : Nat) (s : State) : Host.Outcome State Fault Refusal :=
  match s.addressed.findIdx? fun a => a.at_ = router && a.out.isNone with
  | none => .next s
  | some i =>
    match s.addressed[i]? with
    | none => .next s
    | some a => if s.reloading 1 router then .next s else .next (s.moveAddressed i a)

/-! ## Acknowledgement and resending (R82, R385) -/

/-- A packet that its owner still keeps, for an acknowledgement. -/
def Ack.of (a : Ack) (k : Kept) : Bool :=
  match a.member with
  | some m => nameKind k.pkt.name = 3 && k.ofSource && k.pkt.src = a.src && k.pkt.name = m.1 && k.pkt.cidx = m.2
  | none => (k.ofSource || k.owner = a.owner) && k.port.isNone && k.dest = a.dest && k.pkt.src = a.src && k.pkt.seq = a.seq

/-- A copy sent once more down the branch of the tree that a port of the rendezvous router leads to (R82, R385). -/
def State.launchBranch (s : State) (e : Endpoint) (p : Nat) (pkt : Packet) : State :=
  let r := s.endpointRouter pkt.part e
  let way := if p = 8 then [8] else (s.legOf r p).getD [p]
  { s with flights := s.flights ++ [{ at_ := r, from_ := 9, down := true, sender := e, goal := r, route := way, pkt := pkt }] }

/-- A kept packet sent once more (R82). A circuit packet is sent again on the named class (R307). -/
def State.resendKept (s : State) (k : Kept) : State :=
  let pkt := { k.pkt with rsnd := true, cls := 0 }
  match k.dest, k.port with
  | some q, _ => if k.pkt.cls = 2 then s.launchUp k.owner pkt else s.launchDown k.owner q pkt
  | none, some p => s.launchBranch k.owner p pkt
  | none, none => s.launchUp k.owner pkt

/-- A resend of kept packet i, or its end: after LIMIT resends an error notice is published under its name (R82). -/
def State.resend (s : State) (i : Nat) (k : Kept) : State :=
  let x := s.partAt k.pkt.part
  if x.netLimit ≤ k.tries then
    ({ s with kept := removeAt s.kept i }).errorNotice k.pkt.part k.owner k.pkt.name 1
  else
    ({ s with kept := replaceAt s.kept i { k with tries := k.tries + 1, due := s.dueFor k.pkt.part k.owner,
                                                  dest := if k.pkt.cls = 2 then none else k.dest,
                                                  pkt := { k.pkt with rsnd := true, cls := 0 } } }).resendKept k

/-- A packet is accepted: its owner lets it go, and the colour of a RETN returns (R43, R82). -/
def State.released (s : State) (i : Nat) (k : Kept) : State :=
  let s1 := { s with kept := removeAt s.kept i }
  if k.pkt.colourBack = 0 then s1 else s1.returnColour k.pkt.part (nameTenant k.pkt.name) k.pkt.colourBack

/-- A kept packet answered: released, or resent (R82, R385). -/
def State.settleKept (s : State) (i : Nat) (k : Kept) (neg : Bool) : State := if neg then s.resend i k else s.released i k

/-- Acknowledgement idx, which goes straight to the unit that keeps its packet. -/
def State.ackDirect (s : State) (idx : Nat) (a : Ack) : State :=
  match s.kept.findIdx? a.of with
  | none => { s with acks := removeAt s.acks idx }
  | some i =>
    match s.kept[i]? with
    | none => s
    | some k => if (s.partAt k.pkt.part).namedHeld then s else { s with acks := removeAt s.acks idx }.settleKept i k a.neg

/-- Two acknowledgements answer the same packet of a tree. -/
def Ack.sameAs (a b : Ack) : Bool := b.at_.isSome && !b.neg && b.part = a.part && b.src = a.src && b.seq = a.seq

/-- A port of a router has answered for a packet; what the scheduler there sends is held with the named class (R312). -/
def State.answered (s : State) (a : Ack) (r p : Nat) : Bool :=
  !(p = 8 && (s.partAt a.part).namedHeld) && s.acks.any fun b => a.sameAs b && b.at_ = some (r, p)

/-- An acknowledgement at a router below the rendezvous router goes on up the tree, once for all, when every port of the
entries there has answered (R82). -/
def State.ackUp (s : State) (a : Ack) (r goal : Nat) : State :=
  match (s.pathFrom r goal pathFuel).head? with
  | none => s
  | some up =>
    if !(s.treePorts r goal a.name).all (s.answered a r) then s
    else
      let rest := s.acks.filter fun b => !(a.sameAs b && b.at_.any fun x => x.1 = r)
      let b := { a with at_ := some up }
      { s with acks := if rest.contains b then rest else rest ++ [b] }

/-- An acknowledgement at the rendezvous router answers for the branch of its port; it waits while the slice has still to take
the packet, and one that comes twice is lost (R82, R385). -/
def State.ackRoot (s : State) (idx : Nat) (a : Ack) (p : Nat) : State :=
  if (p = 8 || a.neg) && (s.partAt a.part).namedHeld then s
  else
    match s.kept.findIdx? fun k => k.port = some p && k.pkt.part = a.part && k.pkt.src = a.src && k.pkt.seq = a.seq with
    | none =>
      if s.kept.any fun k => k.ofSource && k.pkt.part = a.part && k.pkt.src = a.src && k.pkt.seq = a.seq then s
      else { s with acks := removeAt s.acks idx }
    | some i =>
      match s.kept[i]? with
      | none => s
      | some k => { s with acks := removeAt s.acks idx }.settleKept i k a.neg

/-- No unit keeps the packet that an acknowledgement answers. -/
def State.ackStale (s : State) (a : Ack) : Bool :=
  !s.kept.any fun k => k.pkt.part = a.part && k.pkt.src = a.src && k.pkt.seq = a.seq

def execAcknowledgement (idx : Nat) (s : State) : Host.Outcome State Fault Refusal :=
  match s.acks[idx]? with
  | none => .next s
  | some a =>
    match a.at_ with
    | none => .next (s.ackDirect idx a)
    | some (r, p) =>
      match s.goalOf a.part a.name with
      | none => .next { s with acks := removeAt s.acks idx }
      | some goal =>
        .next (if s.ackStale a then { s with acks := removeAt s.acks idx }
          else if r = goal then s.ackRoot idx a p
          else s.ackUp a r goal)

def execResendTimeout (idx : Nat) (s : State) : Host.Outcome State Fault Refusal :=
  match s.kept[idx]? with
  | none => .next s
  | some k =>
    if (s.partAt k.pkt.part).namedHeld || s.clockOf k.owner < k.due then .next s else .next (s.resend idx k)

/-! ## Circuits and the network clock (R4, R304–R307) -/

/-- The output port and the slot at which a router forwards a circuit from an input port. -/
def Router.slotFor (x : Router) (port circ : Nat) : Option (Nat × Nat) :=
  (x.slots.zipIdx.flatMap fun o => o.1.zipIdx.filterMap fun e =>
    if slotV e.1 && slotIn e.1 = port && slotCirc e.1 = circ then some (o.2, e.2) else none).head?

/-- What a router's tables assign in a slot: output port, input port and circuit. -/
def Router.slotMoves (x : Router) (slot : Nat) : List (Nat × Nat × Nat) :=
  x.slots.zipIdx.filterMap fun o =>
    let e := o.1.getD slot 0
    if slotV e then some (o.2, slotIn e, slotCirc e) else none

/-- A circuit flit that finds its buffer full is discarded, counted and reported (R307). -/
def State.circOverflow (s : State) (r : Nat) (pkt : Packet) : State :=
  (s.modCluster (routerCluster r) fun c => { c with circOvf := c.circOvf + 1 }).message pkt.part
    { type := 7, cause := 0, aux := pkt.circ }

/-- Flits of a circuit among some (Table 21·9). -/
def circFlits (p circ : Nat) (l : List CFlit) : Nat := (l.filter fun x => x.pkt.part = p && x.pkt.circ = circ).length

/-- The first flit of a circuit that may leave an input port of a router now. -/
def State.circReady (s : State) (r port circ : Nat) : Option (CFlit × Nat) :=
  if s.reloading 2 r then none
  else s.cflits.zipIdx.find? fun f => f.1.at_ = r && f.1.from_ = port && f.1.pkt.circ = circ &&
    !(f.1.atSource && (s.partAt f.1.pkt.part).circHeld) && !s.reloading 4 f.1.pkt.part

/-- A flit that leaves a router by a mesh port finds the stitch buffer of another field full (R306, R307). -/
def State.stitchFull (s : State) (r d : Nat) (f : CFlit) : Bool :=
  let waiting := s.cflits.filter fun g => g.at_ = neighbour r d && g.from_ = oppPort d
  routerField (neighbour r d) ≠ routerField r && decide (16 ≤ circFlits f.pkt.part f.pkt.circ waiting)

/-- A flit that leaves the mesh finds its receive queue full (R307). -/
def State.recvFull (s : State) (r : Nat) (f : CFlit) : Bool :=
  decide (16 ≤ circFlits f.pkt.part f.pkt.circ (s.clusterAt (routerCluster r)).recvQ)

/-- A flit comes to the next router of its path, where a firewall may stop it and a full stitch buffer discards it. -/
def State.circuitHop (s : State) (r d : Nat) (f : CFlit) : State × List CFlit :=
  let r' := neighbour r d
  if (s.routerAt r').stops (oppPort d) f.pkt.part then (s.fwDropped r', [])
  else if s.stitchFull r d f then (s.circOverflow r' f.pkt, [])
  else (s, [{ f with at_ := r', from_ := oppPort d }])

/-- A flit leaves the mesh at the router of its destination: its receive queue takes it if it has room. -/
def State.circuitEject (s : State) (r : Nat) (f : CFlit) : State :=
  if s.recvFull r f then s.circOverflow r f.pkt
  else s.modCluster (routerCluster r) fun c => { c with recvQ := c.recvQ ++ [f] }

/-- A flit that would be discarded stays before its slot until the message that reports it can be accepted (R381). -/
def State.flitHeld (s : State) (r d : Nat) (f : CFlit) : Bool :=
  (if d < 4 then s.stitchFull r d f else s.recvFull r f) && !s.msgOpen f.pkt.part

/-- One entry of a slot table in its slot: a flit that waits for it moves; those that came in this cycle stand apart. -/
def slotMove (r : Nat) (acc : State × List CFlit) (m : Nat × Nat × Nat) : State × List CFlit :=
  match acc.1.circReady r m.2.1 m.2.2 with
  | none => acc
  | some (f, i) =>
    let s1 := { acc.1 with cflits := removeAt acc.1.cflits i }
    if acc.1.flitHeld r m.1 f then acc
    else if m.1 < 4 then let x := s1.circuitHop r m.1 f; (x.1, acc.2 ++ x.2)
    else (s1.circuitEject r f, acc.2)

/-- A packet of the circuit of a flit stands before the scheduler of its destination, which has not taken it: its consumer
does not drain the receive queue. -/
def Cluster.circStuck (c : Cluster) (f : CFlit) : Bool :=
  (c.inbox ++ c.heldIn).any fun x => x.1.cls = 2 && x.1.part = f.pkt.part && x.1.circ = f.pkt.circ

/-- The first flit of a receive queue that its consumer can drain now. -/
def Cluster.circDrain (c : Cluster) : Option (CFlit × Nat) :=
  c.recvQ.zipIdx.find? fun f => !c.circStuck f.1 &&
    !((c.recvQ.take f.2).any fun g => g.pkt.part = f.1.pkt.part && g.pkt.circ = f.1.pkt.circ)

/-- A flit drained from a receive queue: a packet all of whose flits have come arrives; one that has lost a flit does not, and
its source sends it again (R307). -/
def State.drainFlit (s : State) (q : Nat) (f : CFlit) (i : Nat) : State :=
  let c := s.clusterAt q
  let mine := fun (g : CFlit) => g.pkt.part = f.pkt.part && g.pkt.circ = f.pkt.circ
  let before := c.taken.filter fun g => mine g && g.pkt.src = f.pkt.src && g.pkt.seq = f.pkt.seq && decide (g.idx < f.idx)
  let now := if f.idx = before.length then before ++ [f] else []
  let whole := decide (now.length = f.pkt.flits)
  s.setCluster q { c with
    recvQ := removeAt c.recvQ i
    taken := (c.taken.filter fun g => !mine g) ++ if whole then [] else now
    inbox := if whole then c.inbox ++ [(f.pkt, f.sender)] else c.inbox }

/-- A cluster's consumers drain a flit. -/
def State.drainCluster (s : State) (q : Nat) : State :=
  match (s.clusterAt q).circDrain with
  | none => s
  | some (f, i) => s.drainFlit q f i

/-- Clusters and rim agents that count a field's network clock (R4). -/
def fieldClusters (f : Nat) : List Nat := (List.range 4).map fun i => 4 * f + i
def rimField (e : Nat) : Nat := (if e / 16 = 0 then 0 else 40) + e % 16 / 2

/-- The owner of a kept packet counts a field's network clock. -/
def timedBy (f : Nat) : Endpoint → Bool
  | .core _ | .sienna => false
  | .sched q | .slice q _ => fieldOf q = f
  | .rim e => rimField e = f

/-- While a partition's named class is held, the resend timers of its endpoints stand still (R312): what is due is put
off by the time that passes. -/
def State.putOff (s : State) (mine : Endpoint → Bool) (n : Nat) : State :=
  { s with kept := s.kept.map fun k =>
      if (s.partAt k.pkt.part).namedHeld && mine k.owner then { k with due := k.due + n } else k }

/-- n cycles of a field's network clock pass for the units that count it; what a slice has expired or evicted in the cycle
before is gone from it (R70). -/
def State.netPass (s : State) (f n : Nat) : State :=
  let s1 := (fieldClusters f).foldl (fun s q => s.modCluster q fun c =>
    { c with cycle := c.cycle + n, retained := c.retained.filter fun r => !r.gone }) s
  let rims := (List.range 32).filter fun e => rimField e = f
  (s1.onWafer fun w => { w with
    netCycles := Table.set w.netCycles f (Table.get 0 w.netCycles f + n)
    rimCycles := rims.foldl (fun t e => Table.set t e (Table.get 0 t e + n)) w.rimCycles }).putOff (timedBy f) n

/-- No circuit flit stands in a field. -/
def State.fieldStill (s : State) (f : Nat) : Bool :=
  (s.cflits.all fun x => routerField x.at_ ≠ f) && (fieldClusters f).all fun q => (s.clusterAt q).recvQ.isEmpty

/-- One network cycle of a field: each router's slot tables forward one flit for each entry of the slot, the consumers drain
their receive queues, and the count goes on (R304). -/
def State.netCycle (s : State) (f : Nat) : State :=
  let slot := Table.get 0 s.wafer.netCycles f % 64
  let rs := ((s.cflits.map fun x => x.at_).dedup).filter fun r => routerField r = f
  let r := rs.foldl (fun acc r => ((s.routerAt r).slotMoves slot).foldl (slotMove r) acc) (s, [])
  let s1 := { r.1 with cflits := r.1.cflits ++ r.2 }
  ((fieldClusters f).foldl State.drainCluster s1).netPass f 1

/-- n network cycles of a field. -/
def State.tickField (s : State) (f : Nat) : Nat → State
  | 0 => s
  | n + 1 => if s.fieldStill f then s.netPass f (n + 1) else (s.netCycle f).tickField f n

/-- The network clock of a field runs to the next slot of a circuit whose flit waits at an input port, and the flit is
forwarded in it (R304); at port 8, where a receive queue stands, it runs one cycle. -/
def execCircuitFlit (router port : Nat) (s : State) : Host.Outcome State Fault Refusal :=
  let f := routerField router
  match s.cflits.findSome? fun x => if x.at_ = router && x.from_ = port && (s.circReady router port x.pkt.circ).isSome
      then (s.routerAt router).slotFor port x.pkt.circ else none with
  | some (_, slot) => .next (s.tickField f ((slot + 64 - Table.get 0 s.wafer.netCycles f % 64) % 64 + 1))
  | none => .next (if port = 8 && (s.clusterAt (routerCluster router)).circDrain.isSome then s.tickField f 1 else s)

/-! ## Mirrored execution (R402–R404) -/

/-- A mirror-table entry (Table 29·5). -/
structure MirEntry where
  tenant : Nat
  prim   : Nat
  mirr   : Nat
  out    : Nat
  fmt    : Nat
  tol    : Nat
  deriving DecidableEq, Repr, Inhabited

def mirEntry (x : Nat) : Option MirEntry :=
  if bitAt x 0 then
    some { tenant := bitsAt x 116 12, prim := bitsAt x 92 24, mirr := bitsAt x 68 24, out := bitsAt x 44 24,
           fmt := bitsAt x 39 5, tol := bitsAt x 23 16 }
  else none

/-- The mirror table, read in the context of the partition supervisor's tenant. -/
def State.mirrorTable (s : State) (p : Nat) : State × List MirEntry :=
  let n := field s.wafer.mirTab 0 8
  if n = 0 then (s, [])
  else
    let t := ((s.launchOf p (s.partAt p).supLaunch).map (·.tenant)).getD 0
    let r := s.readVa p t (field s.wafer.mirTab 12 45 * 4096) (16 * n) .load
    match r.2 with
    | .error _ => (r.1, [])
    | .ok bs => (r.1, (List.range n).filterMap fun i => mirEntry (numAt bs (16 * i) 16))

/-- A name under another tensor. -/
def withTensor (n : Quad) (t : Nat) : Quad := setField n 92 24 t

/-- One copy of a mirrored tile noted with its twin. -/
def Part.mirrorCopy (x : Part) (e : MirEntry) (first : Bool) (pkt : Packet) (now : Nat) : Part :=
  let prim := withTensor pkt.name e.prim
  let put := fun (m : Mirror) => if first then { m with a := some pkt } else { m with b := some pkt }
  match x.mirrors.findIdx? fun m => m.prim = prim with
  | some i =>
    if (x.mirrors[i]?.map (·.reported)).getD false then { x with mirrors := removeAt x.mirrors i }
    else { x with mirrors := x.mirrors.modify i put }
  | none =>
    { x with mirrors := x.mirrors ++ [put { prim := prim, out := withTensor pkt.name e.out, fmt := e.fmt, tol := e.tol, since := now }] }

/-- A publication that reaches its rendezvous slice is compared when the mirror table names its tensor. -/
def State.mirrorNote (s : State) (pkt : Packet) : State :=
  if nameKind pkt.name ≠ 0 then s
  else
    let t := s.mirrorTable pkt.part
    t.2.foldl (fun s e =>
      let first := e.prim = nameTensor pkt.name
      if e.tenant = nameTenant pkt.name && (first || e.mirr = nameTensor pkt.name) then
        let q := ((s.rendSlice pkt.part (withTensor pkt.name e.prim)).map (·.1)).getD 0
        s.modPart pkt.part fun x => x.mirrorCopy e first pkt (s.clusterAt q).cycle
      else s) t.1

/-- Floating-point element formats. -/
def fpFormat : Fmt → Bool
  | .f32 | .f16 | .bf16 | .e4m3 | .e5m2 | .e2m1 => true
  | _ => false

/-- ord of R403. -/
def ordOf (t : Fmt) (x : Nat) : Int := if x < signBit t then (x : Int) else -((x - signBit t : Nat) : Int)

/-- Two elements agree (R403). -/
def mirrorElem (f : Nat) (tol a b : Nat) : Bool :=
  match fmtOf f with
  | some t =>
    if fpFormat t then
      let na := isNanMag t (a % signBit t)
      let nb := isNanMag t (b % signBit t)
      if na || nb then na && nb else decide ((ordOf t a - ordOf t b).natAbs ≤ tol)
    else a = b
  | none => a = b

/-- Width of an element of a mirrored tile; CW8 and unknown codes are compared byte by byte. -/
def mirrorWidth (f : Nat) : Nat :=
  match fmtOf f with
  | some .cw8 => 8
  | some t => t.width
  | none => 8

/-- The lowest element at which two tiles differ. -/
def mirrorDiff (m : Mirror) (a b : Packet) : Option Nat :=
  let w := mirrorWidth m.fmt
  let x := ofBytes a.data
  let y := ofBytes b.data
  if a.data.length ≠ b.data.length then some 0
  else (List.range (8 * a.data.length / w)).find? fun i => !mirrorElem m.fmt m.tol (bitsAt x (w * i) w) (bitsAt y (w * i) w)

/-- The core that published a packet is charged for it (R392). -/
def State.chargeCopy (s : State) (p : Option Packet) : State :=
  match p.map fun x => endpointOf x.src with
  | some (.core w) => s.charge 0 w 4096
  | _ => s

/-- A report to SIENNA.REPQ (R404). -/
def State.mirrorReport (s : State) (prim : Quad) (kind idx a b : Nat) : State :=
  s.post s.wafer.repQ (toBytes 64 (prim.toNat * 2 ^ 384 + kind * 2 ^ 376 + idx % 2 ^ 32 * 2 ^ 344 + a % 2 ^ 16 * 2 ^ 328
    + b % 2 ^ 16 * 2 ^ 312))

/-- The comparator works on a pair that is whole (R404). -/
def execMirrorCompare (part pair : Nat) (s : State) : Host.Outcome State Fault Refusal :=
  match (s.partAt part).mirrors[pair]? with
  | none => .next s
  | some m =>
    match m.a, m.b with
    | some a, some b =>
      let s1 := s.modPart part fun x => { x with mirrors := removeAt x.mirrors pair }
      (match mirrorDiff m a b with
       | none =>
         let e := (s.rendSlice part m.prim).elim Endpoint.sienna fun x => .slice x.1 x.2
         .next (s1.inject part e { name := m.out, size := a.size, data := a.data })
       | some i =>
         .next (((s1.chargeCopy m.a).chargeCopy m.b).mirrorReport m.prim 1 i a.src b.src))
    | _, _ => .next s

/-- One copy has not come in time (R404). The window number of the core that has not published is a free value. -/
def execMirrorTimeout (part pair : Nat) (s : State) : Host.Outcome State Fault Refusal :=
  match (s.partAt part).mirrors[pair]? with
  | none => .next s
  | some m =>
    let q := ((s.rendSlice part m.prim).map (·.1)).getD 0
    if m.reported || (m.a.isSome && m.b.isSome) || (s.clusterAt q).cycle < m.since + s.wafer.mirWait then .next s
    else
      let no := fun (x : Option Packet) => (x.map (·.src)).getD (freeHalf s.freeCtr)
      let s1 := { s.modPart part (fun x => { x with mirrors := x.mirrors.modify pair fun m => { m with reported := true } })
                  with freeCtr := s.freeCtr + 2 }
      .next (((s1.chargeCopy m.a).chargeCopy m.b).mirrorReport m.prim 2 0 (no m.a) (no m.b))

/-! ## The rendezvous slice (R68, R71, R82) -/

/-- A tile whose home has to be written before it is acknowledged (R71, R432). -/
def Packet.hasHome (pkt : Packet) : Bool :=
  nameKind pkt.name = 0 && (pkt.desc.elim false fun d => descHome d ≠ 0) &&
    (match pkt.origin with
     | .rim _ => false
     | _ => true)

/-- The acknowledgement of a packet to its source. -/
def sourceAck (pkt : Packet) : Ack := { owner := endpointOf pkt.src, src := pkt.src, seq := pkt.seq, dest := none, part := pkt.part }

/-- A publication whose tree has still to acknowledge it may be neither expired nor evicted (R68). -/
def State.treeOpen (s : State) (q k : Nat) (pkt : Packet) : Bool :=
  s.kept.any fun x => x.owner = .slice q k && (x.dest.isSome || x.port.isSome) && x.pkt.src = pkt.src && x.pkt.seq = pkt.seq

/-- Evictions, oldest first, until n lines fit; none when they cannot (R68). What is evicted can be looked up until the cycle
ends (R70). -/
def State.evict (s : State) (q k n : Nat) : Nat → Option State
  | 0 => none
  | fuel + 1 =>
    if s.sliceFits q k n then some s
    else
      match (s.clusterAt q).retained.findIdx? fun r => r.slice = k && !r.gone && !s.treeOpen q k r.pkt with
      | none => none
      | some i => (s.modCluster q fun c => { c with retained := c.retained.modify i fun r => { r with gone := true } }).evict q k n fuel

/-- The copies of a publication that a slice keeps, one for each branch of the tree at its router (R82). -/
def State.keepBranches (s : State) (q k : Nat) (pkt : Packet) : State :=
  { s with kept := s.kept ++ (s.treePorts (sliceRouter q k) (sliceRouter q k) pkt.name).map fun b =>
      { owner := .slice q k, dest := none, port := some b, pkt := pkt, due := s.dueFor pkt.part (.slice q k) } }

/-- A rendezvous slice answers the source of a publication, at once or when the home has been written (R71, R82). -/
def State.answerSource (s : State) (pkt : Packet) : State :=
  if pkt.hasHome then { s with writes := s.writes ++ [pkt] } else { s with acks := s.acks ++ [sourceAck pkt] }

/-- The slot of a name among a slice's retained publications. -/
def Retained.isFor (r : Retained) (k : Nat) (pkt : Packet) : Bool := r.slice = k && r.pkt.part = pkt.part && r.pkt.name = pkt.name

/-- The pairs of the publications of a packet's name that a slice has had before it. -/
def Cluster.pastOf (c : Cluster) (k : Nat) (pkt : Packet) : List (Nat × Nat) :=
  ((c.retained.filter fun r => r.home && r.isFor k pkt).flatMap fun r => r.past ++ [(r.pkt.src, r.pkt.seq)]).dedup

/-- A rendezvous slice takes a publication: it keeps the latest of each exact name, answers for its branches, and
acknowledges the source (R68, R71, R82, R385). A resend of what it has had is acknowledged again. One whose colour is not in
use is discarded and counted (R44). -/
def State.rendezvous (s : State) (q k : Nat) (pkt : Packet) : Option State :=
  let c := s.clusterAt q
  if pkt.etag then some s
  else if s.staleColour pkt then
    some { s.modCluster q fun c => { c with stale := c.stale + 1 } with acks := s.acks ++ [sourceAck pkt] }
  else if c.retained.any fun r => r.slice = k && !r.gone && r.covers pkt then some (s.answerSource pkt)
  else
    ((s.modCluster q fun c => { c with retained := c.retained.filter fun r => !r.isFor k pkt }).evict q k pkt.lines
      (c.retained.length + 1)).map fun s1 =>
      let r : Retained := { slice := k, pkt := pkt, home := true, past := c.pastOf k pkt, due := c.cycle + (s.partAt pkt.part).netRetain }
      let s2 := s1.modCluster q fun x => { x with retained := x.retained ++ [r] }
      ((s2.keepBranches q k pkt).answerSource pkt).mirrorNote pkt

def execRendezvousRetain (cluster : Nat) (s : State) : Host.Outcome State Fault Refusal :=
  match (s.clusterAt cluster).pubs with
  | [] => .next s
  | (k, pkt) :: rest =>
    match (s.modCluster cluster fun c => { c with pubs := rest }).rendezvous cluster k pkt with
    | none => .next s
    | some t => .next t

/-- A retained publication expires; it can be looked up until the cycle ends (R68, R70). -/
def execRetainExpiry (cluster idx : Nat) (s : State) : Host.Outcome State Fault Refusal :=
  let c := s.clusterAt cluster
  match c.retained[idx]? with
  | none => .next s
  | some r =>
    if r.gone || c.cycle < r.due || s.treeOpen cluster r.slice r.pkt then .next s
    else .next (s.setCluster cluster { c with retained := c.retained.modify idx fun r => { r with gone := true } })

/-! ## The root slice (R80, R87, R386) -/

/-- The acknowledgements of a contribution's members. -/
def memberAcks (pkt : Packet) (ms : List (Nat × Nat)) : List Ack :=
  ms.map fun m => { owner := endpointOf m.1, src := m.1, seq := 0, dest := none, part := pkt.part, member := some (pkt.name, m.2) }

def State.ackMembers (s : State) (pkt : Packet) (ms : List (Nat × Nat)) : State := { s with acks := s.acks ++ memberAcks pkt ms }

/-- Registrations with an expected-contributor count that a combined name matches, first registered first. -/
def State.contribRegs (s : State) (p : Nat) (n : Quad) : List Reg :=
  ((s.clusters.flatMap fun c => c.2.regs).filter fun g =>
    g.part = p && g.contrib && g.state = 1 && g.matches (withKind n 0)).mergeSort fun a b => decide (a.no ≤ b.no)

/-- The combine of a name. -/
def Cluster.combineOf (c : Cluster) (p : Nat) (n : Quad) : Option Combine :=
  c.combines.find? fun x => x.part = p && nameStem x.name = nameStem n

def State.putCombine (s : State) (q : Nat) (x : Combine) : State :=
  s.modCluster q fun c =>
    { c with combines := (c.combines.filter fun y => !(y.part = x.part && nameStem y.name = nameStem x.name)) ++ [x] }

/-- The root publishes its partial once every contributor has come (R80, R87). -/
def State.publishIfWhole (s : State) (q : Nat) (x : Combine) : State :=
  if x.c = some x.bitmap.length && !x.bitmap.isEmpty then
    (s.putCombine q { x with published := true, partialTile := [], due := (s.clusterAt q).cycle + (s.partAt x.part).keepFor }).inject
      x.part (.slice q x.slice) { name := withKind x.name 0, size := x.size, data := x.partialTile, comb := x.c }
  else s.putCombine q x

/-- A combine lost: partial and bitmap discarded, and one notice published (R80, R386). -/
def State.loseCombine (s : State) (q : Nat) (x : Combine) (reason : Nat) : State :=
  (s.putCombine q { x with lost := true, kept := false, bitmap := [], partialTile := [] }).errorNotice x.part (.slice q x.slice) x.name reason

/-- Other registrations of the name declared another C: each is answered with reason 0x02 and barred (R80). -/
def State.barOthers (s : State) (q k : Nat) (p : Nat) (n : Quad) (c : Nat) : State :=
  let bad := (s.contribRegs p n).filter fun g => g.count ≠ c && !g.barred.contains (withKind n 0)
  bad.foldl (fun s g =>
    (s.modCluster g.cluster fun x => { x with regs := x.regs.map fun y =>
      if y.no = g.no then { y with barred := withKind n 0 :: y.barred } else y }).errorNotice p (.slice q k) n 2) s

/-- C becomes known: the held bitmap is checked (R80). -/
def State.fixCount (s : State) (q : Nat) (x : Combine) : State :=
  match s.contribRegs x.part x.name with
  | [] => s
  | g :: _ =>
    if x.c.isSome || x.lost || x.published then
      (match x.c with
       | some c => s.barOthers q x.slice x.part x.name c
       | none => s)
    else
      let s1 := s.barOthers q x.slice x.part x.name g.count
      let x1 := { x with c := some g.count }
      if x.bitmap.any fun i => g.count ≤ i then s1.loseCombine q x1 2 else s1.publishIfWhole q x1

/-- One arrival at the root (R80, R87). Arrivals that carry another COP are combined under that of the name's first one, which
the spec leaves open (log entry 108). -/
def State.contribute (s : State) (q : Nat) (x : Combine) (pkt : Packet) : State :=
  let ms := pkt.members
  let e := Endpoint.slice q x.slice
  let past := x.c.elim false fun c => ms.any fun m => c ≤ m.2
  if x.published || x.lost then
    let quiet := x.published && x.kept && pkt.rsnd && ms.all fun m => x.bitmap.contains m.2
    let s1 := s.ackMembers pkt ms
    if quiet then s1 else s1.errorNotices x.part e x.name 3 (if x.lost then 1 else ms.length)
  else if past then (s.ackMembers pkt ms).errorNotices x.part e x.name 3 ms.length
  else if ms.any fun m => x.bitmap.contains m.2 then s.ackMembers pkt (ms.filter fun m => x.bitmap.contains m.2)
  else
    (s.ackMembers pkt ms).publishIfWhole q
      { x with bitmap := x.bitmap ++ ms.map (·.2), size := pkt.size,
               partialTile := if x.bitmap.isEmpty then pkt.data else combTiles x.cop x.partialTile pkt.data }

/-- The contribution at the head of a cluster's root slices; a tagged one is discarded whole (R385). -/
def execContributionArrival (cluster : Nat) (s : State) : Host.Outcome State Fault Refusal :=
  match (s.clusterAt cluster).contribs with
  | [] => .next s
  | pkt :: rest =>
    let s1 := s.modCluster cluster fun c => { c with contribs := rest }
    if pkt.etag || pkt.badData then .next s1
    else
      let k := ((s.rootSlice pkt.part pkt.name).map (·.2)).getD 0
      let s2 := match (s1.clusterAt cluster).combineOf pkt.part pkt.name with
        | some _ => s1
        | none => (s1.putCombine cluster { slice := k, name := pkt.name, part := pkt.part, cop := pkt.cop, c := none })
      match (s2.clusterAt cluster).combineOf pkt.part pkt.name with
      | none => .next s
      | some x =>
        let s3 := if x.bad && !x.published && !x.lost then s2.loseCombine cluster x 4
          else if x.c.isNone && !x.lost && !x.published then s2.fixCount cluster x else s2
        match (s3.clusterAt cluster).combineOf pkt.part pkt.name with
        | none => .next s
        | some y => .next (s3.contribute cluster y pkt)

/-- The bitmap kept after a combined publication is released (R87). -/
def execCombineBitmapExpiry (cluster idx : Nat) (s : State) : Host.Outcome State Fault Refusal :=
  let c := s.clusterAt cluster
  match c.combines[idx]? with
  | none => .next s
  | some x =>
    if x.published && x.kept && x.due ≤ c.cycle then
      .next (s.setCluster cluster { c with combines := c.combines.modify idx fun x => { x with kept := false, bitmap := [] } })
    else .next s

/-! ## Registration and late subscription (R63, R67, R69, R80) -/

/-- Slices on the paths of a registration, from its cluster to each rendezvous slice. -/
def State.slicesOnPath (s : State) (g : Reg) : List (Nat × Nat) :=
  ((s.rendezvousOf g).flatMap fun e =>
    ((schedRouter g.cluster :: (s.pathFrom (schedRouter g.cluster) (sliceRouter e.1 e.2) pathFuel).map (·.1)).filterMap fun r =>
      (sliceAt r).map fun k => (routerCluster r, k)) ++ [e]).dedup

/-- A retained copy serves a registration (R69). -/
def Reg.served (g : Reg) (k : Nat) (r : Retained) : Bool :=
  r.slice = k && r.pkt.part = g.part && g.matches r.pkt.name && (!g.contrib || r.pkt.comb = some g.count) && !r.pkt.etag

/-- A copy on the way is the one that its rendezvous slice retains, if that slice has one: only the latest of a name is served
(R68, R74). -/
def State.latest (s : State) (r : Retained) : Bool :=
  r.home ||
    match s.rendSlice r.pkt.part r.pkt.name with
    | none => true
    | some e => ((s.clusterAt e.1).retained.filter fun x => x.home && x.isFor e.2 r.pkt).all fun x =>
        x.pkt.src = r.pkt.src && x.pkt.seq = r.pkt.seq

/-- The search of a registration's path: each name is served by the first slice that holds it (R69). -/
def State.searchPath (s : State) (g : Reg) : State × List Quad :=
  (s.slicesOnPath g).foldl (fun acc e =>
    let rs := ((acc.1.clusterAt e.1).retained.filter (g.served e.2)).filter fun r => s.latest r && !acc.2.contains r.pkt.name
    (rs.foldl (fun s r => s.serve (.slice e.1 e.2) g.cluster r.pkt) acc.1, acc.2 ++ rs.map fun r => r.pkt.name)) (s, [])

/-- The exact name of a registration that fixes one triple (R69). -/
def Reg.exact (g : Reg) : Option Quad :=
  match g.ir.single, g.jr.single, g.kr.single with
  | some i, some j, some k => some (nameOf g.tenant g.tensor (if g.cany then 0 else g.colour) (if g.gany then 0 else g.gen) i j k 0)
  | _, _, _ => none

/-- A name that no slice has served is resolved by its tensor's HOME (R69). -/
def State.fallThrough (s : State) (g : Reg) (n : Quad) : State :=
  let e := s.branchSender g.part n
  match s.descOfName g.part n with
  | none => s
  | some d =>
    if !inExtent d n then s.answer g.part e g.cluster n 6 2
    else if descHome d = 0 then s.answer g.part e g.cluster n 6 1
    else { s with fetches := s.fetches ++ [(g.cluster, n, d)] }

/-- The exact names that registrations with an expected-contributor count have in common with a new one. -/
def State.contribNames (s : State) (g : Reg) : List Quad :=
  (((s.clusters.flatMap fun c => c.2.regs).filter fun y => y.part = g.part && y.contrib && y.state = 1).filterMap Reg.exact).dedup.filter
    g.matches

/-- A new registration with an expected-contributor count: the first one of a name fixes C, another C is answered with reason
0x02, and the combines that it meets go on (R80). -/
def State.meetCombines (s : State) (g : Reg) : State :=
  let s1 := (s.contribNames g).foldl (fun s n =>
    match s.contribRegs g.part n, s.rootSlice g.part n with
    | y :: _, some e => s.barOthers e.1 e.2 g.part n y.count
    | _, _ => s) s
  s1.clusters.foldl (fun s c =>
    (c.2.combines.filter fun x => x.part = g.part && g.matches (withKind x.name 0)).foldl (fun s x => s.fixCount c.1 x) s) s1

/-- A registration reaches its rendezvous slices: its entries are installed, its path is searched, and what no slice holds
falls through. -/
def State.registered (s : State) (g : Reg) : State :=
  let s1 := s.modReg g.cluster g.no fun x => { x with state := 1 }
  let g1 := { g with state := 1 }
  let r := s1.searchPath g1
  if g.contrib then r.1.meetCombines g1
  else
    match g.exact with
    | none => r.1
    | some n => if r.2.contains n then r.1 else r.1.fallThrough g1 n

/-- A registration's routers take it now. -/
def State.pathOpen (s : State) (g : Reg) : Bool :=
  !(s.partAt g.part).namedHeld && !s.reloading 7 g.cluster && (s.regPlaces g).all fun e => !s.reloading 0 e.1

def execSubscriptionRegister (idx : Nat) (s : State) : Host.Outcome State Fault Refusal :=
  match s.regFl[idx]? with
  | none => .next s
  | some (q, no) =>
    let s1 := { s with regFl := removeAt s.regFl idx }
    match (s.clusterAt q).regs.find? fun g => g.no = no with
    | none => .next s1
    | some g =>
      if !s.pathOpen g then .next s
      else
        match s1.installReg g with
        | none => .next (s1.modReg q no fun x => { x with state := 2 })
        | some s2 => .next (s2.registered g)

/-! ## Homes (R60, R69, R71) -/

/-- The pages of a home tile, translated in the tenant's context: physical places with their GRAN (R320). -/
def State.homePlaces (s : State) (p tenant va n : Nat) (write : Bool) : State × Except XFault (List (Nat × Nat × Nat)) :=
  (pageParts va n).foldl (fun acc part =>
    match acc.2 with
    | .error f => (acc.1, .error f)
    | .ok ps =>
      let r := acc.1.walk p tenant part.1 write
      match r.2 with
      | .error f => (r.1, .error f)
      | .ok t => if write && !t.w then (r.1, .error { cause := writeFault })
                 else (r.1, .ok (ps ++ [(t.paOf part.1, part.2, t.gran)]))) (s, .ok [])


/-- Every channel of a home tile answers, and its rim agents have their descriptors. -/
def State.placesUp (s : State) (ps : List (Nat × Nat × Nat)) : Bool :=
  ps.all fun x => s.channelsUp x.1 x.2.1 x.2.2 && !s.reloading 6 (rimOf x.1 x.2.2)

/-- The key under which a tensor's home is held, when its slot is loaded for the tenant (R422). -/
def State.homeKey (s : State) (p : Nat) (d : BitVec 256) (tenant : Nat) : Option Nat :=
  if s.keyUsable p (descKey d) tenant then some (s.keyId p (descKey d)) else none

/-- The message of TYPE 0x09 (R69, R71). -/
def State.homeFault (s : State) (p : Nat) (n : Quad) (cause va : Nat) : State :=
  s.message p { type := 9, cause := cause, addr := BitVec.ofNat 64 va, aux := nameTenant n * 2 ^ 48 + nameTensor n }

/-- The bytes of a home tile; none when a granule is uncorrectable. -/
def State.homeBytes (s : State) (ps : List (Nat × Nat × Nat)) (key : Nat) : State × Option (List Byte) :=
  ps.foldl (fun acc x =>
    match acc.2 with
    | none => acc
    | some bs =>
      let r := acc.1.readPa x.1 x.2.1 x.2.2 key
      (r.1, r.2.map (bs ++ ·))) (s, some [])

/-- A fall-through to a home tile of this wafer (R69, R386). -/
def State.fetchHome (s : State) (idx q : Nat) (n : Quad) (d : BitVec 256) : State :=
  let p := s.clusterPart q
  let va := homeVa d n
  let r := s.homePlaces p (nameTenant n) va (tileBytes d) false
  let s1 := { r.1 with fetches := removeAt r.1.fetches idx }
  let e := s.branchSender p n
  match r.2, s.homeKey p d (nameTenant n) with
  | .error f, _ => if f.cause = heldBack || !s.msgOpen p then s else (s1.answer p e q n 5 5).homeFault p n f.cause va
  | .ok _, none => if !s.msgOpen p then s else (s1.answer p e q n 5 5).homeFault p n walkFault va
  | .ok ps, some key =>
    if !s.placesUp ps then s
    else
      let b := s1.homeBytes ps key
      match b.2 with
      | none => b.1.answer p e q n 5 4
      | some bs => b.1.inject p (.rim (ps.headD (0, 0, 0) |> fun x => rimOf x.1 x.2.2)) { name := n, size := descTsize d, data := bs }

def execHomeFetch (idx : Nat) (s : State) : Host.Outcome State Fault Refusal :=
  match s.fetches[idx]? with
  | none => .next s
  | some (q, n, d) => if descHome d = 1 then .next (s.fetchHome idx q n d) else .next s

/-- The Bolsar port that a name of a partition takes to a wafer (R431). -/
def State.bolsarPort (s : State) (p wafer stem : Nat) : Option Nat :=
  if bitOf (Table.get 0 s.wafer.bolsar wafer) (32 + p) then s.portTo wafer stem else none

/-- A subscription that falls through to another wafer is forwarded to it (R432). -/
def execRemoteForward (idx : Nat) (s : State) : Host.Outcome State Fault Refusal :=
  match s.fetches[idx]? with
  | none => .next s
  | some (q, n, d) =>
    let p := s.clusterPart q
    if descHome d ≠ 2 then .next s
    else
      match s.bolsarPort p (descWafer d) (nameStem n) with
      | none => .next s
      | some port =>
        .next ({ s with fetches := removeAt s.fetches idx }.onWafer fun w =>
          { w with bolsarOut := w.bolsarOut ++ [(port, Frame4.name { name := n, part := p })] })

/-- A publication written through to its home on this wafer (R71). -/
def State.writeHome (s : State) (idx : Nat) (pkt : Packet) (d : BitVec 256) : State :=
  let p := pkt.part
  let va := homeVa d pkt.name
  let r := s.homePlaces p (nameTenant pkt.name) va (tileBytes d) true
  let s1 := { r.1 with writes := removeAt r.1.writes idx }
  match r.2, s.homeKey p d (nameTenant pkt.name) with
  | .error f, _ => if f.cause = heldBack || !s.msgOpen p then s else s1.homeFault p pkt.name f.cause va
  | .ok _, none => if !s.msgOpen p then s else s1.homeFault p pkt.name walkFault va
  | .ok ps, some key =>
    if !s.placesUp ps then s
    else
      let s2 := (ps.foldl (fun (acc : State × List Byte) x =>
        (acc.1.writePa x.1 (acc.2.take x.2.1) x.2.2 key, acc.2.drop x.2.1)) (s1, pkt.data)).1
      { s2 with acks := s2.acks ++ [sourceAck pkt] }

/-- The write-through of a publication: on this wafer, or sent to the tensor's own (R71, R432). -/
def execWriteThrough (idx : Nat) (s : State) : Host.Outcome State Fault Refusal :=
  match s.writes[idx]? with
  | none => .next s
  | some pkt =>
    match pkt.desc with
    | none => .next { s with writes := removeAt s.writes idx }
    | some d =>
      if descHome d = 1 then .next (s.writeHome idx pkt d)
      else
        match s.bolsarPort pkt.part (descWafer d) (nameStem pkt.name) with
        | none => .next s
        | some port =>
          .next ({ s with writes := removeAt s.writes idx }.onWafer fun w => { w with bolsarOut := w.bolsarOut ++ [(port, Frame4.name pkt)] })

end Sys2Proof.Machine
end

