-- ==== Sys2Proof/Machine/Errors.lean ====
section
/-! DEFINITION. Page walks as steps of their own, corrected errors, configuration reloads, spill faults and fatal errors
(R310, R324, R384, R387, R388, R391), with a continuation record and a core window as bytes (Tables 3·1, 11·5). -/

namespace Sys2Proof.Machine

/-! ## PAGE_WALK (R324–R327) -/

/-- A walk for the task of a core: the TLBs take the translation, or nothing is left in them. -/
def execPageWalk (core : Nat) (va : Word) (write : Bool) (s : State) : Host.Outcome State Fault Refusal :=
  if (s.coreAt core).busy && decide (va.toNat < 2 ^ 57) then
    .next (s.atCore core fun s => (s.xlate va.toNat (if write then .store else .load)).1)
  else .next s

/-! ## CORRECTED_ERROR (R332, R384, R392) -/

/-- A corrected error adds 1 to the score of its unit; a channel counts it towards a repair (R400). -/
def execCorrectedError (unit : Nat) (s : State) : Host.Outcome State Fault Refusal :=
  .next ((s.charge (unit / 2 ^ 20) (unit % 2 ^ 20) 1).modUnit (unit / 2 ^ 20) (unit % 2 ^ 20) fun u =>
    if unit / 2 ^ 20 = 2 then { u with rowErr := u.rowErr + 1 } else u)

/-- The channel, among those of its granule, that holds a symbol of a codeword (Table 23·5). -/
def symbolChannel (gran : Nat) (e : Nat × Nat) : Nat :=
  let k := (codeShape gran).2.1
  (if e.2 < k then dataPlace gran 0 (if gran = 3 then 4 * e.2 + e.1 else e.2) else checkPlace gran 0 e.1 (e.2 - k)).1

/-- Symbols of a granule are read in error. What its code corrects is counted and charged to their channels; what goes
beyond may be found, and then the granule is uncorrectable, or may leave other bytes in it (R331, R332). -/
def State.upset (s : State) (pa gran : Nat) (errs : List (Nat × Nat)) : State :=
  let n := granBytes gran
  let q := pa / n * n
  if errs.isEmpty || paWafer q ≠ s.wafer.number then s
  else if codeCorrects gran errs then
    ((errs.map (symbolChannel gran)).dedup).foldl (fun s h =>
      let ch := (channelsOf q n gran).getD h 0
      (s.charge 2 ch 1).modUnit 2 ch fun u => { u with rowErr := u.rowErr + 1 }) s
  else
    { s with
      freeCtr := s.freeCtr + n + 1
      hbm := if Config.freeBit s.freeCtr then s.hbm.taint gran q n
        else { s.hbm with bytes := s.hbm.bytes.dramPut gran q (freeBytes (s.freeCtr + 1) n) } }

/-! ## Errors on links (R81, R84, R385) -/

/-- The word of a head flit that a bit changes: one of its own bits, or one of its check code (Table 5·7); the bits [63:56] are
in no word's code. -/
def headWord (b : Nat) : Nat := if b < 56 then b / 8 + 1 else b / 64

/-- A word of a head flit replaced. -/
def putHeadWord (h w v : Nat) : Nat := h % 2 ^ (64 * w) + v % 2 ^ 64 * 2 ^ (64 * w) + h / 2 ^ (64 * (w + 1)) * 2 ^ (64 * (w + 1))

/-- A word in which three bits or more have changed: its code may find the error, or leave another word. -/
def State.wildWord (s : State) (f : Flight) (w : Nat) : State × Flight :=
  ({ s with freeCtr := s.freeCtr + 9 },
   if Config.freeBit s.freeCtr then { f with pkt := { f.pkt with badHead := true } }
   else { f with pkt := f.pkt.withHead (putHeadWord f.pkt.head w (ofBytes (freeBytes (s.freeCtr + 1) 8))) })

/-- A packet crosses a link on which bits of its head flit change: one bit of a word is corrected and charged to the link, two
are found, and a change of [63:56] leaves a reserved bit that is not zero (R81, R84). -/
def State.noise (s : State) (i : Nat) (bits : List Nat) (payload : Bool) : State :=
  match s.flights[i]? with
  | none => s
  | some f =>
    let bs := (bits.filter fun b => decide (b < 512)).dedup
    let hits := fun w => (bs.filter fun b => headWord b = w && !(decide (56 ≤ b) && decide (b < 64))).length
    let words := (List.range 7).map (· + 1)
    let low := ((bs.filter fun b => decide (56 ≤ b) && decide (b < 64)).map fun b => 2 ^ (b - 56)).sum
    let pkt := { f.pkt with res := Nat.xor f.pkt.res low, badData := f.pkt.badData || (payload && !f.pkt.data.isEmpty),
                            badHead := f.pkt.badHead || words.any fun w => hits w = 2 }
    if 4 ≤ f.from_ then s
    else
      let r := (words.filter fun w => decide (3 ≤ hits w)).foldl (fun acc w => acc.1.wildWord acc.2 w)
        (s.chargeLink f.at_ f.from_ (words.filter fun w => hits w = 1).length, { f with pkt := pkt })
      { r.1 with flights := replaceAt r.1.flights i r.2 }

/-! ## Records and core windows as bytes -/

/-- A continuation record (Table 3·1). -/
def Rec.word (r : Rec) : Nat :=
  let path := (r.path.zipIdx.map fun p => p.1 % 2 ^ 16 * 2 ^ (240 - 16 * p.2)).sum
  Nat.lor r.resv.toNat (r.st % 16 * 2 ^ 508 + r.ctxv.toNat * 2 ^ 507 + r.cause % 256 * 2 ^ 499 + r.prio % 8 * 2 ^ 496
    + r.fcnt % 256 * 2 ^ 488 + r.scm % 64 * 2 ^ 482 + r.pc.toNat * 2 ^ 448 + r.kernel % 2 ^ 16 * 2 ^ 432 + r.tmpl % 256 * 2 ^ 424
    + r.lvls % 8 * 2 ^ 421 + r.dlvl % 8 * 2 ^ 418 + r.sat.toNat * 2 ^ 410 + r.lhalf.toNat * 2 ^ 402 + r.launch % 2 ^ 16 * 2 ^ 386
    + r.tenant % 2 ^ 12 * 2 ^ 372 + r.colour % 2 ^ 16 * 2 ^ 356 + r.gen % 2 ^ 16 * 2 ^ 340 + r.i % 2 ^ 16 * 2 ^ 304
    + r.j % 2 ^ 16 * 2 ^ 288 + r.k % 2 ^ 16 * 2 ^ 272 + path + r.csa / 64 % 2 ^ 51 * 2 ^ 77 + r.waitArg.toNat)

/-- A file of bytes in which some words cannot be read: they read zero (R391). -/
def zeroWords (bad : List Nat) (bs : List Byte) : List Byte :=
  if bad.isEmpty then bs else bs.zipIdx.map fun b => if bad.contains (b.2 / 8 * 8) then 0 else b.1

/-- The bytes of a core window. -/
def windowSize : Nat := 0x400000

/-- A core's window (Table 11·5); the offsets that are not listed are free bytes. -/
def Core.windowBytes (c : Core) (n : Nat) : List Byte :=
  zeroWords c.spadBad (c.spad.run 0 Config.spadBytes) ++ (c.image n noReplay).take 0x9320 ++ toBytes 8 c.efaultWord.toNat
    ++ freeBytes n 0xD8 ++ streamBytes c.w ++ freeBytes (n + 0xD8) 0xB00 ++ fileBytes c.live.pool 8
    ++ freeBytes (n + 0xBD8) 0x15800
    ++ zeroWords c.wbufBad (c.wbuf.run 0 Config.wbufBytes) ++ freeBytes (n + 0x17000) 0x1C0000

/-! ## A partition that ceases to exist (R391, R416) -/

/-- The partition that a rim agent belongs to (R418); 16 for none. -/
def State.rimOwner (s : State) (e : Nat) : Nat := ((List.range 16).find? fun p => (s.partAt p).owned.contains e).getD 16

/-- The partition that a configuration region serves. -/
def State.regionPart (s : State) (unit no : Nat) : Nat :=
  match unit with
  | 0 | 1 | 2 => s.routerPart no
  | 3 | 7 => s.clusterPart no
  | 4 => no
  | _ => s.rimOwner no

/-- A core without anything of a partition; its rank, its lease and its counter stay. -/
def Core.cleared (c : Core) : Core :=
  { Core.reset with rank := c.rank, named := c.named, lease := c.lease, spare := c.spare, cycle := c.cycle, spad := c.spad,
                    spadBad := c.spadBad }

/-- A cluster without anything of a partition; its stage, clocks and cap stay, and its registers unless the partition
is reset. -/
def Cluster.cleared (hard : Bool) (c : Cluster) : Cluster :=
  let d := { Cluster.reset with stage := c.stage, clock := c.clock, volt := c.volt, plan := c.plan, hot := c.hot, cap := c.cap,
                                draw := c.draw, cycle := c.cycle, fuse := c.fuse }
  if hard then d
  else { d with spillQ := c.spillQ, lines := c.lines, noticeLost := c.noticeLost, circOvf := c.circOvf, cfgErr := c.cfgErr }

/-- A router of no partition. -/
def Router.cleared (x : Router) : Router := { x with part := none, table := [], slots := [] }

/-- A partition's fields are unassigned, its key slots empty, and nothing of its traffic, tasks and tables is left. -/
def State.clearPart (s : State) (p : Nat) (hard : Bool) : State :=
  let mineQ := fun q => s.clusterPart q = p
  { s with
    reloads := s.reloads.filter fun r => s.regionPart r.unit r.no ≠ p
    core := if mineQ (clusterOf s.cur) then s.core.cleared else s.core
    others := s.others.map fun e => (e.1, if mineQ (clusterOf e.1) then e.2.cleared else e.2)
    clusters := s.clusters.map fun e => (e.1, if mineQ e.1 then e.2.cleared hard else e.2)
    routers := s.routers.map fun e => (e.1, if e.2.part = some p then e.2.cleared else e.2)
    parts := Table.drop s.parts p
    recs := s.recs.filter fun r => r.2.part ≠ p
    hbm := { s.hbm with defer := (s.hbm.defer.map fun d => (d.1, d.2.filter fun x => !mineQ (clusterOf x.1))).filter fun d => !d.2.isEmpty }
    flights := s.flights.filter fun f => f.pkt.part ≠ p
    cflits := s.cflits.filter fun f => f.pkt.part ≠ p
    kept := s.kept.filter fun k => k.pkt.part ≠ p
    acks := s.acks.filter fun a => a.part ≠ p
    regFl := s.regFl.filter fun x => !mineQ x.1
    fetches := s.fetches.filter fun x => !mineQ x.1
    writes := s.writes.filter fun x => x.part ≠ p
    addressed := s.addressed.filter fun a => a.part ≠ p
    wafer := { s.wafer with fieldPart := s.wafer.fieldPart.filter fun f => f.2 ≠ p } }

/-! ## FATAL_ERROR (R391) -/

/-- What the dump of a partition holds: a header whose layout is free, every core window that presents a rank, every
record, and the slices, whose layout is free. The configuration regions, whose sizes the spec does not give, are left
out. -/
def State.dumpBytes (s : State) (p : Nat) : List Byte :=
  let qs := (List.range 192).filter fun q => s.clusterPart q = p
  let ws := qs.flatMap fun q => ((List.range 208).map fun c => 256 * q + c).filter fun w => (s.coreAt w).named
  let running := ((s.cur :: s.others.keys).filter fun w => (s.coreAt w).busy && (s.coreAt w).task.part = p).map fun w => (s.coreAt w).task
  let rs := ((s.recs.filter fun r => r.2.part = p).map (·.2)) ++ running
  freeBytes s.freeCtr 4096 ++ (ws.zipIdx.flatMap fun w => (s.coreAt w.1).windowBytes (s.freeCtr + 4096 + windowSize * w.2)) ++ (rs.flatMap fun r => toBytes 64 r.word)
    ++ freeBytes (s.freeCtr + 4096 + windowSize * ws.length) (qs.length * 4 * 0x400000)

/-- An error fatal to a partition: the message, the dump, and the reset. -/
def State.fatal (s : State) (p : Nat) : State :=
  if !(s.partAt p).formed then s
  else
    let d := s.dumpBytes p
    let s1 := s.post s.wafer.evQ (Message.bytes { type := 8, cause := fatalCause })
    let s2 := { s1.writeG64 (s.partAt p).dump.toNat d with freeCtr := s1.freeCtr + d.length }
    s2.clearPart p true

def execFatalError (part : Nat) (s : State) : Host.Outcome State Fault Refusal := .next (s.fatal part)

/-! ## Configuration reloads (R387, R388) -/

/-- The cluster in whose CLUS.CFGERR a reload counts (R387). -/
def State.regionCluster (s : State) (unit no : Nat) : Nat :=
  match unit with
  | 0 | 1 | 2 => routerCluster no
  | 3 | 7 => no
  | _ => s.firstCluster (s.regionPart unit no)

/-- An uncorrectable word freezes the traffic that its region serves, and the region is to be reloaded. -/
def execConfigReload (region : Nat) (s : State) : Host.Outcome State Fault Refusal :=
  let unit := region / 2 ^ 20
  let no := region % 2 ^ 20
  if 7 < unit || !(s.partAt (s.regionPart unit no)).formed || s.reloading unit no then .next s
  else .next { s with reloads := s.reloads ++ [{ unit := unit, no := no }] }

/-- A registration that a router rejects is held pending (R67). -/
def State.pendReg (s : State) (g : Reg) : State :=
  (s.uninstallReg g).modReg g.cluster g.no fun x => { x with state := 2, places := [] }

/-- An installed registration put into a router's table again. -/
def State.reinstall (s : State) (q no : Nat) (e : Nat × Nat) : State :=
  match (s.clusterAt q).regs.find? fun g => g.no = no && g.state = 1 with
  | none => s
  | some g => (s.installAt g e).getD (s.pendReg g)

/-- A router's name-match entries are registered again by the clusters whose subscriptions cross it. -/
def State.rebuildTable (s : State) (r : Nat) : State :=
  let gs := s.clusters.flatMap fun c => c.2.regs.filter fun g => g.state = 1
  let mine := gs.flatMap fun g => ((s.regPlaces g).filter fun e => e.1 = r).map fun e => (g.cluster, g.no, e)
  let s1 := gs.foldl (fun s g => s.modReg g.cluster g.no fun x => { x with places := x.places.filter fun e => e.1 ≠ r })
    (s.modRouter r fun x => { x with table := [] })
  mine.foldl (fun s m => s.reinstall m.1 m.2.1 m.2.2) s1

/-- What a reload puts back: what its digest was taken of. -/
def State.reloaded (s : State) (unit no : Nat) : State :=
  match unit with
  | 0 => s.rebuildTable no
  | _ => s

/-- A reload ends: checked against the digest, the traffic resumes, with a message and a count; two failures in a row are
fatal. -/
def execConfigReloadDone (region : Nat) (ok : Bool) (s : State) : Host.Outcome State Fault Refusal :=
  let unit := region / 2 ^ 20
  let no := region % 2 ^ 20
  match s.reloads.find? fun r => r.unit = unit && r.no = no with
  | none => .next s
  | some r =>
    let p := s.regionPart unit no
    let rest := { s with reloads := s.reloads.erase r }
    if ok && !s.msgOpen p then .next s
    else if ok then
      .next (((rest.reloaded unit no).modCluster (s.regionCluster unit no) fun c => { c with cfgErr := c.cfgErr + 1 }).message p
        { type := 4, aux := region })
    else if r.fails = 0 then .next { s with reloads := s.reloads.map fun x => if x = r then { x with fails := 1 } else x }
    else .next (rest.fatal p)

/-! ## SPILL_FAULT (R310) -/

/-- A write to a slice queue's spill area faults: the queue is held, and the supervisor is told. -/
def execSpillFault (part q : Nat) (s : State) : Host.Outcome State Fault Refusal :=
  let h := s.hqAt part q
  if h.en && h.toSpill && !h.held && h.sbase ≠ 0 then .next (s.spillHold part q) else .next s

end Sys2Proof.Machine
end

