-- ==== Sys2Proof/Machine/System.lean ====
section
/-! DEFINITION. System registers, ERET, translations, dictionaries and the queue instructions (R181–R191, R203, R328,
Table 27·6). -/

namespace Sys2Proof.Machine

/-! ## System registers (R181–R183, R203) -/

/-- CORE.CHAIN as a word (Table 25·7). -/
def Core.chainWord (c : Core) : Word := BitVec.ofNat 64 (c.chainEn.toNat * 2 ^ 63 + c.tok.toNat)

/-- CORE.FRAME and CORE.SRND of a core at the boundary before its oldest bundle in flight (R148, R182). -/
def Core.frameAtBoundary (c : Core) : Frame := (c.flight.head?.bind fun b => b.frame).getD c.live.frame
def Core.srndAtBoundary (c : Core) : Word := (c.flight.head?.bind fun b => b.srnd).getD c.srnd

/-- A register of a core. -/
def Core.sysRead (c : Core) (n : Nat) : Word :=
  match n with
  | 0 => BitVec.ofNat 64 c.scb.toNat
  | 1 => c.srndAtBoundary
  | 2 => c.frameAtBoundary.word
  | 3 => BitVec.ofNat 64 c.rank
  | 4 => c.lcs.setWidth 64
  | 5 => c.chainWord
  | 6 => c.efaultWord
  | _ => 0

/-- A system register as a core sees it: cluster and partition registers are those of the issuing core (R390). A read of an
RS field clears it. -/
def State.sysRead (s : State) (w n : Nat) : State × Word :=
  let q := clusterOf s.cur
  let c := s.clusterAt q
  let x := s.partAt s.myPart
  match n with
  | 0x100 => s.readFill q
  | 0x101 => (s, c.spillQ)
  | 0x102 => s.readStage q
  | 0x103 => (s, c.noticeLost)
  | 0x104 => (s, c.circOvf)
  | 0x105 => (s, c.cfgErr)
  | 0x200 => (s, x.netWord)
  | 0x201 => (s, x.faultQ)
  | 0x203 => (s, x.dump)
  | 0x204 => (s, s.holdWord s.myPart)
  | 0x205 => (s, x.loadWord)
  | 0x301 => (s, x.keyWord)
  | _ =>
    if 0x210 ≤ n && n ≤ 0x21F then (s, x.roots.getD (n - 0x210) 0)
    else if n ≤ 6 then (s, (s.coreAt w).sysRead n)
    else (s, 0)

/-- The registers that a task without privilege may read (Table 27·6), and CORE.SRND, which it may write. -/
def openToRead (n : Nat) : Bool := decide (n ≤ 5)
def openToWrite (n : Nat) : Bool := n = 1

/-- WAITARG of a privilege fault: the opcode, and for SYS.RD and SYS.WR the register (Table 27·1). -/
def privArg (op n : Nat) : Word := BitVec.ofNat 64 (op + n * 2 ^ 8)

/-- The core whose window stands at a base (R147, R182). -/
def State.coreOfWindow (s : State) (base : Word) : Option Nat :=
  let o := base.toNat - 0xFFE0000000000
  let w := o / 0x400000
  if base.toNat < 0xFFE0000000000 || o % 0x400000 ≠ 0 || 49152 ≤ w || 208 ≤ w % 256 || !(s.coreAt w).named || (s.clusterAt (clusterOf w)).stage = 7 then none else some w

def execSysRd (f : CSysRd) (s : State) : Host.Outcome State Fault Refusal :=
  s.issue (.sysRd f) fun s =>
    let n := f.reg.toNat
    if f.b.val ≠ 0 then
      if !s.privileged then .fault privFault (privArg 0x30 n)
      else
        match s.coreOfWindow (s.core.readS .c f.b) with
        | none => .fault accessFault 0
        | some w =>
          if s.clusterPart (clusterOf w) ≠ s.myPart then .fault accessFault 0
          else
            let r := s.sysRead w n
            .done (r.1.onCore fun c => c.writeS .c 1 f.a r.2)
    else if !s.privileged && !openToRead n then .fault privFault (privArg 0x30 n)
    else
      let r := s.sysRead s.cur n
      .done (r.1.onCore fun c => c.writeS .c 1 f.a r.2)

/-- A register outside the core written (R8: fields that are read-only or reserved keep what they hold). -/
def State.sysWrite (s : State) (n : Nat) (v : Word) : State :=
  let q := clusterOf s.cur
  let p := s.myPart
  match n with
  | 6 => s.writeEfault s.cur v
  | 0x101 => s.modCluster q fun c => { c with spillQ := v }
  | 0x102 => s.writeStage q v
  | 0x200 => s.writeNetCfg p v
  | 0x201 => s.modPart p fun x => { x with faultQ := v }
  | 0x202 => s.resumeLaunch p (field v 0 16)
  | 0x203 => s.modPart p fun x => { x with dump := BitVec.ofNat 64 (field v 12 40 * 2 ^ 12) }
  | 0x204 => s.writeHold p v
  | 0x205 => s.writeLoad p v
  | 0x206 => s.endLaunch p (field v 0 16)
  | 0x300 => s.writeFeClr p v
  | 0x301 => s.writeKeySlot p v
  | _ => if 0x210 ≤ n && n ≤ 0x21F then s.writeRoot p (n - 0x210) v else s

/-- The core's own registers take their values after the bundle; for the others SYS.WR issues last (R183). -/
def execSysWr (f : CSysWr) (s : State) : Host.Outcome State Fault Refusal :=
  s.issue (.sysWr f) fun s =>
    let n := f.reg.toNat
    let v := s.core.readS .c f.a
    if !s.privileged && !openToWrite n then .fault privFault (privArg 0x31 n)
    else if n = 0 || n = 1 || n = 5 then
      .done (s.onCore fun c => { c with lat := { c.lat with sysw := (n, v) :: c.lat.sysw } })
    else if s.alone .c then .done (s.sysWrite n v)
    else .wait

/-- CORE.SRND, CORE.CTL.SCB and CORE.CHAIN written from outside a bundle. -/
def execCoreSrndWrite (core : Nat) (v : Word) (s : State) : Host.Outcome State Fault Refusal :=
  .next (s.modCore core fun c => c.sysApply (1, v))
def execCoreCtlScbWrite (core : Nat) (v : Word) (s : State) : Host.Outcome State Fault Refusal :=
  .next (s.modCore core fun c => c.sysApply (0, v))
def execCoreChainWrite (core : Nat) (v : Word) (s : State) : Host.Outcome State Fault Refusal :=
  .next (s.modCore core fun c => c.sysApply (5, v))

/-! ## ERET (R187, R23, R383) -/

/-- The record may return: not one that a checkpoint hold or a register's data fault left. -/
def Rec.returns (r : Rec) : Bool :=
  r.st = 6 && r.cause ≠ holdLimit && r.cause ≠ faultLimit && !(r.cause = dataFault && bitOf r.waitArg 63)

def State.eret (s : State) (a : Word) (head : Bool) : Res :=
  if !s.privileged then .fault privFault 0x32
  else
    match s.recAt a.toNat with
    | none => .fault accessFault a
    | some r =>
      if r.part ≠ s.core.task.part || !r.returns then .fault accessFault a
      else if r.resv ≠ 0 then .done (s.setRec { r with cause := recordFault, waitArg := 0 })
      else .done (s.returnRec r head)

def execEret (f : CA) (s : State) : Host.Outcome State Fault Refusal :=
  s.issue (.eret f) fun s => s.eret (s.core.readS .c f.a) false

def execEretH (f : CA) (s : State) : Host.Outcome State Fault Refusal :=
  s.issue (.eretH f) fun s => s.eret (s.core.readS .c f.a) true

/-! ## TLB.INV (R188, R328) -/

/-- Partition scope (Table 13·1). -/
def partScope : Nat := 4

/-- The TLBs of a partition without the entries that a test names. -/
def State.tlbDrop (s : State) (p : Nat) (hit : TlbEntry → Bool) : State :=
  let keep := fun (l : List TlbEntry) => l.filter fun t => !(t.part = p && hit t)
  { s with
    core := { s.core with utlb := keep s.core.utlb }
    others := s.others.map fun e => (e.1, { e.2 with utlb := keep e.2.utlb })
    clusters := s.clusters.map fun e => (e.1, { e.2 with tlb := keep e.2.tlb })
    wafer := { s.wafer with fieldTlb := s.wafer.fieldTlb.map fun e => (e.1, keep e.2) } }

/-- The entries that a test names. -/
def State.tlbHits (s : State) (p : Nat) (hit : TlbEntry → Bool) : List TlbEntry :=
  (s.core.utlb ++ s.others.flatMap (fun e => e.2.utlb) ++ s.clusters.flatMap (fun e => e.2.tlb)
    ++ s.wafer.fieldTlb.flatMap (fun e => e.2)).filter fun t => t.part = p && hit t

/-- No access that one of some entries translated has still to perform: of the cores' queues and deferred lists, of the
store buffers, and of what engines have still to commit (R328). -/
def State.tlbQuiet (s : State) (ts : List TlbEntry) : Bool :=
  let touched := fun (pa n : Nat) => ts.any fun t => overlaps t.pa t.size pa n
  (s.clusters.all fun c => c.2.stbuf.all fun e => !touched e.pa e.data.length) &&
    (s.cur :: s.others.keys).all fun w =>
      ((s.coreAt w).eng.shadow.all fun l => !(l.sp = .vm && touched l.addr l.data.length)) &&
        (s.coreAt w).eng.acc.all fun a => a.asked || a.parts.all fun p =>
          match p.1 with
          | .vm _ pa _ _ _ _ => !touched pa p.2
          | _ => true

/-- The store queue has let every virtual store of the task go, and its rim agents have accepted them (R328). -/
def State.ownStoresOut (s : State) : Bool :=
  (s.core.eng.acc.all fun a => !(a.waits && a.kind.writes && a.parts.any fun p => p.1.space.1 = .vm)) && s.storesDone partScope

def State.tlbInv (s : State) (op : Nat) (hit : TlbEntry → Bool) : Res :=
  let p := s.core.task.part
  if !s.privileged then .fault privFault (BitVec.ofNat 64 op)
  else if !s.ownStoresOut || !s.tlbQuiet (s.tlbHits p hit) then .wait
  else .done (s.tlbDrop p hit)

def execTlbInv (f : CA) (s : State) : Host.Outcome State Fault Refusal :=
  s.issue (.tlbInv f) fun s =>
    let va := (s.core.readS .c f.a).toNat
    s.tlbInv 0x33 fun t => decide (t.va ≤ va) && decide (va < t.va + t.size)

def execTlbInvAll (f : CNone) (s : State) : Host.Outcome State Fault Refusal :=
  s.issue (.tlbInvAll f) fun s => s.tlbInv 0x33 fun _ => true

/-! ## Dictionaries (R189, R190) -/

def execDictLd (f : CAB) (s : State) : Host.Outcome State Fault Refusal :=
  s.issue (.dictLd f) fun s =>
    let a := s.core.readS .c f.a
    let b := s.core.readS .c f.b
    let q := clusterOf s.cur
    let n := field b 0 14 + 1
    let kernel := field b 32 16
    let c := s.clusterAt q
    if !s.privileged then .fault privFault 0x34
    else if a.toNat % 64 ≠ 0 then .fault alignFault a
    else if field b 14 18 ≠ 0 || field b 48 16 ≠ 0 then .fault accessFault a
    else if c.dicts.any fun d => d.kernel = kernel then .fault accessFault a
    else
      let r := s.readVa s.core.task.part s.core.task.tenant a.toNat (48 * n) .dict
      match r.2 with
      | .error e => .faultIn r.1 e.cause (e.arg a.toNat)
      | .ok bs =>
        if Config.codeStoreBytes < (c.dicts.map fun d => 48 * d.entries.length).sum + 48 * n then .stay r.1
        else
          let es := (List.range n).map fun i => BitVec.ofNat 384 (ofBytes ((bs.drop (48 * i)).take 48))
          .done (r.1.modCluster q fun c =>
            { c with dicts := c.dicts ++ [{ kernel := kernel, part := s.core.task.part, entries := es }] })

/-- A kernel has a live level instance in a cluster. -/
def State.kernelLive (s : State) (p q kernel : Nat) : Bool :=
  (s.partAt p).linsts.any fun x => x.ready && x.clusters.contains q && (s.launchOf p x.launch).elim false fun l => l.kernel = kernel

def execDictInv (f : CA) (s : State) : Host.Outcome State Fault Refusal :=
  s.issue (.dictInv f) fun s =>
    let a := s.core.readS .c f.a
    let kernel := field a 0 16
    let q := clusterOf s.cur
    if !s.privileged then .fault privFault 0x35
    else if s.kernelLive s.core.task.part q kernel then .fault accessFault a
    else .done (s.modCluster q fun c => { c with dicts := c.dicts.filter fun d => d.kernel ≠ kernel })

/-! ## Queues (R191, R309, R310, R315) -/

/-- The checks of a queue instruction: the handle, the privilege of the supervisor launch queue, the buffer. -/
def State.queueCheck (s : State) (h a : Word) (enq : Bool) : Option (Nat × Word) :=
  if !s.handleOk h || handlePart h ≠ s.core.task.part || (enq && handleIdx h = 64 && !s.privileged) then some (queueFault, h)
  else scratchCheck a 64

/-- The place in DRAM at which an entry is written, or from which one comes, answers (R338). -/
def State.ringUp (s : State) (q : Hq) (spill : Bool) (count : Nat) : Bool :=
  if q.slice then !spill || s.channelsUp (q.spillAt count) 64 1 else s.channelsUp (q.base + 64 * (count % q.cap)) 64 1

/-- QENQ and QENQ.NB: the predicate of the second is given. -/
def State.qenq (s : State) (h a : Word) (p : Option PReg) : Res :=
  let put := fun (s : State) (b : Bool) => match p with
    | none => s
    | some p => s.onCore fun c => c.writeP .c 1 p b
  match s.queueCheck h a true with
  | some e => .fault e.1 e.2
  | none =>
    let q := s.hqAt (handlePart h) (handleIdx h)
    if !q.room then (if p.isSome then .done (put s false) else .wait)
    else if !s.performed s.cur s.stamp partScope false || !s.ringUp q q.toSpill q.tail then .wait
    else if s.spillFaults (handlePart h) (handleIdx h) then
      let t := s.spillHold (handlePart h) (handleIdx h)
      if p.isSome then .done (put t false) else .stay t
    else
      match badIn s.core.spadBad a.toNat 64 with
      | some w => .fault dataFault (BitVec.ofNat 64 w)
      | none => .done (put (s.hqPut (handlePart h) (handleIdx h) (s.core.spadGet a.toNat 64)) true)

def State.qdeq (s : State) (h a : Word) (p : Option PReg) : Res :=
  let put := fun (s : State) (b : Bool) => match p with
    | none => s
    | some p => s.onCore fun c => c.writeP .c 1 p b
  match s.queueCheck h a false with
  | some e => .fault e.1 e.2
  | none =>
    let i := handlePart h
    let j := handleIdx h
    let q := s.hqAt i j
    if q.count = 0 then (if p.isSome then .done (put s false) else .wait)
    else if !s.ringUp q (decide (0 < q.spilled)) (if q.slice then q.firstSpilled else q.head) then .wait
    else
      let r := s.hqHead i j
      match r.2 with
      | none => .faultIn r.1 dataFault (BitVec.ofNat 64 (q.base + 64 * (q.head % q.cap)))
      | some e =>
        let t := r.1.enqueue { kind := .store e false, slot := .c, parts := [(.loc a.toNat, 64)] }
        .done (put ((t.hqPop i j).drainPosts i j) true)

def execQenq (f : CAB) (s : State) : Host.Outcome State Fault Refusal :=
  s.issue (.qenq f) fun s => s.qenq (s.core.readS .c f.a) (s.core.readS .c f.b) none
def execQdeq (f : CAB) (s : State) : Host.Outcome State Fault Refusal :=
  s.issue (.qdeq f) fun s => s.qdeq (s.core.readS .c f.a) (s.core.readS .c f.b) none
def execQenqNb (f : CQp) (s : State) : Host.Outcome State Fault Refusal :=
  s.issue (.qenqNb f) fun s => s.qenq (s.core.readS .c f.a) (s.core.readS .c f.b) (some f.p)
def execQdeqNb (f : CQp) (s : State) : Host.Outcome State Fault Refusal :=
  s.issue (.qdeqNb f) fun s => s.qdeq (s.core.readS .c f.a) (s.core.readS .c f.b) (some f.p)

end Sys2Proof.Machine
end

