-- ==== Sys2Proof/Machine/Sienna.lean ====
section
/-! DEFINITION. Sienna: capacity notices, retirement records, test leases, the retirement of cores and clusters, and
margin plans (R62, R392–R401, R405, R406, R424, Tables 29·2, 29·4, 29·6). -/

namespace Sys2Proof.Machine

/-! ## Capacity notices (R401) -/

/-- The link of a port is up and in service. -/
def State.linkUp (s : State) (r d : Nat) : Bool := !(s.routerAt r).hole d

/-- Units of a type that serve a partition now. -/
def State.capacity (s : State) (p ty : Nat) : Nat :=
  match ty with
  | 0 => (((s.clustersOf p).flatMap s.placesIn).filter fun i =>
      (s.coreOfPlace i).elim false fun w => (s.coreAt w).lease = .service).length
  | 1 => ((s.routersOf p).map fun r => ([1, 2].filter fun d => s.linkUp r d).length).sum
  | 2 => ((s.partAt p).owned.flatMap fun e => (List.range 32).filter fun c =>
      !(s.partAt p).gone.contains (32 * e + c) && (s.unitAt 2 (32 * e + c)).lease = .service).length
  | _ => (s.clustersOf p).length

/-- The formed partitions that a unit serves. -/
def State.unitParts (s : State) (ty no : Nat) : List Nat :=
  ((match ty with
    | 0 => [s.clusterPart (clusterOf no)]
    | 1 => [s.routerPart (linkRouter no), s.routerPart (linkFar no)]
    | 2 => [s.rimOwner (no / 32)]
    | _ => [s.clusterPart no]).dedup).filter fun p => (s.partAt p).formed

/-- One capacity notice, published to every tenant with a live launch in a partition. -/
def State.noticeIn (s : State) (p ev ty no cap : Nat) (latv : Bool) : State :=
  let x := s.partAt p
  let body := BitVec.ofNat 248 (ev * 2 ^ 240 + ty * 2 ^ 236 + no * 2 ^ 200 + x.nseq * 2 ^ 168 + latv.toNat * 2 ^ 167 + cap * 2 ^ 128)
  let s1 := s.modPart p fun x => { x with nseq := (x.nseq + 1) % 2 ^ 32 }
  ((x.launches.map fun l => l.2.tenant).dedup).foldl (fun s t =>
    s.inject p .sienna { name := nameOf t 0xFFFF00 0 0 ty 0 0 4, body := body }) s1

/-- The notices of an event of a unit: lease begins 1, returned 2, retired 3. -/
def State.capNotice (s : State) (ev ty no : Nat) (latv : Bool) : State :=
  (s.unitParts ty no).foldl (fun s p => s.noticeIn p ev ty no (s.capacity p ty) latv) s

/-- The notice of a changed clock (R406, R434). -/
def State.clockNotice (s : State) (q : Nat) : State :=
  (s.unitParts 4 q).foldl (fun s p => s.noticeIn p 4 4 q (s.clusterAt q).clock false) s

/-! ## Retirement records (R405, R429) -/

/-- A retirement record (Table 29·6). Its pattern set and detail are free values. -/
def State.retirement (s : State) (ty no reason : Nat) : List Byte :=
  toBytes 64 (2 ^ 504 + ty * 2 ^ 500 + no * 2 ^ 464 + reason * 2 ^ 456 + s.wafer.htime.toNat * 2 ^ 384 + s.wafer.lseq * 2 ^ 352
    + (s.unitAt ty no).score * 2 ^ 336 + ofBytes (freeBytes s.freeCtr 10) * 2 ^ 256 + Config.wid.toNat)

/-- The record and its signature go to the non-volatile log, and to the host queue of MGMT.LOGQ as two entries. -/
def State.logRetirement (s : State) (ty no reason : Nat) : State :=
  let e := s.retirement ty no reason
  let sig := (Config.signature e ++ List.replicate 64 0).take 64
  let s1 := ({ s with freeCtr := s.freeCtr + 10 }).onWafer fun w =>
    { w with nvlog := w.nvlog ++ [e ++ sig], lseq := (w.lseq + 1) % 2 ^ 32 }
  (s1.post s.wafer.logQ e).post s.wafer.logQ sig

/-! ## Scores and candidates (R393, R394) -/

/-- Boundaries since a unit's last test (R393). -/
def State.ageOf (s : State) (ty no : Nat) : Nat := min 4095 (s.wafer.boundaries - (s.unitAt ty no).tested)

/-- The priority of a unit for a lease (R394). -/
def State.leasePri (s : State) (ty no : Nat) : Nat := min 0xFFFF ((s.unitAt ty no).score + s.wafer.agew * s.ageOf ty no)

/-- The unit of highest priority, the lowest number among equals. -/
def State.candidate (s : State) (ty : Nat) (nos : List Nat) : Option Nat :=
  nos.foldl (fun best n =>
    match best with
    | none => some n
    | some b => if s.leasePri ty b < s.leasePri ty n || (s.leasePri ty b = s.leasePri ty n && decide (n < b)) then some n else best) none

/-- Cores of a cluster that may be leased. -/
def State.coreCandidates (s : State) (q : Nat) : List Nat :=
  ((s.placesIn q).filterMap s.coreOfPlace).filter fun w => (s.coreAt w).lease = .service

/-- Routers of a cluster. -/
def clusterRouters (q : Nat) : List Nat :=
  (List.range 48).map fun i => routerNo (8 * clusterCol q + i % 8) (6 * clusterRow q + i / 8)

/-- Links of a cluster's routers, by number, that may be leased. -/
def State.linkCandidates (s : State) (q : Nat) : List Nat :=
  ((clusterRouters q).flatMap fun r => [1, 2].filterMap fun d =>
    if s.linkUp r d && s.routerPart (neighbour r d) = s.routerPart r then some (linkUnit r d) else none).filter fun u =>
      (s.unitAt 1 u).lease = .service

/-- Channels of a stack that may be leased. -/
def State.channelCandidates (s : State) (e : Nat) : List Nat :=
  ((List.range 32).map fun c => 32 * e + c).filter fun u => (s.unitAt 2 u).lease = .service

/-! ### The bound of R415 around a link -/

/-- A router has a neighbour in a direction. -/
def inMesh (r d : Nat) : Bool :=
  match d with
  | 0 => decide (0 < routerRow r)
  | 1 => decide (routerCol r < 127)
  | 2 => decide (routerRow r < 71)
  | _ => decide (0 < routerCol r)

/-- A hop that a partition's route may take. -/
def State.hopOk (s : State) (p r d : Nat) : Bool := inMesh r d && s.linkUp r d && s.routerPart (neighbour r d) = p

/-- The way round a link in three hops, by the direction of its first. -/
def aroundBy (ok : Nat → Nat → Bool) (r d e : Nat) : Bool :=
  ok r e && ok (neighbour r e) d && ok (neighbour (neighbour r e) d) (oppPort e)

/-- Some way round a link keeps the bound of R415. -/
def State.aroundOk (s : State) (p r d : Nat) : Bool :=
  [(d + 1) % 4, (d + 3) % 4].any fun e => aroundBy (s.hopOk p) r d e

/-! ## The start of leases (R394, R395) -/

/-- A core lease starts. -/
def State.startCore (s : State) (w : Nat) : State :=
  ((s.setLease 0 w .prepare).modUnit 0 w fun u => { u with since := (s.coreAt w).cycle.toNat }).capNotice 1 0 w false

/-- Some link of a partition is being drained or put back: Sienna holds its circuit class (R312, R398). -/
def State.circWanted (s : State) (p : Nat) : Bool :=
  s.wafer.units.any fun e => e.1 / 2 ^ 20 = 1 && (e.2.lease = .prepare || e.2.lease = .restore) &&
    s.routerPart (linkRouter (e.1 % 2 ^ 20)) = p &&
    (e.2.lease = .restore || s.aroundOk p (linkRouter (e.1 % 2 ^ 20)) (linkPort (e.1 % 2 ^ 20)))

/-- Sienna's hold of the circuit class follows its leases. -/
def State.setCirc (s : State) (p : Nat) : State := s.modPart p fun x => { x with sienCirc := s.circWanted p }

/-- A link lease starts: the circuit class is held unless a detour would break the bound (R398, R424). -/
def State.startLink (s : State) (u : Nat) : State := (s.setLease 1 u .prepare).setCirc (s.routerPart (linkRouter u))

/-- A channel lease starts: the notice goes out before the quiesce (R399). -/
def State.startChannel (s : State) (u : Nat) : State := (s.setLease 2 u .prepare).capNotice 1 2 u true

/-- Channel quiesces in progress. -/
def State.quiesces (s : State) : Nat :=
  (s.wafer.units.filter fun e => e.1 / 2 ^ 20 = 2 && (e.2.lease = .prepare || e.2.lease = .test)).length

/-- The agent of a cluster starts at most one core lease and one link lease. -/
def State.agentStarts (s : State) (q : Nat) : State :=
  let s1 := (s.candidate 0 (s.coreCandidates q)).elim s s.startCore
  (s1.candidate 1 (s1.linkCandidates q)).elim s1 s1.startLink

/-- The controller starts at most one channel lease in a stack. -/
def State.controllerStarts (s : State) (e : Nat) : State :=
  if s.wafer.chq ≤ s.quiesces then s else (s.candidate 2 (s.channelCandidates e)).elim s s.startChannel

/-- An interval boundary: scores are halved, ages advance, and leases start unless EN is 0 (R393, R394, R407). -/
def execSiennaInterval (s : State) : Host.Outcome State Fault Refusal :=
  let s1 := s.onWafer fun w =>
    { w with boundaries := w.boundaries + 1, units := w.units.map fun e => (e.1, { e.2 with score := e.2.score / 2 }) }
  if !s.wafer.sienEn then .next s1
  else
    let qs := (List.range 192).filter fun q => s1.serviceable q && (s1.partAt (s1.clusterPart q)).formed
    .next ((List.range 32).foldl State.controllerStarts (qs.foldl State.agentStarts s1))

/-! ## Cores (R396, R397) -/

/-- A spare: healthy, and presenting no rank. -/
def State.spareFree (s : State) (w : Nat) : Bool := !(s.coreAt w).named && (s.coreAt w).lease = .service

/-- The spare of a core's physical column (R413). -/
def columnSpare (w : Nat) : Nat := 256 * clusterOf w + 192 + w % 16

/-- No other lease stores its region in a spare. -/
def State.spareUnused (s : State) (w x : Nat) : Bool :=
  (s.cur :: s.others.keys).all fun o => o = w || (s.coreAt o).spare ≠ x || !(s.coreAt o).lease.away

/-- The spare to which a leased core's region is copied: its column's, otherwise another column's of its cluster. -/
def State.spareFor (s : State) (w : Nat) : Option Nat :=
  (columnSpare w :: (List.range 16).map fun c => 256 * clusterOf w + 192 + c).find? fun x => s.spareFree x && s.spareUnused w x

/-- A lease that does not go on (Table 29·2). -/
def State.abandonLease (s : State) (ty no : Nat) : State :=
  let s1 := s.setLease ty no .service
  if ty = 1 then s1.setCirc (s1.routerPart (linkRouter no)) else s1.capNotice 2 ty no false

/-- A core that has left its task goes from PREPARE through SAVE to TEST. -/
def execLeaseSave (core : Nat) (s : State) : Host.Outcome State Fault Refusal :=
  let c := s.coreAt core
  if c.lease ≠ .prepare || c.busy then .next s
  else
    match c.region with
    | none => .next (s.setLease 0 core .test)
    | some g =>
      match s.spareFor core with
      | none => .next (s.abandonLease 0 core)
      | some x =>
        .next ((s.modCore x fun d => d.spadPut 0 (c.spadGet 0 g.2.2)).modCore core fun c => { c with lease := .test, spare := x })

/-- A lease is abandoned: a core that a quantum has not freed, or a link without an alternate. -/
def execLeaseAbandon (unit : Nat) (s : State) : Host.Outcome State Fault Refusal :=
  let ty := unit / 2 ^ 20
  let no := unit % 2 ^ 20
  if s.leaseOf ty no ≠ .prepare then .next s
  else if ty = 0 then
    let c := s.coreAt no
    match s.levelOf c.task with
    | some l => if c.busy && decide ((s.unitAt 0 no).since + l.quantum ≤ c.cycle.toNat) then .next (s.abandonLease 0 no) else .next s
    | none => .next s
  else if ty = 1 then .next (s.abandonLease 1 no)
  else .next s

/-- A launch that no task is of: the next dispatch writes the weight buffer with zero (R275). -/
def noOwner : Nat := 2 ^ 32

/-- What the patterns of a test leave in a core: nothing that the spec names beyond the region. -/
def State.tested (s : State) (w : Nat) : State :=
  let c := s.coreAt w
  let n := (c.region.map fun g => g.2.2).getD 0
  let back := if n = 0 then c else c.spadPut 0 ((s.coreAt c.spare).spadGet 0 n)
  let c1 := back.spadPut n (freeBytes s.freeCtr (Config.spadBytes - n))
  { s.setCore w { c1 with wbuf := c1.wbuf.write 0 (freeBytes (s.freeCtr + Config.spadBytes) Config.wbufBytes), wOwner := noOwner, spare := 65536 }
    with freeCtr := s.freeCtr + Config.spadBytes + Config.wbufBytes }

/-- A spare takes a failed core's rank and region (R397). -/
def State.promote (s : State) (w x : Nat) : State :=
  let c := s.coreAt w
  let n := (c.region.map fun g => g.2.2).getD 0
  let src := if c.lease.away && c.spare ≠ 65536 then (s.coreAt c.spare).spadGet 0 n else c.spadGet 0 n
  let s1 := s.modCore x fun d => { (if n = 0 then d else d.spadPut 0 src) with rank := c.rank, named := true, region := c.region }
  s1.modCore w fun c => { c with named := false, lease := .retired, region := none, spare := 65536 }

/-! ## Links and their neighbourhood (R398, R411) -/

/-- Bit of a direction in a health field, N highest. -/
def dirBit (d : Nat) : BitVec 4 := BitVec.ofNat 4 (2 ^ (3 - d))

def Router.setLink (x : Router) (d : Nat) (up : Bool) : Router :=
  { x with link := if up then x.link ||| dirBit d else x.link &&& ~~~dirBit d }

/-- A link up or down at both its ends. -/
def State.setLink (s : State) (u : Nat) (up : Bool) : State :=
  (s.modRouter (linkRouter u) fun x => x.setLink (linkPort u) up).modRouter (linkFar u) fun x => x.setLink (oppPort (linkPort u)) up

/-- The registrations of a partition taken out, made again after a change of its paths (R62, R387, R398). -/
def State.rerouted (s : State) (p : Nat) (change : State → State) : State :=
  let gs := s.clusters.flatMap fun c => c.2.regs.filter fun g => g.part = p && g.state = 1
  let s1 := change (gs.foldl (fun s g => (s.uninstallReg g).modReg g.cluster g.no fun x => { x with places := [] }) s)
  gs.foldl (fun s g =>
    match s.installReg g with
    | some t => t
    | none => s.modReg g.cluster g.no fun x => { x with state := 2, places := [] }) s1

/-- A route crosses a link. -/
def crosses (u : Nat) : Nat → List Nat → Bool
  | _, [] => false
  | r, d :: t => (decide (d < 4) && linkUnit r d = u) || crosses u (neighbour r d) t

/-- No valid slot of a router's port carries a circuit. -/
def Router.portIdle (x : Router) (d : Nat) : Bool := (x.slots.getD d []).all fun e => !slotV e

/-- The alternate tables avoid a link, and no flit that takes it is left. -/
def State.linkClear (s : State) (u : Nat) : Bool :=
  let r := linkRouter u
  let d := linkPort u
  (s.routerAt r).portIdle d && (s.routerAt (linkFar u)).portIdle (oppPort d) &&
    (routePorts ((s.routerAt r).detour.getD d 0)).elim false (fun l => !l.isEmpty && !crosses u r l) &&
    (routePorts ((s.routerAt (linkFar u)).detour.getD (oppPort d) 0)).elim false (fun l => !l.isEmpty && !crosses u (linkFar u) l) &&
    s.flights.all fun f => !crosses u f.at_ f.route

/-- A drained link enters TEST: from then on it is a hole. -/
def execLinkDrained (unit : Nat) (s : State) : Host.Outcome State Fault Refusal :=
  let u := unit % 2 ^ 20
  let p := s.routerPart (linkRouter u)
  if s.leaseOf 1 u ≠ .prepare || !s.aroundOk p (linkRouter u) (linkPort u) || !s.circQuiet p || !s.linkClear u then .next s
  else .next (((s.rerouted p fun s => s.setLink u false).setLease 1 u .test).setCirc p)

/-! ## Clusters (R62) -/

/-- The neighbours of a cluster's routers learn that it is retired. -/
def State.markRetired (s : State) (q : Nat) : State :=
  (clusterRouters q).foldl (fun s r => [0, 1, 2, 3].foldl (fun s d =>
    if inMesh r d && routerCluster (neighbour r d) ≠ q then
      s.modRouter (neighbour r d) fun x => { x with retd := x.retd ||| dirBit (oppPort d) }
    else s) s) s

/-- Packets that make for a slice make for the one that serves its entry now. -/
def State.retarget (s : State) : State :=
  { s with flights := s.flights.map fun f =>
    if f.down || !f.route.isEmpty then f else { f with goal := (s.goalOf f.pkt.part f.pkt.name).getD f.goal } }

/-- A time of one cluster's count, as it comes in another's. -/
def dueIn (c d : Cluster) (due : Nat) : Nat := d.cycle + (due - c.cycle)

/-- A slice of a retired cluster is its stand-in. -/
def Endpoint.moved (q t : Nat) (e : Endpoint) : Endpoint :=
  match e with
  | .slice x k => if x = q then .slice t k else .slice x k
  | e => e

/-- The branches of a publication whose tree a retired cluster's slice has still to answer for, at its stand-in: those of the
stand-in's router. -/
def State.keptBranches (s : State) (k : Kept) : List Kept :=
  match k.owner with
  | .slice t i => (s.treePorts (sliceRouter t i) (sliceRouter t i) k.pkt.name).map fun p => { k with port := some p }
  | _ => []

/-- The packets that a retired cluster's slices keep until they are acknowledged go to the stand-in, each with the time that is
left to it. -/
def State.moveKept (s : State) (q t : Nat) : State :=
  let mine := fun (k : Kept) => k.owner ≠ k.owner.moved q t
  let moved := (s.kept.filter mine).map fun k =>
    { k with owner := k.owner.moved q t, due := dueIn (s.clusterAt q) (s.clusterAt t) k.due }
  let tree := (moved.filter fun k => k.port.isSome).foldl (fun (l : List Kept) k =>
    if l.any fun o => o.pkt.part = k.pkt.part && o.pkt.src = k.pkt.src && o.pkt.seq = k.pkt.seq then l else l ++ [k]) []
  { s with
    kept := (s.kept.filter fun k => !mine k) ++ (moved.filter fun k => k.port.isNone) ++ tree.flatMap s.keptBranches
    acks := s.acks.map fun a => { a with owner := a.owner.moved q t }
    flights := s.flights.map fun f => { f with sender := f.sender.moved q t }
    clusters := s.clusters.map fun c =>
      let each := fun (l : List (Packet × Endpoint)) => l.map fun x => (x.1, x.2.moved q t)
      (c.1, { c.2 with inbox := each c.2.inbox, heldIn := each c.2.heldIn, markers := each c.2.markers }) }

/-- What a retired cluster's slices held moves to their stand-ins, with the time that is left to each; a retained publication
that cannot be read is discarded, and a combine that cannot is lost (R62, R386). The partition's named traffic is held from the
beginning of this step to its end. -/
def State.moveSlices (s : State) (q t : Nat) : State :=
  let c := s.clusterAt q
  let d := s.clusterAt t
  let s1 := s.modCluster t fun d => { d with
    retained := d.retained ++ (c.retained.filter fun r => !r.pkt.badData && !r.gone).map fun r => { r with due := dueIn c d r.due }
    combines := d.combines ++ c.combines.map fun x => { x with due := dueIn c d x.due }
    pubs := d.pubs ++ c.pubs
    contribs := d.contribs ++ c.contribs }
  let s2 := (s1.modCluster q fun c => { c with retained := [], combines := [], pubs := [], contribs := [] }).moveKept q t
  (c.combines.filter fun x => x.bad && !x.published && !x.lost).foldl (fun s x =>
    s.loseCombine t { x with due := dueIn c d x.due } 4) s2

/-- The tasks of a retired cluster's cores leave them at their next suspension points, and its leases end. -/
def State.emptyCluster (s : State) (q : Nat) : State :=
  let ws := (s.cur :: s.others.keys).dedup.filter fun w => clusterOf w = q
  let s1 := ws.foldl (fun s w =>
    if (s.coreAt w).lease = .service || (s.coreAt w).lease = .retired then s
    else (s.setLease 0 w .retired).capNotice 3 0 w false) s
  ws.foldl (fun s w => s.modCore w fun c => if c.busy && c.pre = .none then { c with pre := .sienna } else c) s1

/-- A cluster is retired whole. -/
def State.retireCluster (s : State) (q reason : Nat) : State :=
  let p := s.clusterPart q
  let s1 := (s.rerouted p fun s => (s.modCluster q fun c => { c with stage := 7 }).markRetired q).logRetirement 4 q reason
  let s2 := (if s1.standIn p q = q then s1 else s1.moveSlices q (s1.standIn p q)).retarget
  (s2.emptyCluster q).capNotice 3 4 q false

/-- A core is retired: its column's spare takes its place, or its cluster is retired whole (R397). A spare that keeps another
leased core's region counts as not available, since the spec does not say what would become of that region (log entry 112).
Accesses to the windows of a cluster that is retired whole are held (R205). -/
def State.retireCore (s : State) (w reason : Nat) : State :=
  if s.spareFree (columnSpare w) && s.spareUnused w (columnSpare w) then
    ((s.logRetirement 0 w reason).promote w (columnSpare w)).capNotice 3 0 w false
  else
    ((s.modCore w fun c => { c with lease := .retired }).capNotice 3 0 w false).retireCluster (clusterOf w) 4

/-! ## Channels (R399, R400) -/

/-- A channel that has its notice out is quiesced: its requests are held. -/
def execChannelQuiesce (unit : Nat) (s : State) : Host.Outcome State Fault Refusal :=
  let u := unit % 2 ^ 20
  if s.leaseOf 2 u = .prepare then .next (s.setLease 2 u .test) else .next s

/-- Rows that gave errors are repaired within the quiesce; whether a bank has no resource left is a free choice. -/
def State.softRepair (s : State) (u : Nat) : State :=
  let s1 := s.modUnit 2 u fun x => { x with rowErr := 0 }
  if 3 ≤ (s.unitAt 2 u).rowErr && Config.freeBit s.freeCtr then ({ s1 with freeCtr := s1.freeCtr + 1 }).logRetirement 2 u 3
  else s1

/-- A channel that has failed goes on serving until the supervisor releases it. -/
def execChannelRelease (part unit : Nat) (s : State) : Host.Outcome State Fault Refusal :=
  let u := unit % 2 ^ 20
  if s.leaseOf 2 u = .retire && (s.partAt part).owns u then
    .next ((s.setLease 2 u .retired).modPart part fun x => { x with gone := x.gone ++ [u] })
  else .next s

/-! ## The end of a test (R393, R395, R397, R398, R400) -/

/-- A test resets the unit's age. -/
def State.noteTest (s : State) (ty no : Nat) : State := s.modUnit ty no fun u => { u with tested := s.wafer.boundaries }

/-- The score and the age of a unit whose test has ended: a marginal result adds 512 (Table 29·1). -/
def State.testScored (s : State) (ty no : Nat) (result : TestResult) : State :=
  let s1 := s.noteTest ty no
  if result = .marginal then s1.charge ty no 512 else s1

/-- A core passes: its region is copied back. -/
def State.corePassed (s : State) (w : Nat) : State := ((s.tested w).setLease 0 w .service).capNotice 2 0 w false

/-- A stored pattern set ends: a pass or a marginal result restores the unit, a failure retires it. A link in RESTORE goes back to SERVICE at a second such step, once no load of its
original tables is running. -/
def execLeaseTestDone (unit : Nat) (result : TestResult) (s : State) : Host.Outcome State Fault Refusal :=
  let ty := unit / 2 ^ 20
  let no := unit % 2 ^ 20
  let p := s.routerPart (linkRouter no)
  let pass := decide (result ≠ .fail)
  match ty, s.leaseOf ty no with
  | 0, .test =>
    let s1 := s.testScored 0 no result
    .next (if pass then s1.corePassed no else s1.retireCore no 1)
  | 1, .test =>
    let s1 := s.testScored 1 no result
    if pass then .next (((s1.rerouted p fun s => s.setLink no true).setLease 1 no .restore).setCirc p)
    else .next (((s1.logRetirement 1 no 1).setLease 1 no .retired).capNotice 3 1 no false)
  | 1, .restore =>
    if (s.partAt p).loadBusy then .next s else .next (((s.setLease 1 no .service).setCirc p).capNotice 2 1 no false)
  | 2, .test =>
    let s1 := (s.testScored 2 no result).softRepair no
    if pass then .next ((s1.setLease 2 no .service).capNotice 2 2 no false)
    else .next (((s1.logRetirement 2 no 1).setLease 2 no .retire).capNotice 3 2 no false)
  | _, _ => .next s

/-! ## Operator commands (R405) -/

/-- The operator retires a unit: a core once no task runs on it, a link, a channel or a cluster. -/
def execOperatorCommand (unit : Nat) (s : State) : Host.Outcome State Fault Refusal :=
  let no := unit % 2 ^ 20
  match unit / 2 ^ 20 with
  | 0 => if (s.coreAt no).busy || !s.coreServiceable no then .next s else .next (s.retireCore no 2)
  | 1 =>
    if s.leaseOf 1 no = .retired then .next s
    else .next ((((s.rerouted (s.routerPart (linkRouter no)) fun s => s.setLink no false).logRetirement 1 no 2).setLease 1 no .retired).capNotice
      3 1 no false)
  | 2 =>
    if s.leaseOf 2 no = .retire || s.leaseOf 2 no = .retired then .next s
    else .next (((s.logRetirement 2 no 2).setLease 2 no .retire).capNotice 3 2 no false)
  | 4 => if s.serviceable no then .next (s.retireCluster no 2) else .next s
  | _ => .next s

/-! ## Margin plans (R406) -/

/-- A cluster's margin plan changes: the voltage is raised, or the clock steps down; a clock below 1.5 GHz retires the
cluster whole. -/
def execMarginPlanChange (cluster plan : Nat) (s : State) : Host.Outcome State Fault Refusal :=
  let c := s.clusterAt cluster
  if !s.serviceable cluster || 1700 < plan then .next s
  else if plan < 1500 then .next (s.retireCluster cluster 1)
  else if plan % 25 ≠ 0 then .next s
  else
    let clock := if c.stage = 5 && (c.clock = c.plan || decide (plan < c.clock)) && !c.hot then plan else c.clock
    .next ((s.setCluster cluster
      { c with volt := if plan = c.plan then c.volt + 1 else c.volt, plan := plan, clock := clock }).clockNotice cluster)

end Sys2Proof.Machine
end

