-- ==== Sys2Proof/Machine/Wafer.lean ====
section
/-! DEFINITION. Greeting, bring-up, partitions, keys, power, cold reset, the host ports and Bolsar (R7, R411–R427,
R430–R437). -/

namespace Sys2Proof.Machine

/-! ## Greeting (R412) -/

/-- The cluster of a router has left RESET. -/
def State.awake (s : State) (r : Nat) : Bool := let g := (s.clusterAt (routerCluster r)).stage; decide (1 ≤ g) && decide (g ≤ 5)

/-- A router sends 64 greeting flits by a mesh port. -/
def execGreetingBurst (router port : Nat) (s : State) : Host.Outcome State Fault Refusal :=
  if decide (port < 4) && decide (router < 9216) && inMesh router port && s.awake router then
    .next (s.modRouter router fun x => { x with sent := x.sent ||| dirBit port })
  else .next s

/-- The far end answers a burst; with all 64 flits intact the direction passes, and once both directions have passed the
link is up, unless a lease or a retirement keeps it out. -/
def execGreetingAnswer (router port intact : Nat) (s : State) : Host.Outcome State Fault Refusal :=
  let far := neighbour router port
  if !(decide (port < 4) && inMesh router port) || !bitOf (s.routerAt router).sent (3 - port) || !s.awake far || intact ≠ 64 then .next s
  else
    let passed := if (s.routerAt far).failed then 0 else dirBit port
    let s1 := s.modRouter router fun x => { x with heard := x.heard ||| dirBit port, nbr := x.nbr ||| passed }
    let u := linkUnit router port
    if bitOf (s1.routerAt far).heard (3 - oppPort port) && (s1.unitAt 1 u).lease ≠ .test && (s1.unitAt 1 u).lease ≠ .retired then
      .next (s1.setLink u true)
    else .next s1

/-! ## Detours and route tables (R410, R411) -/

/-- A route word from its hops: runs of one direction, none when it needs more than six (Table 31·1). -/
def segments : List Nat → List (Nat × Nat)
  | [] => []
  | d :: t =>
    match segments t with
    | (e, n) :: r => if e = d && decide (n < 127) then (e, n + 1) :: r else (d, 1) :: (e, n) :: r
    | [] => [(d, 1)]
def noRoute : Word := BitVec.ofNat 64 (7 * 2 ^ 61)
def routeOf (hops : List Nat) (eject : Nat) : Word :=
  let segs := segments hops
  if 6 < segs.length then noRoute
  else BitVec.ofNat 64 (segs.length * 2 ^ 61 + eject * 2 ^ 57
    + (segs.zipIdx.map fun g => (g.1.1 * 2 ^ 7 + g.1.2) * 2 ^ (45 - 9 * g.2)).sum)

/-- A router lies in a cluster that is not retired, in the fields that a test names. -/
def State.routerLive (s : State) (inside : Nat → Bool) (r : Nat) : Bool :=
  inside (routerField r) && (s.clusterAt (routerCluster r)).stage ≠ 7

/-- A hop inside some fields over a live link to a live router. -/
def State.liveHop (s : State) (inside : Nat → Bool) (r d : Nat) : Bool :=
  inMesh r d && s.linkUp r d && s.routerLive inside (neighbour r d)

/-- The hops of a way round: k across, m along, k back; every hop is live. -/
def State.walkable (s : State) (inside : Nat → Bool) : Nat → List Nat → Bool
  | _, [] => true
  | r, d :: t => s.liveHop inside r d && s.walkable inside (neighbour r d) t

/-- The detour of a direction: the shortest way round, across by at most 127 hops, to the nearest live router beyond. -/
def State.bootDetour (s : State) (inside : Nat → Bool) (r d : Nat) : Word :=
  let ways := (List.range 127).flatMap fun m => (List.range 127).flatMap fun k => [(d + 1) % 4, (d + 3) % 4].map fun e =>
    List.replicate (k + 1) e ++ List.replicate (m + 1) d ++ List.replicate (k + 1) (oppPort e)
  match ways.find? fun l => s.walkable inside r l with
  | some l => routeOf l 0
  | none => noRoute

/-- The detour words of one router (log entry 44). -/
def State.detours (s : State) (inside : Nat → Bool) (r : Nat) : List Word :=
  (List.range 4).map fun d => if (s.routerAt r).hole d && inMesh r d then s.bootDetour inside r d else noRoute

/-- The detours of some routers, loaded. -/
def State.loadDetours (s : State) (inside : Nat → Bool) (rs : List Nat) : State :=
  rs.foldl (fun s r => s.modRouter r fun x => { x with detour := s.detours inside r }) s

/-- The route words of one core (Table 31·2). -/
def State.coreRoutes (s : State) (p w : Nat) : List Word :=
  let q := clusterOf w
  let r := coreRouter q (s.coreAt w).rank
  let leg := fun goal eject => if s.routerPart goal = p then routeOf (s.hopsTo r goal pathFuel) eject else noRoute
  let portOf := fun rank => 4 + coreY q rank % 2 * 2 + coreX q rank % 2
  ((List.range 192).map fun k => leg (coreRouter q k) (portOf k))
    ++ ((List.range 32).map fun e => leg (rimRouter e) 10)
    ++ ((List.range 32).map fun b => leg (routerNo (if b < 16 then 0 else 127) (b % 16 * 9 / 2)) 11)
    ++ ((List.range 4).map fun k => leg (sliceRouter q k) 9) ++ [leg (schedRouter q) 8, leg (routerNo 0 0) 10]

/-- Words put in a route table from an entry on. -/
def putWords (t : Table Word) (at_ : Nat) (l : List Word) : Table Word := l.zipIdx.foldl (fun t e => Table.set t (at_ + e.2) e.1) t

/-- The route tables of a cluster's cores, loaded at their routers. -/
def State.loadRoutes (s : State) (p q : Nat) : State :=
  ((List.range 192).filterMap fun k => s.rankCore q k).foldl (fun s w =>
    let rank := (s.coreAt w).rank
    let port := coreY q rank % 2 * 2 + coreX q rank % 2
    s.modRouter (coreRouter q rank) fun x => { x with routes := putWords x.routes (262 * port) (s.coreRoutes p w) }) s

/-! ## Bring-up (R413, R433) -/

/-- A core that a retirement has taken, or that cannot be used. -/
def State.coreBad (s : State) (w : Nat) : Bool := (s.coreAt w).lease = .retired

/-- Bad cores of a physical column, in rows 0 to 11, and of its spare. -/
def State.badRows (s : State) (q col : Nat) : List Nat := (List.range 12).filter fun r => s.coreBad (256 * q + 16 * r + col)

/-- Renumbering: every good core presents the rank of its own row, and a column's spare that of its bad core. -/
def State.renumber (s : State) (q : Nat) : State :=
  (List.range 16).foldl (fun s col =>
    match s.badRows q col with
    | [] => s
    | r :: _ => (s.modCore (256 * q + 192 + col) fun c => { c with rank := 16 * r + col, named := true }).modCore
        (256 * q + 16 * r + col) fun c => { c with named := false }) s

/-- A column with two bad cores, a router that has failed its BIST, or a link inside the cluster that cannot be avoided within the bound: the cluster is
retired whole. -/
def State.clusterLost (s : State) (q : Nat) : Bool :=
  ((List.range 16).any fun col => decide (2 ≤ ((s.badRows q col).length + (s.coreBad (256 * q + 192 + col)).toNat))) ||
    (clusterRouters q).any fun r => (s.routerAt r).failed || [1, 2].any fun d =>
      inMesh r d && routerCluster (neighbour r d) = q && !s.linkUp r d &&
        !([(d + 1) % 4, (d + 3) % 4].any fun e => aroundBy (s.liveHop fun _ => true) r d e)

/-- Every port of a cluster has been greeted, up or a hole. -/
def State.greeted (s : State) (q : Nat) : Bool :=
  (clusterRouters q).all fun r => [0, 1, 2, 3].all fun d => !inMesh r d || bitOf (s.routerAt r).sent (3 - d)

/-- Local counters start at zero (R184). -/
def State.startCounters (s : State) (q : Nat) : State :=
  ((s.cur :: s.others.keys).dedup.filter fun w => clusterOf w = q).foldl (fun s w => s.modCore w fun c => { c with cycle := 0 })
    ((s.modCluster q fun c => { c with cycle := 0 }).onWafer fun w => { w with netCycles := Table.set w.netCycles (fieldOf q) 0 })

/-- A field whose clusters have all left GREET is up. -/
def State.noteField (s : State) (f : Nat) : State :=
  if ((List.range 4).all fun i => decide (2 ≤ (s.clusterAt (4 * f + i)).stage)) && !s.wafer.fieldUp.contains f then
    s.onWafer fun w => { w with fieldUp := w.fieldUp ++ [f] }
  else s

/-- What the fuses of a cluster and the built-in tests say: its defective Celadon blocks, cores and routers (R344, R412,
R413, R433). -/
def State.readFuses (s : State) (q found : Nat) : State :=
  let bad := ((List.range 208).filter fun c => bitAt found (256 + c)).map fun c => 256 * q + c
  let s1 := bad.foldl (fun s w => s.modCore w fun c => { c with lease := .retired, named := false })
    (s.modCluster q fun c => { c with fuse := c.fuse ||| BitVec.ofNat 256 found })
  ((clusterRouters q).zipIdx.filter fun r => bitAt found (464 + r.2)).foldl (fun s r => s.modRouter r.1 fun x => { x with failed := true }) s1

/-- A cluster passes to its next stage (Table 33·3). A failed test of SELFTEST retires it, with a record (log entry 96). -/
def execClusterStageAdvance (cluster found : Nat) (s : State) : Host.Outcome State Fault Refusal :=
  let c := s.clusterAt cluster
  let goTo := fun (n : Nat) (s : State) => s.modCluster cluster fun c => { c with stage := n }
  if s.wafer.stopped.contains (fieldOf cluster) || 192 ≤ cluster then .next s
  else
    match c.stage with
    | 0 => .next (goTo 1 ((s.readFuses cluster found).startCounters cluster))
    | 1 => if s.greeted cluster then .next ((goTo 2 s).noteField (fieldOf cluster)) else .next s
    | 2 =>
      if s.clusterLost cluster then .next ((goTo 7 s).markRetired cluster)
      else
        let s1 := (s.renumber cluster).loadDetours (fun _ => true) (clusterRouters cluster)
        .next (goTo 3 ((clusterRouters cluster).foldl (fun s r => s.modRouter r fun x => { x with coreOk := 15 }) s1))
    | 3 =>
      if found ≠ 0 then .next ((goTo 7 (s.logRetirement 4 cluster 1)).markRetired cluster)
      else .next (goTo 4 (s.modCluster cluster fun c => { c with clock := 1000, plan := 1700 }))
    | 4 => .next ((goTo 5 (s.modCluster cluster fun c => { c with clock := if c.hot then 1000 else c.plan })).clockNotice cluster)
    | _ => .next s

/-- A field is reset: its clusters, cores and routers, and the presence bits of its stacks (R7, R341). Retired cores stay
retired; a partition that held the field is gone. -/
def State.resetField (s : State) (f : Nat) : State :=
  let s1 : State := if s.fieldPartition f < 16 then s.clearPart (s.fieldPartition f) true else s
  let mine := fun q => fieldOf q = f
  let stack := fun (a : Nat) => (if rimOf a 1 / 16 = 0 then 0 else 40) + rimOf a 1 % 16 / 2 = f
  let fresh := fun (w : Nat) (c : Core) => if c.lease = .retired then { Core.reset with lease := .retired, named := false } else Core.fresh w
  let s2 : State := { s1 with
    core := if mine (clusterOf s1.cur) then fresh s1.cur s1.core else s1.core
    others := s1.others.map fun e => (e.1, if mine (clusterOf e.1) then fresh e.1 e.2 else e.2)
    clusters := s1.clusters.map fun e => (e.1, if mine e.1 then { Cluster.reset with fuse := e.2.fuse } else e.2)
    routers := s1.routers.map fun e => (e.1, if routerField e.1 = f then {} else e.2)
    hbm := { s1.hbm with empty := s1.hbm.empty.filter (fun a => !stack a), defer := s1.hbm.defer.filter fun d => !stack d.1 } }
  let edge := (List.range 9216).filter fun r => routerField r ≠ f && [0, 1, 2, 3].any fun d => inMesh r d && routerField (neighbour r d) = f
  let s3 := edge.foldl (fun s r => [0, 1, 2, 3].foldl (fun s d =>
    if inMesh r d && routerField (neighbour r d) = f then
      s.modRouter r fun x => { x.setLink d false with heard := x.heard &&& ~~~dirBit d, nbr := x.nbr &&& ~~~dirBit d, retd := x.retd &&& ~~~dirBit d }
    else s) s) s2
  s3.onWafer fun w => { w with fieldUp := w.fieldUp.filter (· ≠ f), stopped := w.stopped.filter (· ≠ f), fieldTlb := Table.drop w.fieldTlb f }

def execColdReset (field : Nat) (s : State) : Host.Outcome State Fault Refusal := .next (s.resetField field)

/-! ## Power and cooling (R435, R436) -/

/-- Reserved fields aside, a write of CAP outside 40 to 200 is ignored. -/
def State.writeCap (s : State) (q : Nat) (v : Word) : State :=
  if field v 0 16 < 40 || 200 < field v 0 16 then s else s.modCluster q fun c => { c with cap := field v 0 16 }
def execPwrCapWrite (cluster : Nat) (v : Word) (s : State) : Host.Outcome State Fault Refusal := .next (s.writeCap cluster v)

/-- The highest clock that a cluster may run at now. -/
def Cluster.ceiling (c : Cluster) : Nat := if c.hot || c.stage ≠ 5 then 1000 else c.plan

/-- The draw averaged over 100 µs against the cap: down by 25 MHz, up by 25 MHz, or as it stands. -/
def execPowerCapStep (cluster draw : Nat) (s : State) : Host.Outcome State Fault Refusal :=
  .next (s.modCluster cluster fun c =>
    { c with draw := draw % 2 ^ 16
             clock := if c.cap < draw then max 1000 (c.clock - 25)
               else if draw * 100 < c.cap * 95 then min (max c.ceiling 1000) (c.clock + 25) else c.clock })

/-- 100 °C: the cluster is held at 1.0 GHz; below 95 °C it runs at its plan's clock again. -/
def execThermalHold (cluster : Nat) (s : State) : Host.Outcome State Fault Refusal :=
  .next (s.modCluster cluster fun c => { c with hot := true, clock := 1000 })
def execThermalRelease (cluster : Nat) (s : State) : Host.Outcome State Fault Refusal :=
  .next (s.modCluster cluster fun c => if c.hot then { c with hot := false, clock := if c.stage = 5 then c.plan else c.clock } else c)

/-- 110 °C: the field stops, which is fatal to the partition that holds it. -/
def execThermalStop (field : Nat) (s : State) : Host.Outcome State Fault Refusal :=
  let s1 := if s.wafer.stopped.contains field then s else s.onWafer fun w => { w with stopped := w.stopped ++ [field] }
  .next (if s.fieldPartition field < 16 then s1.fatal (s.fieldPartition field) else s1)

/-! ## Partitions (R414–R418, R423) -/

/-- The fields of a PART.FORM value. -/
structure FormCmd where
  pid  : Nat
  fx0  : Nat
  fx1  : Nat
  fy0  : Nat
  fy1  : Nat
  supv : Nat
  deriving DecidableEq, Repr, Inhabited

def formOf (v : Word) : FormCmd :=
  { pid := field v 0 6, fx0 := field v 8 3, fx1 := field v 12 3, fy0 := field v 16 3, fy1 := field v 20 3, supv := field v 32 16 }

/-- No reserved bit of Table 31·4 is set. -/
def formClean (v : Word) : Bool :=
  field v 56 7 = 0 && field v 26 6 = 0 && !bitOf v 23 && !bitOf v 19 && !bitOf v 15 && !bitOf v 11 && field v 6 2 = 0

/-- The rectangle holds a field. -/
def FormCmd.has (c : FormCmd) (f : Nat) : Bool :=
  decide (c.fx0 ≤ fieldCol f) && decide (fieldCol f ≤ c.fx1) && decide (c.fy0 ≤ fieldRow f) && decide (fieldRow f ≤ c.fy1) &&
    decide (f < 48)

def FormCmd.fields (c : FormCmd) : List Nat := (List.range 48).filter c.has
def FormCmd.clusters (c : FormCmd) : List Nat := (List.range 192).filter fun q => c.has (fieldOf q)
def FormCmd.cols (c : FormCmd) : List Nat := (List.range 8).filter fun x => decide (c.fx0 ≤ x) && decide (x ≤ c.fx1)

/-- Other partitions with fields in a field column. -/
def State.partsInCol (s : State) (p col : Nat) : List Nat :=
  (((List.range 6).map fun y => s.fieldPartition (8 * y + col)).filter fun x => decide (x < 16) && x ≠ p).dedup

/-- The stacks that a partition owns: those of its own edge in its columns, and the other edge's where it is alone
(R418). -/
def State.ownedStacks (s : State) (c : FormCmd) : List Nat :=
  c.cols.flatMap fun x => [0, 1].flatMap fun e =>
    if (if e = 0 then c.fy0 = 0 else c.fy1 = 5) || (s.partsInCol c.pid x).isEmpty then [16 * e + 2 * x, 16 * e + 2 * x + 1] else []

/-- The field that a stack stands beside (R15, R400). -/
def stackField (e : Nat) : Nat := (if e / 16 = 0 then 0 else 40) + e % 16 / 2

/-- A channel is in service: its stack's field has come up, and it is neither quiesced nor retired. -/
def State.channelServes (s : State) (u : Nat) : Bool :=
  s.wafer.fieldUp.contains (stackField (u / 32)) && (s.unitAt 2 u).lease ≠ .test && (s.unitAt 2 u).lease ≠ .retired

/-- The rim agent of a stack is in service. -/
def State.rimUp (s : State) (e : Nat) : Bool := (List.range 32).any fun c => s.channelServes (32 * e + c)

/-- Routers of the serviceable clusters of some fields. -/
def State.openRouters (s : State) (c : FormCmd) : List Nat := (c.clusters.filter s.serviceable).flatMap clusterRouters

/-- Two neighbouring routers reach each other within the bound of R415. -/
def State.boundMet (s : State) (inside : Nat → Bool) (r d : Nat) : Bool :=
  s.linkUp r d || [(d + 1) % 4, (d + 3) % 4].any fun e => aroundBy (s.liveHop inside) r d e

/-- Every pair of neighbouring named cores meets the bound. -/
def State.boundsMet (s : State) (inside : Nat → Bool) (c : FormCmd) : Bool :=
  let rs := s.openRouters c
  rs.all fun r => [1, 2].all fun d => !inMesh r d || !rs.contains (neighbour r d) || s.boundMet inside r d

/-- Routers reached from some by live hops inside a rectangle. -/
def State.spread (s : State) (inside : Nat → Bool) : Nat → List Nat → List Nat
  | 0, seen => seen
  | n + 1, seen =>
    let more := ((seen.flatMap fun r => [0, 1, 2, 3].filterMap fun d =>
      if s.liveHop inside r d then some (neighbour r d) else none).filter fun r => !seen.contains r).dedup
    if more.isEmpty then seen else s.spread inside n (seen ++ more)

/-- The serviceable clusters of a rectangle hang together inside it. -/
def State.connected (s : State) (c : FormCmd) : Bool :=
  match s.openRouters c with
  | [] => false
  | r :: rs => let seen := s.spread c.has 9216 [r]; rs.all seen.contains

/-- The first reason of Table 31·5 that applies to a command. -/
def State.formReasons (s : State) (v : Word) (form : Bool) : Nat :=
  let c := formOf v
  let formed := (s.partAt c.pid).formed
  let checks : List (Nat × Bool) := [
    (1, !formClean v || decide (15 < c.pid) || decide (5 < c.fy0) || decide (5 < c.fy1) || decide (c.fx1 < c.fx0) ||
        decide (c.fy1 < c.fy0) || formed == form),
    (2, form && c.fy0 ≠ 0 && c.fy1 ≠ 5),
    (3, form && ((c.fields.any fun f => decide (s.fieldPartition f < 16) || !s.wafer.fieldUp.contains f) || !c.has (fieldOf (clusterOf c.supv)))),
    (4, form && c.cols.any fun x =>
        match s.partsInCol c.pid x with
        | [] => false
        | [o] => (s.partAt o).owned.contains (2 * x) && (s.partAt o).owned.contains (16 + 2 * x)
        | _ => true),
    (5, form && !s.boundsMet (fun _ => true) c),
    (6, form && (!s.boundsMet c.has c || !s.connected c)),
    (7, form && (s.ownedStacks c).any fun e => !s.rimUp e),
    (8, !form && !(s.partAt c.pid).launches.isEmpty)]
  ((checks.find? (·.2)).map (·.1)).getD 0

/-- A write of PART.FORM: ignored while BUSY; OP 1 and 2 start the work (R416, R423). -/
def State.writeForm (s : State) (v : Word) : State :=
  if s.wafer.formBusy then s
  else
    let op := field v 24 2
    s.onWafer fun w => { w with formVal := v, formCmd := op, formBusy := op = 1 || op = 2 }

def execPartForm (v : Word) (s : State) : Host.Outcome State Fault Refusal := .next (s.writeForm (setField v 24 2 1))
def execPartDissolve (v : Word) (s : State) : Host.Outcome State Fault Refusal := .next (s.writeForm (setField v 24 2 2))

/-- PART.FORM as it reads (Table 31·4). -/
def Wafer.formWord (w : Wafer) : Word :=
  BitVec.ofNat 64 (w.formBusy.toNat * 2 ^ 63 + w.formReason * 2 ^ 48 + field w.formVal 32 16 * 2 ^ 32 + field w.formVal 20 3 * 2 ^ 20
    + field w.formVal 16 3 * 2 ^ 16 + field w.formVal 12 3 * 2 ^ 12 + field w.formVal 8 3 * 2 ^ 8 + field w.formVal 0 6)

/-- A partition comes to be: its fields, its slices, the stacks it owns, its routers with their tables, and the launch of
Sienna's agents in its supervisor launch queue (R315, R416, R418). -/
def State.formPart (s : State) (c : FormCmd) : State :=
  let qs := c.clusters.filter s.serviceable
  let owned := s.ownedStacks c
  let s1 := s.setPart c.pid
    { formed := true, fx0 := c.fx0, fx1 := c.fx1, fy0 := c.fy0, fy1 := c.fy1, supv := c.supv, owned := owned, agents := true,
      slices := qs.flatMap fun q => (List.range 4).map fun k => (q, k),
      gone := (owned.flatMap fun e => (List.range 32).map fun n => 32 * e + n).filter fun u => (s.unitAt 2 u).lease = .retired }
  let s2 := s1.onWafer fun w => { w with fieldPart := c.fields.foldl (fun t f => Table.set t f c.pid) w.fieldPart }
  let rs := c.clusters.flatMap clusterRouters
  let s3 := (rs.foldl (fun s r => s.modRouter r fun x => { x with part := some c.pid }) s2).loadDetours c.has rs
  qs.foldl (fun s q => s.loadRoutes c.pid q) s3

/-- The command in PART.FORM ends. -/
def execPartFormDone (s : State) : Host.Outcome State Fault Refusal :=
  if !s.wafer.formBusy then .next s
  else
    let v := s.wafer.formVal
    let form := decide (s.wafer.formCmd = 1)
    let reason := s.formReasons v form
    let s1 := s.onWafer fun w => { w with formBusy := false, formReason := reason }
    if reason ≠ 0 then .next s1
    else if form then .next (s1.formPart (formOf v))
    else .next (s1.clearPart (formOf v).pid false)

/-! ## Keys (R419, R420) -/

/-- The status byte that a key-install message gets, and the key when it is installed. -/
def State.installCheck (s : State) (m : List Byte) : Nat × List Byte :=
  let part := numAt m 2 1
  let slot := numAt m 3 1
  if numAt m 0 2 ≠ 1 || 15 < part || 4096 ≤ numAt m 8 2 || numAt m 10 6 ≠ 0 then (4, [])
  else if !(s.partAt part).formed then (1, [])
  else if slot = 0 || (Table.get {} (s.partAt part).keys slot).state ≠ 0 then (2, [])
  else
    match Config.unwrap ((m.drop 16).take 72) with
    | none => (3, [])
    | some k => (0, k)

/-- A key-install message is answered; an install writes the slot in every owning rim agent first. -/
def execKeyInstall (idx : Nat) (s : State) : Host.Outcome State Fault Refusal :=
  match s.wafer.spdm[idx]? with
  | none => .next s
  | some m =>
    let r := s.installCheck m
    let s1 := s.onWafer fun w => { w with spdm := removeAt w.spdm idx, answers := w.answers ++ [r.1] }
    if r.1 ≠ 0 then .next s1
    else
      let k : KeySlot := { state := 1, tenant := numAt m 8 2, kid := numAt m 4 4, key := r.2, id := s.wafer.keyCtr + 1 }
      .next ((s1.modPart (numAt m 2 1) fun x => { x with keys := Table.set x.keys (numAt m 3 1) k }).onWafer fun w =>
        { w with keyCtr := w.keyCtr + 1 })

/-- A reset of the rim empties every key slot. -/
def execRimReset (s : State) : Host.Outcome State Fault Refusal :=
  .next { s with parts := s.parts.map fun e => (e.1, { e.2 with keys := [] }) }

/-! ## Host ports (R425, R426) -/

def execPcieLinkTrain (port : Nat) (s : State) : Host.Outcome State Fault Refusal :=
  if port < 2 && !s.wafer.portSeen.contains port then .next (s.onWafer fun w => { w with portSeen := w.portSeen ++ [port] }) else .next s

/-- The bytes of a range as they are stored, under the G64 map: ciphertext on keyed pages (R426); free where they were written
under another GRAN (R334) or are uncorrectable. -/
def State.storedBytes (s : State) (a n : Nat) : List Byte :=
  (granules a n 1).flatMap fun q =>
    let bs := if s.hbm.bad 1 q || (s.hbm.misfit 1 q && !s.hbm.exact 1 0 q) then freeBytes (s.freeCtr + q) 64 else s.hbm.bytes.run q 64
    (bs.drop (a - q)).take (min (a + n) (q + 64) - max a q)

/-- Bytes stored as given, under the G64 map (R426): the pieces they reach are as they are stored, whatever their key. -/
def State.storeRaw (s : State) (a : Nat) (bs : List Byte) : State :=
  let t := s.writePa a bs 1 0
  let ps := (granules a bs.length 1).flatMap (granPieces 1)
  let sound := (granules a bs.length 1).all fun q => covered q a bs.length 1 || !s.hbm.misfit 1 q
  { t with hbm := { t.hbm with
      bytes := if sound then s.hbm.bytes.write a bs else t.hbm.bytes
      tags := ps.foldl (fun x p => Table.set x p { gran := 1, key := 0, raw := true }) t.hbm.tags } }

/-- An access through BAR2 is performed, a write behind the writes that came by its port before it (R428), unless its channel
is quiesced (R426). -/
def execBar2Access (idx : Nat) (s : State) : Host.Outcome State Fault Refusal :=
  match s.wafer.bar2[idx]? with
  | none => .next s
  | some b =>
    let a := s.wafer.number * 2 ^ 41 + b.addr % 2 ^ 41
    let n := min b.n (2 ^ 41 - b.addr % 2 ^ 41)
    if !s.channelsUp a n 1 || (b.write && (s.wafer.bar2.take idx).any fun x => x.write && x.port = b.port) then .next s
    else
      let s1 := s.onWafer fun w => { w with bar2 := removeAt w.bar2 idx }
      if b.write then .next (s1.storeRaw a (b.data.take n))
      else
        let out := s.storedBytes a n
        .next ({ s1 with freeCtr := s1.freeCtr + a + n }.onWafer fun w => { w with bar2Out := w.bar2Out ++ [out] })

/-! ## Bolsar (R430, R432) -/

/-- A port gets its link key. -/
def execBolsarLinkKey (port : Nat) (s : State) : Host.Outcome State Fault Refusal :=
  if port < 32 && !s.wafer.linkKey.contains port then .next (s.onWafer fun w => { w with linkKey := w.linkKey ++ [port] }) else .next s

/-- The frame at the head of a port goes out; a failed check is retried and scored. -/
def execBolsarFlit (port : Nat) (crcOk : Bool) (s : State) : Host.Outcome State Fault Refusal :=
  match s.wafer.bolsarOut.find? fun x => x.1 = port with
  | none => .next s
  | some x =>
    if !s.wafer.linkKey.contains port then .next s
    else if crcOk then .next ((s.onWafer fun w => { w with bolsarOut := w.bolsarOut.erase x }).homeFrame x.2)
    else .next (s.charge 3 port 1)

end Sys2Proof.Machine
end

