-- ==== Sys2Proof/Machine/Mgmt.lean ====
section
/-! DEFINITION. The registers of the rim management window: hardware queues, the record port, core windows, Sienna's and
the wafer's own (R6, R23, R147, R148, R308–R310, R407, R427, R437, R440, R441, Tables 33·5–33·8). -/

namespace Sys2Proof.Machine

/-! ## Hardware queues (R308–R310, Table 21·11) -/

/-- Entries that wait for a queue are taken while it has room. -/
def State.drainAll (s : State) (p i : Nat) : State :=
  (s.partAt p).posts.foldl (fun s _ => s.drainPosts p i) s

/-- The window of a formed partition takes writes (R440). -/
def State.inWindow (s : State) (p i : Nat) : Bool := (s.partAt p).formed && decide (i < 4096)

def State.writeHqCfg (s : State) (p i : Nat) (v : Word) : State :=
  let q := s.hqAt p i
  let en := bitOf v 63
  let slice := bitOf v 62
  let logn := field v 58 4
  let base := if slice then field v 48 9 * 2 ^ 48 + field v 0 22 else field v 6 51 * 2 ^ 6
  if !s.inWindow p i || (en && !s.hqPlaceOk p slice (field v 0 57) logn) then s
  else
    (s.setHq p i { q with en := en, slice := slice, logn := logn, base := base, held := q.held && !bitOf v 57,
                          gen := if en && !q.en then (q.gen + 1) % 256 else q.gen }).drainAll p i

/-- A write that the queue ignores and counts. -/
def State.ignoreHq (s : State) (p i : Nat) : State := s.setHq p i { s.hqAt p i with ignored := (s.hqAt p i).ignored + 1 }

/-- The doorbell: entries from TAIL on are accepted. The words of a slice queue's new entries are free values, since the
host does not write them. -/
def State.writeHqTail (s : State) (p i : Nat) (v : Word) : State :=
  let q := s.hqAt p i
  let n := (field v 0 32 + 2 ^ 32 - q.head) % 2 ^ 32
  if !s.inWindow p i then s
  else if !q.en || n < q.count || q.cap < n then s.ignoreHq p i
  else
    let more := n - q.count
    let ents := (List.range more).map fun k => freeBytes (s.freeCtr + 64 * k) 64
    let q1 := { q with tail := field v 0 32 }
    let q2 := if q.slice then { q1 with ents := q.ents ++ ents, bads := q.bads ++ List.replicate more false } else q1
    let s1 := { s.setHq p i q2 with freeCtr := if q.slice then s.freeCtr + 64 * more else s.freeCtr }
    if more = 0 then s1 else s1.queueTurned p i (q.count = 0)

/-- The queue's entries in its slice once HEAD leaves n of them, at most its capacity: a HEAD moved back shows entries again,
whose words are free values. -/
def State.moveHead (s : State) (p i n : Nat) (v : Word) : State :=
  let q := s.hqAt p i
  let back := (List.range (n - q.count)).map fun k => freeBytes (s.freeCtr + 64 * k) 64
  let q1 := { q with head := field v 0 32 }
  if !q.slice then s.setHq p i q1
  else
    let gone := q.count - n
    let skip := gone - q.ents.length
    let q2 := { q1 with ents := back ++ q.ents.drop gone, bads := back.map (fun _ => false) ++ q.bads.drop gone }
    ({ s.setHq p i q2 with freeCtr := s.freeCtr + 64 * (n - q.count) }).unspill p i (q.spilled - skip)

/-- Entries removed by the host. A queue that a HEAD moved back makes non-empty turns non-empty like any other (R309). -/
def State.writeHqHead (s : State) (p i : Nat) (v : Word) : State :=
  let q := s.hqAt p i
  let n := (q.tail + 2 ^ 32 - field v 0 32) % 2 ^ 32
  if !s.inWindow p i then s
  else if !q.en || q.cap < n then s.ignoreHq p i
  else
    let s1 := (s.moveHead p i n v).drainAll p i
    if n = 0 then s1 else s1.queueTurned p i (q.count = 0)

def State.writeHqNotify (s : State) (p i : Nat) (v : Word) : State :=
  let q := s.hqAt p i
  if !s.inWindow p i then s
  else s.setHq p i { q with pend := q.pend && !bitOf v 17, ien := bitOf v 16, vec := field v 0 16 }

def execHqCfgWrite (part q : Nat) (v : Word) (s : State) : Host.Outcome State Fault Refusal := .next (s.writeHqCfg part q v)
/-- A write of the host comes through its port behind every write that the host made there before (R428). -/
def State.portClear (s : State) (port : HostPort) : Bool := s.wafer.bar2.all fun b => !b.write || some b.port ≠ port

def execHqTailWrite (part q : Nat) (v : HostWord) (s : State) : Host.Outcome State Fault Refusal :=
  if s.portClear v.port then .next (s.writeHqTail part q v.val) else .next s
def execHqHeadWrite (part q : Nat) (v : Word) (s : State) : Host.Outcome State Fault Refusal := .next (s.writeHqHead part q v)
def execHqNotifyWrite (part q : Nat) (v : Word) (s : State) : Host.Outcome State Fault Refusal := .next (s.writeHqNotify part q v)

/-- A register of a queue by its offset. -/
def State.writeHqReg (s : State) (p i off : Nat) (v : Word) : State :=
  match off with
  | 0x00 => s.writeHqCfg p i v
  | 0x08 => s.writeHqHead p i v
  | 0x10 => s.writeHqTail p i v
  | 0x18 => s.writeHqNotify p i v
  | 0x20 => s.setHq p i { s.hqAt p i with sbase := field v 12 45 * 2 ^ 12 }
  | 0x28 => (s.setHq p i { s.hqAt p i with scap := field v 0 32 }).drainAll p i
  | _ => s

/-- A queue's registers as they read. -/
def Hq.regWord (q : Hq) (off : Nat) : Word :=
  BitVec.ofNat 64 (match off with
    | 0x00 => q.en.toNat * 2 ^ 63 + q.slice.toNat * 2 ^ 62 + q.logn * 2 ^ 58 + q.held.toNat * 2 ^ 57 + q.base
    | 0x08 => q.head
    | 0x10 => q.tail
    | 0x18 => q.pend.toNat * 2 ^ 17 + q.ien.toNat * 2 ^ 16 + q.vec
    | 0x20 => q.sbase
    | 0x28 => q.scap
    | 0x30 => q.gen
    | _ => 0)

/-! ## The record port (R22–R24, R441) -/

def execRecAddrWrite (part : Nat) (v : Word) (s : State) : Host.Outcome State Fault Refusal :=
  if (s.partAt part).formed then .next (s.modPart part fun x => { x with recAddr := v }) else .next s

/-- The live record that REC.ADDR selects. -/
def State.portRec (s : State) (p : Nat) : Option Rec := (s.anyRec (s.partAt p).recAddr.toNat).filter fun r => r.part = p

/-- REC.DATA as it reads. -/
def State.portWord (s : State) (p idx : Nat) : Word :=
  (s.portRec p).elim 0 fun r => BitVec.ofNat 64 (bitsAt r.word (64 * idx) 64)

/-- Reserved bits of a record (Table 3·1). -/
def recReserved : Nat :=
  (2 ^ 2 - 1) * 2 ^ 480 + (2 ^ 2 - 1) * 2 ^ 384 + (2 ^ 20 - 1) * 2 ^ 320 + (2 ^ 16 - 1) * 2 ^ 256 + (2 ^ 16 - 1) * 2 ^ 128
    + (2 ^ 13 - 1) * 2 ^ 64

/-- A doubleword written to a record: STATE, PRIO and PC take it, reserved bits are kept to be refused, every other field
is read-only. The doubleword that holds PC is a write to PC, which makes the bundle there a whole one (R378, log entry 104). -/
def Rec.put (r : Rec) (idx : Nat) (v : Word) : Rec :=
  let x := r.word
  let y := x - bitsAt x (64 * idx) 64 * 2 ^ (64 * idx) + v.toNat * 2 ^ (64 * idx)
  { r with st := bitsAt y 508 4, prio := bitsAt y 496 3, pc := BitVec.ofNat 32 (bitsAt y 448 32),
           resv := BitVec.ofNat 512 (Nat.land y recReserved),
           scm := if idx = 7 then 0 else r.scm, jump := if idx = 7 then none else r.jump }

/-- NREP of a task's replay block set to zero (R378). -/
def State.zeroNrep (s : State) (r : Rec) : State :=
  if r.ctxv then (s.writeVa r.part r.tenant (r.csa + 0x9502) [0]).1 else s

/-- A STATE that Table 3·2 gives. -/
def stateKnown (n : Nat) : Bool := decide (1 ≤ n) && decide (n ≤ 8)

/-- A record that is no longer BLOCKED-SPAWN waits for no colour (R45). -/
def State.leaveWaiters (s : State) (r : Rec) : State :=
  if r.st = 5 then s else s.modPart r.part fun x => { x with waiters := x.waiters.filter fun a => a ≠ r.addr }

/-- A record off its core as a supervisor write leaves it (R23, Table 3·2). One that stands in a ready queue and whose PRIO
alone is written keeps its place among the records of its share, which are served by PRIO first: the spec does not say where in
the queue of the new priority it goes (log entry 105). -/
def State.putRec (s : State) (r0 : Rec) : State :=
  let r := if r0.st = 5 then r0 else { r0 with spawn := none }
  let c := s.clusterAt r.share
  let out := (s.setCluster r.share { c with ready := c.ready.filter fun a => a ≠ r.addr }).leaveWaiters r
  if r.resv ≠ 0 || !stateKnown r.st then out.setRec { r with st := 6, cause := recordFault, waitArg := 0 }
  else if stateWaits r.st then
    if c.ready.contains r.addr then s.setRec r
    else out.queueUp r r.st (r.st = 7)
  else if r.st = 8 then ((out.dropHeldRegs r).freeSave r).dropRec r.addr
  else out.setRec r

/-- A write of REC.DATA. A RUNNING record stands in its core, whose task leaves as FAULTED when the write is refused: dispatch
goes on at a PC that is written, and a STATE that is written stands until the task's next suspension or its end gives it
another (log entry 104). -/
def State.writeRec (s : State) (p idx : Nat) (v : Word) : State :=
  match s.portRec p with
  | none => s
  | some r0 =>
    let r := r0.put (idx % 8) v
    match s.runnerOf r.addr with
    | none => (if idx % 8 = 7 then s.zeroNrep r else s).putRec r
    | some w =>
      if r.resv ≠ 0 || !stateKnown r.st then
        s.modCore w fun c => { c with doom := some (recordFault, 0), pre := .supervisor }
      else s.modCore w fun c => { c with task := { c.task with st := r.st, prio := r.prio, pc := r.pc, scm := r.scm, jump := r.jump } }

def execRecDataWrite (part idx : Nat) (v : Word) (s : State) : Host.Outcome State Fault Refusal := .next (s.writeRec part idx v)

/-! ## Core windows (R147, R148, Table 11·5) -/

/-- A doubleword of a register put in place. -/
def putDword {n : Nat} (x : BitVec n) (pos : Nat) (v : Word) : BitVec n := setField x (8 * pos) 64 v.toNat

/-- A register offset of a window written; read-only registers and hard-wired ones keep what they hold. -/
def Core.windowPut (c : Core) (off : Nat) (v : Word) : Core :=
  let g := fun (r : Regs) => { c with live := r }
  let r := c.live
  if off < 0x200000 then c.spadPut off (toBytes 8 v.toNat)
  else if off < 0x208000 then
    let k := Fin.ofNat 8 ((off - 0x200000) / 4096)
    { c with z := c.z.set k.val (putDword (c.z.get k) (off % 4096) v) k.isLt }
  else if off < 0x209000 then
    let k := Fin.ofNat 32 ((off - 0x208000) / 128)
    g (r.set (.v k) (putDword (r.v.get k) (off % 128) v).toNat)
  else if off < 0x209200 then
    let k := Fin.ofNat 64 ((off - 0x209000) / 8)
    if sHard k then c else g (r.set (.s k) v.toNat)
  else if off < 0x209280 then
    let k := Fin.ofNat 8 ((off - 0x209200) / 16)
    if k.val = 0 then c else g (r.set (.m k) (putDword (r.m.get k) (off % 16) v).toNat)
  else if off < 0x209300 then
    let k := Fin.ofNat 8 ((off - 0x209280) / 16)
    g (r.set (.n k) (putDword (r.n.get k) (off % 16) v).toNat)
  else if off = 0x209300 then g { r with p := Vector.ofFn fun i : Fin 16 => if pHard i then r.p.get i else bitOf v i.val }
  else if off = 0x209308 then g { r with fmt := setField v 6 38 0 }
  else if 0x209400 ≤ off && off < 0x209500 then
    let k := Fin.ofNat 8 ((off - 0x209400) / 32)
    let x : BitVec 256 := putDword (BitVec.ofNat 256 (c.w.get k).word) (off % 32) v
    { c with w := c.w.set k.val (Stream.ofWord x.toNat (c.w.get k)) k.isLt }
  else if 0x20A000 ≤ off && off < 0x20A800 then g (r.set (.f (Fin.ofNat 256 ((off - 0x20A000) / 8))) v.toNat)
  else if 0x220000 ≤ off && off < 0x240000 then { c with wbuf := c.wbuf.write (off - 0x220000) (toBytes 8 v.toNat) }
  else c

/-- The address of CORE.EFAULT in a window. -/
def efaultOffset : Nat := 0x209320

/-- The offset of an address in its core window. -/
def windowOffset (addr : Nat) : Nat := (addr - 0xFFE0000000000) % 0x400000

/-- A range of offsets that Table 11·5 lists. -/
def windowListed (off n : Nat) : Bool :=
  decide (off + n ≤ efaultOffset + 8) || (decide (0x209400 ≤ off) && decide (off + n ≤ 0x209500)) ||
    (decide (0x20A000 ≤ off) && decide (off + n ≤ 0x20A800)) || (decide (0x220000 ≤ off) && decide (off + n ≤ 0x240000))

/-- The core whose window a supervisor's copy reaches at an address: one that presents a rank, in the supervisor's partition,
at an offset that is listed (R147, R148). -/
def State.windowCore (s : State) (part addr n : Nat) : Option Nat :=
  (s.coreOfWindow (BitVec.ofNat 64 (addr - windowOffset addr))).filter fun w =>
    s.clusterPart (clusterOf w) = part && windowListed (windowOffset addr) n

/-- The core that runs a task of the partition supervisor. -/
def State.supervisorCore (s : State) (p : Nat) : Option Nat :=
  (s.cur :: s.others.keys).find? fun w =>
    (s.coreAt w).busy && (s.coreAt w).task.part = p && (s.coreAt w).task.launch = (s.partAt p).supLaunch

/-- ACCESS-FAULT to a supervisor's copy: an engine fault of the copy engine of its core (R148, R379, log entry 110). -/
def State.windowFault (s : State) (p addr : Nat) : State :=
  match s.supervisorCore p with
  | none => s
  | some w => if (s.coreAt w).engineHeld .copy || !s.msgOpen p then s else s.holdEngine w .copy { cause := accessFault, addr := addr }

/-- A doubleword that the partition supervisor's copy writes to a core window. One to a core that runs a task is refused,
unless it goes to CORE.EFAULT (R148); one to a core that is away is held (R205). -/
def execCoreWindowWrite (part addr : Nat) (v : Word) (s : State) : Host.Outcome State Fault Refusal :=
  let off := windowOffset addr
  if off % 8 ≠ 0 then .next s
  else
    match s.windowCore part addr 8 with
    | none => .next (s.windowFault part addr)
    | some w =>
      if off = efaultOffset then .next (s.writeEfault w v)
      else if (s.coreAt w).busy then .next (s.windowFault part addr)
      else if s.windowHeld w then .next s
      else .next (s.modCore w fun c => c.windowPut off v)

/-- A core as it stands at the boundary before its oldest bundle in flight (R148, R182). -/
def Core.boundary (c : Core) : Core :=
  let live := c.flight.reverse.foldl (fun r b => b.saved.foldl (fun r x => r.set x.1 x.2) r) c.live
  { c with live := { live with frame := c.frameAtBoundary } }

/-- The partition supervisor's copy reads a core window into the scratchpad of its core (R148). -/
def State.windowRead (s : State) (part addr n dst : Nat) : State :=
  match s.windowCore part addr n, s.supervisorCore part with
  | none, _ => s.windowFault part addr
  | some _, none => s
  | some w, some v =>
    if s.windowHeld w || Config.spadBytes < dst + n then s
    else
      let bs := (((s.coreAt w).boundary.windowBytes s.freeCtr).drop (windowOffset addr)).take n
      s.modCore v fun c => c.spadPut dst bs

/-! ## Sienna's registers (R407, Table 29·7) -/

/-- A write that breaks a limit is ignored whole. -/
def State.writeSienna (s : State) (v : Word) : State :=
  if field v 32 32 < 100 || field v 8 8 = 0 || 32 < field v 8 8 then s
  else s.onWafer fun w => { w with interval := field v 32 32, agew := field v 16 16, chq := field v 8 8, sienEn := bitOf v 0 }

def execSiennaCfgWrite (v : Word) (s : State) : Host.Outcome State Fault Refusal := .next (s.writeSienna v)

/-! ## Status words (R412, R433, R435, R437) -/

def Wafer.siennaWord (w : Wafer) : Word :=
  BitVec.ofNat 64 (w.interval * 2 ^ 32 + w.agew * 2 ^ 16 + w.chq * 2 ^ 8 + w.sienEn.toNat)

/-- In-service channels of the wafer. -/
def State.channelCount (s : State) : Nat := ((List.range 1024).filter s.channelServes).length

/-- MGMT.STATUS (Table 33·5). -/
def State.statusWord (s : State) : Word :=
  let qs := (List.range 192).filter s.serviceable
  let full := (qs.filter fun q => (s.clusterAt q).stage = 5).length
  let level := if qs.isEmpty then 0 else if full = qs.length then 2 else 1
  BitVec.ofNat 64 (level * 2 ^ 62 + qs.length * 2 ^ 48 + full * 2 ^ 40 + s.channelCount * 2 ^ 29 + s.wafer.linkKey.length * 2 ^ 23
    + (s.wafer.portSeen.map fun p => 2 ^ (21 + p)).sum)

/-- RTR.HEALTH (Table 31·3). -/
def Router.healthWord (x : Router) : Word :=
  BitVec.ofNat 64 (x.retd.toNat * 2 ^ 12 + x.nbr.toNat * 2 ^ 8 + x.link.toNat * 2 ^ 4 + x.coreOk.toNat)

/-- PWR.CAP.n (Table 33·4). -/
def Cluster.capWord (c : Cluster) : Word := BitVec.ofNat 64 (c.draw * 2 ^ 32 + c.clock * 2 ^ 16 + c.cap)

/-- A doubleword of the management window as it reads (Tables 33·7, 33·8). -/
def State.mgmtWord (s : State) (a : Nat) : Word :=
  if a = 0 then s.statusWord
  else if a = 0x08 then s.wafer.logQ
  else if a = 0x10 then s.wafer.evQ
  else if 0x10000 ≤ a && a < 0x10000 + 8 * 1152 then Table.get 0 s.wafer.bolsar ((a - 0x10000) / 8)
  else if 0x20000 ≤ a && a < 0x20000 + 8 * 192 then (s.clusterAt ((a - 0x20000) / 8)).capWord
  else if 0x30000 ≤ a && a < 0x30000 + 8 * 192 then BitVec.ofNat 64 (s.clusterAt ((a - 0x30000) / 8)).stage
  else if a = 0x40000 then s.wafer.siennaWord
  else if a = 0x40008 then s.wafer.htime
  else if a = 0x40010 then s.wafer.repQ
  else if a = 0x40018 then BitVec.ofNat 64 s.wafer.mirWait
  else if a = 0x40020 then s.wafer.mirTab
  else if a = 0x50000 then s.wafer.formWord
  else if 0x60000 ≤ a && a < 0x60000 + 16 * 9216 then
    let x := s.routerAt ((a - 0x60000) / 16)
    if a % 16 = 0 then x.healthWord else BitVec.ofNat 64 x.fwDrop
  else if 0x800000 ≤ a then
    let p := (a - 0x800000) / 0x80000
    let o := (a - 0x800000) % 0x80000
    if !(s.partAt p).formed then 0
    else if o < 0x40000 then (s.hqAt p (o / 64)).regWord (o % 64)
    else if o = 0x40000 then (s.partAt p).recAddr
    else if 0x40040 ≤ o && o < 0x40080 then s.portWord p ((o - 0x40040) / 8)
    else 0
  else 0

/-! ## REGISTER_WRITE (R6, R8, R440) -/

/-- A write to a partition's window. -/
def State.writeWindow (s : State) (p o : Nat) (v : Word) : State :=
  if !(s.partAt p).formed then s
  else if o < 0x40000 then s.writeHqReg p (o / 64) (o % 64) v
  else if o = 0x40000 then s.modPart p fun x => { x with recAddr := v }
  else if 0x40040 ≤ o && o < 0x40080 then s.writeRec p ((o - 0x40040) / 8) v
  else s

/-- A doubleword written to the management window; read-only registers and reserved offsets ignore it. -/
def State.writeMgmt (s : State) (a : Nat) (v : Word) : State :=
  if a % 8 ≠ 0 then s
  else if a = 0x08 then s.onWafer fun w => { w with logQ := v }
  else if a = 0x10 then s.onWafer fun w => { w with evQ := v }
  else if 0x10000 ≤ a && a < 0x10000 + 8 * 1152 then
    s.onWafer fun w => { w with bolsar := Table.set w.bolsar ((a - 0x10000) / 8) (setField v 48 15 0) }
  else if 0x20000 ≤ a && a < 0x20000 + 8 * 192 then s.writeCap ((a - 0x20000) / 8) v
  else if a = 0x40000 then s.writeSienna v
  else if a = 0x40008 then s.onWafer fun w => { w with htime := v }
  else if a = 0x40010 then s.onWafer fun w => { w with repQ := v }
  else if a = 0x40018 then s.onWafer fun w => { w with mirWait := field v 0 32 }
  else if a = 0x40020 then s.onWafer fun w => { w with mirTab := BitVec.ofNat 64 (field v 12 45 * 2 ^ 12 + field v 0 8) }
  else if a = 0x50000 then s.writeForm v
  else if 0x800000 ≤ a && a < 0x1000000 then s.writeWindow ((a - 0x800000) / 0x80000) ((a - 0x800000) % 0x80000) v
  else s

def execRegisterWrite (addr : Nat) (v : HostWord) (s : State) : Host.Outcome State Fault Refusal :=
  if s.portClear v.port then .next (s.writeMgmt addr v.val) else .next s

end Sys2Proof.Machine
end

