-- ==== Sys2Proof/Machine/Scalar.lean ====
section
/-! DEFINITION. The meanings of the integer and FP32 instructions of the scalar slots (R192–R202, Tables 13·4, 13·7). -/

namespace Sys2Proof.Machine

/-- An integer condition (Table 13·6). -/
def icond (cc : ICond) (a b : Word) : Bool :=
  match cc with
  | .eq => a == b
  | .ne => a != b
  | .lt => BitVec.slt a b
  | .le => BitVec.sle a b
  | .gt => BitVec.slt b a
  | .ge => BitVec.sle b a
  | .ltn => BitVec.ult a b
  | .len => BitVec.ule a b
  | .gtn => BitVec.ult b a
  | .gen => BitVec.ule b a
  | .tst => (a &&& b) != 0
  | .ntst => (a &&& b) == 0

/-- The condition reads its literal zero-extended: codes 6 to 11 (R192). -/
def icondZ : ICond → Bool
  | .ltn | .len | .gtn | .gen | .tst | .ntst => true
  | _ => false

/-- DIV and REM, signed and unsigned, with the edges of Table 13·5. -/
def divS (a b : Word) : Word := if b = 0 then BitVec.allOnes 64 else a.sdiv b
def divU (a b : Word) : Word := if b = 0 then BitVec.allOnes 64 else a / b
def remS (a b : Word) : Word := if b = 0 then a else a.srem b
def remU (a b : Word) : Word := if b = 0 then a else a % b

/-- The high half of a product (R192). -/
def mulhS (a b : Word) : Word := BitVec.ofInt 64 (a.toInt * b.toInt / 2 ^ 64)
def mulhU (a b : Word) : Word := BitVec.ofNat 64 (a.toNat * b.toNat / 2 ^ 64)

/-- A two-operand instruction whose literal is sign-extended, and one whose literal is zero-extended (R192). -/
def Core.opS (f : SR) (lat : Nat) (g : Word → Word → Word) (c : Core) : Core :=
  c.writeS f.k.slot lat f.d (g (c.readS f.k.slot f.a) (c.srcS f.k.slot f.b))
def Core.opZ (f : SR) (lat : Nat) (g : Word → Word → Word) (c : Core) : Core :=
  c.writeS f.k.slot lat f.d (g (c.readS f.k.slot f.a) (c.srcZ f.k.slot f.b))
/-- A one-operand instruction. -/
def Core.opU (f : SU) (g : Word → Word) (c : Core) : Core := c.writeS f.k.slot 1 f.d (g (c.readS f.k.slot f.a))
/-- A shift (R194). -/
def Core.opShift (f : SShift) (g : Word → Nat → Word) (c : Core) : Core :=
  c.writeS f.k.slot 1 f.d (g (c.readS f.k.slot f.a) (c.shAmt f.k.slot f.n))
/-- An FP32 operation: a pattern and its flags, written zero-extended (R198). -/
def Core.opF (f : SR) (lat : Nat) (g : Nat → Nat → Nat × Flags) (c : Core) : Core :=
  let r := g ((c.readS f.k.slot f.a).toNat % 2 ^ 32) (c.srcF f.k.slot f.b)
  (c.writeS f.k.slot lat f.d (BitVec.ofNat 64 r.1)).raise lat r.2

/-- FP32 patterns as values. -/
def f32v (n : Nat) : FV := decodeF .f32 n

/-- FCVT from FP32 (R201, R202): the result in its register form and its flags. -/
def fcvtDown (t : Fmt) (r : Rnd) (sat : Bool) (x : Nat) : Word × Flags :=
  match t with
  | .e8m0 => let y := toE8m0 (f32v x); (BitVec.ofNat 64 y.1, y.2)
  | .ue5m3 => let y := toUe5m3 r.det (f32v x); (BitVec.ofNat 64 y.1, y.2)
  | .i32 => let y := convElem .f32 .i32 r.det sat x; (sextTo 32 y.1, y.2)
  | _ => let y := convElem .f32 t r sat x; (BitVec.ofNat 64 y.1, y.2)

/-- FCVT to FP32 (R201). -/
def fcvtUp (t : Fmt) (r : Rnd) (x : Word) : Nat × Flags :=
  match t with
  | .e8m0 => floatToFloat .f32 r.det false (decodeScale .e8m0 (x.toNat % 256))
  | .ue5m3 => floatToFloat .f32 r.det false (decodeScale .ue5m3 (x.toNat % 256))
  | _ => convElem t .f32 r.det false (x.toNat % 2 ^ t.width)

/-- FCVT takes a draw of CORE.SRND for a stochastic conversion to a float format of R97 (R98). -/
def Core.opFcvt (f : SFcvt) (c : Core) : Core :=
  let x := c.readS f.k.slot f.a
  let sto := fmtSto c.fmt && !f.up && stoTarget f.fmt
  let st := if sto then srndNext c.srnd else c.srnd
  let r := if f.up then (let y := fcvtUp f.fmt (fmtRndDet c.fmt) x; (BitVec.ofNat 64 y.1, y.2))
    else fcvtDown f.fmt (fmtRnd c.fmt (srndDraw st)) (fmtSat c.fmt) (x.toNat % 2 ^ 32)
  ((if sto then c.setSrnd st else c).writeS f.k.slot 3 f.d r.1).raise 3 r.2

/-- ADD (R192): D := A + B. -/
def execAdd (f : SR) (s : State) : Host.Outcome State Fault Refusal :=
  s.compute (.add f) (Core.opS f 1 fun a b => a + b)

/-- ADDI (R192): D := A + imm. -/
def execAddi (f : SI) (s : State) : Host.Outcome State Fault Refusal :=
  s.compute (.addi f) fun c => c.writeS f.k.slot 1 f.d (c.readS f.k.slot f.a + imm17Sext f.imm)

/-- SUB (R192): D := A − B. -/
def execSub (f : SR) (s : State) : Host.Outcome State Fault Refusal :=
  s.compute (.sub f) (Core.opS f 1 fun a b => a - b)

/-- MUL (R192): D := (A × B)[63:0], latency 3. -/
def execMul (f : SR) (s : State) : Host.Outcome State Fault Refusal :=
  s.compute (.mul f) (Core.opS f 3 fun a b => a * b)

/-- MULH (R192): the high half, both signed. -/
def execMulh (f : SR) (s : State) : Host.Outcome State Fault Refusal :=
  s.compute (.mulh f) (Core.opS f 3 mulhS)

/-- MULH.N (R192): the high half, both unsigned. -/
def execMulhN (f : SR) (s : State) : Host.Outcome State Fault Refusal :=
  s.compute (.mulhN f) (Core.opZ f 3 mulhU)

/-- DIV (R193): towards zero; interlocked. -/
def execDiv (f : SR) (s : State) : Host.Outcome State Fault Refusal :=
  s.compute (.div f) (Core.opS f 0 divS)

/-- DIV.N (R193). -/
def execDivN (f : SR) (s : State) : Host.Outcome State Fault Refusal :=
  s.compute (.divN f) (Core.opZ f 0 divU)

/-- REM (R193): the sign of the dividend. -/
def execRem (f : SR) (s : State) : Host.Outcome State Fault Refusal :=
  s.compute (.rem f) (Core.opS f 0 remS)

/-- REM.N (R193). -/
def execRemN (f : SR) (s : State) : Host.Outcome State Fault Refusal :=
  s.compute (.remN f) (Core.opZ f 0 remU)

/-- MIN (R192), signed. -/
def execMin (f : SR) (s : State) : Host.Outcome State Fault Refusal :=
  s.compute (.min f) (Core.opS f 1 fun a b => if BitVec.slt b a then b else a)

/-- MIN.N (R192), unsigned. -/
def execMinN (f : SR) (s : State) : Host.Outcome State Fault Refusal :=
  s.compute (.minN f) (Core.opZ f 1 fun a b => if BitVec.ult b a then b else a)

/-- MAX (R192), signed. -/
def execMax (f : SR) (s : State) : Host.Outcome State Fault Refusal :=
  s.compute (.max f) (Core.opS f 1 fun a b => if BitVec.slt a b then b else a)

/-- MAX.N (R192), unsigned. -/
def execMaxN (f : SR) (s : State) : Host.Outcome State Fault Refusal :=
  s.compute (.maxN f) (Core.opZ f 1 fun a b => if BitVec.ult a b then b else a)

/-- AND (R192). -/
def execAnd (f : SR) (s : State) : Host.Outcome State Fault Refusal :=
  s.compute (.and f) (Core.opZ f 1 fun a b => a &&& b)

/-- OR (R192). -/
def execOr (f : SR) (s : State) : Host.Outcome State Fault Refusal :=
  s.compute (.or f) (Core.opZ f 1 fun a b => a ||| b)

/-- XOR (R192). -/
def execXor (f : SR) (s : State) : Host.Outcome State Fault Refusal :=
  s.compute (.xor f) (Core.opZ f 1 fun a b => a ^^^ b)

/-- ANDN (R192): A and not B. -/
def execAndn (f : SR) (s : State) : Host.Outcome State Fault Refusal :=
  s.compute (.andn f) (Core.opZ f 1 fun a b => a &&& ~~~b)

/-- SHL (R194): 64 or more gives 0. -/
def execShl (f : SShift) (s : State) : Host.Outcome State Fault Refusal :=
  s.compute (.shl f) (Core.opShift f fun a n => a <<< n)

/-- SHR (R194): 64 or more gives copies of A[63]. -/
def execShr (f : SShift) (s : State) : Host.Outcome State Fault Refusal :=
  s.compute (.shr f) (Core.opShift f fun a n => a.sshiftRight n)

/-- SHR.N (R194): 64 or more gives 0. -/
def execShrN (f : SShift) (s : State) : Host.Outcome State Fault Refusal :=
  s.compute (.shrN f) (Core.opShift f fun a n => a >>> n)

/-- ROT (R194): left by n mod 64. -/
def execRot (f : SShift) (s : State) : Host.Outcome State Fault Refusal :=
  s.compute (.rot f) (Core.opShift f fun a n => a.rotateLeft (n % 64))

/-- CLZ (R192): CLZ 0 = 64. -/
def execClz (f : SU) (s : State) : Host.Outcome State Fault Refusal :=
  s.compute (.clz f) (Core.opU f fun a => BitVec.ofNat 64 (leadingZeros 64 a.toNat))

/-- CTZ (R192): CTZ 0 = 64. -/
def execCtz (f : SU) (s : State) : Host.Outcome State Fault Refusal :=
  s.compute (.ctz f) (Core.opU f fun a => BitVec.ofNat 64 (lowestSet 64 a.toNat))

/-- POPC (R192). -/
def execPopc (f : SU) (s : State) : Host.Outcome State Fault Refusal :=
  s.compute (.popc f) (Core.opU f fun a => BitVec.ofNat 64 (popCount 64 a.toNat))

/-- MOV (R192). -/
def execMov (f : SU) (s : State) : Host.Outcome State Fault Refusal :=
  s.compute (.mov f) (Core.opU f fun a => a)

/-- BFX (R195): A[pos+w−1:pos], extended by its signed flag. -/
def execBfx (f : SBfx) (s : State) : Host.Outcome State Fault Refusal :=
  s.compute (.bfx f) fun c =>
    let v := field (c.readS f.k.slot f.a) f.pos.toNat (f.w.toNat + 1)
    c.writeS f.k.slot 1 f.d (if f.sgn then sextTo (f.w.toNat + 1) v else BitVec.ofNat 64 v)

/-- BFI (R195): D with bits [pos+w−1:pos] replaced by A[w−1:0]. -/
def execBfi (f : SBfi) (s : State) : Host.Outcome State Fault Refusal :=
  s.compute (.bfi f) fun c =>
    c.writeS f.k.slot 1 f.d
      (setField (c.readS f.k.slot f.d) f.pos.toNat (f.w.toNat + 1) (c.readS f.k.slot f.a).toNat)

/-- SEXT (R195): bits above b copied from bit b. -/
def execSext (f : SExt) (s : State) : Host.Outcome State Fault Refusal :=
  s.compute (.sext f) fun c =>
    c.writeS f.k.slot 1 f.d (sextTo (f.b.toNat + 1) (c.readS f.k.slot f.a).toNat)

/-- ZEXT (R195): bits above b cleared. -/
def execZext (f : SExt) (s : State) : Host.Outcome State Fault Refusal :=
  s.compute (.zext f) fun c =>
    c.writeS f.k.slot 1 f.d (BitVec.ofNat 64 (field (c.readS f.k.slot f.a) 0 (f.b.toNat + 1)))

/-- MOVI (R196): the sign-extended operand. -/
def execMovi (f : SMovi) (s : State) : Host.Outcome State Fault Refusal :=
  s.compute (.movi f) fun c => c.writeS f.k.slot 1 f.d (imm17Sext f.imm)

/-- MOVI.Z (R196): the zero-extended operand. -/
def execMoviZ (f : SMovi) (s : State) : Host.Outcome State Fault Refusal :=
  s.compute (.moviZ f) fun c => c.writeS f.k.slot 1 f.d (imm17Zext f.imm)

/-- MOVI.H (R196): (LITERAL << 32) or D[31:0]. -/
def execMoviH (f : SMoviH) (s : State) : Host.Outcome State Fault Refusal :=
  s.compute (.moviH f) fun c =>
    c.writeS f.k.slot 1 f.d (f.lit.setWidth 64 <<< 32 ||| BitVec.ofNat 64 (field (c.readS f.k.slot f.d) 0 32))

/-- SEL (R196): A when the predicate is true, else B. -/
def execSel (f : SSel) (s : State) : Host.Outcome State Fault Refusal :=
  s.compute (.sel f) fun c =>
    c.writeS f.k.slot 1 f.d (if c.readP f.k.slot f.p then c.readS f.k.slot f.a else c.srcS f.k.slot f.b)

/-- CMP.cc (R197). -/
def execCmpCc (f : SCmp) (s : State) : Host.Outcome State Fault Refusal :=
  s.compute (.cmpCc f) fun c =>
    c.writeP f.k.slot 1 f.pd (icond f.cc (c.readS f.k.slot f.a)
      (if icondZ f.cc then c.srcZ f.k.slot f.b else c.srcS f.k.slot f.b))

/-- CMPI.cc (R197): against the sign-extended immediate under every code. -/
def execCmpiCc (f : SCmpi) (s : State) : Host.Outcome State Fault Refusal :=
  s.compute (.cmpiCc f) fun c =>
    c.writeP f.k.slot 1 f.pd (icond f.cc (c.readS f.k.slot f.a) (imm17Sext f.imm))

/-- LEA (R192): D := A + (B << X[2:0]). -/
def execLea (f : SLea) (s : State) : Host.Outcome State Fault Refusal :=
  s.compute (.lea f) fun c =>
    c.writeS f.k.slot 1 f.d (c.readS f.k.slot f.a + c.srcS f.k.slot f.b <<< f.sh.toNat)

/-- FADD (R199), latency 4. -/
def execFadd (f : SR) (s : State) : Host.Outcome State Fault Refusal :=
  s.compute (.fadd f) fun c => Core.opF f 4 (fun a b => addF .f32 (fmtRndDet c.fmt) (f32v a) (f32v b)) c

/-- FSUB (R199), latency 4. -/
def execFsub (f : SR) (s : State) : Host.Outcome State Fault Refusal :=
  s.compute (.fsub f) fun c => Core.opF f 4 (fun a b => subF .f32 (fmtRndDet c.fmt) (f32v a) (f32v b)) c

/-- FMUL (R199), latency 4. -/
def execFmul (f : SR) (s : State) : Host.Outcome State Fault Refusal :=
  s.compute (.fmul f) fun c => Core.opF f 4 (fun a b => mulF .f32 (fmtRndDet c.fmt) (f32v a) (f32v b)) c

/-- FFMA (R199): A × B + D with one rounding, latency 4. -/
def execFfma (f : SR) (s : State) : Host.Outcome State Fault Refusal :=
  s.compute (.ffma f) fun c => Core.opF f 4 (fun a b =>
    fmaF .f32 (fmtRndDet c.fmt) (f32v a) (f32v b) (some (f32v ((c.readS f.k.slot f.d).toNat % 2 ^ 32)))) c

/-- FMIN (R200): −0 below +0, no flag, latency 2. -/
def execFmin (f : SR) (s : State) : Host.Outcome State Fault Refusal :=
  s.compute (.fmin f) fun c => Core.opF f 2 (fun a b => (minF .f32 a b, 0)) c

/-- FMAX (R200), latency 2. -/
def execFmax (f : SR) (s : State) : Host.Outcome State Fault Refusal :=
  s.compute (.fmax f) fun c => Core.opF f 2 (fun a b => (maxF .f32 a b, 0)) c

/-- FCMP.cc (R200): no flag, latency 2. -/
def execFcmpCc (f : SFcmp) (s : State) : Host.Outcome State Fault Refusal :=
  s.compute (.fcmpCc f) fun c =>
    c.writeP f.k.slot 2 f.pd (fcond f.cc (f32v ((c.readS f.k.slot f.a).toNat % 2 ^ 32)) (f32v (c.srcF f.k.slot f.b)))

/-- FCVT (R201, R202), latency 3. -/
def execFcvt (f : SFcvt) (s : State) : Host.Outcome State Fault Refusal :=
  s.compute (.fcvt f) (Core.opFcvt f)

end Sys2Proof.Machine
end

