-- ==== Sys2Proof/Machine/Vector.lean ====
section
/-! DEFINITION. The instructions of the V slot (R235–R260). -/

namespace Sys2Proof.Machine

/-! ## Lanes, masks and operands (R235–R238) -/

/-- Lane n is active under a mask; a bit governs a pair of 4-bit elements (R139, R237). -/
def laneOn (t : Fmt) (m : Quad) (n : Nat) : Bool := bitOf m (if t.width = 4 then n / 2 else n)

/-- The mask bits of a type (Table 11·2). -/
def maskLanes (t : Fmt) : Nat := if t.width = 4 then 128 else t.lanes

/-- The LITERAL as one lane (R236). -/
def litLane (t : Fmt) (l : Half) : Nat := if t = .i64 then (l.signExtend 64).toNat else l.toNat % 2 ^ t.width

/-- Lane n of a register, and of vB or its literal. -/
def Core.laneV (c : Core) (t : Fmt) (r : VReg) : Nat → Nat :=
  let v := c.readV .v r
  fun n => elem v t.width n
def Core.laneB (c : Core) (t : Fmt) : VSrc → Nat → Nat
  | .reg b => c.laneV t b
  | .lit l => fun _ => litLane t l

/-- The lanes of a result, each with its flags: an inactive one keeps the element of the register, or is zero (R237). -/
def maskedLanes (t : Fmt) (m : Quad) (mz : Bool) (old : Nat) (f : Nat → Nat × Flags) : List (Nat × Flags) :=
  (List.range t.lanes).map fun n =>
    if laneOn t m n then f n else (if mz then 0 else bitsAt old (t.width * n) t.width, 0)

/-- A vector written under a mask; the flags of every lane land with it (R238). -/
def Core.putV (c : Core) (t : Fmt) (lat : Nat) (d : VReg) (km : MReg) (mz : Bool) (f : Nat → Nat × Flags) : Core :=
  let rs := maskedLanes t (c.readM .v km) mz (c.before (.v d)) f
  (c.writeLoc .v lat (.v d) (packElems t.width (rs.map (·.1)))).raise lat (rs.foldl (fun a r => a ||| r.2) 0)

/-- A vector written whole by an operation without flags. -/
def Core.putAll (c : Core) (t : Fmt) (lat : Nat) (d : VReg) (f : Nat → Nat) : Core :=
  c.writeLoc .v lat (.v d) (packElems t.width ((List.range t.lanes).map f))

/-- An operation on one operand, on two, under the mask of the instruction. -/
def Core.map1 (c : Core) (t : Fmt) (lat : Nat) (d a : VReg) (km : MReg) (mz : Bool) (op : Nat → Nat × Flags) : Core :=
  let x := c.laneV t a
  c.putV t lat d km mz fun n => op (x n)
def Core.map2 (c : Core) (t : Fmt) (lat : Nat) (d a : VReg) (b : VSrc) (km : MReg) (mz : Bool) (op : Nat → Nat → Nat × Flags) : Core :=
  let x := c.laneV t a
  let y := c.laneB t b
  c.putV t lat d km mz fun n => op (x n) (y n)

/-- The rounding of arithmetic lanes: stochastic acts as RNE (R238). -/
def Core.vrnd (c : Core) : Rnd := fmtRndDet c.fmt

/-! ## Arithmetic (R243) -/

/-- An exact integer result, wrapped or clamped to the range of T; neither raises a flag. -/
def intRes (t : Fmt) (sat : Bool) (i : Int) : Nat × Flags := (if sat then (clampInt t i).1 else wrapInt t.width i, 0)

def addLane (t : Fmt) (r : Rnd) (sat : Bool) (a b : Nat) : Nat × Flags :=
  if t.isF then addF t r (decodeF t a) (decodeF t b) else intRes t sat (intVal t a + intVal t b)
def subLane (t : Fmt) (r : Rnd) (sat : Bool) (a b : Nat) : Nat × Flags :=
  if t.isF then subF t r (decodeF t a) (decodeF t b) else intRes t sat (intVal t a - intVal t b)
def mulLane (t : Fmt) (r : Rnd) (high : Bool) (a b : Nat) : Nat × Flags :=
  if t.isF then mulF t r (decodeF t a) (decodeF t b)
  else (wrapInt t.width (if high then intVal t a * intVal t b / ((2 ^ t.width : Nat) : Int) else intVal t a * intVal t b), 0)
def minLane (t : Fmt) (a b : Nat) : Nat := if t.isF then minF t a b else if intVal t b < intVal t a then b else a
def maxLane (t : Fmt) (a b : Nat) : Nat := if t.isF then maxF t a b else if intVal t a < intVal t b then b else a
def absLane (t : Fmt) (sat : Bool) (a : Nat) : Nat × Flags :=
  if t.isF then (if (decodeF t a).isNan then nanBits t else a % signBit t, 0) else intRes t sat (intVal t a).natAbs
def negLane (t : Fmt) (sat : Bool) (a : Nat) : Nat × Flags :=
  if t.isF then (if (decodeF t a).isNan then nanBits t else Nat.xor a (signBit t), 0) else intRes t sat (-(intVal t a))

/-- VADD (R243): latency 2 on integers, 4 on floats. -/
def execVadd (f : VBinX) (s : State) : Host.Outcome State Fault Refusal :=
  s.compute (.vadd f) fun c => c.map2 f.t (if f.t.isF then 4 else 2) f.d f.a f.b f.km f.mz (addLane f.t c.vrnd f.x)

/-- VSUB (R243). -/
def execVsub (f : VBinX) (s : State) : Host.Outcome State Fault Refusal :=
  s.compute (.vsub f) fun c => c.map2 f.t (if f.t.isF then 4 else 2) f.d f.a f.b f.km f.mz (subLane f.t c.vrnd f.x)

/-- VMUL (R243): the low half, or with X[0] the high half. -/
def execVmul (f : VBinX) (s : State) : Host.Outcome State Fault Refusal :=
  s.compute (.vmul f) fun c => c.map2 f.t 4 f.d f.a f.b f.km f.mz (mulLane f.t c.vrnd f.x)

/-- VFMA (R243): one rounding. -/
def execVfma (f : VFma) (s : State) : Host.Outcome State Fault Refusal :=
  s.compute (.vfma f) fun c =>
    let x := c.laneV f.t f.a
    let y := c.laneB f.t f.b
    let z := c.laneV f.t f.c
    c.putV f.t 4 f.d f.km f.mz fun n => fmaF f.t c.vrnd (decodeF f.t (x n)) (decodeF f.t (y n)) (some (decodeF f.t (z n)))

/-- VMIN (R243). -/
def execVmin (f : VBin) (s : State) : Host.Outcome State Fault Refusal :=
  s.compute (.vmin f) fun c => c.map2 f.t 2 f.d f.a f.b f.km f.mz fun a b => (minLane f.t a b, 0)

/-- VMAX (R243). -/
def execVmax (f : VBin) (s : State) : Host.Outcome State Fault Refusal :=
  s.compute (.vmax f) fun c => c.map2 f.t 2 f.d f.a f.b f.km f.mz fun a b => (maxLane f.t a b, 0)

/-- VABS (R243). -/
def execVabs (f : VUnX) (s : State) : Host.Outcome State Fault Refusal :=
  s.compute (.vabs f) fun c => c.map1 f.t 2 f.d f.a f.km f.mz (absLane f.t f.x)

/-- VNEG (R243). -/
def execVneg (f : VUnX) (s : State) : Host.Outcome State Fault Refusal :=
  s.compute (.vneg f) fun c => c.map1 f.t 2 f.d f.a f.km f.mz (negLane f.t f.x)

/-! ## Logic and shifts (R244) -/

/-- B of a logical operation. -/
def invLane (t : Fmt) (x : Bool) (b : Nat) : Nat := if x then 2 ^ t.width - 1 - b % 2 ^ t.width else b

def execVand (f : VBinX) (s : State) : Host.Outcome State Fault Refusal :=
  s.compute (.vand f) fun c => c.map2 f.t 1 f.d f.a f.b f.km f.mz fun a b => (Nat.land a (invLane f.t f.x b), 0)
def execVor (f : VBinX) (s : State) : Host.Outcome State Fault Refusal :=
  s.compute (.vor f) fun c => c.map2 f.t 1 f.d f.a f.b f.km f.mz fun a b => (Nat.lor a (invLane f.t f.x b), 0)
def execVxor (f : VBinX) (s : State) : Host.Outcome State Fault Refusal :=
  s.compute (.vxor f) fun c => c.map2 f.t 1 f.d f.a f.b f.km f.mz fun a b => (Nat.xor a (invLane f.t f.x b), 0)

/-- The shift amount of lane n. -/
def Core.laneAmt (c : Core) (t : Fmt) : VAmt → Nat → Nat
  | .reg b => let y := c.laneV t b; fun n => y n % 256
  | .imm k => fun _ => k.toNat

def shlLane (t : Fmt) (a n : Nat) : Nat := if t.width ≤ n then 0 else a * 2 ^ n % 2 ^ t.width
/-- VSHR: an amount of w or more leaves w copies of the sign bit, or 0. -/
def shrLane (t : Fmt) (a n : Nat) : Nat := wrapInt t.width (intVal t a / ((2 ^ min n t.width : Nat) : Int))

def execVshl (f : VShift) (s : State) : Host.Outcome State Fault Refusal :=
  s.compute (.vshl f) fun c =>
    let x := c.laneV f.t f.a
    let y := c.laneAmt f.t f.n
    c.putV f.t 2 f.d f.km f.mz fun n => (shlLane f.t (x n) (y n), 0)

def execVshr (f : VShift) (s : State) : Host.Outcome State Fault Refusal :=
  s.compute (.vshr f) fun c =>
    let x := c.laneV f.t f.a
    let y := c.laneAmt f.t f.n
    c.putV f.t 2 f.d f.km f.mz fun n => (shrLane f.t (x n) (y n), 0)

/-! ## Compares and selection (R245, R246) -/

/-- A lane extended to 64 bits, as its condition reads it. -/
def extLane (w : Nat) (cc : ICond) (a : Nat) : Word := if icondZ cc then BitVec.ofNat 64 a else sextTo w a

def cmpLane (t : Fmt) (cc : BitVec 4) (a b : Nat) : Bool :=
  if t.isF then (fcondOf cc.toNat).elim false fun k => fcond k (decodeF t a) (decodeF t b)
  else (icondOf cc.toNat).elim false fun k => icond k (extLane t.width k a) (extLane t.width k b)

/-- A mask from its bits. -/
def maskOf (n : Nat) (f : Nat → Bool) : Quad := BitVec.ofNat 128 (packElems 1 ((List.range n).map fun i => (f i).toNat))

def execVcmpCc (f : VCmp) (s : State) : Host.Outcome State Fault Refusal :=
  s.compute (.vcmpCc f) fun c =>
    let m := c.readM .v f.km
    let x := c.laneV f.t f.a
    let y := c.laneB f.t f.b
    c.writeM .v 2 f.d (maskOf f.t.lanes fun n => bitOf m n && cmpLane f.t f.cc (x n) (y n))

def execVsel (f : VSel) (s : State) : Host.Outcome State Fault Refusal :=
  s.compute (.vsel f) fun c =>
    let m := c.readM .v f.km
    let x := c.laneV f.t f.a
    let y := c.laneV f.t f.b
    c.putAll f.t 1 f.d fun n => if laneOn f.t m n then x n else y n

/-! ## Compare-exchange (R247, R248) -/

def keyNan (t : Fmt) (x : Nat) : Bool := t.isF && (decodeF t x).isNan
def keyAbove (t : Fmt) (x y : Nat) : Bool :=
  if t.isF then !keyNan t x && !keyNan t y && ltZ (decodeF t y) (decodeF t x) else decide (intVal t y < intVal t x)
/-- The keys are equal, or both are NaN. -/
def keyTie (t : Fmt) (x y : Nat) : Bool :=
  (keyNan t x && keyNan t y) || (!keyNan t x && !keyNan t y && !keyAbove t x y && !keyAbove t y x)

/-- Key x of index i ranks above key y of index j (R247); a is the lower lane's side of a full tie. -/
def ranksAbove (t : Fmt) (x i y j : Nat) : Bool :=
  keyAbove t x y || (keyNan t y && !keyNan t x) || (keyTie t x y && decide (i ≤ j))

/-- src(n) of R248. -/
def exchangeSrc (t : Fmt) (on : Nat → Bool) (key idx : Nat → Nat) (j f : Nat) (asc : Bool) (n : Nat) : Nat :=
  let lo := n - n / 2 ^ j % 2 * 2 ^ j
  let q := lo + 2 ^ j
  if on lo && on q then
    let above := ranksAbove t (key lo) (idx lo) (key q) (idx q)
    let first := if above then lo else q
    let second := if above then q else lo
    let up := asc != (f ≠ 15 && decide (lo / 2 ^ f % 2 = 1))
    let swap := up && !keyTie t (key lo) (key q)
    if n = lo then (if swap then second else first) else (if swap then first else second)
  else n

def execVcas (f : VCas) (s : State) : Host.Outcome State Fault Refusal :=
  s.compute (.vcas f) fun c =>
    let m := c.readM .v f.km
    let x := c.laneV f.t f.a
    let src := exchangeSrc f.t (bitOf m) x id f.j.toNat f.f.toNat f.asc
    c.putV f.t 3 f.d f.km f.mz fun n => (x (src n), 0)

def execVcasX (f : VCasX) (s : State) : Host.Outcome State Fault Refusal :=
  s.compute (.vcasX f) fun c =>
    let m := c.readM .v f.km
    let x := c.laneV f.t f.a
    let y := c.laneV f.t f.b
    let src := exchangeSrc f.t (bitOf m) x y f.j.toNat f.f.toNat f.asc
    (c.putV f.t 4 f.d f.km f.mz fun n => (x (src n), 0)).putV f.t 4 f.c f.km f.mz fun n => (y (src n), 0)

/-! ## Permutes, broadcasts and lane moves (R249–R252) -/

def execVperm (f : VPerm) (s : State) : Host.Outcome State Fault Refusal :=
  s.compute (.vperm f) fun c =>
    let x := c.laneV f.t f.a
    let y := c.laneV f.t f.b
    c.putAll f.t 3 f.d fun n => x (y n % f.t.lanes)

def execVperm2 (f : VPerm2) (s : State) : Host.Outcome State Fault Refusal :=
  s.compute (.vperm2 f) fun c =>
    let x := c.laneV f.t f.a
    let y := c.laneV f.t f.b
    let z := c.laneV f.t f.c
    c.putAll f.t 3 f.d fun n =>
      let k := y n % (2 * f.t.lanes)
      if k < f.t.lanes then x k else z (k - f.t.lanes)

def execVbcastScalar (f : VBcS) (s : State) : Host.Outcome State Fault Refusal :=
  s.compute (.vbcastScalar f) fun c =>
    let x := (c.readS .v f.s).toNat % 2 ^ f.t.width
    c.putAll f.t 1 f.d fun _ => x

def execVbcastLane (f : VBcL) (s : State) : Host.Outcome State Fault Refusal :=
  s.compute (.vbcastLane f) fun c =>
    let x := c.laneV f.t f.a f.lane.toNat
    c.putAll f.t 1 f.d fun _ => x

def execVbcastLiteral (f : VBcLit) (s : State) : Host.Outcome State Fault Refusal :=
  s.compute (.vbcastLiteral f) fun c => c.putAll f.t 1 f.d fun _ => litLane f.t f.lit

/-- Lane n of a shuffle of n lanes x and y (R251). -/
def shufLane (p : Shuf) (h : Nat) (x y : Nat → Nat) (n : Nat) : Nat :=
  match p with
  | .ziplo => if n % 2 = 0 then x (n / 2) else y (n / 2)
  | .ziphi => if n % 2 = 0 then x (h + n / 2) else y (h + n / 2)
  | .unzipe => if n < h then x (2 * n) else y (2 * (n - h))
  | .unzipo => if n < h then x (2 * n + 1) else y (2 * (n - h) + 1)

def execVshuf (f : VShuf) (s : State) : Host.Outcome State Fault Refusal :=
  s.compute (.vshuf f) fun c =>
    c.putAll f.t 3 f.d (shufLane f.pat (f.t.lanes / 2) (c.laneV f.t f.a) (c.laneV f.t f.b))

/-- VMOV.S: every other lane keeps its value. -/
def execVmovS (f : VMovS) (s : State) : Host.Outcome State Fault Refusal :=
  s.compute (.vmovS f) fun c =>
    let old := BitVec.ofNat 1024 (c.before (.v f.d))
    c.writeV .v 1 f.d (setField old (f.t.width * f.lane.toNat) f.t.width (c.readS .v f.s).toNat)

def execVext (f : VExt) (s : State) : Host.Outcome State Fault Refusal :=
  s.compute (.vext f) fun c =>
    let x := c.laneV f.t f.a f.lane.toNat
    c.writeS .v 2 f.s (if f.t.isSInt then sextTo f.t.width x else BitVec.ofNat 64 x)

def execViota (f : VIota) (s : State) : Host.Outcome State Fault Refusal :=
  s.compute (.viota f) fun c =>
    c.putV f.t 1 f.d f.km f.mz fun n => (wrapInt f.t.width (f.start.toInt + (n : Int)), 0)

/-! ## Reductions and scans (R253) -/

/-- The elements of the active lanes, in lane order. -/
def Core.activeLanes (c : Core) (t : Fmt) (a : VReg) (km : MReg) : List Nat :=
  let m := c.readM .v km
  ((List.range t.lanes).filter (laneOn t m)).map (c.laneV t a)

/-- The exact sum of float elements. -/
def floatSum (t : Fmt) (xs : List Nat) : Sum := xs.foldl (fun a x => a.push (decodeF t x)) {}
def intSum (t : Fmt) (xs : List Nat) : Int := xs.foldl (fun a x => a + intVal t x) 0

def execVredAdd (f : VRed) (s : State) : Host.Outcome State Fault Refusal :=
  s.compute (.vredAdd f) fun c =>
    let xs := c.activeLanes f.t f.a f.km
    if f.t.isF then
      let r := (floatSum f.t xs).round f.t c.vrnd
      (c.writeS .v 6 f.s (BitVec.ofNat 64 r.1)).raise 6 r.2
    else c.writeS .v 6 f.s (BitVec.ofInt 64 (intSum f.t xs))

/-- An extreme of the active lanes, from the value that stands for none. -/
def Core.extreme (c : Core) (f : VRed) (float : Nat) (int : Int) (op : Nat → Nat → Nat) : Core :=
  let xs := c.activeLanes f.t f.a f.km
  if f.t.isF then c.writeS .v 6 f.s (BitVec.ofNat 64 (xs.foldl op float))
  else c.writeS .v 6 f.s (BitVec.ofInt 64 (intVal f.t (xs.foldl op (wrapInt f.t.width int))))

def execVredMax (f : VRed) (s : State) : Host.Outcome State Fault Refusal :=
  s.compute (.vredMax f) fun c =>
    c.extreme f (withSign f.t true ((infBits f.t).getD 0)) (intMin f.t) (maxLane f.t)

def execVredMin (f : VRed) (s : State) : Host.Outcome State Fault Refusal :=
  s.compute (.vredMin f) fun c => c.extreme f ((infBits f.t).getD 0) (intMax f.t) (minLane f.t)

/-- VSCAN.ADD: each lane is the sum of the active lanes up to it. -/
def execVscanAdd (f : VUn) (s : State) : Host.Outcome State Fault Refusal :=
  s.compute (.vscanAdd f) fun c =>
    let m := c.readM .v f.km
    let x := c.laneV f.t f.a
    let upTo := fun n => ((List.range (n + 1)).filter (laneOn f.t m)).map x
    c.putV f.t 6 f.d f.km f.mz fun n =>
      if f.t.isF then (floatSum f.t (upTo n)).round f.t c.vrnd else (wrapInt f.t.width (intSum f.t (upTo n)), 0)

/-! ## Estimates (R254) -/

def execVrcpE (f : VUn) (s : State) : Host.Outcome State Fault Refusal :=
  s.compute (.vrcpE f) fun c => c.map1 f.t 6 f.d f.a f.km f.mz fun x => rcpF f.t (decodeF f.t x)
def execVrsqE (f : VUn) (s : State) : Host.Outcome State Fault Refusal :=
  s.compute (.vrsqE f) fun c => c.map1 f.t 6 f.d f.a f.km f.mz fun x => rsqF f.t (decodeF f.t x)
def execVexp2 (f : VUn) (s : State) : Host.Outcome State Fault Refusal :=
  s.compute (.vexp2 f) fun c => c.map1 f.t 6 f.d f.a f.km f.mz fun x => exp2F f.t (decodeF f.t x)
def execVlog2 (f : VUn) (s : State) : Host.Outcome State Fault Refusal :=
  s.compute (.vlog2 f) fun c => c.map1 f.t 6 f.d f.a f.km f.mz fun x => log2F f.t (decodeF f.t x)

/-! ## Conversions and scales (R255–R257) -/

/-- A conversion between formats: the number of conversions, and the elements that conversion k reads and writes. -/
structure Conv where
  src  : Fmt
  tgt  : Fmt
  part : Nat

def Conv.count (v : Conv) : Nat := min v.src.lanes v.tgt.lanes
def Conv.srcAt (v : Conv) (k : Nat) : Nat := if v.src.width < v.tgt.width then v.part * v.count + k else k
def Conv.tgtAt (v : Conv) (k : Nat) : Nat := if v.tgt.width < v.src.width then v.part * v.count + k else k
/-- Conversion k is governed by bit k, or by bit k/2 between two 4-bit formats. -/
def Conv.on (v : Conv) (m : Quad) (k : Nat) : Bool := bitOf m (if v.src.width = 4 && v.tgt.width = 4 then k / 2 else k)

/-- The results of the active conversions, in order: conversion, value and flags; each takes a draw when the rounding
is stochastic (R98, R237). -/
def Conv.run (v : Conv) (m : Quad) (srnd : Word) (sto : Bool) (conv : Word → Nat → Nat × Flags) :
    Word × List (Nat × Nat × Flags) :=
  (List.range v.count).foldl (fun acc k =>
    if v.on m k then
      let x := if sto then srndNext acc.1 else acc.1
      (x, acc.2 ++ [(k, conv x k)])
    else acc) (srnd, [])

/-- The target register: elements outside the part keep their values (R255). -/
def Conv.write (v : Conv) (m : Quad) (mz : Bool) (old : Nat) (rs : List (Nat × Nat × Flags)) : Nat :=
  let put := fun (x : Nat) (k y : Nat) => (setField (BitVec.ofNat 1024 x) (v.tgt.width * v.tgtAt k) v.tgt.width y).toNat
  let base := if mz then (List.range v.count).foldl (fun x k => if v.on m k then x else put x k 0) old else old
  rs.foldl (fun x r => put x r.1 r.2.1) base

/-- A conversion carried out: the generator, the register and the flags. -/
def Core.convert (c : Core) (v : Conv) (d : VReg) (km : MReg) (mz sto : Bool) (conv : Word → Nat → Nat × Flags) : Core :=
  let m := c.readM .v km
  let r := v.run m c.srnd sto conv
  ((if sto then c.setSrnd r.1 else c).writeLoc .v 4 (.v d) (v.write m mz (c.before (.v d)) r.2)).raise 4
    (r.2.foldl (fun (a : Flags) (x : Nat × Nat × Flags) => a ||| x.2.2) 0)

def execVcvt (f : VCvt) (s : State) : Host.Outcome State Fault Refusal :=
  s.compute (.vcvt f) fun c =>
    let v : Conv := ⟨f.src, f.tgt, f.part.toNat⟩
    let x := c.laneV f.src f.a
    c.convert v f.d f.km f.mz (fmtSto c.fmt && stoTarget f.tgt) fun g k =>
      convElem f.src f.tgt (fmtRnd c.fmt (srndDraw g)) (fmtSat c.fmt) (x (v.srcAt k))

/-- The scale of element n: a byte of a vector (R256). -/
def Core.scaleOf (c : Core) (r : VReg) (sf : ScaleFmt) (blk16 : Bool) (base : BitVec 7) : Nat → FV :=
  let v := c.readV .v r
  fun n => decodeScale sf (elem v 8 (base.toNat + n / (if blk16 then 16 else 32)))

def execVscl (f : VScl) (s : State) : Host.Outcome State Fault Refusal :=
  s.compute (.vscl f) fun c =>
    let x := c.laneV f.t f.a
    let sc := c.scaleOf f.b f.sf f.blk16 f.base
    c.putV f.t 4 f.d f.km f.mz fun n => scaleRound f.t c.vrnd true f.div (decodeF f.t (x n)) (sc n)

/-- VPACK: a / s rounded once into the narrow format. -/
def execVpack (f : VPack) (s : State) : Host.Outcome State Fault Refusal :=
  s.compute (.vpack f) fun c =>
    let v : Conv := ⟨f.src, f.tgt, f.part.toNat⟩
    let x := c.laneV f.src f.a
    c.convert v f.d f.km f.mz (fmtSto c.fmt) fun g k =>
      let r := fmtRnd c.fmt (srndDraw g)
      match f.sf with
      | none => convElem f.src f.tgt r (fmtSat c.fmt) (x k)
      | some sf =>
        scaleRound f.tgt r (fmtSat c.fmt) true (decodeF f.src (x k)) (c.scaleOf f.c sf f.blk16 f.base (v.tgtAt k))

/-- VUNPACK: a × s rounded once into the wide format. -/
def execVunpack (f : VPack) (s : State) : Host.Outcome State Fault Refusal :=
  s.compute (.vunpack f) fun c =>
    let v : Conv := ⟨f.src, f.tgt, f.part.toNat⟩
    let x := c.laneV f.src f.a
    c.convert v f.d f.km f.mz false fun _ k =>
      match f.sf with
      | none => convElem f.src f.tgt c.vrnd (fmtSat c.fmt) (x (v.srcAt k))
      | some sf =>
        scaleRound f.tgt c.vrnd (fmtSat c.fmt) false (decodeF f.src (x (v.srcAt k)))
          (c.scaleOf f.c sf f.blk16 f.base (v.srcAt k))

/-! ## Masks (R258, R259) -/

/-- Bit n of a mask source. -/
def Core.maskBit (c : Core) (r : MReg) (inv : Bool) : Nat → Bool :=
  let m := c.readM .v r
  fun n => bitOf m n != inv

def execMand (f : MBin) (s : State) : Host.Outcome State Fault Refusal :=
  s.compute (.mand f) fun c =>
    c.writeM .v 1 f.d (maskOf (maskLanes f.t) fun n => c.maskBit f.a f.ia n && c.maskBit f.b f.ib n)
def execMor (f : MBin) (s : State) : Host.Outcome State Fault Refusal :=
  s.compute (.mor f) fun c =>
    c.writeM .v 1 f.d (maskOf (maskLanes f.t) fun n => c.maskBit f.a f.ia n || c.maskBit f.b f.ib n)
def execMnot (f : MUn) (s : State) : Host.Outcome State Fault Refusal :=
  s.compute (.mnot f) fun c => c.writeM .v 1 f.d (maskOf (maskLanes f.t) (c.maskBit f.a true))

def popRes (op : PopOp) (n v : Nat) : Word :=
  match op with
  | .count => BitVec.ofNat 64 (popCount n v)
  | .low => if v = 0 then BitVec.allOnes 64 else BitVec.ofNat 64 (lowestSet n v)
  | .high => if v = 0 then BitVec.allOnes 64 else BitVec.ofNat 64 v.log2

def execVpopc (f : VPopc) (s : State) : Host.Outcome State Fault Refusal :=
  s.compute (.vpopc f) fun c =>
    let n := maskLanes f.t
    let v := (maskOf n fun i => c.maskBit f.a false i && c.maskBit f.km false i).toNat
    c.writeS .v 2 f.s (popRes f.op n v)

end Sys2Proof.Machine
end

