-- ==== Sys2Proof/Machine/Dispatch.lean ====
section
/-! DEFINITION. One arm per constructor of `Instr`: a direct call of its meaning. -/

namespace Sys2Proof.Machine

def exec (i : Instr) (s : State) : Host.Outcome State Fault Refusal :=
  match i with
  | .bundleDispatch => Sys2Proof.Machine.execBundleDispatch s
  | .br f => Sys2Proof.Machine.execBr f s
  | .jmp f => Sys2Proof.Machine.execJmp f s
  | .call f => Sys2Proof.Machine.execCall f s
  | .ret f => Sys2Proof.Machine.execRet f s
  | .loopSet f => Sys2Proof.Machine.execLoopSet f s
  | .loopEnd f => Sys2Proof.Machine.execLoopEnd f s
  | .frameAlloc f => Sys2Proof.Machine.execFrameAlloc f s
  | .frameFree f => Sys2Proof.Machine.execFrameFree f s
  | .frameSlotRelease core => Sys2Proof.Machine.execFrameSlotRelease core s
  | .yield f => Sys2Proof.Machine.execYield f s
  | .waitQ f => Sys2Proof.Machine.execWaitQ f s
  | .waitS f => Sys2Proof.Machine.execWaitS f s
  | .halt f => Sys2Proof.Machine.execHalt f s
  | .trap f => Sys2Proof.Machine.execTrap f s
  | .subscribe f => Sys2Proof.Machine.execSubscribe f s
  | .unsub f => Sys2Proof.Machine.execUnsub f s
  | .bind f => Sys2Proof.Machine.execBind f s
  | .wtst f => Sys2Proof.Machine.execWtst f s
  | .pub f => Sys2Proof.Machine.execPub f s
  | .pubC f => Sys2Proof.Machine.execPubC f s
  | .steer f => Sys2Proof.Machine.execSteer f s
  | .spawn f => Sys2Proof.Machine.execSpawn f s
  | .spawnNb f => Sys2Proof.Machine.execSpawnNb f s
  | .retn f => Sys2Proof.Machine.execRetn f s
  | .drain f => Sys2Proof.Machine.execDrain f s
  | .colourGet f => Sys2Proof.Machine.execColourGet f s
  | .colourFree f => Sys2Proof.Machine.execColourFree f s
  | .nameSetField f => Sys2Proof.Machine.execNameSetField f s
  | .nameSetWhole f => Sys2Proof.Machine.execNameSetWhole f s
  | .nameSetCopy f => Sys2Proof.Machine.execNameSetCopy f s
  | .nameAdd f => Sys2Proof.Machine.execNameAdd f s
  | .nameLd f => Sys2Proof.Machine.execNameLd f s
  | .pand f => Sys2Proof.Machine.execPand f s
  | .por f => Sys2Proof.Machine.execPor f s
  | .pxor f => Sys2Proof.Machine.execPxor f s
  | .pnot f => Sys2Proof.Machine.execPnot f s
  | .pmov f => Sys2Proof.Machine.execPmov f s
  | .sysRd f => Sys2Proof.Machine.execSysRd f s
  | .sysWr f => Sys2Proof.Machine.execSysWr f s
  | .eret f => Sys2Proof.Machine.execEret f s
  | .eretH f => Sys2Proof.Machine.execEretH f s
  | .tlbInv f => Sys2Proof.Machine.execTlbInv f s
  | .tlbInvAll f => Sys2Proof.Machine.execTlbInvAll f s
  | .dictLd f => Sys2Proof.Machine.execDictLd f s
  | .dictInv f => Sys2Proof.Machine.execDictInv f s
  | .qenq f => Sys2Proof.Machine.execQenq f s
  | .qdeq f => Sys2Proof.Machine.execQdeq f s
  | .qenqNb f => Sys2Proof.Machine.execQenqNb f s
  | .qdeqNb f => Sys2Proof.Machine.execQdeqNb f s
  | .cycleRd f => Sys2Proof.Machine.execCycleRd f s
  | .fmtSet f => Sys2Proof.Machine.execFmtSet f s
  | .fmtSetH f => Sys2Proof.Machine.execFmtSetH f s
  | .fmtSetC f => Sys2Proof.Machine.execFmtSetC f s
  | .fmtRd f => Sys2Proof.Machine.execFmtRd f s
  | .add f => Sys2Proof.Machine.execAdd f s
  | .addi f => Sys2Proof.Machine.execAddi f s
  | .sub f => Sys2Proof.Machine.execSub f s
  | .mul f => Sys2Proof.Machine.execMul f s
  | .mulh f => Sys2Proof.Machine.execMulh f s
  | .mulhN f => Sys2Proof.Machine.execMulhN f s
  | .div f => Sys2Proof.Machine.execDiv f s
  | .divN f => Sys2Proof.Machine.execDivN f s
  | .rem f => Sys2Proof.Machine.execRem f s
  | .remN f => Sys2Proof.Machine.execRemN f s
  | .min f => Sys2Proof.Machine.execMin f s
  | .minN f => Sys2Proof.Machine.execMinN f s
  | .max f => Sys2Proof.Machine.execMax f s
  | .maxN f => Sys2Proof.Machine.execMaxN f s
  | .and f => Sys2Proof.Machine.execAnd f s
  | .or f => Sys2Proof.Machine.execOr f s
  | .xor f => Sys2Proof.Machine.execXor f s
  | .andn f => Sys2Proof.Machine.execAndn f s
  | .shl f => Sys2Proof.Machine.execShl f s
  | .shr f => Sys2Proof.Machine.execShr f s
  | .shrN f => Sys2Proof.Machine.execShrN f s
  | .rot f => Sys2Proof.Machine.execRot f s
  | .clz f => Sys2Proof.Machine.execClz f s
  | .ctz f => Sys2Proof.Machine.execCtz f s
  | .popc f => Sys2Proof.Machine.execPopc f s
  | .bfx f => Sys2Proof.Machine.execBfx f s
  | .bfi f => Sys2Proof.Machine.execBfi f s
  | .sext f => Sys2Proof.Machine.execSext f s
  | .zext f => Sys2Proof.Machine.execZext f s
  | .mov f => Sys2Proof.Machine.execMov f s
  | .movStream f => Sys2Proof.Machine.execMovStream f s
  | .movi f => Sys2Proof.Machine.execMovi f s
  | .moviZ f => Sys2Proof.Machine.execMoviZ f s
  | .moviH f => Sys2Proof.Machine.execMoviH f s
  | .sel f => Sys2Proof.Machine.execSel f s
  | .cmpCc f => Sys2Proof.Machine.execCmpCc f s
  | .cmpiCc f => Sys2Proof.Machine.execCmpiCc f s
  | .lea f => Sys2Proof.Machine.execLea f s
  | .fadd f => Sys2Proof.Machine.execFadd f s
  | .fsub f => Sys2Proof.Machine.execFsub f s
  | .fmul f => Sys2Proof.Machine.execFmul f s
  | .ffma f => Sys2Proof.Machine.execFfma f s
  | .fmin f => Sys2Proof.Machine.execFmin f s
  | .fmax f => Sys2Proof.Machine.execFmax f s
  | .fcmpCc f => Sys2Proof.Machine.execFcmpCc f s
  | .fcvt f => Sys2Proof.Machine.execFcvt f s
  | .ld f => Sys2Proof.Machine.execLd f s
  | .st f => Sys2Proof.Machine.execSt f s
  | .ldv f => Sys2Proof.Machine.execLdv f s
  | .stv f => Sys2Proof.Machine.execStv f s
  | .ldvG f => Sys2Proof.Machine.execLdvG f s
  | .stvS f => Sys2Proof.Machine.execStvS f s
  | .ldFe f => Sys2Proof.Machine.execLdFe f s
  | .stFe f => Sys2Proof.Machine.execStFe f s
  | .peekFe f => Sys2Proof.Machine.execPeekFe f s
  | .mark f => Sys2Proof.Machine.execMark f s
  | .fence f => Sys2Proof.Machine.execFence f s
  | .atomAdd f => Sys2Proof.Machine.execAtomAdd f s
  | .atomMin f => Sys2Proof.Machine.execAtomMin f s
  | .atomMax f => Sys2Proof.Machine.execAtomMax f s
  | .atomAnd f => Sys2Proof.Machine.execAtomAnd f s
  | .atomOr f => Sys2Proof.Machine.execAtomOr f s
  | .atomXor f => Sys2Proof.Machine.execAtomXor f s
  | .atomSwp f => Sys2Proof.Machine.execAtomSwp f s
  | .atomCas f => Sys2Proof.Machine.execAtomCas f s
  | .atomFadd f => Sys2Proof.Machine.execAtomFadd f s
  | .atomNib f => Sys2Proof.Machine.execAtomNib f s
  | .pref f => Sys2Proof.Machine.execPref f s
  | .vadd f => Sys2Proof.Machine.execVadd f s
  | .vsub f => Sys2Proof.Machine.execVsub f s
  | .vmul f => Sys2Proof.Machine.execVmul f s
  | .vfma f => Sys2Proof.Machine.execVfma f s
  | .vmin f => Sys2Proof.Machine.execVmin f s
  | .vmax f => Sys2Proof.Machine.execVmax f s
  | .vabs f => Sys2Proof.Machine.execVabs f s
  | .vneg f => Sys2Proof.Machine.execVneg f s
  | .vand f => Sys2Proof.Machine.execVand f s
  | .vor f => Sys2Proof.Machine.execVor f s
  | .vxor f => Sys2Proof.Machine.execVxor f s
  | .vshl f => Sys2Proof.Machine.execVshl f s
  | .vshr f => Sys2Proof.Machine.execVshr f s
  | .vcmpCc f => Sys2Proof.Machine.execVcmpCc f s
  | .vsel f => Sys2Proof.Machine.execVsel f s
  | .vcas f => Sys2Proof.Machine.execVcas f s
  | .vcasX f => Sys2Proof.Machine.execVcasX f s
  | .vperm f => Sys2Proof.Machine.execVperm f s
  | .vperm2 f => Sys2Proof.Machine.execVperm2 f s
  | .vbcastScalar f => Sys2Proof.Machine.execVbcastScalar f s
  | .vbcastLane f => Sys2Proof.Machine.execVbcastLane f s
  | .vbcastLiteral f => Sys2Proof.Machine.execVbcastLiteral f s
  | .vshuf f => Sys2Proof.Machine.execVshuf f s
  | .vredAdd f => Sys2Proof.Machine.execVredAdd f s
  | .vredMax f => Sys2Proof.Machine.execVredMax f s
  | .vredMin f => Sys2Proof.Machine.execVredMin f s
  | .vscanAdd f => Sys2Proof.Machine.execVscanAdd f s
  | .vrcpE f => Sys2Proof.Machine.execVrcpE f s
  | .vrsqE f => Sys2Proof.Machine.execVrsqE f s
  | .vexp2 f => Sys2Proof.Machine.execVexp2 f s
  | .vlog2 f => Sys2Proof.Machine.execVlog2 f s
  | .vcvt f => Sys2Proof.Machine.execVcvt f s
  | .vscl f => Sys2Proof.Machine.execVscl f s
  | .vpack f => Sys2Proof.Machine.execVpack f s
  | .vunpack f => Sys2Proof.Machine.execVunpack f s
  | .vmovS f => Sys2Proof.Machine.execVmovS f s
  | .vext f => Sys2Proof.Machine.execVext f s
  | .viota f => Sys2Proof.Machine.execViota f s
  | .mand f => Sys2Proof.Machine.execMand f s
  | .mor f => Sys2Proof.Machine.execMor f s
  | .mnot f => Sys2Proof.Machine.execMnot f s
  | .vpopc f => Sys2Proof.Machine.execVpopc f s
  | .mma f => Sys2Proof.Machine.execMma f s
  | .mmaG f => Sys2Proof.Machine.execMmaG f s
  | .zclr f => Sys2Proof.Machine.execZclr f s
  | .zld f => Sys2Proof.Machine.execZld f s
  | .zst f => Sys2Proof.Machine.execZst f s
  | .zcvt f => Sys2Proof.Machine.execZcvt f s
  | .zadd f => Sys2Proof.Machine.execZadd f s
  | .wld f => Sys2Proof.Machine.execWld f s
  | .mwait f => Sys2Proof.Machine.execMwait f s
  | .matrixWriteLand core => Sys2Proof.Machine.execMatrixWriteLand core s
  | .wldTransferDone core => Sys2Proof.Machine.execWldTransferDone core s
  | .cp f => Sys2Proof.Machine.execCp f s
  | .cpName f => Sys2Proof.Machine.execCpName f s
  | .cpWin f => Sys2Proof.Machine.execCpWin f s
  | .cpWait f => Sys2Proof.Machine.execCpWait f s
  | .sbind f => Sys2Proof.Machine.execSbind f s
  | .scloseMarker f => Sys2Proof.Machine.execScloseMarker f s
  | .scloseUnbind f => Sys2Proof.Machine.execScloseUnbind f s
  | .hashSha f => Sys2Proof.Machine.execHashSha f s
  | .hashCrc f => Sys2Proof.Machine.execHashCrc f s
  | .hashWait f => Sys2Proof.Machine.execHashWait f s
  | .engineCommandDone core eng => Sys2Proof.Machine.execEngineCommandDone core eng s
  | .shadowCommit core line => Sys2Proof.Machine.execShadowCommit core line s
  | .streamLineRequest core w => Sys2Proof.Machine.execStreamLineRequest core w s
  | .streamLineReturn core w => Sys2Proof.Machine.execStreamLineReturn core w s
  | .lcCtxOpen f => Sys2Proof.Machine.execLcCtxOpen f s
  | .lcCtxCommit f => Sys2Proof.Machine.execLcCtxCommit f s
  | .lcCtxAbort f => Sys2Proof.Machine.execLcCtxAbort f s
  | .lcCtxRel f => Sys2Proof.Machine.execLcCtxRel f s
  | .lcTbl f => Sys2Proof.Machine.execLcTbl f s
  | .celadonRecordLoad cluster => Sys2Proof.Machine.execCeladonRecordLoad cluster s
  | .lcSel f => Sys2Proof.Machine.execLcSel f s
  | .lcRun f => Sys2Proof.Machine.execLcRun f s
  | .celadonBatch cluster => Sys2Proof.Machine.execCeladonBatch cluster s
  | .lcTslice f => Sys2Proof.Machine.execLcTslice f s
  | .lcUnslice f => Sys2Proof.Machine.execLcUnslice f s
  | .lcPop f => Sys2Proof.Machine.execLcPop f s
  | .lcWait f => Sys2Proof.Machine.execLcWait f s
  | .lcStat f => Sys2Proof.Machine.execLcStat f s
  | .quantumExpiry core => Sys2Proof.Machine.execQuantumExpiry core s
  | .preEmption core => Sys2Proof.Machine.execPreEmption core s
  | .taskDispatch core => Sys2Proof.Machine.execTaskDispatch core s
  | .instanceFire cluster idx => Sys2Proof.Machine.execInstanceFire cluster idx s
  | .launchAccept part sup => Sys2Proof.Machine.execLaunchAccept part sup s
  | .levelInstantiate part launch level inst => Sys2Proof.Machine.execLevelInstantiate part launch level inst s
  | .launchRetire part launch => Sys2Proof.Machine.execLaunchRetire part launch s
  | .routerForward router => Sys2Proof.Machine.execRouterForward router s
  | .subscriptionRegister idx => Sys2Proof.Machine.execSubscriptionRegister idx s
  | .homeFetch idx => Sys2Proof.Machine.execHomeFetch idx s
  | .remoteForward idx => Sys2Proof.Machine.execRemoteForward idx s
  | .rendezvousRetain cluster => Sys2Proof.Machine.execRendezvousRetain cluster s
  | .writeThrough idx => Sys2Proof.Machine.execWriteThrough idx s
  | .delivery cluster => Sys2Proof.Machine.execDelivery cluster s
  | .stagingAdmit cluster => Sys2Proof.Machine.execStagingAdmit cluster s
  | .drainMarkerArrival cluster => Sys2Proof.Machine.execDrainMarkerArrival cluster s
  | .drainForward cluster idx => Sys2Proof.Machine.execDrainForward cluster idx s
  | .contributionArrival cluster => Sys2Proof.Machine.execContributionArrival cluster s
  | .acknowledgement idx => Sys2Proof.Machine.execAcknowledgement idx s
  | .circuitFlit router port => Sys2Proof.Machine.execCircuitFlit router port s
  | .storeBufferDrain cluster idx => Sys2Proof.Machine.execStoreBufferDrain cluster idx s
  | .rimAccessRequest idx => Sys2Proof.Machine.execRimAccessRequest idx s
  | .accessDataReturn core idx => Sys2Proof.Machine.execAccessDataReturn core idx s
  | .engineFault core eng => Sys2Proof.Machine.execEngineFault core eng s
  | .checkpointHoldReached part launch => Sys2Proof.Machine.execCheckpointHoldReached part launch s
  | .keySlotEmpty part slot => Sys2Proof.Machine.execKeySlotEmpty part slot s
  | .partLoadDone part => Sys2Proof.Machine.execPartLoadDone part s
  | .partFormDone => Sys2Proof.Machine.execPartFormDone s
  | .celadonSlotPoisoned cluster slot cell => Sys2Proof.Machine.execCeladonSlotPoisoned cluster slot cell s
  | .celadonSlotRepair cluster slot => Sys2Proof.Machine.execCeladonSlotRepair cluster slot s
  | .celadonPlacedDigest cluster slot => Sys2Proof.Machine.execCeladonPlacedDigest cluster slot s
  | .coreChainWrite core v => Sys2Proof.Machine.execCoreChainWrite core v s
  | .agingPromotion cluster rec => Sys2Proof.Machine.execAgingPromotion cluster rec s
  | .levelReplace part launch level inst => Sys2Proof.Machine.execLevelReplace part launch level inst s
  | .addressedRoute router => Sys2Proof.Machine.execAddressedRoute router s
  | .retainExpiry cluster idx => Sys2Proof.Machine.execRetainExpiry cluster idx s
  | .combineBitmapExpiry cluster idx => Sys2Proof.Machine.execCombineBitmapExpiry cluster idx s
  | .resendTimeout idx => Sys2Proof.Machine.execResendTimeout idx s
  | .negativeAck cluster => Sys2Proof.Machine.execNegativeAck cluster s
  | .filterExpiry cluster idx => Sys2Proof.Machine.execFilterExpiry cluster idx s
  | .pageWalk core va write => Sys2Proof.Machine.execPageWalk core va write s
  | .holdLimit core eng => Sys2Proof.Machine.execHoldLimit core eng s
  | .correctedError unit => Sys2Proof.Machine.execCorrectedError unit s
  | .configReload region => Sys2Proof.Machine.execConfigReload region s
  | .configReloadDone region ok => Sys2Proof.Machine.execConfigReloadDone region ok s
  | .fatalError part => Sys2Proof.Machine.execFatalError part s
  | .spillFault part q => Sys2Proof.Machine.execSpillFault part q s
  | .siennaInterval => Sys2Proof.Machine.execSiennaInterval s
  | .leaseSave core => Sys2Proof.Machine.execLeaseSave core s
  | .leaseAbandon core => Sys2Proof.Machine.execLeaseAbandon core s
  | .linkDrained unit => Sys2Proof.Machine.execLinkDrained unit s
  | .channelQuiesce unit => Sys2Proof.Machine.execChannelQuiesce unit s
  | .leaseTestDone unit result => Sys2Proof.Machine.execLeaseTestDone unit result s
  | .mirrorCompare part pair => Sys2Proof.Machine.execMirrorCompare part pair s
  | .mirrorTimeout part pair => Sys2Proof.Machine.execMirrorTimeout part pair s
  | .marginPlanChange cluster plan => Sys2Proof.Machine.execMarginPlanChange cluster plan s
  | .powerCapStep cluster draw => Sys2Proof.Machine.execPowerCapStep cluster draw s
  | .thermalHold cluster => Sys2Proof.Machine.execThermalHold cluster s
  | .thermalStop field => Sys2Proof.Machine.execThermalStop field s
  | .coldReset field => Sys2Proof.Machine.execColdReset field s
  | .clusterStageAdvance cluster found => Sys2Proof.Machine.execClusterStageAdvance cluster found s
  | .greetingBurst router port => Sys2Proof.Machine.execGreetingBurst router port s
  | .greetingAnswer router port intact => Sys2Proof.Machine.execGreetingAnswer router port intact s
  | .bolsarFlit port crcOk => Sys2Proof.Machine.execBolsarFlit port crcOk s
  | .pcieLinkTrain port => Sys2Proof.Machine.execPcieLinkTrain port s
  | .bar2Access idx => Sys2Proof.Machine.execBar2Access idx s
  | .keyInstall idx => Sys2Proof.Machine.execKeyInstall idx s
  | .keySlotSelect part v => Sys2Proof.Machine.execKeySlotSelect part v s
  | .keySlotClear part v => Sys2Proof.Machine.execKeySlotClear part v s
  | .rimFeClr part v => Sys2Proof.Machine.execRimFeClr part v s
  | .hqCfgWrite part q v => Sys2Proof.Machine.execHqCfgWrite part q v s
  | .hqTailWrite part q v => Sys2Proof.Machine.execHqTailWrite part q v s
  | .hqHeadWrite part q v => Sys2Proof.Machine.execHqHeadWrite part q v s
  | .hqNotifyWrite part q v => Sys2Proof.Machine.execHqNotifyWrite part q v s
  | .partHoldNamed part on => Sys2Proof.Machine.execPartHoldNamed part on s
  | .partHoldCirc part on => Sys2Proof.Machine.execPartHoldCirc part on s
  | .partHoldStr part on => Sys2Proof.Machine.execPartHoldStr part on s
  | .partLoadDescriptors part v => Sys2Proof.Machine.execPartLoadDescriptors part v s
  | .partLoadRanges part v => Sys2Proof.Machine.execPartLoadRanges part v s
  | .partLoadCircuits part v => Sys2Proof.Machine.execPartLoadCircuits part v s
  | .partEnd part v => Sys2Proof.Machine.execPartEnd part v s
  | .partResume part v => Sys2Proof.Machine.execPartResume part v s
  | .partForm v => Sys2Proof.Machine.execPartForm v s
  | .partDissolve v => Sys2Proof.Machine.execPartDissolve v s
  | .coreEfaultRetry core => Sys2Proof.Machine.execCoreEfaultRetry core s
  | .coreEfaultAbandon core => Sys2Proof.Machine.execCoreEfaultAbandon core s
  | .recAddrWrite part v => Sys2Proof.Machine.execRecAddrWrite part v s
  | .recDataWrite part idx v => Sys2Proof.Machine.execRecDataWrite part idx v s
  | .coreWindowWrite part addr v => Sys2Proof.Machine.execCoreWindowWrite part addr v s
  | .netCfgWrite part v => Sys2Proof.Machine.execNetCfgWrite part v s
  | .clusStageWrite cluster v => Sys2Proof.Machine.execClusStageWrite cluster v s
  | .xlatRootWrite part idx v => Sys2Proof.Machine.execXlatRootWrite part idx v s
  | .siennaCfgWrite v => Sys2Proof.Machine.execSiennaCfgWrite v s
  | .pwrCapWrite cluster v => Sys2Proof.Machine.execPwrCapWrite cluster v s
  | .coreSrndWrite core v => Sys2Proof.Machine.execCoreSrndWrite core v s
  | .coreCtlScbWrite core v => Sys2Proof.Machine.execCoreCtlScbWrite core v s
  | .clusMstoreFillRead cluster => Sys2Proof.Machine.execClusMstoreFillRead cluster s
  | .clusStageRead cluster => Sys2Proof.Machine.execClusStageRead cluster s
  | .registerWrite addr v => Sys2Proof.Machine.execRegisterWrite addr v s
  | .thermalRelease cluster => Sys2Proof.Machine.execThermalRelease cluster s
  | .deferredRequestWithdrawn core => Sys2Proof.Machine.execDeferredRequestWithdrawn core s
  | .bolsarLinkKey port => Sys2Proof.Machine.execBolsarLinkKey port s
  | .rimReset => Sys2Proof.Machine.execRimReset s
  | .channelRelease part unit => Sys2Proof.Machine.execChannelRelease part unit s
  | .operatorCommand unit => Sys2Proof.Machine.execOperatorCommand unit s

end Sys2Proof.Machine
end

