-- ==== Sys2Proof/Machine/Sched.lean ====
section
/-! DEFINITION. Which step the machine takes next (log entry 1): the head of the agenda, or, when it is empty, the first
step of the device that changes anything, or else the next core in turn. The spec leaves these orders open; the agenda
can name any of them. -/

namespace Sys2Proof.Machine

/-- The part that issues next, with its bundle in focus. -/
def runPart (s : State) (n : Nat) (k : Slot) : Host.Outcome State Fault Refusal :=
  let t := s.onCore fun c => c.focusOn n
  match bundlePart t.core.lat.bits k with
  | .error _ => .refused .badPart
  | .ok i => exec i t

/-- n cycles pass on a core, unless parts of a SYNC bundle have still to issue in the present one; resend timers stand still
while the named class is held (R312, log entry 9). -/
def passCore (s : State) (w n : Nat) : State :=
  if (s.coreAt w).syncUntried then s
  else (s.modCore w fun c => c.pass n).putOff (fun e => e = .core w) n

/-- The current core goes on: it issues a part, takes a precise fault, dispatches a bundle or a task, or lets a cycle pass
(R21, R118, R129, R301, log entry 3). -/
def runCore (s : State) : Host.Outcome State Fault Refusal :=
  if !s.core.busy then (if s.core.lat.on then .fault .noTask else exec (.taskDispatch s.cur) s)
  else
    match s.core.nextPart with
    | some (n, k) => runPart s n k
    | none =>
      if s.front.core.lat.fault.isSome && s.front.settled && s.msgOpen s.core.task.part then .next s.front.takeNoted
      else if s.core.dispatchOpen then exec .bundleDispatch s
      else .next (passCore s s.cur 1)

/-- n cycles pass on the rim management core. -/
def passSienna (s : State) (n : Nat) : State :=
  (s.onWafer fun w => { w with sienCycle := w.sienCycle + n }).putOff (fun e => e = .sienna) n

/-- One turn. -/
def takeTurn (s : State) : Turn → Host.Outcome State Fault Refusal
  | .run w => runCore (s.focus w)
  | .stall w n => .next (passCore s w n)
  | .tick f n => .next (s.tickField f n)
  | .beat n => .next (passSienna s n)
  | .event i => if i.uses.isNone then exec i s else .next s
  | .host b => .next (s.onWafer fun w => { w with bar2 := w.bar2 ++ [b] })
  | .upset pa gran errs => .next (s.upset pa gran errs)
  | .noise i bits payload => .next (s.noise i bits payload)
  | .window part addr n dst => .next (s.windowRead part addr n dst)

/-- A step that stands to be taken when a condition holds. -/
def evIf (b : Bool) (i : Instr) : List Instr := if b then [i] else []

/-- Engine steps that a core may take. -/
def streamEvents (w n : Nat) (x : Stream) : List Instr :=
  if x.src = .vm && x.st = .bound then [.streamLineReturn w (Fin.ofNat 8 n), .streamLineRequest w (Fin.ofNat 8 n)] else []

def coreEvents (w : Nat) (c : Core) : List Instr :=
  List.flatten [
    evIf (c.eng.acc.any fun a => !a.asked) (.rimAccessRequest w),
    evIf (!c.eng.mq.isEmpty) (.matrixWriteLand w),
    evIf (!c.eng.mq.isEmpty) (.wldTransferDone w),
    evIf (!c.eng.pubs.isEmpty) (.engineCommandDone w .queues),
    evIf (decide (0 < c.live.frame.pend)) (.frameSlotRelease w),
    evIf (!c.eng.cps.isEmpty) (.engineCommandDone w .copy),
    evIf (!c.eng.hashes.isEmpty) (.engineCommandDone w .hash),
    evIf (!c.eng.lcs.isEmpty) (.celadonRecordLoad (clusterOf w)),
    evIf (!c.eng.lcs.isEmpty) (.celadonBatch (clusterOf w)),
    evIf (!c.eng.lcs.isEmpty) (.engineCommandDone w .celadon),
    evIf (!c.eng.shadow.isEmpty) (.shadowCommit w 0),
    (List.range c.eng.acc.length).map fun i => .accessDataReturn w i,
    if c.busy then [Eng.matrix, .copy, .hash, .stream, .celadon, .queues].map fun g => .engineFault w g else [],
    c.w.toList.zipIdx.flatMap fun p => streamEvents w p.2 p.1]

/-- Steps of a cluster. -/
def clusterEvents (q : Nat) (c : Cluster) : List Instr :=
  List.flatten [
    evIf (!c.pubs.isEmpty) (.rendezvousRetain q),
    evIf (!c.contribs.isEmpty) (.contributionArrival q),
    evIf (!c.inbox.isEmpty) (.delivery q),
    evIf (!c.heldIn.isEmpty || !c.spilled.isEmpty) (.stagingAdmit q),
    evIf (!c.markers.isEmpty) (.drainMarkerArrival q),
    evIf (!c.inbox.isEmpty) (.negativeAck q),
    (List.range c.stbuf.length).map fun i => .storeBufferDrain q i,
    (List.range c.filter.length).map fun i => .filterExpiry q i,
    (List.range c.retained.length).map fun i => .retainExpiry q i,
    (List.range c.combines.length).map fun i => .combineBitmapExpiry q i,
    c.ready.map fun a => .agingPromotion q a,
    (List.range c.mstore.length).map fun i => .instanceFire q i,
    (List.range c.drainQ.length).map fun i => .drainForward q i]

/-- Steps of a partition. -/
def partEvents (p : Nat) (x : Part) : List Instr :=
  List.flatten [
    evIf x.loadBusy (.partLoadDone p),
    evIf x.agents (.launchAccept p true),
    x.hqs.flatMap fun e => evIf (decide (e.1 ≤ 64) && e.2.en && decide (e.2.count ≠ 0)) (.launchAccept p (e.1 = 64)),
    x.linsts.flatMap fun e => [if e.ready then .levelReplace p e.launch e.level e.idx else .levelInstantiate p e.launch e.level e.idx],
    x.keys.map fun k => .keySlotEmpty p k.1,
    x.launches.flatMap fun e => [.checkpointHoldReached p e.1, .launchRetire p e.1]]

/-- The steps by which circuit flits move, at routers and in receive queues. -/
def circuitEvents (s : State) : List Instr :=
  (s.cflits.map fun f => Instr.circuitFlit f.at_ f.from_).dedup ++
    s.clusters.flatMap fun c => evIf (!c.2.recvQ.isEmpty) (.circuitFlit (schedRouter c.1) 8)

/-- The steps of the device that stand to be taken, in the default order. -/
def deviceEvents (s : State) : List Instr :=
  List.flatten [
    (List.range s.acks.length).map fun i => .acknowledgement i,
    (s.flights.map fun f => Instr.routerForward f.at_).dedup,
    circuitEvents s,
    (List.range s.regFl.length).map fun i => .subscriptionRegister i,
    (List.range s.fetches.length).flatMap fun i => [.homeFetch i, .remoteForward i],
    (List.range s.writes.length).map fun i => .writeThrough i,
    (List.range s.kept.length).map fun i => .resendTimeout i,
    s.addressed.map fun a => .addressedRoute a.at_,
    s.clusters.flatMap fun e => clusterEvents e.1 e.2,
    coreEvents s.cur s.core,
    s.others.flatMap fun e => coreEvents e.1 e.2,
    s.parts.flatMap fun e => partEvents e.1 e.2,
    evIf s.wafer.formBusy .partFormDone]

/-- An outcome changes something. -/
def changed (s : State) : Host.Outcome State Fault Refusal → Bool
  | .next t => !decide (t = s)
  | _ => false

/-- The step would change something. -/
def changes (s : State) (i : Instr) : Bool := changed s (exec i s)

/-- The core after the current one, in window order. -/
def nextCore (s : State) : Nat :=
  match (s.others.keys).find? fun k => s.cur < k with
  | some k => k
  | none => (s.others.keys).headD s.cur

/-- Steps by which the current task leaves its core. -/
def leaveEvents (s : State) : List Instr :=
  List.flatten [
    evIf (s.core.busy && (s.core.pre ≠ .none || s.schedulerWants s.cur)) (.preEmption s.cur),
    evIf s.quantumOut (.quantumExpiry s.cur)]

/-- Later steps of the device: limits of holds, leases under way, mirror pairs, and what the host has sent. -/
def lateSteps (s : State) : List (State → Host.Outcome State Fault Refusal) :=
  List.flatten [
    ((s.cur, s.core) :: s.others).flatMap fun e =>
      (e.2.eng.holds.map fun h => execHoldLimit e.1 h.eng) ++ (if e.2.lease = .prepare then [execLeaseSave e.1] else []),
    if s.core.pre ≠ .none || s.quantumOut then [execDeferredRequestWithdrawn s.cur] else [],
    s.parts.flatMap fun e => (List.range e.2.mirrors.length).flatMap fun i => [execMirrorCompare e.1 i, execMirrorTimeout e.1 i],
    (s.wafer.units.filter fun u => u.2.lease = .prepare).flatMap fun u => [execLinkDrained u.1, execChannelQuiesce u.1],
    if s.wafer.bar2.isEmpty then [] else [execBar2Access 0],
    if s.wafer.spdm.isEmpty then [] else [execKeyInstall 0]]

/-- The step taken when the agenda is empty. -/
def defaultStep (s : State) : Host.Outcome State Fault Refusal :=
  match (deviceEvents s ++ leaveEvents s).find? (changes s) with
  | some i => exec i s
  | none =>
    match (lateSteps s).find? fun f => changed s (f s) with
    | some f => f s
    | none => runCore (s.focus (nextCore s))

/-- One step (R8, log entry 1). -/
def stepFrom (s : State) : Host.Outcome State Fault Refusal :=
  match s.agenda with
  | t :: rest => takeTurn { s with agenda := rest } t
  | [] => defaultStep s

/-- A bundle alone in flight on the current core, which runs a task, with the core's turn next (log entry 10). -/
def placeBundle (s : State) (b : BundleWord) : State :=
  { s with
    agenda := .run s.cur :: s.agenda
    core := { s.core with
      busy := true
      waiting := false
      lands := []
      older := []
      lat := { on := true, pc := s.core.task.pc, next := s.core.task.pc + 1, bits := b, todo := bundleSlots b }
      younger := []
      pace := []
      hist := [] } }

end Sys2Proof.Machine
end

