-- ==== Sys2Proof/Machine/Step.lean ====
section
/-! DEFINITION. The step of the machine, and the placing of one instruction where the next step finds it. -/

namespace Sys2Proof.Machine

/-- One step of the machine: the turn that the agenda or the default order names. -/
def step (s : State) : Host.Outcome State Fault Refusal := stepFrom s

/-- The state in which the very next step runs the instruction whose bits are w: a bundle with that part, dispatched
into the latch of the current core (log entry 10). -/
def State.withFetchWord (s : State) (nbits w : Nat) : State := placeBundle s (BitVec.ofNat 384 (w % 2 ^ nbits))

end Sys2Proof.Machine
end

