-- ==== Sys2Proof/Safety.lean ====
section
/-! DEFINITION. What a safe run is, and when a part issues, in the terms that claims use. -/

namespace Sys2Proof

/-! ## Instructions by what they touch, for the frames -/

/-- One of these that may raise sticky flags (R96). -/
def Instr.raises : Instr → Bool
  | .fadd _ | .fsub _ | .fmul _ | .ffma _ | .fcvt _ | .vadd _ | .vsub _ | .vmul _ | .vfma _ | .vredAdd _
  | .vscanAdd _ | .vrcpE _ | .vrsqE _ | .vexp2 _ | .vlog2 _ | .vcvt _ | .vscl _ | .vpack _ | .vunpack _ => true
  | _ => false

/-- One of these that may take draws of CORE.SRND (R98). -/
def Instr.draws : Instr → Bool
  | .fcvt _ | .vcvt _ | .vpack _ => true
  | _ => false

end Sys2Proof

namespace Sys2Proof.Machine

/-- The step answers a next state: it neither faults nor is refused. -/
def Steps (s t : State) : Prop := step s = .next t

/-- An instruction answers a next state. -/
def Runs (i : Instr) (s t : State) : Prop := exec i s = .next t

/-- A state that a number of steps reaches. -/
inductive Reaches : State → State → Prop where
  | refl (s : State) : Reaches s s
  | step {s t u : State} (h : Steps s t) (r : Reaches t u) : Reaches s u

/-- A run is safe from a state when no state it reaches stops with a fault or a refusal. -/
def Safe (s : State) : Prop := ∀ t, Reaches s t → ∃ u, Steps t u

/-! ## A part that issues -/

/-- The part of an instruction issues now: its guard is true (R116), no interlock holds it (R120, R121, R124), and no
register that it reads holds an uncorrectable word (R384). -/
def State.readyFor (s : State) (i : Instr) : Bool :=
  match i.uses with
  | none => false
  | some u =>
    !s.syncHeld && !s.core.awaited u.slot (.p u.g.p) && s.core.guardTrue u.slot u.g &&
      !(u.reads.any (s.core.awaited u.slot) || u.writes.any (s.core.owing u.slot)) &&
      (RegRef.p u.g.p :: u.reads).all fun r => !s.core.regBad.contains r

/-- The machine once the part of an instruction, having left it as t, has issued: the slot is marked, and the last part
of a bundle retires it (R118, R119). -/
def State.issued (t : State) (i : Instr) : State :=
  match i.uses with
  | none => t
  | some u => (t.mend u.writes).finish u.slot

/-- The machine once a part that leaves the current core as c has issued. -/
def State.ran (s : State) (i : Instr) (c : Core) : State := ({ s with core := c } : State).issued i

/-- The part of an instruction, when it is ready, completes and leaves the current core as c. -/
def Completes (i : Instr) (s : State) (c : Core) : Prop := s.readyFor i = true → exec i s = .next (s.ran i c)

/-- The part of an instruction, when it is ready, completes and has left the machine as t. -/
def Becomes (i : Instr) (s t : State) : Prop := s.readyFor i = true → exec i s = .next (t.issued i)

/-! ## The canonical form of every byte store -/

/-- The scratchpad and the weight buffer of a core are in canonical form. -/
def Core.memWf (c : Core) : Bool := c.spad.wf && c.wbuf.wf

/-- Every byte store of the machine is in canonical form. -/
def State.memWf (s : State) : Bool := s.hbm.bytes.wf && s.core.memWf && s.others.all fun e => e.2.memWf

end Sys2Proof.Machine
end

