-- ==== Sys2Proof/Certificates/Slice0/Obligations.lean ====
section
/-! DEFINITION. The statements about the model: what reset leaves, what a step runs, what each instruction and each step of
the device does, what they leave alone, and the form that every step keeps. A statement about an open value holds for
every value of it. -/

open Sys2Proof Sys2Proof.Machine

/-- What the spec says of the state after reset. (Rests on R7, R10, R98, R122, R342, R402, R433, R435, Tables 7·4, 28·1
and 33·3.) -/
def Obligations.ResetState : Prop :=
  let s := State.reset
  let c := s.core
  let q := s.clusterAt 0
  c.srnd = 1 ∧ c.scb = false ∧ c.chainEn = false ∧ c.tok = 0 ∧ c.lcs = 0 ∧ c.cycle = 0 ∧ c.busy = false ∧
  c.live.fmt = 0x18C0_1000_0000_0000 ∧ (∀ w, clusterOf w = 0 → (s.coreAt w).srnd = 1) ∧
  q.stage = 0 ∧ q.cap = 150 ∧ q.lines = 0x2000 ∧ q.peak = 0 ∧ q.noticeLost = 0 ∧ q.circOvf = 0 ∧
  s.wafer.interval = 10000 ∧ s.wafer.agew = 16 ∧ s.wafer.chq = 4 ∧ s.wafer.sienEn = true ∧ s.wafer.mirWait = 0x100000 ∧
  (s.partAt 0).netRetain = 0x10000 ∧ (s.partAt 0).netTimeout = 0x4000 ∧ (s.partAt 0).netLimit = 8 ∧
  (s.partAt 0).faultQ = 0

/-- The byte stores of the machine after reset have the canonical form (their form is the model's choice, log entry 4). -/
def Obligations.MemWfReset : Prop := State.reset.memWf = true

/-- Every step keeps the byte stores of the machine (DRAM, every scratchpad, every weight buffer) in their canonical form:
addresses strictly rising, and no cell that holds what an unlisted byte reads as (the form is the model's choice, log
entry 4). -/
def Obligations.MemWfStep : Prop := ∀ s t : State, s.memWf = true → step s = .next t → t.memWf = true

/-- When a part of a bundle in flight may issue on the core whose turn it is, the step is that part's instruction on that
state, its turn taken and its bundle in focus. When none may, a precise fault noted at the oldest bundle is taken once
all that issued before it has completed; else the next bundle is dispatched; else a cycle passes. An idle core looks
for a task; a turn of the device is that step's instruction, which is none of a slot; a turn of another core is taken
with that core in focus. (Rests on R118, R21, R124, R129, R376.) -/
def Obligations.StepRunsDecodedPart : Prop :=
  ∀ (s : State) (rest : List Turn),
    let t := ({ s with agenda := rest } : State)
    let fault := t.front.core.lat.fault.isSome && t.front.settled && t.msgOpen t.core.task.part
    (∀ n k i, s.agenda = .run s.cur :: rest → s.core.busy = true → s.core.nextPart = some (n, k) →
      bundlePart (s.core.focusOn n).lat.bits k = .ok i → step s = exec i { t with core := s.core.focusOn n }) ∧
    (s.agenda = .run s.cur :: rest → s.core.busy = true → s.core.nextPart = none →
      (fault = true → step s = .next t.front.takeNoted) ∧
      (fault = false → s.core.dispatchOpen = true → step s = exec .bundleDispatch t) ∧
      (fault = false → s.core.dispatchOpen = false → step s = .next (passCore t s.cur 1))) ∧
    (s.agenda = .run s.cur :: rest → s.core.busy = false → s.core.lat.on = false → step s = exec (.taskDispatch s.cur) t) ∧
    (∀ w, s.agenda = .run w :: rest → step s = runCore (t.focus w)) ∧
    (∀ i, s.agenda = .event i :: rest → i.uses = none → step s = exec i t)

/-- An instruction whose bits stand in a bundle of its own is what the very next step runs. (Rests on R118 (and log entry
10).) -/
def Obligations.PlacedWordRuns : Prop :=
  ∀ (s : State) (nbits w : Nat) (i : Instr), decodeTableWord nbits w = some i →
    step (s.withFetchWord nbits w) = exec i { s.withFetchWord nbits w with agenda := s.agenda } ∧
    (s.withFetchWord nbits w).core.live = s.core.live ∧ (s.withFetchWord nbits w).hbm = s.hbm

/-- Slot words that the spec prints, one or more for each slot (Tables 10·1, 13·9, 15·6 and 30·3, and the worked encodings
of chapters 17, 19, 20, 22, 24 and 26), decode to the instructions that they stand for. (Rests on Tables 9·3, 9·4,
9·7.) -/
def Obligations.DecodeWords : Prop :=
  decodeSlot .s0 none 0x0000620A0000 = .ok (.add { k := .a, g := ⟨false, 0⟩, d := 3, a := 4, b := .reg 5 }) ∧
  decodeSlot .s1 none 0x004510C40000 = .ok (.add { k := .b, g := ⟨false, 8⟩, d := 40, a := 33, b := .reg 34 }) ∧
  decodeSlot .s0 none 0x210062080064 = .ok (.cmpiCc { k := .a, g := ⟨false, 0⟩, pd := 3, a := 4, imm := .imm 100, cc := .lt }) ∧
  decodeSlot .s1 none 0x804D10804040 = .ok (.ld
    { k := .b, g := ⟨false, 9⟩, d := 40, a := 33, b := 0, sp := .loc, sz := .i32, off := .imm 64 }) ∧
  decodeSlot .s0 none 0x1D8980010000 = .ok (.movStream { k := .a, g := ⟨true, 1⟩, d := 12, w := 0 }) ∧
  decodeSlot .c none 0x1400A0200007 = .ok (.pub { g := ⟨false, 0⟩, a := 5, n := 2, scope := .level }) ∧
  decodeSlot .c none 0x1600A0220607 = .ok (.steer { g := ⟨false, 0⟩, a := 5, n := 2, n2 := 1, p := 3, scope := .level }) ∧
  decodeSlot .c none 0x100000100000 = .ok (.subscribe { g := ⟨false, 0⟩, n := 1, k := 0 }) ∧
  decodeSlot .c none 0x090000000200 = .ok (.waitS { g := ⟨false, 0⟩, k := 0 }) ∧
  decodeSlot .v none 0x1001043298400078 = .ok (.vcasX
    { g := ⟨false, 0⟩, t := .f16, d := 4, c := 5, a := 2, b := 3, km := 1, mz := true, j := 0, f := 15, asc := false }) ∧
  decodeSlot .m none 0x0007E80828C0E000 = .ok (.mma
    { g := ⟨false, 0⟩, beat := 63, z := 2, a := 4, b := 5, c := 6, k2 := true, wb := true, clr := true }) ∧
  decodeSlot .m none 0x0103E00210638000 = .ok (.mmaG
    { g := ⟨false, 0⟩, beat := 31, z := 0, a := 1, b := 2, c := 3, k2 := false, clr := true, groups := 3 }) ∧
  decodeSlot .e none 0x41000A00A8000080 = .ok (.lcTbl { g := ⟨false, 0⟩, d := 20, a := 0, b := 21, map := 0x80 })

/-- R113–R117, R149, R204, R236 and the field tables of chapters 13 to 25: the word of every instruction that no check of
its own refuses, laid in a bundle, decodes to that instruction with every operand as it was. -/
def Obligations.EncodeDecode : Prop :=
  ∀ (i : Instr) (e : Enc), i.check = none → i.encode = some e →
    decodeSlot e.slot e.lit e.word = .ok i ∧ bundlePart (bundleOf e) e.slot = .ok i ∧
    i.uses.map (·.slot) = some e.slot

/-- An instruction of a slot waits while its guard's predicate is awaited; with its guard false it issues and has no
effect but to have issued; with its guard true it waits while a register that it reads or writes is awaited; and while
a part of a SYNC bundle is held, every part of the bundle waits. (Rests on R116, R120–R122, R124.) -/
def Obligations.GuardsAndInterlocks : Prop :=
  ∀ (i : Instr) (u : Uses) (s : State), i.uses = some u →
    (s.syncHeld = true → exec i s = .next s.syncWait) ∧
    (s.syncHeld = false → s.core.awaited u.slot (.p u.g.p) = true → exec i s = .next (s.interlock u.slot)) ∧
    (s.syncHeld = false → s.core.awaited u.slot (.p u.g.p) = false → s.core.guardTrue u.slot u.g = false →
      exec i s = .next (s.finish u.slot)) ∧
    (s.syncHeld = false → s.core.awaited u.slot (.p u.g.p) = false → s.core.guardTrue u.slot u.g = true →
      u.reads.any (s.core.awaited u.slot) || u.writes.any (s.core.owing u.slot) = true → exec i s = .next (s.interlock u.slot)) ∧
    (s.core.guardTrue u.slot u.g = (s.core.readP u.slot u.g.p != u.g.neg))

/-- The frame of the instructions that only compute on registers (R118, R137, R96, R145): such an instruction, when it is
ready, answers a next state that differs from the old one in nothing but the registers its part writes, the sticky
flags that it raises (only some of these instructions raise any, and none clears one), CORE.SRND for the stochastic
conversions, the pc for a transfer, and the progress of the bundles in flight. The same bounds hold for what issuing
itself adds to the effect of any part. -/
def Obligations.RegisterFrame : Prop :=
  let rest := fun (c d : Core) => ({ d with
    live := c.live, old := c.old, lands := c.lands, fmtQ := c.fmtQ, flagQ := c.flagQ, older := c.older, lat := c.lat
    younger := c.younger, pace := c.pace, hist := c.hist, nominal := c.nominal, srnd := c.srnd, scb := c.scb
    chainEn := c.chainEn, tok := c.tok, regBad := c.regBad, task := { d.task with pc := c.task.pc } } : Core) = c
  (∀ (i : Instr) (u : Uses) (s : State), i.registerOnly = true → i.uses = some u → s.readyFor i = true →
    ∃ t : State, exec i s = .next t ∧ ({ t with core := s.core } : State) = s ∧ rest s.core t.core ∧
      (∀ l, (∀ r ∈ u.writes, s.core.locOf r ≠ some l) → t.core.live.get l = s.core.live.get l) ∧
      t.core.live.frame = s.core.live.frame ∧
      ((∀ b ∈ s.core.older ++ s.core.lat :: s.core.younger, b.sysw = []) →
        t.core.scb = s.core.scb ∧ t.core.chainEn = s.core.chainEn ∧ t.core.tok = s.core.tok ∧
        (i.draws = false → t.core.srnd = s.core.srnd)) ∧
      (s.core.fmtQ = [] → field t.core.live.fmt 6 58 = field s.core.live.fmt 6 58 ∧ t.core.fmtQ = []) ∧
      field t.core.live.fmt 0 6 = field s.core.live.fmt 0 6 ∧
      (∃ x, t.core.flagQ = s.core.flagQ ++ x ∧ (i.raises = false → x = []) ∧ ∀ y ∈ x, s.core.elapsed ≤ y.1)) ∧
  (∀ (i : Instr) (t : State),
    ({ t.issued i with core := t.core } : State) = t ∧ rest t.core (t.issued i).core ∧
    (∀ l, (t.issued i).core.live.get l = t.core.live.get l) ∧ (t.issued i).core.live.frame = t.core.live.frame)

/-- The frame of the stores (R204, R211, R223, R226): a store that has passed its checks enters the store queue, and
changes no register and no byte yet; performed there, at the place that its address named, it changes the bytes from
that place on, as many as its size, and no other byte of any scratchpad; one to virtual memory joins the store buffer
of its cluster. (A store to a page of full-empty words stands in FullEmptyAndAtomics.) -/
def Obligations.StoreFrame : Prop :=
  (∀ (f : MSt) (s t : State) (p : Spot),
    let n := stBytes f.sz
    let bs := toBytes n (s.core.readS f.k.slot f.d).toNat
    let u := t.enqueue { kind := .store bs false, slot := f.k.slot, parts := [(p, n)] }
    s.place f.sp (s.core.ea f.k.slot f.a f.b f.off) n n .store .any = (t, .ok p) →
      Becomes (.st f) s u ∧ u.core.live = s.core.live ∧ u.core.z = s.core.z ∧ u.core.spad = s.core.spad ∧
      u.core.wbuf = s.core.wbuf ∧ u.core.w = s.core.w ∧ u.hbm = t.hbm ∧ u.others = t.others ∧ u.clusters = t.clusters ∧
      u.core.eng.acc = t.core.eng.acc ++ [{ no := t.stamp, kind := .store bs false, slot := f.k.slot, parts := [(p, n)] }]) ∧
  (∀ (s : State) (w i : Nat) (a : Access) (bs : List Byte) (p : Spot), s.memWf = true →
    (s.openAccesses w)[s.choice (s.openAccesses w).length]? = some (a, i) → (s.coreAt w).held .queues = false →
    a.kind = .store bs false → a.parts = [(p, bs.length)] → a.travels = false → (a.asksHome p = true → s.portOf p.space = none) →
    ∃ u : State, exec (.rimAccessRequest w) s = .next u ∧
      (∀ o, p = .loc o → u.hbm = s.hbm ∧ u.clusters = s.clusters ∧ ∀ x a, (u.coreAt x).spad.byte a =
        if x = w ∧ o ≤ a ∧ a < o + bs.length then bs.getD (a - o) 0 else (s.coreAt x).spad.byte a) ∧
      (∀ v o, p = .win v o → u.hbm = s.hbm ∧ u.clusters = s.clusters ∧ ∀ x a, (u.coreAt x).spad.byte a =
        if x = v ∧ o ≤ a ∧ a < o + bs.length then bs.getD (a - o) 0 else (s.coreAt x).spad.byte a) ∧
      (∀ va pa g key lat, p = .vm va pa g key false lat → u.hbm = s.hbm ∧ (∀ x, (u.coreAt x).spad = (s.coreAt x).spad) ∧
        ∃ e : StBuf, (u.clusterAt (clusterOf w)).stbuf = (s.clusterAt (clusterOf w)).stbuf ++ [e] ∧
          e.pa = pa ∧ e.data = bs.map some ∧ e.gran = g ∧ e.key = key))

/-- A precise fault is noted at its bundle, of which no other part issues, nor one of a later bundle; when it is taken,
the record is written back FAULTED with PC at the bundle, SCM marking the parts that issued, FCNT one higher, and
CAUSE and WAITARG (past the limit of its level, CAUSE FAULT-LIMIT with the cause in WAITARG), and the core is free.
(Rests on R376, R377, R382, Table 27·1.) -/
def Obligations.PreciseFault : Prop :=
  (∀ (s : State) (k : Slot) (cause : Nat) (arg : Word),
    ({ s.faultPart k cause arg with core := s.core } : State) = s ∧ (s.faultPart k cause arg).core.live = s.core.live ∧
    (s.core.lat.fault = none → (s.faultPart k cause arg).core.lat.fault = some (k, cause, arg)) ∧
    (s.core.lat.fault = some (k, cause, arg) → s.takeNoted =
      s.takeFault s.core.lat.pc ((s.core.lat.done.map fun k => 2 ^ (5 - k.num)).sum)
        (if s.core.lat.done = [] then List.replicate 512 0 else s.core.replayBlock) cause arg)) ∧
  (∀ (c : Core) (n : Nat) (b : Latch) (k : Slot),
    (b.fault.isSome = true → bundleSync b.bits = false → c.mayIssue n b k = false) ∧
    (∀ a ∈ c.flight.take n, a.fault.isSome = true → c.mayIssue n b k = false)) ∧
  (∀ (s : State) (pc : Half) (scm : Nat) (replay : List Byte) (cause : Nat) (arg : Word),
    let r := s.core.task
    let flim := ((s.levelOf r).map (·.flim)).getD 0
    let past := flim ≠ 0 ∧ flim < min 255 (r.fcnt + 1)
    let t := s.takeFault pc scm replay cause arg
    (s.partAt r.part).faultQ = 0 →
      t.core.busy = false ∧ t.core.lat.on = false ∧ t.recAt r.addr = some { r with
        st := 6, ctxv := true, pc := pc, scm := scm, fcnt := min 255 (r.fcnt + 1)
        cause := if past then 0x31 else cause
        waitArg := if past then BitVec.ofNat 64 cause else arg
        held := s.core.w.toList.map Stream.offCore
        jump := if scm = 0 then none else s.core.lat.target })

/-- s0 and s32 read as zero, p0 and p8 as true and m0 as all ones, whatever the files hold; a write to one of them is
discarded; and the name of a frame slot that is not held reads as zero and takes no write. A vector write under a
mask: an active lane takes its result, and an inactive one keeps its value, or with MZ is zero. (Rests on R136, R138,
R139, R143, R237, R139.) -/
def Obligations.RegisterWrites : Prop :=
  (∀ (c : Core) (k : Slot) (lat : Nat) (v : Word) (b : Bool) (m : Quad),
     c.readS k 0 = 0 ∧ c.readS k 32 = 0 ∧ c.readP k 0 = true ∧ c.readP k 8 = true ∧ c.readM k 0 = BitVec.allOnes 128 ∧
     c.writeS k lat 0 v = c ∧ c.writeS k lat 32 v = c ∧ c.writeP k lat 0 b = c ∧ c.writeP k lat 8 b = c ∧ c.writeM k lat 0 m = c ∧
     (∀ i, sLoc c.view i = none → c.readS k i = 0 ∧ c.writeS k lat i v = c) ∧
     (∀ i, i ≠ 0 → i ≠ 32 → i.val % 32 < 16 ∨ c.view.n = 0 → sLoc c.view i = some (.s i))) ∧
  (∀ (c : Core) (t : Fmt) (lat : Nat) (d : VReg) (m : MReg) (mz : Bool) (f : Nat → Nat × Flags),
     c.overtaken .v (.v d) = false → ∀ n, n < t.lanes →
       let r := (c.putV t lat d m mz f).live.v.get d
       elem r t.width n =
         if bitOf (c.readM .v m) (if t.width = 4 then n / 2 else n) then (f n).1 % 2 ^ t.width
         else if mz then 0 else elem (BitVec.ofNat 1024 (c.before (.v d))) t.width n)

/-- The home address of a tile from the fields of its tensor's descriptor (Table 5·3) and of its name (Table 5·1); one
tile for each coordinate triple, whatever its colour and generation. (R60.) -/
def Obligations.HomeAddress : Prop :=
  ∀ (d : BitVec 256) (n m : Quad),
    homeVa d n = field d 96 57 + ((field n 12 16 * field d 184 16 + field n 28 16) * field d 200 16 + field n 44 16)
      * 2 ^ (field d 249 4 + 6) ∧
    (field m 12 16 = field n 12 16 → field m 28 16 = field n 28 16 → field m 44 16 = field n 44 16 → homeVa d m = homeVa d n)

/-- VSEL takes each lane of vA or of vB by the bit of mK, which is its selector and no governing mask; for 4-bit elements
bit n selects the pair 2n, 2n + 1; with m0 it copies vA. (R246.) -/
def Obligations.VselLanes : Prop :=
  ∀ (f : VSel) (s : State), ∃ c : Core, Completes (.vsel f) s c ∧
    (s.core.overtaken .v (.v f.d) = false → ∀ n, n < f.t.lanes →
      elem (c.live.v.get f.d) f.t.width n =
        (if bitOf (s.core.readM .v f.km) (if f.t.width = 4 then n / 2 else n) then elem (s.core.readV .v f.a) f.t.width n
          else elem (s.core.readV .v f.b) f.t.width n) ∧
      (f.km = 0 → elem (c.live.v.get f.d) f.t.width n = elem (s.core.readV .v f.a) f.t.width n))

/-- LC.CTX.COMMIT writes the first status that applies: 2 when a record has been rejected since the OPEN, 1 when the
digest differs from the expected one, 3 when the wiring rule fails, else 0, and then its slot becomes READY. (R371.) -/
def Obligations.CommitStatus : Prop :=
  ∀ (g : EDAB) (s : State) (x : FabSlot),
    let r := s.core.readS .e
    let n := (r g.a).toNat
    let cl := s.clusterAt s.myCluster
    let expect := s.core.spad.run (r g.b).toNat 64
    let status := if x.rej.isSome = true then 2 else if sha512 x.msg ≠ expect then 1 else if wiringOk cl x.cells = false then 3 else 0
    s.core.eng.lcs = [] → s.slotArg (r g.a) [.open_] = some x → scratchCheck (r g.b) 64 = none → s.slotBusy n false = false →
      s.core.behind s.stamp [(.loc (r g.b).toNat, 64)] false = false → badIn s.core.spadBad (r g.b).toNat 64 = none →
      Becomes (.lcCtxCommit g) s ((if status = 0 then s.setSlot s.myCluster n { x with st := .ready } else s).onCore
        fun c => c.writeS .e 1 g.d (BitVec.ofNat 64 status))

/-- Where dispatch is open, it splits the fetched and checked bundle into its valid parts in issue order and goes on at
the bundle behind it; a fault of the fetch or of a check, once earlier bundles have completed, writes the record back
FAULTED with its cause and WAITARG at the bundle's PC, and posts the message of TYPE 1. A part that has issued leaves
its queue; the oldest bundle leaves with its last part, and the next one comes into focus; dispatch has counted 1 +
STALL for it already. (Rests on R108, R118, R129, R376, R118, R119, R123.) -/
def Obligations.BundleDispatchAndRetire : Prop :=
  (∀ (s t : State) (l : Launch) (b : BundleWord) (adv : Nat) (e : Nat × Word),
     let open_ := s.core.busy = true ∧ s.core.dispatchOpen = true ∧ s.quantumOut = false ∧ s.core.pre = .none ∧
       s.codeFrozen (clusterOf s.cur) = false ∧ s.clockStopped (clusterOf s.cur) = false ∧ s.myLaunch = some l
     let faults := exec .bundleDispatch s = .next (t.takeFault t.core.task.pc 0 noReplay e.1 e.2)
     (open_ → s.fetchBundle l = (t, .ok (b, adv)) → s.core.task.scm = 0 → t.core.scbWaits b (bundleSlots b) = false →
       t.core.dispatchCheck b (bundleSlots b) = none →
       exec .bundleDispatch s = .next (t.onCore fun c => c.latch b adv [] [])) ∧
     (open_ → s.fetchBundle l = (t, .error e) → e.1 ≠ heldBack → t.core.flight = [] → t.settled = true → faults) ∧
     (open_ → s.fetchBundle l = (t, .ok (b, adv)) → s.core.task.scm = 0 → t.core.scbWaits b (bundleSlots b) = false →
       t.core.dispatchCheck b (bundleSlots b) = some e → e.1 ≠ heldBack → t.core.flight = [] → t.settled = true → faults) ∧
     (∀ c : Core, c.lat.on = false → bundleSlots b ≠ [] → let d := c.latch b adv [] []
       d.lat.on = true ∧ d.lat.todo = bundleSlots b ∧ d.lat.done = [] ∧ d.lat.pc = c.task.pc ∧ d.lat.bits = b ∧
         d.lat.next = c.task.pc + BitVec.ofNat 32 adv ∧ d.task.pc = d.lat.next ∧ d.lat.at_ = c.nominal ∧
         d.older = [] ∧ d.younger = [] ∧ d.live = c.live) ∧
     (∀ c : Core, c.lat.on = true → let d := c.latch b adv [] []
       d.lat = c.lat ∧ d.older = c.older ∧ d.younger.length = c.younger.length + 1 ∧ d.live = c.live)) ∧
  (∀ (c : Core) (k : Slot) (b : Latch) (rest : List Latch),
     let t := c.finish k
     let pace := (List.range 6).map fun i => if i = k.num ∨ bundleSync c.lat.bits = true then (c.elapsed, c.lat.at_) else c.pace.getD i (0, 0)
     t.pace = pace ∧ t.task = c.task ∧ t.nominal = c.nominal ∧ t.elapsed = c.elapsed ∧ t.busy = c.busy ∧
     (c.lat.todo.erase k ≠ [] ∨ c.older ≠ [] →
       t = { c with pace := pace, lat := { c.lat with todo := c.lat.todo.erase k, done := c.lat.done ++ [k], joined := true } }) ∧
     (c.lat.on = true → c.lat.todo = [k] → c.older = [] →
       (c.younger = [] → t.lat.on = false ∧ t.older = [] ∧ t.younger = [] ∧ t.hist = (c.lat.at_ :: c.hist).take 16) ∧
       (c.younger = b :: rest → b.todo ≠ [] →
         t.lat = b ∧ t.older = [] ∧ t.younger = rest ∧ t.hist = (c.lat.at_ :: c.hist).take 16)) ∧
     (∀ d adv marked block, let l := c.newLatch d adv marked block
       l.step = 1 + bundleStall d ∧ l.at_ = c.nominal ∧ l.pc = c.task.pc ∧ l.next = c.task.pc + BitVec.ofNat 32 adv))

/-- The integer arithmetic of the scalar slots. Results wrap modulo 2^64; division truncates towards zero, a remainder
takes the sign of the dividend, and a divisor of zero gives all ones and the dividend. (Rests on R192, R193, Table
13·5.) -/
def Obligations.IntegerArithmetic : Prop :=
  ∀ (f : SR) (g : SI) (h : SLea) (s : State),
    let a := s.core.readS f.k.slot f.a
    let b := s.core.srcS f.k.slot f.b
    let z := s.core.srcZ f.k.slot f.b
    let put := fun lat v => s.core.writeS f.k.slot lat f.d v
    Completes (.add f) s (put 1 (BitVec.ofNat 64 (a.toNat + b.toNat))) ∧
    Completes (.addi g) s (s.core.writeS g.k.slot 1 g.d (s.core.readS g.k.slot g.a + imm17Sext g.imm)) ∧
    Completes (.sub f) s (put 1 (BitVec.ofInt 64 ((a.toNat : Int) - b.toNat))) ∧
    Completes (.mul f) s (put 3 (BitVec.ofNat 64 (a.toNat * b.toNat))) ∧
    Completes (.mulh f) s (put 3 (BitVec.ofInt 64 (a.toInt * b.toInt / 2 ^ 64))) ∧
    Completes (.mulhN f) s (put 3 (BitVec.ofNat 64 (a.toNat * z.toNat / 2 ^ 64))) ∧
    Completes (.div f) s (put 0 (if b = 0 then BitVec.allOnes 64 else BitVec.ofInt 64 (a.toInt.tdiv b.toInt))) ∧
    Completes (.divN f) s (put 0 (if z = 0 then BitVec.allOnes 64 else BitVec.ofNat 64 (a.toNat / z.toNat))) ∧
    Completes (.rem f) s (put 0 (if b = 0 then a else BitVec.ofInt 64 (a.toInt.tmod b.toInt))) ∧
    Completes (.remN f) s (put 0 (if z = 0 then a else BitVec.ofNat 64 (a.toNat % z.toNat))) ∧
    Completes (.min f) s (put 1 (if a.toInt ≤ b.toInt then a else b)) ∧
    Completes (.minN f) s (put 1 (if a.toNat ≤ z.toNat then a else z)) ∧
    Completes (.max f) s (put 1 (if b.toInt ≤ a.toInt then a else b)) ∧
    Completes (.maxN f) s (put 1 (if z.toNat ≤ a.toNat then a else z)) ∧
    Completes (.lea h) s (s.core.writeS h.k.slot 1 h.d (s.core.readS h.k.slot h.a +
      BitVec.ofNat 64 ((s.core.srcS h.k.slot h.b).toNat * 2 ^ h.sh.toNat)))

/-- The logical, shift and counting instructions of the scalar slots; an amount of 64 or more shifts everything out, and
ROT takes it modulo 64. Bit fields, moves and SEL. (Rests on R192, R194, R195, R195, R196.) -/
def Obligations.IntegerLogicAndFields : Prop :=
  (∀ (f : SR) (g : SShift) (h : SU) (s : State),
     let a := s.core.readS f.k.slot f.a
     let z := s.core.srcZ f.k.slot f.b
     let put := fun v => s.core.writeS f.k.slot 1 f.d v
     let x := s.core.readS g.k.slot g.a
     let n := s.core.shAmt g.k.slot g.n
     let shift := fun v => s.core.writeS g.k.slot 1 g.d v
     let y := s.core.readS h.k.slot h.a
     let count := fun v => s.core.writeS h.k.slot 1 h.d v
     Completes (.and f) s (put (a &&& z)) ∧
     Completes (.or f) s (put (a ||| z)) ∧
     Completes (.xor f) s (put (a ^^^ z)) ∧
     Completes (.andn f) s (put (a &&& ~~~z)) ∧
     Completes (.shl g) s (shift (if n < 64 then BitVec.ofNat 64 (x.toNat * 2 ^ n) else 0)) ∧
     Completes (.shr g) s (shift (BitVec.ofInt 64 (x.toInt / 2 ^ n))) ∧
     Completes (.shrN g) s (shift (BitVec.ofNat 64 (x.toNat / 2 ^ n))) ∧
     Completes (.rot g) s (shift (x <<< (n % 64) ||| x >>> (64 - n % 64))) ∧
     Completes (.clz h) s (count (BitVec.ofNat 64 (leadingZeros 64 y.toNat))) ∧
     Completes (.ctz h) s (count (BitVec.ofNat 64 (lowestSet 64 y.toNat))) ∧
     Completes (.popc h) s (count (BitVec.ofNat 64 (popCount 64 y.toNat))) ∧
     Completes (.mov h) s (count y)) ∧
  (∀ (f : SBfx) (g : SBfi) (h : SExt) (m : SMovi) (l : SMoviH) (q : SSel) (s : State),
     let low := fun (x : Word) (p w : Nat) => x.toNat / 2 ^ p % 2 ^ w
     let sext := fun (x : Word) (w : Nat) => BitVec.ofInt 64 (if 2 ^ (w - 1) ≤ low x 0 w then (low x 0 w : Int) - 2 ^ w else low x 0 w)
     let a := s.core.readS f.k.slot f.a
     let d := s.core.readS g.k.slot g.d
     let x := s.core.readS h.k.slot h.a
     Completes (.bfx f) s (s.core.writeS f.k.slot 1 f.d
       (if f.sgn then sext (a >>> f.pos.toNat) (f.w.toNat + 1) else BitVec.ofNat 64 (low a f.pos.toNat (f.w.toNat + 1)))) ∧
     (g.pos.toNat + g.w.toNat + 1 ≤ 64 →
       Completes (.bfi g) s (s.core.writeS g.k.slot 1 g.d (BitVec.ofNat 64
         (low d 0 g.pos.toNat + low (s.core.readS g.k.slot g.a) 0 (g.w.toNat + 1) * 2 ^ g.pos.toNat +
           d.toNat / 2 ^ (g.pos.toNat + g.w.toNat + 1) * 2 ^ (g.pos.toNat + g.w.toNat + 1))))) ∧
     Completes (.sext h) s (s.core.writeS h.k.slot 1 h.d (sext x (h.b.toNat + 1))) ∧
     Completes (.zext h) s (s.core.writeS h.k.slot 1 h.d (BitVec.ofNat 64 (low x 0 (h.b.toNat + 1)))) ∧
     Completes (.movi m) s (s.core.writeS m.k.slot 1 m.d (imm17Sext m.imm)) ∧
     Completes (.moviZ m) s (s.core.writeS m.k.slot 1 m.d (imm17Zext m.imm)) ∧
     Completes (.moviH l) s (s.core.writeS l.k.slot 1 l.d
       (BitVec.ofNat 64 (l.lit.toNat * 2 ^ 32 + (s.core.readS l.k.slot l.d).toNat % 2 ^ 32))) ∧
     Completes (.sel q) s (s.core.writeS q.k.slot 1 q.d
       (if s.core.readP q.k.slot q.p then s.core.readS q.k.slot q.a else s.core.srcS q.k.slot q.b)))

/-- A compare writes its predicate with its condition; CMPI takes the sign-extended immediate under every code, and a NaN
operand makes only NE and UN true. (Rests on R197, R200, Table 13·6.) -/
def Obligations.Compares : Prop :=
  ∀ (f : SCmp) (g : SCmpi) (h : SFcmp) (s : State),
    let cond := fun (cc : ICond) (a b : Word) => match cc with
      | .eq => decide (a = b)
      | .ne => decide (a ≠ b)
      | .lt => decide (a.toInt < b.toInt)
      | .le => decide (a.toInt ≤ b.toInt)
      | .gt => decide (b.toInt < a.toInt)
      | .ge => decide (b.toInt ≤ a.toInt)
      | .ltn => decide (a.toNat < b.toNat)
      | .len => decide (a.toNat ≤ b.toNat)
      | .gtn => decide (b.toNat < a.toNat)
      | .gen => decide (b.toNat ≤ a.toNat)
      | .tst => decide (a &&& b ≠ 0)
      | .ntst => decide (a &&& b = 0)
    let x := f32v ((s.core.readS h.k.slot h.a).toNat % 2 ^ 32)
    let y := f32v (s.core.srcF h.k.slot h.b)
    Completes (.cmpCc f) s (s.core.writeP f.k.slot 1 f.pd (cond f.cc (s.core.readS f.k.slot f.a)
      (if f.cc ∈ [.ltn, .len, .gtn, .gen, .tst, .ntst] then s.core.srcZ f.k.slot f.b else s.core.srcS f.k.slot f.b))) ∧
    Completes (.cmpiCc g) s (s.core.writeP g.k.slot 1 g.pd (cond g.cc (s.core.readS g.k.slot g.a) (imm17Sext g.imm))) ∧
    Completes (.fcmpCc h) s (s.core.writeP h.k.slot 2 h.pd (fcond h.cc x y)) ∧
    (x = .nan ∨ y = .nan → (fcond h.cc x y = true ↔ h.cc = .ne ∨ h.cc = .un))

/-- The FP32 instructions read bits [31:0], round by fmt.RND (stochastic as RNE but for FCVT to the targets of R97), write
the pattern zero-extended and raise their flags at completion; a NaN operand gives the canonical NaN. (Rests on
R198–R202, R96.) -/
def Obligations.Fp32Arithmetic : Prop :=
  ∀ (f : SR) (g : SFcvt) (s : State),
    let k := f.k.slot
    let r := fmtRndDet s.core.fmt
    let a := (s.core.readS k f.a).toNat % 2 ^ 32
    let b := s.core.srcF k f.b
    let d := (s.core.readS k f.d).toNat % 2 ^ 32
    let put := fun (lat : Nat) (x : Nat × Flags) => (s.core.writeS k lat f.d (BitVec.ofNat 64 x.1)).raise lat x.2
    Completes (.fadd f) s (put 4 (addF .f32 r (f32v a) (f32v b))) ∧
    Completes (.fsub f) s (put 4 (subF .f32 r (f32v a) (f32v b))) ∧
    Completes (.fmul f) s (put 4 (mulF .f32 r (f32v a) (f32v b))) ∧
    Completes (.ffma f) s (put 4 (fmaF .f32 r (f32v a) (f32v b) (some (f32v d)))) ∧
    Completes (.fmin f) s (put 2 (minF .f32 a b, 0)) ∧
    Completes (.fmax f) s (put 2 (maxF .f32 a b, 0)) ∧
    Completes (.fcvt g) s (s.core.opFcvt g) ∧
    (f32v a = .nan ∨ f32v b = .nan →
      addF .f32 r (f32v a) (f32v b) = (0x7FC00000, 0) ∧ mulF .f32 r (f32v a) (f32v b) = (0x7FC00000, 0) ∧
      subF .f32 r (f32v a) (f32v b) = (0x7FC00000, 0) ∧ minF .f32 a b = 0x7FC00000 ∧ maxF .f32 a b = 0x7FC00000)

/-- A taken transfer has dispatch go on at its target, with its penalty in the nominal distance of the next bundle; CALL
writes the address of the next bundle; LOOP.END counts down and falls through with zero. (Rests on R118, R119, R156,
R157.) -/
def Obligations.ControlTransfers : Prop :=
  ∀ (f : CJ) (j : CJmp) (c : CJr) (r : CA) (l : CAV) (s : State),
    let pc := s.core.lat.pc
    let at_ := fun (x : Core) (t : Half) (penalty : Nat) => { x with
      lat := { x.lat with target := some t, penalty := penalty }, task := { x.task with pc := t }, nominal := x.nominal + penalty }
    let n := s.core.readS .c c.r
    Completes (.br f) s (at_ s.core (pc + f.off.signExtend 32) 2) ∧
    Completes (.jmp j) s (at_ s.core (match j.t with
      | .reg a => (s.core.readS .c a).setWidth 32
      | .lit v => v) 2) ∧
    Completes (.call c) s (at_ (s.core.writeS .c 1 c.r (s.core.lat.next.setWidth 64)) (pc + c.off.signExtend 32) 2) ∧
    Completes (.ret r) s (at_ s.core ((s.core.readS .c r.a).setWidth 32) 2) ∧
    Completes (.loopSet l) s (s.core.writeS .c 1 l.a (s.core.val l.v)) ∧
    Completes (.loopEnd c) s (if 1 < n.toNat then at_ (s.core.writeS .c 1 c.r (n - 1)) (pc + c.off.signExtend 32) 0
      else s.core.writeS .c 1 c.r 0)

/-- FRAME.ALLOC opens a frame of N slots with HELD 1 and TAG 0, or takes the next slot, which reads zero; a size other
than the active N, and FRAME.FREE with HELD = PEND, raise ILLEGAL-OPERATION; a release advances OLD. FRAME.ALLOC waits
while an earlier part has still to use the slot, and the parts of its own bundle and of earlier ones keep their names.
(Rests on R121, R143, R144, R158.) -/
def Obligations.FrameSlots : Prop :=
  ∀ (f : CImm) (g : CNone) (s : State),
    let fr := s.core.live.frame
    let free := fun (slot : Nat) => s.core.slotNamed slot true s.core.older = false
    (fr.n = 0 → free 0 → Becomes (.frameAlloc f) s (s.onCore fun c => c.newSlot { old := 0, n := f.n.toNat, held := 1, pend := 0, tag := 0 })) ∧
    (fr.n ≠ 0 → fr.n = f.n.toNat → fr.held < fr.n → free ((fr.tag + 1) % fr.n) →
      Becomes (.frameAlloc f) s (s.onCore fun c => c.newSlot { fr with tag := (fr.tag + 1) % fr.n, held := fr.held + 1 })) ∧
    (fr.n ≠ 0 → fr.n ≠ f.n.toNat → s.readyFor (.frameAlloc f) = true →
      exec (.frameAlloc f) s = .next (s.faultPart .c illegalOp 0)) ∧
    (fr.n = 0 → ¬free 0 → s.readyFor (.frameAlloc f) = true → exec (.frameAlloc f) s = .next (s.waitPart .c)) ∧
    (fr.held ≠ fr.pend → Becomes (.frameFree g) s (s.onCore fun c => c.setFrame { fr with pend := fr.pend + 1 })) ∧
    (∀ (c : Core) (h : Frame), (c.setFrame h).live.frame = h ∧ (c.setFrame h).view = c.view ∧ (c.setFrame h).live.s = c.live.s ∧
      (c.setFrame h).live.pool = c.live.pool) ∧
    (fr.held = fr.pend → s.readyFor (.frameFree g) = true → exec (.frameFree g) s = .next (s.faultPart .c illegalOp 0)) ∧
    (∀ w, (s.coreAt w).releasable = true → (s.coreAt w).live.frame.held ≠ 1 →
      exec (.frameSlotRelease w) s = .next (s.setCore w { s.coreAt w with live := { (s.coreAt w).live with
        frame := { (s.coreAt w).live.frame with
          held := (s.coreAt w).live.frame.held - 1
          pend := (s.coreAt w).live.frame.pend - 1
          old := ((s.coreAt w).live.frame.old + 1) % (s.coreAt w).live.frame.n } } })) ∧
    (∀ (c : Core) (h : Frame), h.tag < 16 → (c.newSlot h).live.frame = h ∧
      ∀ n : Fin 256, n.val / 16 = h.tag → ((c.newSlot h).live.pool.get n) = 0)

/-- YIELD writes the record back READY at the next bundle; WAIT on an empty queue, and WAIT.S on an arrival that has not
come, write it back WAITING; WAIT.S on one that has come moves the landing; HALT ends the task; TRAP leaves it FAULTED
with cause SOFTWARE-TRAP and its number in WAITARG. (Rests on R159–R162, R26.) -/
def Obligations.SuspensionPoints : Prop :=
  ∀ (f : CNone) (q : CA) (w : CSub) (t : CImm) (s : State),
    let h := s.core.readS .c q.a
    let next := s.core.lat.next
    let stays := fun (d : SubDecl) => s.core.behind s.stamp [(.loc (64 * d.land), 2 ^ (d.lsize + 6))] true
    (s.readyFor (.yield f) = true → s.mayLeave = true →
      exec (.yield f) s = .next (s.suspendReady 1 next 0 noReplay 1 false)) ∧
    (s.handleOk h = true → handlePart h = s.core.task.part → 0 < (s.hqAt (handlePart h) (handleIdx h)).count →
      Becomes (.waitQ q) s s) ∧
    (s.readyFor (.waitQ q) = true → s.handleOk h = true → handlePart h = s.core.task.part →
      (s.hqAt (handlePart h) (handleIdx h)).count = 0 → s.mayLeave = true → s.core.doom = none →
      exec (.waitQ q) s = .next (s.writeBack noReplay fun r =>
        { r with st := 3, cause := 2, pc := next, scm := 0, waitArg := h, waitQ := true }).1) ∧
    (∀ d, s.subDecl w.k.val = some d → d.strm = false → bitOf s.core.task.sat w.k.val = true → stays d = false →
      Becomes (.waitS w) s (s.onCore fun c => c.moveLanding w.k.val (64 * d.land))) ∧
    (∀ d, s.readyFor (.waitS w) = true → s.subDecl w.k.val = some d → d.strm = false →
      bitOf s.core.task.sat w.k.val = false → s.mayLeave = true → s.core.doom = none →
      exec (.waitS w) s = .next (s.writeBack noReplay fun r =>
        { r with st := 3, cause := 2, pc := next, scm := 0, waitArg := BitVec.ofNat 64 w.k.val, waitQ := false }).1) ∧
    (s.readyFor (.halt f) = true → s.core.older = [] → s.alone .c = true → s.core.eng.quiet = true →
      exec (.halt f) s = .next s.haltTask ∧ s.haltTask.core.busy = false) ∧
    (s.readyFor (.trap t) = true → s.mayLeave = true →
      exec (.trap t) s = .next (s.takeFault next 0 noReplay 0x25 (t.n.setWidth 64)))

/-- The predicate instructions, CYCLE.RD, and the fmt instructions: FMT.SET writes the flags at once and the configuration
at a nominal distance of 4, and a reserved code raises ILLEGAL-OPERATION; each waits for the flags of matrix
operations whose last beat has ended. (Rests on R180, R184–R186, R145, R95, R96.) -/
def Obligations.PredicatesAndFmt : Prop :=
  ∀ (f : CP2) (g : CP1) (r : CA) (l : CLit) (m : CMask) (s : State),
    let a := s.core.readP .c f.pa != f.ia
    let b := s.core.readP .c f.pb != f.ib
    let x := s.core.readP .c g.pa != g.ia
    let v := s.core.readS .c r.a
    let w := setField s.core.lastFmt 32 32 l.lit.toNat
    let d := s.core.landFlags s.core.elapsed
    let due := s.core.flagsDue s.core.elapsed
    Completes (.pand f) s (s.core.writeP .c 1 f.pd (a && b)) ∧
    Completes (.por f) s (s.core.writeP .c 1 f.pd (a || b)) ∧
    Completes (.pxor f) s (s.core.writeP .c 1 f.pd (a != b)) ∧
    Completes (.pnot g) s (s.core.writeP .c 1 g.pd (!x)) ∧
    Completes (.pmov g) s (s.core.writeP .c 1 g.pd x) ∧
    Completes (.cycleRd r) s (s.core.writeS .c 1 r.a s.core.cycle) ∧
    (s.core.flagsDue (s.core.elapsed + 1) = false → Completes (.fmtRd r) s (s.core.writeS .c 1 r.a (setField s.core.fmt 0 6 s.core.sticky.toNat))) ∧
    (fmtLegal v = true → due = false → Completes (.fmtSet r) s { s.core with
      live := { s.core.live with fmt := setField s.core.live.fmt 0 6 (v.toNat % 64) }
      fmtQ := s.core.fmtQ ++ [(s.core.lat.at_ + 4, v)]
      flagQ := s.core.flagQ.filter fun q => decide (s.core.elapsed ≤ q.1) }) ∧
    (fmtLegal v = true → due = true → s.readyFor (.fmtSet r) = true → exec (.fmtSet r) s = .next (s.lockPart .c)) ∧
    (fmtLegal v = false → s.readyFor (.fmtSet r) = true → exec (.fmtSet r) s = .next (s.faultPart .c illegalOp 0)) ∧
    (fmtLegal w = true → Completes (.fmtSetH l) s { s.core with fmtQ := s.core.fmtQ ++ [(s.core.lat.at_ + 4, w)] }) ∧
    (fmtLegal s.core.lastFmt = true → due = false → Completes (.fmtSetC m) s { d with
      live := { d.live with fmt := setField d.live.fmt 0 6 (d.live.fmt.setWidth 6 &&& ~~~m.mask).toNat } })

/-- A name register is written whole, by one field, or by adding to one field modulo its width; NAME.LD reads 16 bytes of
the own scratchpad, after the checks of R210. (Rests on R163, Table 13·3.) -/
def Obligations.NameRegisters : Prop :=
  ∀ (f : CName) (w : CNameW) (m : CNameC) (l : CNameL) (s : State),
    let bits : Nat × Nat := match f.f with
      | .tenant => (116, 12)
      | .tensor => (92, 24)
      | .colour => (76, 16)
      | .gen => (60, 16)
      | .i => (44, 16)
      | .j => (28, 16)
      | .k => (12, 16)
      | .kind => (4, 8)
    let n := s.core.readN f.n
    let v := (s.core.val f.v).toNat
    let a := (s.core.readS .c l.a).toNat
    Completes (.nameSetField f) s (s.core.writeN 1 f.n (setField n bits.1 bits.2 v)) ∧
    Completes (.nameAdd f) s (s.core.writeN 1 f.n (setField n bits.1 bits.2 (field n bits.1 bits.2 + v))) ∧
    Completes (.nameSetWhole w) s (s.core.writeN 1 w.n
      (BitVec.ofNat 128 ((s.core.readS .c w.a).toNat * 2 ^ 64 + (s.core.readS .c w.b).toNat))) ∧
    Completes (.nameSetCopy m) s (s.core.writeN 1 m.n (s.core.readN m.m)) ∧
    (a % 16 = 0 → a + 16 ≤ 2 ^ 21 → badIn s.core.spadBad a 16 = none →
      Becomes (.nameLd l) s (s.queueAccess { kind := .name l.n, slot := .c, parts := [(.loc a, 16)] }))

/-- SUB replaces what the subscription was registered for, once the matching store has an entry, and clears its bit of
SAT; a name of another kind raises NAME-FAULT with the register's number; UNSUB removes the registration and sets the
bit. (Rests on R164, R165, R72.) -/
def Obligations.Subscriptions : Prop :=
  ∀ (f : CNSub) (s : State) (d : SubDecl),
    let n := s.core.readN f.n
    let k := f.k.val
    let s1 := s.unregisterAll (s.subRegs k)
    let gone := (s.subRegs k).filter fun g => nameKind n = 0 && nameRes n = 0 && g.matches (s.ownName n)
    let put := fun (x : State) (b : Bool) => x.onCore fun c => { c with task := { c.task.dropStaged k with
      sat := setField c.task.sat k 1 b.toNat } }
    (nameKind n = 0 → nameRes n = 0 → (s.myDesc n).isSome = true → s.subDecl k = some d → d.strm = false →
      d.lsize = s.tsizeOf n → (s1.clusterAt s.core.task.share).used < Config.mstoreEntries →
      Becomes (.subscribe f) s (put (s1.register (s.ownReg n k (subKinds d.note) none)) false)) ∧
    (nameKind n ≠ 0 ∨ nameRes n ≠ 0 → s.readyFor (.subscribe f) = true →
      exec (.subscribe f) s = .next (s.faultPart .c nameFault (BitVec.ofNat 64 f.n.val))) ∧
    (gone ≠ [] ∨ s.core.task.stagedAs k (s.ownName n) = true → Becomes (.unsub f) s (put (s.unregisterAll gone) true)) ∧
    (gone = [] → s.core.task.stagedAs k (s.ownName n) = false → Becomes (.unsub f) s s)

/-- BIND registers a stream of a name whose elements have a width; MOV from a stream register takes its oldest element and
advances its position; WTST tells whether the stream has ended, and ends it at its marker; a stream register in
another state raises STREAM-FAULT. SBIND binds an unbound stream register to a range of elements; the generator asks
for a line when its window has room, and a line that comes gives its elements to the buffer; SCLOSE hands a marker to
the task's publications or unbinds the register. (Rests on R166, R167, R342, R283, R284, R340, R343.) -/
def Obligations.Streams : Prop :=
  (∀ (f : CBind) (g : SStream) (h : CWtst) (s : State) (t : Fmt),
     let n := s.core.readN f.n
     let x := s.core.w.get g.w
     let y := s.core.w.get h.w
     (nameKind n = 0 → nameRes n = 0 → ((s.myDesc n).bind fun d => fmtOf (descFmt d)) = some t → t ≠ .cw8 →
       (s.core.w.get f.w).st = .unbound →
       Becomes (.bind f) s ((s.register (s.ownReg n 0 7 (some f.w.val))).onCore fun c => c.setW f.w
         { st := .bound, src := .name (s.ownName n), width := if t.width ≤ 8 then 1 else t.width / 8 })) ∧
     ((s.core.w.get f.w).st ≠ .unbound → nameKind n = 0 → nameRes n = 0 →
       ((s.myDesc n).bind fun d => fmtOf (descFmt d)) = some t → t ≠ .cw8 → s.readyFor (.bind f) = true →
       exec (.bind f) s = .next (s.faultPart .c streamFault (BitVec.ofNat 64 f.w.val))) ∧
     (∀ e rest, x.st = .bound → x.buf = e :: rest → Completes (.movStream g) s
       ((s.core.setW g.w { x with buf := rest, pos := x.pos + x.width }).writeS g.k.slot 1 g.d (BitVec.ofNat 64 e))) ∧
     (x.st ≠ .bound → s.readyFor (.movStream g) = true →
       exec (.movStream g) s = .next (s.faultPart g.k.slot streamFault (BitVec.ofNat 64 g.w.val))) ∧
     (y.st = .bound → y.buf ≠ [] → Completes (.wtst h) s (s.core.writeP .c 1 h.pd false)) ∧
     (y.st = .bound → y.buf = [] → y.marker = true →
       Becomes (.wtst h) s ((s.unregisterAll (s.streamRegs h.w.val)).onCore fun c =>
         (c.setW h.w { y with st := .ended, marker := false }).writeP .c 1 h.pd true)) ∧
     (y.st ≠ .bound → s.readyFor (.wtst h) = true →
       exec (.wtst h) s = .next (s.faultPart .c streamFault (BitVec.ofNat 64 h.w.val)))) ∧
  (∀ (f : ESbind) (g : EA) (h : EW) (s : State),
     let r := s.core.readS .e
     let z := if f.fmt.width ≤ 8 then 1 else f.fmt.width / 8
     let a := (r f.a).toNat
     let n := (r f.b).toNat
     ((s.core.w.get f.w).st = .unbound → a % z = 0 → n % z = 0 → a + n ≤ 2 ^ 57 →
       Becomes (.sbind f) s { s.onCore (fun c => c.setW f.w {
         st := .bound, src := .vm, width := z, marker := decide (n = 0), pos := a,
         nextVa := a / 64 * 64, stop := a + n, window := f.window.toNat + 1, no := s.stamp }) with stamp := s.stamp + 1 }) ∧
     ((s.core.w.get f.w).st ≠ .unbound → s.readyFor (.sbind f) = true →
       exec (.sbind f) s = .next (s.faultPart .e streamFault (BitVec.ofNat 64 f.w.val))) ∧
     (∀ m, s.storedName (r g.a) = .ok m → nameKind m = 2 → nameRes m = 0 → reservedTensor (nameTensor m) = false →
       (s.myDesc m).isSome = true → s.resendRoom 1 = true →
       Becomes (.scloseMarker g) s (s.pubJob none [] [{ name := s.ownName m }] false)) ∧
     ((s.core.w.get h.w).st = .unbound → Becomes (.scloseUnbind h) s s) ∧
     ((s.core.w.get h.w).st ≠ .unbound →
       Becomes (.scloseUnbind h) s ((s.unregisterAll (s.streamRegs h.w.val)).onCore fun c => c.dropStream h.w)) ∧
     (∀ (w : Nat) (i : WReg), s.streamAsks w ((s.coreAt w).w.get i) = true →
       (((s.coreAt w).w.get i).cleared = true ∨ s.streamClear w ((s.coreAt w).w.get i) = true) →
       exec (.streamLineRequest w i) s = .next (s.modCore w fun c => c.setW i { (s.coreAt w).w.get i with
         asked := ((s.coreAt w).w.get i).asked ++ [(((s.coreAt w).w.get i).nextVa, s.rimNow (s.columnAgent w))]
         nextVa := ((s.coreAt w).w.get i).nextVa + 64, cleared := true })) ∧
     (∀ (w : Nat) (i : WReg) (t : State) (bs : List Byte), (s.coreAt w).streamHeld i.val = false →
       s.streamLine w ((s.coreAt w).w.get i) = (t, .ok bs) →
       exec (.streamLineReturn w i) s = .next (t.modCore w fun c =>
         c.setW i (((s.coreAt w).w.get i).take (((s.coreAt w).w.get i).asked.headD (0, 0)).1 bs))))

/-- What publishes leaves its slot once its checks hold and its packets have room: PUB and STEER with a data tile of the
named range, PUB.C with a contribution, RETN with a tile under the return name of the colour, DRAIN with one marker
for every output name of its level instance; a wrong kind raises NAME-FAULT. The publication at the head of a core's
list waits for the accesses that its scope orders before it; then its range is captured 64 bytes at a time, whole, as
long as no store races it, and its packet is sent on the named class or on a circuit. (Rests on R168–R175, R46, R169,
R171.) -/
def Obligations.Publication : Prop :=
  (∀ (f : CPub) (g : CPubC) (h : CSteer) (r : CRetn) (d : CNone) (s : State),
     let room := s.resendRoom 1 = true
     let job := fun (i : Instr) (sc : Scope) (a : Word) (k : Packet) (circ : Bool) => Becomes i s
       (s.pubJob (some (s.scopeNo sc)) [(a.toNat, 2 ^ (k.size + 6))] [k] circ)
     let tile := fun (n : Quad) (back : Nat) => ({ name := s.ownName n, size := s.tsizeOf n, colourBack := back } : Packet)
     let n := s.core.readN f.n
     let m := s.core.readN g.n
     let pick := if s.core.readP .c h.p then s.core.readN h.n else s.core.readN h.n2
     let a := s.core.readS .c f.a
     let b := s.core.readS .c g.a
     let e := s.core.readS .c h.a
     let x := s.core.readS .c r.a
     let t := s.core.task
     let outs := s.taskOuts t
     (s.checkPub 0 [(f.n.val, n)] [(a, s.tsizeOf n)] = none → room → job (.pub f) f.scope a (tile n 0) true) ∧
     (nameKind n ≠ 0 → s.readyFor (.pub f) = true →
       exec (.pub f) s = .next (s.faultPart .c nameFault (BitVec.ofNat 64 f.n.val))) ∧
     (s.checkPub 3 [(g.n.val, m)] [(b, s.tsizeOf m)] = none →
       ((s.myDesc m).bind fun d => fmtOf (descFmt d)) = some ([.f32, .bf16, .i32].getD (g.cop.toNat % 3) .f32) →
       (s.core.readS .c g.b).toNat < 65536 → room → job (.pubC g) g.scope b
         { tile m 0 with cop := g.cop.toNat, cidx := (s.core.readS .c g.b).toNat } false) ∧
     (s.checkPub 0 [(h.n.val, s.core.readN h.n), (h.n2.val, s.core.readN h.n2)] [(e, s.tsizeOf pick)] = none → room →
       job (.steer h) h.scope e (tile pick 0) true) ∧
     (∀ q, (s.partAt t.part).returnName t.colour = some q → s.checkPub 0 [(8, q)] [(x, s.tsizeOf q)] = none → room →
       job (.retn r) r.scope x (tile q t.colour) true) ∧
     ((s.partAt t.part).returnName t.colour = none → s.readyFor (.retn r) = true →
       exec (.retn r) s = .next (s.faultPart .c nameFault 8)) ∧
     (s.resendRoom outs.length = true → Becomes (.drain d) s (s.pubJob none [] (outs.map fun o =>
       { name := nameOf t.tenant (nameTensor o) t.colour t.gen t.i t.j t.k 1 }) false))) ∧
  (∀ (s : State) (w : Nat) (p : PubJob) (rest : List PubJob) (a n o : Nat) (first : List Byte) (k : Packet),
     let c := s.core
     let go := s.pubStep
     ((s.coreAt w).eng.pubs ≠ [] → exec (.engineCommandDone w .queues) s = .next (s.atCore w State.pubStep)) ∧
     (c.eng.pubs = p :: rest → p.srcs = [(a, n)] → o = p.data.length →
       (∀ sc, o < n → p.first = none → p.scope = some sc → s.performed s.cur p.no sc false = false → go = s) ∧
       (∀ sc, o < n → p.first = none → p.scope = some sc → s.performed s.cur p.no sc false = true →
         go = s.onEng fun e => { e with pubs := { p with first := some (c.spad.run a n) } :: rest }) ∧
       (o < n → p.first = some first → c.spad.run (a + o) 64 = (first.drop o).take 64 → badIn c.spadBad (a + o) 64 = none →
         go = s.onEng fun e => { e with pubs := { p with data := p.data ++ c.spad.run (a + o) 64 } :: rest }) ∧
       (n ≤ o → p.first = some first → p.pkts = [k] →
         go = (s.onEng fun e => { e with pubs := rest }).publish p.circ { k with data := p.data.take n })) ∧
     (s.publish false k = s.inject c.task.part (.core s.cur) k) ∧
     (s.circuitOf k.name = none → s.publish true k = s.inject c.task.part (.core s.cur) k))

/-- A drawer gets the lowest colour of the pool that nobody holds, unless the pool is empty or anyone waits: COLOUR.GET
and SPAWN.NB then write 0 and SPAWN waits as WAITING COLOUR at the tail of the pool's waiters; SPAWN hands its
arguments under the colour to its publications; COLOUR.FREE returns a colour that COLOUR.GET drew, and raises
COLOUR-FAULT for any other. (Rests on R42–R45, R176–R179.) -/
def Obligations.ColoursAndSpawning : Prop :=
  ∀ (f : CSpawn) (g : CA) (s : State),
    let p := s.core.task.part
    let x := s.partAt p
    let as := s.spawnArgs f
    let v := s.core.readS .c g.a
    let ok := s.checkPub 0 (as.1 ++ [(f.n2.val, s.core.readN f.n2)]) as.2 = none
    let write := fun (t : State) (d : SReg) (n : Nat) => t.onCore fun k => k.writeS .c 1 d (BitVec.ofNat 64 n)
    let drawn := fun (c : Nat) => write
      ((s.modPart p fun x => x.hold c (s.ownName (s.core.readN f.n2))).pubJob (some s.levelScope)
        (as.2.map fun a => (a.1.toNat, 2 ^ (a.2 + 6)))
        (as.1.map fun n => { name := setField (s.ownName n.2) 76 16 c, size := s.tsizeOf n.2 }) false) f.a c
    (∀ c, s.readyFor (.spawn f) = true → ok → x.draw = some c → s.resendRoom as.1.length = true →
      exec (.spawn f) s = .next ((drawn c).issued (.spawn f))) ∧
    (∀ c, s.readyFor (.spawnNb f) = true → ok → x.draw = some c → s.resendRoom as.1.length = true →
      exec (.spawnNb f) s = .next ((drawn c).issued (.spawnNb f))) ∧
    (s.readyFor (.spawnNb f) = true → ok → x.draw = none → exec (.spawnNb f) s = .next ((write s f.a 0).issued (.spawnNb f))) ∧
    (s.readyFor (.spawn f) = true → ok → x.draw = none → s.mayLeave = true → s.core.doom = none →
      let w := s.writeBack noReplay fun r =>
        { r with st := 5, cause := 4, pc := s.core.lat.next, scm := 0, waitArg := 0, spawn := some (s.captureArgs f) }
      exec (.spawn f) s = .next (w.1.modPart p fun x => { x with waiters := x.waiters ++ [w.2.addr] })) ∧
    (s.readyFor (.colourGet g) = true → x.draw = none → exec (.colourGet g) s = .next ((write s g.a 0).issued (.colourGet g))) ∧
    (∀ c, s.readyFor (.colourGet g) = true → x.draw = some c → exec (.colourGet g) s = .next
      ((write (s.modPart p fun x => { x with colours := Table.set x.colours c .get }) g.a c).issued (.colourGet g))) ∧
    (s.readyFor (.colourFree g) = true → Table.find x.colours v.toNat = some .get →
      exec (.colourFree g) s = .next ((s.returnColour p s.core.task.tenant v.toNat).issued (.colourFree g))) ∧
    (s.readyFor (.colourFree g) = true → Table.find x.colours v.toNat ≠ some .get →
      exec (.colourFree g) s = .next (s.faultPart .c colourFault v)) ∧
    (∀ c, x.draw = some c → x.waiters = [] ∧ 1 ≤ c ∧ c ≤ 65535)

/-- SYS.RD reads the register it names, of the core or of another core of the partition; SYS.WR of the core's own
registers takes its value after the bundle and issues last for the others; a register that is not open to a task
without privilege raises PRIV-FAULT with the opcode and its number. (Rests on R181–R183, R203, Table 27·6.) -/
def Obligations.SystemRegisters : Prop :=
  ∀ (f : CSysRd) (g : CSysWr) (s : State),
    let n := f.reg.toNat
    let m := g.reg.toNat
    let v := s.core.readS .c g.a
    let r := s.sysRead s.cur n
    (f.b.val = 0 → s.privileged = true ∨ n ≤ 5 →
      Becomes (.sysRd f) s (r.1.onCore fun c => c.writeS .c 1 f.a r.2)) ∧
    (∀ w, f.b.val ≠ 0 → s.privileged = true → s.coreOfWindow (s.core.readS .c f.b) = some w →
      s.clusterPart (clusterOf w) = s.myPart →
      Becomes (.sysRd f) s ((s.sysRead w n).1.onCore fun c => c.writeS .c 1 f.a (s.sysRead w n).2)) ∧
    (s.privileged = false → 5 < n ∨ f.b.val ≠ 0 → s.readyFor (.sysRd f) = true →
      exec (.sysRd f) s = .next (s.faultPart .c privFault (BitVec.ofNat 64 (0x30 + n * 2 ^ 8)))) ∧
    (s.privileged = true ∨ m = 1 → m = 0 ∨ m = 1 ∨ m = 5 →
      Completes (.sysWr g) s { s.core with lat := { s.core.lat with sysw := (m, v) :: s.core.lat.sysw } }) ∧
    (s.privileged = true → m ≠ 0 → m ≠ 1 → m ≠ 5 → s.alone .c = true → Becomes (.sysWr g) s (s.sysWrite m v)) ∧
    (s.privileged = false → m ≠ 1 → s.readyFor (.sysWr g) = true →
      exec (.sysWr g) s = .next (s.faultPart .c privFault (BitVec.ofNat 64 (0x31 + m * 2 ^ 8)))) ∧
    (∀ w, n = 3 → s.sysRead w n = (s, BitVec.ofNat 64 (s.coreAt w).rank))

/-- The privileged instructions, in a task without privilege, raise PRIV-FAULT with their opcode; ERET and ERET.H return a
record that is FAULTED to the ready queue of its share, at the tail or the head, and ACCESS-FAULT answers an address
that is no such record of the partition. ERET and ERET.H complete for every such record. (Rests on R152, R187, R23,
R383.) -/
def Obligations.PrivilegeAndReturn : Prop :=
  ∀ (f : CA) (g : CNone) (h : CAB) (s : State),
    let a := s.core.readS .c f.a
    let turned := fun (i : Instr) (op : Nat) => s.privileged = false → s.readyFor i = true →
      exec i s = .next (s.faultPart .c 0x1A (BitVec.ofNat 64 op))
    turned (.eret f) 0x32 ∧ turned (.eretH f) 0x32 ∧ turned (.tlbInv f) 0x33 ∧ turned (.tlbInvAll g) 0x33 ∧
    turned (.dictLd h) 0x34 ∧ turned (.dictInv f) 0x35 ∧
    (∀ r, s.privileged = true → s.recAt a.toNat = some r → r.part = s.core.task.part → r.returns = true → r.resv = 0 →
      (s.readyFor (.eret f) = true → exec (.eret f) s = .next ((s.returnRec r false).issued (.eret f))) ∧
      (s.readyFor (.eretH f) = true → exec (.eretH f) s = .next ((s.returnRec r true).issued (.eretH f))) ∧
      (∀ head, s.returnRec r head = s.queueUp { r with cause := 0 } 1 head)) ∧
    (s.privileged = true → s.recAt a.toNat = none → s.readyFor (.eret f) = true →
      exec (.eret f) s = .next (s.faultPart .c accessFault a)) ∧
    (∀ r : Rec, r.returns = true → r.st = 6)

/-- TLB.INV drops, from every TLB of the partition, the entries that cover an address, or all of them, once the task's own
stores have been accepted and no access that such an entry translated is left to perform. DICT.LD installs a kernel's
dictionary of 48-byte entries in the cluster's code store, and DICT.INV removes it unless a live level instance of the
cluster runs the kernel. (Rests on R188, R328, R189, R190.) -/
def Obligations.TranslationsAndDictionaries : Prop :=
  (∀ (f : CA) (g : CNone) (s : State),
     let va := (s.core.readS .c f.a).toNat
     let p := s.core.task.part
     let covers := fun (t : TlbEntry) => decide (t.va ≤ va) && decide (va < t.va + t.size)
     (s.privileged = true → s.ownStoresOut = true → s.tlbQuiet (s.tlbHits p covers) = true →
       Becomes (.tlbInv f) s (s.tlbDrop p covers)) ∧
     (s.privileged = true → s.ownStoresOut = true → s.tlbQuiet (s.tlbHits p fun _ => true) = true →
       Becomes (.tlbInvAll g) s (s.tlbDrop p fun _ => true)) ∧
     (∀ t ∈ (s.tlbDrop p covers).core.utlb, t.part = p → ¬(t.va ≤ va ∧ va < t.va + t.size)) ∧
     (∀ t, t.part ≠ p → (t ∈ (s.tlbDrop p covers).core.utlb ↔ t ∈ s.core.utlb))) ∧
  (∀ (f : CAB) (g : CA) (s : State),
     let a := s.core.readS .c f.a
     let b := s.core.readS .c f.b
     let q := clusterOf s.cur
     let n := field b 0 14 + 1
     let kernel := field b 32 16
     let c := s.clusterAt q
     let r := s.readVa s.core.task.part s.core.task.tenant a.toNat (48 * n) .dict
     let gone := field (s.core.readS .c g.a) 0 16
     let entries := fun (bs : List Byte) =>
       (List.range n).map fun i => BitVec.ofNat 384 (ofBytes ((bs.drop (48 * i)).take 48))
     (∀ bs, s.privileged = true → a.toNat % 64 = 0 → field b 14 18 = 0 → field b 48 16 = 0 →
       (∀ d ∈ c.dicts, d.kernel ≠ kernel) → (c.dicts.map fun d => 48 * d.entries.length).sum + 48 * n ≤ Config.codeStoreBytes →
       r.2 = .ok bs →
       Becomes (.dictLd f) s (r.1.modCluster q fun c => { c with
         dicts := c.dicts ++ [{ kernel := kernel, part := s.core.task.part, entries := entries bs }] })) ∧
     (s.privileged = true → s.kernelLive s.core.task.part q gone = false →
       Becomes (.dictInv g) s (s.modCluster q fun c => { c with dicts := c.dicts.filter fun d => d.kernel ≠ gone })) ∧
     (s.privileged = true → s.kernelLive s.core.task.part q gone = true → s.readyFor (.dictInv g) = true →
       exec (.dictInv g) s = .next (s.faultPart .c accessFault (s.core.readS .c g.a))))

/-- QENQ adds the 64 bytes at rB to the queue of the handle in rA, and QDEQ takes the entry at its head, which a store of
the task writes to the scratchpad; on a queue that is full, or empty, the plain form waits and the other writes 0 to
its predicate; a handle that does not name an enabled queue of the partition raises QUEUE-FAULT with the handle.
(Rests on R191, R308–R310.) -/
def Obligations.QueueInstructions : Prop :=
  ∀ (f : CAB) (g : CQp) (s : State),
    let on := fun (h a : Word) (enq : Bool) => s.queueCheck h a enq = none
    let q := fun (h : Word) => s.hqAt (handlePart h) (handleIdx h)
    let h := s.core.readS .c f.a
    let a := s.core.readS .c f.b
    let h2 := s.core.readS .c g.a
    let a2 := s.core.readS .c g.b
    let put := fun (h a : Word) => s.hqPut (handlePart h) (handleIdx h) (s.core.spad.run a.toNat 64)
    let may := fun (h a : Word) => (q h).room = true ∧ s.performed s.cur s.stamp 4 false = true ∧
      s.ringUp (q h) (q h).toSpill (q h).tail = true ∧ s.spillFaults (handlePart h) (handleIdx h) = false ∧
      badIn s.core.spadBad a.toNat 64 = none
    let has := fun (h : Word) => (q h).count ≠ 0 ∧
      s.ringUp (q h) (decide (0 < (q h).spilled)) (if (q h).slice then (q h).firstSpilled else (q h).head) = true
    let taken := fun (x : State) (h a : Word) (e : List Byte) =>
      ((x.enqueue { kind := .store e false, slot := .c, parts := [(.loc a.toNat, 64)] }).hqPop (handlePart h) (handleIdx h)).drainPosts
        (handlePart h) (handleIdx h)
    (on h a true → may h a → s.readyFor (.qenq f) = true → exec (.qenq f) s = .next ((put h a).issued (.qenq f))) ∧
    (on h a true → (q h).room = false → s.readyFor (.qenq f) = true → exec (.qenq f) s = .next (s.waitPart .c)) ∧
    (on h2 a2 true → may h2 a2 → Becomes (.qenqNb g) s ((put h2 a2).onCore fun c => c.writeP .c 1 g.p true)) ∧
    (on h2 a2 true → (q h2).room = false → Completes (.qenqNb g) s (s.core.writeP .c 1 g.p false)) ∧
    (∀ x e, on h a false → has h → s.hqHead (handlePart h) (handleIdx h) = (x, some e) → s.readyFor (.qdeq f) = true →
      exec (.qdeq f) s = .next ((taken x h a e).issued (.qdeq f))) ∧
    (on h a false → (q h).count = 0 → s.readyFor (.qdeq f) = true → exec (.qdeq f) s = .next (s.waitPart .c)) ∧
    (∀ x e, on h2 a2 false → has h2 → s.hqHead (handlePart h2) (handleIdx h2) = (x, some e) →
      Becomes (.qdeqNb g) s ((taken x h2 a2 e).onCore fun c => c.writeP .c 1 g.p true)) ∧
    (on h2 a2 false → (q h2).count = 0 → Completes (.qdeqNb g) s (s.core.writeP .c 1 g.p false)) ∧
    (∀ i j, (s.hqAt i j).slice = true → (s.hqAt i j).bads.headD false = false →
      s.hqHead i j = (s, some ((s.hqAt i j).ents.headD (List.replicate 64 0)))) ∧
    (s.handleOk h = false → s.readyFor (.qenq f) = true → exec (.qenq f) s = .next (s.faultPart .c queueFault h)) ∧
    (s.handleOk h = false → s.readyFor (.qdeq f) = true → exec (.qdeq f) s = .next (s.faultPart .c queueFault h))

/-- A load that has passed its checks. A bank answers a local one at issue with the bytes at its place as the task's own
earlier stores leave them, extended as its size says; one that a marker or an access it cannot read past is ahead of
stays in its slot; a window or virtual load joins the load queue, or on a full-empty page reads its word when it is
full. A store that has passed its checks enters the store queue with the low bytes of its register; performed, it
changes the bytes of its bank, joins the store buffer of its cluster, or at a full-empty word reaches its rim agent.
What the first checks of an access let through: an address of the space, aligned to the access; its own scratchpad
needs nothing more. (Rests on R204, R210, R211, R223, R227, R211, R215, R223, R226, R205, R210, R384.) -/
def Obligations.LoadsAndStores : Prop :=
  (∀ (f : MLd) (s t : State) (p : Spot),
     let k := f.k.slot
     let n := ldBytes f.sz
     let d := sLoc s.core.view f.d
     let kind := AccKind.load d f.sz
     let put := fun (c : Core) (lat : Nat) (bs : List Byte) => match d with
       | none => c
       | some l => c.writeLoc k lat l (match f.sz with
         | .i8 => BitVec.signExtend 64 (BitVec.ofNat 8 (ofBytes bs))
         | .i16 => BitVec.signExtend 64 (BitVec.ofNat 16 (ofBytes bs))
         | .i32 => BitVec.signExtend 64 (BitVec.ofNat 32 (ofBytes bs))
         | _ => BitVec.ofNat 64 (ofBytes bs)).toNat
     s.core.deferredAt k.num = none → s.place f.sp (s.core.ea k f.a f.b f.off) n n .load .any = (t, .ok p) →
       (∀ o, p = .loc o → f.sp = .loc → badIn s.core.spadBad o n = none →
         (s.bankBusy [(p, n)] = false → Completes (.ld f) s (put s.core 4 (s.spadSeen o n))) ∧
         (s.bankBusy [(p, n)] = true → s.readyFor (.ld f) = true → exec (.ld f) s = .next (s.interlock k)) ∧
         (s.core.pendingStores s.stamp = [] → s.spadSeen o n = s.core.spad.run o n)) ∧
       (f.sp ≠ .loc → (∀ va pa g key lat, p ≠ .vm va pa g key true lat) →
         Becomes (.ld f) s (t.queueAccess { kind := kind, slot := k, parts := [(p, n)] })) ∧
       (∀ va pa g key lat r bs, p = .vm va pa g key true lat → t.accessBarred [(p, n)] = false → t.channelsUp pa n g = true →
         t.storeHeld t.stamp .vm pa n = false → t.hbm.full pa = true → t.hbm.waiters pa = [] →
         t.readPa pa n g key = (r, some bs) → Becomes (.ld f) s { r with core := put r.core 1 bs })) ∧
  ((∀ (f : MSt) (s t : State) (p : Spot),
     let n := stBytes f.sz
     s.place f.sp (s.core.ea f.k.slot f.a f.b f.off) n n .store .any = (t, .ok p) →
       Becomes (.st f) s (t.enqueue { kind := .store (toBytes n (s.core.readS f.k.slot f.d).toNat) false, slot := f.k.slot,
                                      parts := [(p, n)] })) ∧
   (∀ (s : State) (w : Nat) (a : Access) (p : Spot) (bs : List Byte), a.kind = .store bs false → a.parts = [(p, bs.length)] →
     (∀ o, p = .loc o → s.performAccess w a = (s.modCore w fun c =>
       { c with spad := c.spad.write o bs
                spadBad := c.spadBad.filter fun w => !(decide (o ≤ w) && decide (w + 8 ≤ o + bs.length)) }, .ok [])) ∧
     (∀ va pa g key lat, p = .vm va pa g key false lat → s.performAccess w a = (s.modCluster (clusterOf w) fun c =>
       { c with stbuf := c.stbuf ++ [{ pa := pa, data := bs.map some, gran := g, key := key, lat := lat,
                                       task := (s.coreAt w).task.addr, no := a.no }] }, .ok [])) ∧
     (∀ va pa g key lat, p = .vm va pa g key true lat → s.performAccess w a = (s.feStore pa bs g key, .ok [])))) ∧
  (∀ (s : State) (ea : Word) (n align : Nat) (u : Use) (need : FeNeed),
     (s.place .loc ea n align u need = (s, .ok (.loc ea.toNat)) ↔ ea.toNat < 2 ^ 21 ∧ ea.toNat % align = 0) ∧
     (2 ^ 21 ≤ ea.toNat → s.place .loc ea n align u need = (s, .error (accessFault, ea))) ∧
     (ea.toNat < 2 ^ 21 → ea.toNat % align ≠ 0 → s.place .loc ea n align u need = (s, .error (alignFault, ea))) ∧
     (2 ^ 29 ≤ ea.toNat → s.place .win ea n align u need = (s, .error (accessFault, ea))) ∧
     (2 ^ 57 ≤ ea.toNat → s.place .vm ea n align u need = (s, .error (accessFault, ea))) ∧
     (ea.toNat < 2 ^ 57 → ea.toNat % align ≠ 0 → s.place .vm ea n align u need = (s, .error (alignFault, ea))))

/-- LDV and STV on the own scratchpad move exactly the bytes that the mask admits: LDV at issue, as the task's own earlier
stores leave them, and STV when its entry of the store queue is performed. LDV.G and STV.S check every active lane;
the gather joins the load queue and the scatter the store queue, each active lane at its own address; a gather of the
own scratchpad then reads its banks. (Rests on R151, R212, R227, R213, R226, R227.) -/
def Obligations.VectorMemory : Prop :=
  ((∀ (f : MVec) (s : State),
     let k := f.k.slot
     let ea := s.core.ea k f.a f.b f.off
     let km := s.core.readM k f.km
     let runs := (maskRuns km).map fun x => (Spot.loc (ea.toNat + x.1), x.2)
     let seen := fun a => (storeByte (s.core.pendingStores s.stamp) .loc a).getD (s.core.spad.byte a)
     f.sp = .loc → ea.toNat < 2 ^ 21 → ea.toNat % 128 = 0 → s.core.spadBad = [] →
       (km.toNat ≠ 0 → s.core.spad.wf = true → s.bankBusy runs = false →
         Completes (.ldv f) s (s.core.writeLoc k 6 (.v f.v) (ofBytes ((List.range 128).map fun i =>
           if bitOf km i then seen (ea.toNat + i) else BitVec.ofNat 8 (s.core.before (.v f.v) / 2 ^ (8 * i) % 256))))) ∧
       (km.toNat = 0 → Completes (.ldv f) s s.core ∧ Completes (.stv f) s s.core) ∧
       (km.toNat ≠ 0 → Becomes (.stv f) s (s.enqueue
         { kind := .store (maskedBytes km (s.core.readV k f.v).toNat) false, slot := k, parts := runs }))) ∧
   (∀ (s : State) (km : Quad) (v ea : Nat) (a : Access), s.core.spad.wf = true → a.kind = .store (maskedBytes km v) false →
     a.parts = ((maskRuns km).map fun x => (Spot.loc (ea + x.1), x.2)) →
     ∃ m bad, s.performAccess s.cur a = ({ s with core := { s.core with spad := m, spadBad := bad } }, .ok []) ∧ ∀ x, m.byte x =
       if ea ≤ x ∧ x < ea + 128 ∧ bitOf km (x - ea) then BitVec.ofNat 8 (v / 2 ^ (8 * (x - ea)) % 256) else s.core.spad.byte x)) ∧
  (∀ (f : MGat) (s t : State) (ps : List (Spot × Nat)),
     let k := f.k.slot
     let w := if f.wide then 8 else 4
     let lanes := (List.range (if f.wide then 16 else 32)).filter fun n => bitOf (s.core.readM k f.km) n
     let ea := fun n => s.core.readS k f.a + BitVec.ofNat 64 (elem (s.core.readV k f.vb) (8 * w) n * w)
     let kind := AccKind.gather f.v f.wide lanes
     (s.placeLanes f .load lanes = (t, .ok ps) → ps ≠ [] → (f.sp = .loc → t.core.badParts ps = none) →
       Becomes (.ldvG f) s (t.queueAccess { kind := kind, slot := k, parts := ps })) ∧
     (s.placeLanes f .load lanes = (t, .ok []) → Becomes (.ldvG f) s t) ∧
     (s.placeLanes f .store lanes = (t, .ok ps) → ps ≠ [] →
       Becomes (.stvS f) s (t.enqueue { kind := .store (lanes.flatMap fun n => toBytes w (elem (s.core.readV k f.v) (8 * w) n)) true,
                                        slot := k, parts := ps })) ∧
     (s.placeLanes f .store lanes = (t, .ok []) → Becomes (.stvS f) s t) ∧
     (f.sp = .loc → (∀ n ∈ lanes, (ea n).toNat < 2 ^ 21 ∧ (ea n).toNat % w = 0) →
       s.placeLanes f .load lanes = (s, .ok (lanes.map fun n => (.loc (ea n).toNat, w)))) ∧
     (∀ a : Access, a.kind = kind → (a.parts = lanes.map fun n => (.loc (ea n).toNat, w)) → s.core.spadBad = [] →
       s.core.pendingStores a.no = [] → s.performAccess s.cur a = (s, .ok (lanes.flatMap fun n => s.core.spad.run (ea n).toNat w))))

/-- On a page of full-empty words LD.FE reads a full word and leaves it empty, a load of an empty word joins its deferred
list and waits in place, ST.FE fills an empty word and raises FE-FAULT on a full one, and PEEK.FE joins the load
queue, from where it reads the presence bit. An atomic joins the queues; performed on the own scratchpad it reads the
old value, writes the new one and returns the old in one step; on a full-empty word that is full it does so at once.
(Rests on R214–R217, R226, R215, R218–R221, R226.) -/
def Obligations.FullEmptyAndAtomics : Prop :=
  (∀ (f : MFe) (q : MPeek) (s t : State) (va pa g key lat : Nat),
     let k := f.k.slot
     let ea := s.core.ea k f.a f.b f.off
     let p := Spot.vm va pa g key true lat
     let d := sLoc s.core.view f.d
     let word := pa / 8 * 8
     let peek : Access := { kind := .peek (pLoc q.pd), slot := q.k.slot, parts := [(p, 8)] }
     (t.accessBarred [(p, 8)] = false → t.channelsUp pa 8 g = true → t.storeHeld t.stamp .vm pa 8 = false →
       s.place .vm ea 8 8 .store .required = (t, .ok p) →
       (∀ r bs, s.core.deferredAt k.num = none → word ∉ t.hbm.empty → t.hbm.waiters pa = [] → t.readPa pa 8 g key = (r, some bs) →
         Becomes (.ldFe f) s { r with
           hbm := { r.hbm with empty := word :: r.hbm.empty.filter fun w => w ≠ word }
           core := match d with
             | none => r.core
             | some l => r.core.writeLoc k 1 l (ofBytes bs) }) ∧
       (s.core.deferredAt k.num = none → word ∈ t.hbm.empty → s.readyFor (.ldFe f) = true →
         exec (.ldFe f) s = .next ((t.feWait { kind := .loadFe d, slot := k, parts := [(p, 8)] } pa).waitPart k)) ∧
       (word ∈ t.hbm.empty → Becomes (.stFe f) s (t.feStore pa (toBytes 8 (s.core.readS k f.d).toNat) g key)) ∧
       (word ∉ t.hbm.empty → s.readyFor (.stFe f) = true → exec (.stFe f) s = .next (t.faultPart k feFault ea))) ∧
     (s.place .vm (s.core.ea q.k.slot q.a q.b q.off) 8 8 .load .required = (t, .ok p) → Becomes (.peekFe q) s (t.queueAccess peek)) ∧
     (∀ w no, t.performAccess w { peek with no := no } = (t, .ok [if word ∈ t.hbm.empty then 0 else 1]))) ∧
  (∀ (f : MAtom) (h : MAtomF) (q : MNib) (s t : State) (p : Spot),
     let l := sLoc s.core.view f.d
     let free := fun (k : Slot) (sp : Space) (ea : Word) (a : Atom) =>
       s.core.deferredAt k.num = none ∧ s.place sp ea a.size a.size .store .any = (t, .ok p)
     let plain := fun (sp : Space) (a : Atom) =>
       (∀ va pa g key lat, p ≠ .vm va pa g key true lat) ∧ (sp = .loc → t.core.badParts [(p, a.size)] = none)
     let acc := fun (k : Slot) (d : SReg) (a : Atom) =>
       ({ kind := .atom a (sLoc s.core.view d), slot := k, parts := [(p, a.size)] } : Access)
     let b := (s.core.readS f.k.slot f.b).toNat
     let int := fun (op : AtomOp) (c : Nat) => ({ op := op, size := if f.w64 then 8 else 4, uns := f.uns, b := b, c := c } : Atom)
     let ready := fun (op : AtomOp) =>
       free f.k.slot f.sp (s.core.readS f.k.slot f.a + offSext f.off) (int op 0) ∧ plain f.sp (int op 0)
     let old := (s.core.readS f.k.slot f.d).toNat
     let float : Atom := { op := .fadd, size := 4, uns := true, b := (s.core.readS h.k.slot h.b).toNat, c := 0 }
     let nib : Atom := { op := if q.hi then .nibHi else .nibLo, size := 1, uns := true, b := (s.core.readS q.k.slot q.b).toNat, c := 0 }
     (ready .add → Becomes (.atomAdd f) s (t.queueAccess (acc f.k.slot f.d (int .add 0)))) ∧
     (ready .min → Becomes (.atomMin f) s (t.queueAccess (acc f.k.slot f.d (int .min 0)))) ∧
     (ready .max → Becomes (.atomMax f) s (t.queueAccess (acc f.k.slot f.d (int .max 0)))) ∧
     (ready .and → Becomes (.atomAnd f) s (t.queueAccess (acc f.k.slot f.d (int .and 0)))) ∧
     (ready .or → Becomes (.atomOr f) s (t.queueAccess (acc f.k.slot f.d (int .or 0)))) ∧
     (ready .xor → Becomes (.atomXor f) s (t.queueAccess (acc f.k.slot f.d (int .xor 0)))) ∧
     (ready .swp → Becomes (.atomSwp f) s (t.queueAccess (acc f.k.slot f.d (int .swp 0)))) ∧
     (ready .cas → Becomes (.atomCas f) s (t.queueAccess (acc f.k.slot f.d (int .cas old)))) ∧
     (free h.k.slot h.sp (s.core.readS h.k.slot h.a + offSext h.off) float → plain h.sp float →
       Becomes (.atomFadd h) s (t.queueAccess (acc h.k.slot h.d float))) ∧
     (free q.k.slot q.sp (s.core.readS q.k.slot q.a + offSext q.off) nib → plain q.sp nib →
       Becomes (.atomNib q) s (t.queueAccess (acc q.k.slot q.d nib))) ∧
     (∀ i op c va pa g key lat r bs, (i, op, c) ∈ [(Instr.atomAdd f, AtomOp.add, 0), (.atomMin f, .min, 0), (.atomMax f, .max, 0),
         (.atomAnd f, .and, 0), (.atomOr f, .or, 0), (.atomXor f, .xor, 0), (.atomSwp f, .swp, 0), (.atomCas f, .cas, old)] →
       let a := int op c
       free f.k.slot f.sp (s.core.readS f.k.slot f.a + offSext f.off) a → p = .vm va pa g key true lat →
       t.accessBarred [(p, a.size)] = false → t.channelsUp pa a.size g = true → t.storeHeld t.stamp .vm pa a.size = false →
       t.hbm.full pa = true → t.hbm.waiters pa = [] → t.readPa pa a.size g key = (r, some bs) →
       let u := r.writePa pa (toBytes a.size (a.new (ofBytes bs))) g key
       Becomes i s { u with core := match l with
         | none => u.core
         | some l => u.core.writeLoc f.k.slot 1 l (a.result (ofBytes bs)) }) ∧
     (∀ k d a o no, p = .loc o → badIn t.core.spadBad o a.size = none →
       let m := t.core.spad.run o a.size
       t.performAccess t.cur { acc k d a with no := no } = (t.onCore fun c => c.spadPut o (toBytes a.size (a.new (ofBytes m))), .ok m)) ∧
     ∀ (z u : Bool) (m x c : Nat), let w := if z then 64 else 32
       let a := fun op => ({ op := op, size := if z then 8 else 4, uns := u, b := x, c := c } : Atom)
       m < 2 ^ w → (a .add).new m = (m + x) % 2 ^ w ∧ (a .swp).new m = x % 2 ^ w ∧
         (a .cas).new m = (if m = x % 2 ^ w then c % 2 ^ w else m) ∧ (u = true → (a .min).new m = min m (x % 2 ^ w)))

/-- MARK puts a marker into the queues, and FENCE does once its engines' writes are done; a marker leaves them once every
access before it is performed at its scope; PREF completes on every address; it enters neither queue, and changes no
register, no scratchpad, and no byte of memory where a TLB holds its translation (a walk may set the A bit of its
leaf, R326). An access of a core that no earlier one of its queues keeps back comes to its home rim agent and is
performed there; its data lands in the register that awaits it, or it leaves its queue; and a store-buffer entry that
no earlier one overlaps comes to its rim agent and is written to memory in its turn. (Rests on R222, R226, R228, R229,
R210, R221, R223–R227, R338.) -/
def Obligations.OrderingAndVirtualAccess : Prop :=
  (∀ (f : MFence) (g : MPref) (s : State),
     Becomes (.mark f) s (s.enqueue { kind := .mark (s.scopeNo f.scope) false, slot := f.k.slot, parts := [] }) ∧
     (s.core.eng.fenced = true →
       Becomes (.fence f) s (s.enqueue { kind := .mark (s.scopeNo f.scope) true, slot := f.k.slot, parts := [] })) ∧
     (s.readyFor (.fence f) = true → s.core.eng.fenced = false → exec (.fence f) s = .next (s.waitPart f.k.slot)) ∧
     (∀ w i a scope fence, (s.openAccesses w)[s.choice (s.openAccesses w).length]? = some (a, i) → a.kind = .mark scope fence →
       a.parts = [] → (s.coreAt w).held .queues = false → (s.focus w).performed w a.no scope fence = true ∧
       exec (.rimAccessRequest w) s = .next ((s.chosen (s.openAccesses w).length).modCore w fun c =>
         { c with eng := { c.eng with acc := removeAt c.eng.acc i } })) ∧
     (s.readyFor (.pref g) = true →
       let base := (s.core.ea g.k.slot g.a g.b g.off).toNat / 2 ^ (g.ext.toNat + 6) * 2 ^ (g.ext.toNat + 6)
       ∃ t : State, exec (.pref g) s = .next (t.issued (.pref g)) ∧ (t = s ∨ t = (s.xlate base .load).1) ∧
         t.core.live = s.core.live ∧ t.core.spad = s.core.spad ∧ t.core.eng = s.core.eng ∧ t.others = s.others ∧
         (∀ e, s.tlbFind s.core.task.part s.core.task.tenant base = some e → t.hbm = s.hbm))) ∧
  (∀ (s : State) (w q i : Nat),
     let l := s.openAccesses w
     let answered := fun (a : Access) (bs : List Byte) (acc : List Access) =>
       if a.kind.returns then acc.modify i fun a => { a with asked := true, data := bs } else removeAt acc i
     (∀ a, (a, i) ∈ l → (s.coreAt w).eng.acc[i]? = some a ∧
       (a.kind.isMark = false → ∀ b ∈ (s.coreAt w).eng.acc.take i, a.after b = false)) ∧
     (∀ a, l[s.choice l.length]? = some (a, i) → (s.coreAt w).held .queues = false →
       (a.travels = true → exec (.rimAccessRequest w) s = .next ((s.chosen l.length).modCore w fun c =>
         c.modAccess i fun a => { a with came := some (s.arrival a) })) ∧
       (∀ r bs, a.travels = false → (∀ p ∈ a.parts, a.asksHome p.1 = true → s.portOf p.1.space = none) →
         (s.chosen l.length).performAccess w a = (r, .ok bs) →
         exec (.rimAccessRequest w) s = .next (r.modCore w fun c => { c with eng := { c.eng with acc := answered a bs c.eng.acc } }))) ∧
     (∀ a, (s.coreAt w).eng.acc[i]? = some a → a.asked = true → a.deferred = false →
       ∃ c, exec (.accessDataReturn w i) s = .next (s.setCore w c) ∧ c.eng.acc = removeAt (s.coreAt w).eng.acc i ∧
         ∀ l, a.reg = some l → c.live = (s.coreAt w).live.set l (a.kind.value ((s.coreAt w).live.get l) a.data)) ∧
     (∀ e, (s.clusterAt q).stbuf[i]? = some e → (∀ x ∈ (s.clusterAt q).stbuf.take i, overlaps x.pa x.data.length e.pa e.data.length = false) →
       (e.came = none → exec (.storeBufferDrain q i) s = .next (s.modCluster q fun c =>
         { c with stbuf := c.stbuf.modify i fun e => { e with came := some (s.rimNow (rimOf e.pa e.gran)) } })) ∧
       (∀ m bs, e.came = some m → e.data = bs.map some → bs ≠ [] → s.channelsUp e.pa e.data.length e.gran = true →
         s.rimTurn (e.asks m) = true → s.portOf (.vm, e.pa) = none →
         exec (.storeBufferDrain q i) s = .next
           ((s.modCluster q fun c => { c with stbuf := removeAt c.stbuf i }).writePa e.pa bs e.gran e.key))))

/-- The arithmetic of the V slot, lane by lane: floats round once by fmt.RND, integers wrap modulo 2^w or, with X[0],
clamp to the range of T. (Rests on R243, R238, R236.) -/
def Obligations.VectorArithmetic : Prop :=
  ∀ (f : VBinX) (g : VFma) (h : VBin) (u : VUnX) (s : State),
    let r := fmtRndDet s.core.fmt
    let lane := fun (t : Fmt) (v : VReg) (n : Nat) => elem (s.core.readV .v v) t.width n
    let other := fun (t : Fmt) (b : VSrc) (n : Nat) => match b with
      | .reg b => lane t b n
      | .lit l => litLane t l
    let int := fun (t : Fmt) (sat : Bool) (i : Int) =>
      ((if sat then (clampInt t i).1 else wrapInt t.width i, 0) : Nat × Flags)
    let fl := fun (t : Fmt) (x : Nat) => decodeF t x
    let lat := if f.t.isF then 4 else 2
    let a := fun n => lane f.t f.a n
    let b := fun n => other f.t f.b n
    let x := fun n => lane u.t u.a n
    Completes (.vadd f) s (s.core.putV f.t lat f.d f.km f.mz fun n =>
      if f.t.isF then addF f.t r (fl f.t (a n)) (fl f.t (b n)) else int f.t f.x (intVal f.t (a n) + intVal f.t (b n))) ∧
    Completes (.vsub f) s (s.core.putV f.t lat f.d f.km f.mz fun n =>
      if f.t.isF then subF f.t r (fl f.t (a n)) (fl f.t (b n)) else int f.t f.x (intVal f.t (a n) - intVal f.t (b n))) ∧
    Completes (.vmul f) s (s.core.putV f.t 4 f.d f.km f.mz fun n =>
      if f.t.isF then mulF f.t r (fl f.t (a n)) (fl f.t (b n))
      else (wrapInt f.t.width (if f.x then intVal f.t (a n) * intVal f.t (b n) / ((2 ^ f.t.width : Nat) : Int)
        else intVal f.t (a n) * intVal f.t (b n)), 0)) ∧
    Completes (.vfma g) s (s.core.putV g.t 4 g.d g.km g.mz fun n =>
      fmaF g.t r (fl g.t (lane g.t g.a n)) (fl g.t (other g.t g.b n)) (some (fl g.t (lane g.t g.c n)))) ∧
    Completes (.vmin h) s (s.core.putV h.t 2 h.d h.km h.mz fun n =>
      (if h.t.isF then minF h.t (lane h.t h.a n) (other h.t h.b n)
        else if intVal h.t (lane h.t h.a n) ≤ intVal h.t (other h.t h.b n) then lane h.t h.a n else other h.t h.b n, 0)) ∧
    Completes (.vmax h) s (s.core.putV h.t 2 h.d h.km h.mz fun n =>
      (if h.t.isF then maxF h.t (lane h.t h.a n) (other h.t h.b n)
        else if intVal h.t (other h.t h.b n) ≤ intVal h.t (lane h.t h.a n) then lane h.t h.a n else other h.t h.b n, 0)) ∧
    Completes (.vabs u) s (s.core.putV u.t 2 u.d u.km u.mz fun n =>
      if u.t.isF then (if fl u.t (x n) = .nan then nanBits u.t else x n % 2 ^ (u.t.width - 1), 0)
      else int u.t u.x (intVal u.t (x n)).natAbs) ∧
    Completes (.vneg u) s (s.core.putV u.t 2 u.d u.km u.mz fun n =>
      if u.t.isF then (if fl u.t (x n) = .nan then nanBits u.t else Nat.xor (x n) (2 ^ (u.t.width - 1)), 0)
      else int u.t u.x (-(intVal u.t (x n))))

/-- The logical instructions, the shifts (an amount of w or more shifts everything out), VIOTA, and VCMP, which writes 1
for each active lane whose condition holds and 0 elsewhere. The mask instructions write the bits of their type and
zero above; VPOPC counts, or finds the lowest or the highest of, the set bits of mA under mK, and gives −1 when there
is none to find. (Rests on R244, R245, R252, Table 13·6, R258, R259, R139.) -/
def Obligations.VectorLogicAndMasks : Prop :=
  (∀ (f : VBinX) (g : VShift) (h : VIota) (q : VCmp) (s : State),
     let lane := fun (t : Fmt) (v : VReg) (n : Nat) => elem (s.core.readV .v v) t.width n
     let other := fun (t : Fmt) (b : VSrc) (n : Nat) => match b with
       | .reg b => lane t b n
       | .lit l => litLane t l
     let a := fun n => lane f.t f.a n
     let b := fun n => if f.x then 2 ^ f.t.width - 1 - other f.t f.b n % 2 ^ f.t.width else other f.t f.b n
     let x := fun n => lane g.t g.a n
     let k := fun n => match g.n with
       | .reg b => lane g.t b n % 256
       | .imm i => i.toNat
     let m := s.core.readM .v q.km
     Completes (.vand f) s (s.core.putV f.t 1 f.d f.km f.mz fun n => (Nat.land (a n) (b n), 0)) ∧
     Completes (.vor f) s (s.core.putV f.t 1 f.d f.km f.mz fun n => (Nat.lor (a n) (b n), 0)) ∧
     Completes (.vxor f) s (s.core.putV f.t 1 f.d f.km f.mz fun n => (Nat.xor (a n) (b n), 0)) ∧
     Completes (.vshl g) s (s.core.putV g.t 2 g.d g.km g.mz fun n => (x n * 2 ^ k n % 2 ^ g.t.width, 0)) ∧
     Completes (.vshr g) s (s.core.putV g.t 2 g.d g.km g.mz fun n =>
       (wrapInt g.t.width (intVal g.t (x n) / ((2 ^ min (k n) g.t.width : Nat) : Int)), 0)) ∧
     Completes (.viota h) s (s.core.putV h.t 1 h.d h.km h.mz fun n => (wrapInt h.t.width (h.start.toInt + (n : Int)), 0)) ∧
     Completes (.vcmpCc q) s (s.core.writeM .v 2 q.d (maskOf q.t.lanes fun n =>
       bitOf m n && (match q.t.isF, icondOf q.cc.toNat, fcondOf q.cc.toNat with
         | true, _, some c => fcond c (decodeF q.t (lane q.t q.a n)) (decodeF q.t (other q.t q.b n))
         | false, some c, _ => icond c (extLane q.t.width c (lane q.t q.a n)) (extLane q.t.width c (other q.t q.b n))
         | _, _, _ => false)))) ∧
  (∀ (f : MBin) (g : MUn) (h : VPopc) (s : State),
     let n := if f.t.width = 4 then 128 else f.t.lanes
     let a := fun i => bitOf (s.core.readM .v f.a) i != f.ia
     let b := fun i => bitOf (s.core.readM .v f.b) i != f.ib
     let k := maskLanes h.t
     let v := (maskOf k fun i => bitOf (s.core.readM .v h.a) i && bitOf (s.core.readM .v h.km) i).toNat
     Completes (.mand f) s (s.core.writeM .v 1 f.d (maskOf n fun i => a i && b i)) ∧
     Completes (.mor f) s (s.core.writeM .v 1 f.d (maskOf n fun i => a i || b i)) ∧
     Completes (.mnot g) s (s.core.writeM .v 1 g.d (maskOf (maskLanes g.t) fun i => !bitOf (s.core.readM .v g.a) i)) ∧
     Completes (.vpopc h) s (s.core.writeS .v 2 h.s (match h.op with
       | .count => BitVec.ofNat 64 (popCount k v)
       | .low => if v = 0 then BitVec.allOnes 64 else BitVec.ofNat 64 (lowestSet k v)
       | .high => if v = 0 then BitVec.allOnes 64 else BitVec.ofNat 64 v.log2)) ∧
     ∀ (m : Nat) (p : Nat → Bool) (i : Nat), i < 128 → m ≤ 128 → bitOf (maskOf m p) i = (decide (i < m) && p i))

/-- VSEL; and compare-exchange: in each active pair at distance 2^j the keys are ranked by R247, the higher-ranked goes to
the lower lane in a descending step and to the upper lane in an ascending one, a tie keeps the lower index in the
lower lane, and VCAS.X carries the companions along. permutes, broadcasts, shuffles and lane moves. (Rests on
R246–R248, R249–R252, R236.) -/
def Obligations.VectorExchangeAndMoves : Prop :=
  (∀ (f : VSel) (g : VCas) (h : VCasX) (s : State),
     let lane := fun (t : Fmt) (v : VReg) (n : Nat) => elem (s.core.readV .v v) t.width n
     let src := exchangeSrc g.t (bitOf (s.core.readM .v g.km)) (lane g.t g.a) id g.j.toNat g.f.toNat g.asc
     let both := exchangeSrc h.t (bitOf (s.core.readM .v h.km)) (lane h.t h.a) (lane h.t h.b) h.j.toNat h.f.toNat h.asc
     Completes (.vsel f) s (s.core.putAll f.t 1 f.d fun n =>
       if laneOn f.t (s.core.readM .v f.km) n then lane f.t f.a n else lane f.t f.b n) ∧
     Completes (.vcas g) s (s.core.putV g.t 3 g.d g.km g.mz fun n => (lane g.t g.a (src n), 0)) ∧
     Completes (.vcasX h) s ((s.core.putV h.t 4 h.d h.km h.mz fun n => (lane h.t h.a (both n), 0)).putV h.t 4 h.c h.km h.mz
       fun n => (lane h.t h.b (both n), 0)) ∧
     ∀ (t : Fmt) (on : Nat → Bool) (key idx : Nat → Nat) (j fl n : Nat) (asc : Bool),
       t.isF = false → n / 2 ^ j % 2 = 0 → on n = true → on (n + 2 ^ j) = true → intVal t (key (n + 2 ^ j)) < intVal t (key n) →
       exchangeSrc t on key idx j fl asc n = (if (asc != (fl ≠ 15 && decide (n / 2 ^ fl % 2 = 1))) then n + 2 ^ j else n)) ∧
  (∀ (f : VPerm) (g : VPerm2) (b1 : VBcS) (b2 : VBcL) (b3 : VBcLit) (h : VShuf) (m : VMovS) (e : VExt) (s : State),
     let lane := fun (t : Fmt) (v : VReg) (n : Nat) => elem (s.core.readV .v v) t.width n
     let half := h.t.lanes / 2
     let x := lane h.t h.a
     let y := lane h.t h.b
     let w := m.t.width
     Completes (.vperm f) s (s.core.putAll f.t 3 f.d fun n => lane f.t f.a (lane f.t f.b n % f.t.lanes)) ∧
     Completes (.vperm2 g) s (s.core.putAll g.t 3 g.d fun n =>
       let k := lane g.t g.b n % (2 * g.t.lanes)
       if k < g.t.lanes then lane g.t g.a k else lane g.t g.c (k - g.t.lanes)) ∧
     Completes (.vbcastScalar b1) s (s.core.putAll b1.t 1 b1.d fun _ => (s.core.readS .v b1.s).toNat % 2 ^ b1.t.width) ∧
     Completes (.vbcastLane b2) s (s.core.putAll b2.t 1 b2.d fun _ => lane b2.t b2.a b2.lane.toNat) ∧
     Completes (.vbcastLiteral b3) s (s.core.putAll b3.t 1 b3.d fun _ =>
       if b3.t = .i64 then (b3.lit.signExtend 64).toNat else b3.lit.toNat % 2 ^ b3.t.width) ∧
     Completes (.vshuf h) s (s.core.putAll h.t 3 h.d fun n => match h.pat with
       | .ziplo => if n % 2 = 0 then x (n / 2) else y (n / 2)
       | .ziphi => if n % 2 = 0 then x (half + n / 2) else y (half + n / 2)
       | .unzipe => if n < half then x (2 * n) else y (2 * (n - half))
       | .unzipo => if n < half then x (2 * n + 1) else y (2 * (n - half) + 1)) ∧
     Completes (.vmovS m) s (s.core.writeV .v 1 m.d
       (setField (BitVec.ofNat 1024 (s.core.before (.v m.d))) (w * m.lane.toNat) w (s.core.readS .v m.s).toNat)) ∧
     Completes (.vext e) s (s.core.writeS .v 2 e.s
       (if e.t.isSInt then sextTo e.t.width (lane e.t e.a e.lane.toNat) else BitVec.ofNat 64 (lane e.t e.a e.lane.toNat))))

/-- Reductions and scans round the exact sum once, whatever the lane order, and the estimates complete on every operand;
with no active lane a sum is +0 or 0, a largest element −∞ or the smallest of T, and a smallest +∞ or the largest of
T. (Rests on R253, R254, Tables 17·4 and 17·5.) -/
def Obligations.ReductionsAndEstimates : Prop :=
  ∀ (f : VRed) (g : VUn) (s : State),
    let xs := s.core.activeLanes f.t f.a f.km
    let sum := (floatSum f.t xs).round f.t (fmtRndDet s.core.fmt)
    let x := fun (n : Nat) => decodeF g.t (elem (s.core.readV .v g.a) g.t.width n)
    let upTo := fun n => ((List.range (n + 1)).filter (laneOn g.t (s.core.readM .v g.km))).map
      fun i => elem (s.core.readV .v g.a) g.t.width i
    Completes (.vredAdd f) s (if f.t.isF then (s.core.writeS .v 6 f.s (BitVec.ofNat 64 sum.1)).raise 6 sum.2
      else s.core.writeS .v 6 f.s (BitVec.ofInt 64 (intSum f.t xs))) ∧
    Completes (.vredMax f) s (s.core.writeS .v 6 f.s
      (if f.t.isF then BitVec.ofNat 64 (xs.foldl (maxF f.t) (withSign f.t true ((infBits f.t).getD 0)))
      else BitVec.ofInt 64 (intVal f.t (xs.foldl (maxLane f.t) (wrapInt f.t.width (intMin f.t)))))) ∧
    Completes (.vredMin f) s (s.core.writeS .v 6 f.s
      (if f.t.isF then BitVec.ofNat 64 (xs.foldl (minF f.t) ((infBits f.t).getD 0))
      else BitVec.ofInt 64 (intVal f.t (xs.foldl (minLane f.t) (wrapInt f.t.width (intMax f.t)))))) ∧
    Completes (.vscanAdd g) s (s.core.putV g.t 6 g.d g.km g.mz fun n =>
      if g.t.isF then (floatSum g.t (upTo n)).round g.t (fmtRndDet s.core.fmt)
      else (wrapInt g.t.width (intSum g.t (upTo n)), 0)) ∧
    Completes (.vrcpE g) s (s.core.putV g.t 6 g.d g.km g.mz fun n => rcpF g.t (x n)) ∧
    Completes (.vrsqE g) s (s.core.putV g.t 6 g.d g.km g.mz fun n => rsqF g.t (x n)) ∧
    Completes (.vexp2 g) s (s.core.putV g.t 6 g.d g.km g.mz fun n => exp2F g.t (x n)) ∧
    Completes (.vlog2 g) s (s.core.putV g.t 6 g.d g.km g.mz fun n => log2F g.t (x n)) ∧
    (intSum f.t [] = 0 ∧ (floatSum f.t []).round f.t (fmtRndDet s.core.fmt) = (0, 0))

/-- Conversions and scaled conversions, each active conversion rounded once into its target element; a stochastic one
takes its draws of CORE.SRND in ascending order. (Rests on R255–R257, R98.) -/
def Obligations.VectorConversions : Prop :=
  ∀ (f : VCvt) (g : VScl) (h : VPack) (s : State),
    let c := s.core
    let fm := c.fmt
    let lane := fun (t : Fmt) (v : VReg) (n : Nat) => elem (c.readV .v v) t.width n
    let cv : Conv := ⟨f.src, f.tgt, f.part.toNat⟩
    let hv : Conv := ⟨h.src, h.tgt, h.part.toNat⟩
    Completes (.vcvt f) s (c.convert cv f.d f.km f.mz (fmtSto fm && stoTarget f.tgt) fun x k =>
      convElem f.src f.tgt (fmtRnd fm (srndDraw x)) (fmtSat fm) (lane f.src f.a (cv.srcAt k))) ∧
    Completes (.vscl g) s (c.putV g.t 4 g.d g.km g.mz fun n =>
      scaleRound g.t (fmtRndDet fm) true g.div (decodeF g.t (lane g.t g.a n)) (c.scaleOf g.b g.sf g.blk16 g.base n)) ∧
    Completes (.vpack h) s (c.convert hv h.d h.km h.mz (fmtSto fm) fun x k => match h.sf with
      | none => convElem h.src h.tgt (fmtRnd fm (srndDraw x)) (fmtSat fm) (lane h.src h.a k)
      | some sf => scaleRound h.tgt (fmtRnd fm (srndDraw x)) (fmtSat fm) true (decodeF h.src (lane h.src h.a k))
          (c.scaleOf h.c sf h.blk16 h.base (hv.tgtAt k))) ∧
    Completes (.vunpack h) s (c.convert hv h.d h.km h.mz false fun _ k => match h.sf with
      | none => convElem h.src h.tgt (fmtRndDet fm) (fmtSat fm) (lane h.src h.a (hv.srcAt k))
      | some sf => scaleRound h.tgt (fmtRndDet fm) (fmtSat fm) false (decodeF h.src (lane h.src h.a (hv.srcAt k)))
          (c.scaleOf h.c sf h.blk16 h.base (hv.srcAt k)))

/-- An instruction of the M slot whose fmt selects a product, or needs none, and whose ranges hold joins the engine's
queue with the operands it captured; one of another format raises FORMAT-FAULT with fmt[63:44]; MWAIT waits for an
empty queue. (Rests on R262–R268, R271–R275, R291.) -/
def Obligations.MatrixIssue : Prop :=
  ∀ (f : MMma) (g : MMmaG) (w : MWld) (d : MZld) (t : MZst) (c : MZclr) (v : MZcvt) (a : MZadd) (q : MWaitI) (s : State) (p : Mma),
    let fmt := s.core.fmt
    let r := fun (x : SReg) => (s.core.readS .m x).toNat
    let joins := fun (i : Instr) (m : MOp) => Becomes i s { s.onEng (fun e => { e with mq := e.mq ++
      [{ m with i := i, fmt := fmt, no := s.stamp, ends := s.core.elapsed + m.beats }] }) with stamp := s.stamp + 1 }
    let rs := mmaRanges p f.wb (r f.a) (r f.b) (r f.c)
    let gs := mmaGRanges p (g.groups.toNat + 1) (r g.a) (r g.b) (r g.c)
    let z : MOp := { i := .zclr c }
    (mmaOf fmt f.k2 f.wb (f.beat.toNat + 1) s.reduced = some p → s.mLocked (.mma f) = false → rngFault rs = none →
      joins (.mma f) { z with a := r f.a, b := r f.b, c := r f.c, beats := f.beat.toNat + 1, track := rngTracks rs }) ∧
    (mmaOf fmt f.k2 f.wb (f.beat.toNat + 1) s.reduced = none → s.readyFor (.mma f) = true →
      exec (.mma f) s = .next (s.faultPart .m formatFault (BitVec.ofNat 64 (field fmt 44 20)))) ∧
    (mmaOf fmt g.k2 true (g.beat.toNat + 1) s.reduced = some p → rngFault gs = none → s.mLocked (.mmaG g) = false →
      joins (.mmaG g) { z with
        a := r g.a, b := r g.b, c := r g.c, beats := g.beat.toNat + 1,
        track := rngTracks gs ++ s.core.grpScales p (r g.b) (g.groups.toNat + 1) }) ∧
    (wldFault w.cw8 (r w.a) (r w.b) (r w.c) = none → s.mLocked (.wld w) = false →
      joins (.wld w) { z with
        a := r w.a, b := r w.b, c := r w.c,
        track := [(r w.b, if w.cw8 then s.core.cwEnd (r w.b) (r w.c) - r w.b else r w.c)] }) ∧
    (r d.a + 4096 ≤ 2 ^ 21 → r d.a % 4096 = 0 → joins (.zld d) { z with a := r d.a, beats := 64, track := [(r d.a, 4096)] }) ∧
    (r d.a + 4096 ≤ 2 ^ 21 → r d.a % 4096 ≠ 0 → s.readyFor (.zld d) = true →
      exec (.zld d) s = .next (s.faultPart .m alignFault (s.core.readS .m d.a))) ∧
    (r t.a + zstBytes t ≤ 2 ^ 21 → r t.a % zstBytes t = 0 → joins (.zst t) { z with a := r t.a, beats := t.beat.toNat + 1 }) ∧
    joins (.zclr c) z ∧ joins (.zadd a) { z with beats := 16 } ∧
    (fmtSto fmt = false ∨ stoTarget v.tgt = false → joins (.zcvt v) { z with srnd := s.core.srnd, beats := 16 }) ∧
    (s.core.eng.mq = [] → Becomes (.mwait q) s s)

/-- At the end of its last beat the instruction at the head of the engine's queue has its effect: ZCLR zeroes the tiles of
its mask, ZLD loads 4096 bytes, ZADD adds element by element, ZCVT writes the packed conversion, and ZST lays its
lines in the shadow and leaves; the ranges of the others are tracked no longer. A WLD of raw bytes copies its range
into the weight buffer, writes nothing else there and leaves. (Rests on R96, R264, R270, R272, R273, R276, R232.) -/
def Obligations.MatrixEngineSteps : Prop :=
  ∀ (s : State) (w : Nat) (m : MOp) (rest : List MOp),
    let c := s.coreAt w
    let stays := { m with ran := true, track := [] } :: rest
    c.eng.mq = m :: rest → m.ran = false → c.held .matrix = false → c.sourcesIn m = true →
      (m.wldPending = none → m.ends ≤ c.elapsed →
        let t := c.matrixStep
        exec (.matrixWriteLand w) s = .next (s.setCore w t) ∧
        (∀ f, m.i = .zclr f → t.eng.mq = stays ∧ ∀ i : ZReg, t.z.get i = if f.mask.getLsbD i.val then 0 else c.z.get i) ∧
        (∀ f, m.i = .zld f → badIn c.spadBad m.a 4096 = none → t.eng.mq = stays ∧
          ∀ i : ZReg, t.z.get i = if i = f.z then BitVec.ofNat 32768 (ofBytes (c.spad.run m.a 4096)) else c.z.get i) ∧
        (∀ f, m.i = .zst f → t.eng.mq = rest ∧ t.z = c.z ∧ t.eng.shadow = c.eng.shadow ++
          shadowLines .matrix .loc m.no m.a (toBytes (4096 / 2 ^ f.sz.toNat) (c.z.get f.z).toNat)) ∧
        (∀ f, m.i = .zadd f → t.eng.mq = stays ∧ ∀ n, n < 1024 → elem (t.z.get f.z) 32 n =
          if fmtAcc m.fmt then (elem (c.z.get f.z) 32 n + elem (c.z.get f.z2) 32 n) % 2 ^ 32
          else (addF .f32 (fmtRndDet m.fmt) (decodeF .f32 (elem (c.z.get f.z) 32 n))
            (decodeF .f32 (elem (c.z.get f.z2) 32 n))).1 % 2 ^ 32) ∧
        (∀ f, m.i = .zcvt f → t.eng.mq = stays ∧ t.z.get f.z = BitVec.ofNat 32768 (c.zcvtTile m f).1)) ∧
      (∀ f, m.i = .wld f →
        let t := c.wldStep
        exec (.wldTransferDone w) s = .next (s.setCore w t) ∧
        (f.cw8 = false → c.spadBad = [] → c.wbuf.wf = true → m.done = 0 → m.c % 64 = 0 →
          t.eng.mq = rest ∧ t.spad = c.spad ∧ ∀ x, t.wbuf.byte x =
            if m.a ≤ x ∧ x < m.a + m.c then c.spad.byte (m.b + (x - m.a)) else c.wbuf.byte x))

/-- MMA gives element (r, n) of its tile its accumulator (0 with clr) plus the products of row r of A and column n of B:
one rounding a summation block for floats, and modulo 2^32 for integers. (Rests on R101, R265, R266.) -/
def Obligations.MatrixProduct : Prop :=
  ∀ (c : Core) (m : MOp) (rest : List MOp) (f : MMma) (g : Mma) (b : Nat),
    c.eng.mq = m :: rest → m.ran = false → m.ends ≤ c.elapsed → c.sourcesIn m = true → m.i = .mma f →
    mmaOf m.fmt f.k2 f.wb m.beats false = some g → c.badOf m.track = none →
      c.mmaB g f.wb m.b = .ok b →
      let t := c.matrixStep
      let d : MmaData := { a := ofBytes (c.spad.run m.a g.aBytes), sa := ofBytes (c.spad.run m.c (32 * g.nsb)), b := b,
                           sb := ofBytes (c.spad.run (m.c + 32 * g.nsb) (32 * g.nsb)) }
      let acc := fun (r n : Nat) => if f.clr then 0 else elem (c.z.get f.z) 32 (32 * r + n)
      t.eng.mq = { m with ran := true, track := [] } :: rest ∧ (∀ i : ZReg, i ≠ f.z → t.z.get i = c.z.get i) ∧
      (∀ r n, r < 32 → n < 32 → elem (t.z.get f.z) 32 (32 * r + n) = (g.element d r n (acc r n)).1 % 2 ^ 32) ∧
      (∀ r n, g.int = true → g.kb = 1 → (g.element d r n (acc r n)).1 = wrapInt 32 ((acc r n : Int) +
        ((List.range g.s).map fun k => intVal g.fa (bitsAt d.a (g.fa.width * (r * g.k + k)) g.fa.width) *
          intVal g.fbx (bitsAt d.b (g.fbx.width * (n * g.k + k)) g.fbx.width)).sum)) ∧
      (∀ r n, g.int = false → g.kb = 1 → (g.element d r n (acc r n)).1 =
        (addF .f32 g.rnd (decodeF .f32 (acc r n)) (g.block d r n 0).1).1)

/-- CP, CP.NAME and CP.WIN, their ranges checked, join the copy engine's queue while it has room for a fourth command; a
length of 0 does nothing, one above 2 MiB raises ACCESS-FAULT, and CP.WAIT waits until every line has committed.
HASH.SHA and HASH.CRC, their ranges checked, join the hash engine's queue; CRC awaits its register, with 0 for a first
call and the register's low word for a later one; HASH.WAIT waits until the engine is done. (Rests on R278–R282,
R285–R287.) -/
def Obligations.CopyAndHashCommands : Prop :=
  (∀ (f : ECp) (g : EDA) (h : EDAB) (q : ENone) (s : State),
     let r := s.core.readS .e
     let n := (r f.b).toNat
     let joins := fun (i : Instr) (c : CpCmd) => s.core.eng.cps.length < 4 → Becomes i s
       { s.onEng (fun e => { e with cps := e.cps ++ [{ c with no := s.stamp }] }) with stamp := s.stamp + 1 }
     let count := (r h.d).toNat / 256 % 256
     (0 < n → n ≤ 2097152 → s.rangeLeaves f.dst (r f.d).toNat n = false → s.rangeLeaves f.src (r f.a).toNat n = false →
       (f.dst ≠ .loc ∨ f.src ≠ .loc ∨ overlaps (r f.d).toNat n (r f.a).toNat n = false) →
       n % 64 = 0 → (r f.d).toNat % 64 = 0 → (r f.a).toNat % 64 = 0 →
       joins (.cp f) { kind := .cp f.dst f.src, d := (r f.d).toNat, a := (r f.a).toNat, n := n }) ∧
     (n = 0 → Becomes (.cp f) s s) ∧
     (2097152 < n → s.readyFor (.cp f) = true → exec (.cp f) s = .next (s.faultPart .e accessFault (r f.a))) ∧
     (∀ m d, s.storedName (r g.a) = .ok m → s.homeDesc m = some d → scratchCheck (r g.d) (tileBytes d) = none →
       joins (.cpName g) { kind := .cp .loc .vm, d := (r g.d).toNat, a := homeVa d m, n := tileBytes d }) ∧
     (0 < (r h.b).toNat → (r h.b).toNat ≤ 2097152 → (r h.d).toNat < 65536 → 1 ≤ count → count ≤ 192 →
       (r h.d).toNat % 256 + count ≤ 192 → s.rangeLeaves .loc (r h.a).toNat (r h.b).toNat = false →
       (∀ i, i < count → s.rankReaches ((r h.d).toNat % 256 + i) (r h.a).toNat (r h.b).toNat = true) →
       (r h.b).toNat % 64 = 0 → (r h.a).toNat % 64 = 0 →
       joins (.cpWin h) { kind := .win ((r h.d).toNat % 256) count, d := (r h.d).toNat, a := (r h.a).toNat, n := (r h.b).toNat }) ∧
     (s.core.eng.cps = [] → (∀ l ∈ s.core.eng.shadow, l.eng ≠ .copy) → Becomes (.cpWait q) s s)) ∧
  (∀ (f : EHash) (g : ECrc) (q : ENone) (s : State),
     let r := s.core.readS .e
     let d := sLoc s.core.view g.d
     let joins := fun (i : Instr) (l : Option Loc) (h : HashCmd) => s.core.eng.hashes.length < 2 →
       Becomes i s { s.onCore (fun c =>
         let k := c.await .e 1 l
         { k with eng := { k.eng with hashes := k.eng.hashes ++ [(s.stamp, h)] } }) with stamp := s.stamp + 1 }
     ((r f.a).toNat + (r f.b).toNat ≤ 2 ^ 21 → (r f.d).toNat < 2 ^ 21 → (r f.d).toNat % 128 = 0 →
       (f.final = true ∨ (r f.b).toNat % 128 = 0) →
       joins (.hashSha f) none (.sha f.init f.final (r f.d).toNat (r f.a).toNat (r f.b).toNat)) ∧
     ((r g.a).toNat + (r g.b).toNat ≤ 2 ^ 21 → joins (.hashCrc g) d (.crc (if g.init then 0 else (r g.d).toNat % 2 ^ 32)
       (d.filter fun l => !s.core.overtaken .e l) (r g.a).toNat (r g.b).toNat)) ∧
     (2 ^ 21 < (r g.a).toNat + (r g.b).toNat → s.readyFor (.hashCrc g) = true →
       exec (.hashCrc g) s = .next (s.faultPart .e accessFault (r g.a))) ∧
     (s.core.eng.hashes = [] → (∀ l ∈ s.core.eng.shadow, l.eng ≠ .hash) → Becomes (.hashWait q) s s))

/-- An engine's command goes as far as it can: a CRC lands in its register the CRC-32C that chains from its start, a SHA
lays its state area in the shadow, and a copied line waits in the shadow for its commit. A line of a shadow commits
whole once no earlier one overlaps it; an engine fault holds the command, counts in FCNT and posts its message;
CORE.EFAULT retries the oldest hold or abandons every hold of the launch, as the hold limit does. (Rests on R279,
R285, R286, R380, R232, R278, R379–R383.) -/
def Obligations.EngineCommandsAndHolds : Prop :=
  (∀ (s : State) (a n d : Nat) (seed : Nat) (l : Option Loc) (bs area : List Byte) (no : Nat) (rest : List (Nat × HashCmd)) (first last : Bool),
     let c := s.core
     let pop := fun (k : Core) => { k with eng := { k.eng with hashes := k.eng.hashes.drop 1 } }
     (∀ w, w = s.cur → c.eng.hashes ≠ [] → c.held .hash = false →
       exec (.engineCommandDone w .hash) s = .next (s.atCore w fun s => s.hashGo.1)) ∧
     (∀ w, (s.coreAt w).eng.cps ≠ [] → (s.coreAt w).held .copy = false →
       exec (.engineCommandDone w .copy) s = .next (s.atCore w fun s => State.noteToken .copy s.copyGo)) ∧
     (c.eng.hashes = (no, .crc seed l a n) :: rest → c.behind no [(.loc a, n)] false = false → s.engineRead .hash a n = .ok bs →
       s.hashGo = (s.onCore fun c => (pop c).land l (not32 (crcRun (not32 seed) bs)), .ok)) ∧
     (c.eng.hashes = (no, .sha first last d a n) :: rest → c.behind no [(.loc a, n), (.loc d, 128)] false = false →
       s.engineRead .hash a n = .ok bs → (if first then .ok [] else s.engineRead .hash d 128) = .ok area →
       s.hashGo = (s.onCore fun c => (pop c).shadow (shadowLines .hash .loc no d (shaArea first last area bs)), .ok)) ∧
     (∀ cmd cs src dst x, c.eng.cps = cmd :: cs → cmd.done < cmd.n → cmd.kind = .cp .loc .loc → s.producerWaits cmd = false →
       src = cmd.a + cmd.done → dst = cmd.d + cmd.done → c.behind cmd.no [(.loc src, 64)] false = false → c.spadBad = [] →
       c.eng.shadow = [] → s.cpLine cmd = (x, .ok) →
       x.core.eng.shadow = [{ eng := .copy, sp := .loc, addr := dst, data := c.spad.run src 64, no := cmd.no }] ∧ x.core.spad = c.spad)) ∧
  (∀ (s t : State) (w i : Nat) (e : Eng) (x : Stop) (l : Shadow) (h : Hold),
     let c := s.coreAt w
     (c.eng.shadow[i]? = some l → s.commits w i l = true →
       exec (.shadowCommit w i) s = .next
         ((s.modCore w fun c => { c with eng := { c.eng with shadow := removeAt c.eng.shadow i } }).commitLine w l)) ∧
     (l.sp = .loc → l.eng ≠ .copy → l.tag = false → s.commitLine w l = s.modCore w fun c => c.spadPut l.addr l.data) ∧
     (c.busy = true → c.engineHeld e = false → s.msgOpen c.task.part = true → s.engineStop w e = (t, some x) →
       exec (.engineFault w e) s = .next (t.holdEngine w e x)) ∧
     (c.eng.holds.find? (·.posted) = some h →
       exec (.coreEfaultRetry w) s = .next (s.modCore w fun c => { c with eng := { c.eng with holds := c.eng.holds.erase h } }) ∧
       exec (.coreEfaultAbandon w) s = .next (s.abandonTask w holdLimit h.cause)) ∧
     (∀ v, (c.eng.holds.find? fun h => h.eng = e) = some h → s.levelOf c.task = some v →
       h.since + 2 ^ (v.hold + 12) ≤ c.cycle.toNat → exec (.holdLimit w e) s = .next (s.abandonTask w holdLimit h.cause)) ∧
     (∀ (p n cause : Nat) (v : Launch), s.launchOf p n = some v → v.hold = some cause → v.reached = false → s.msgOpen p = true →
       s.launchRunners p n = [] → exec (.checkpointHoldReached p n) s = .next
         (((s.modLaunch p n fun l => { l with reached := true }).complete v.cq 5 cause 0 n v.tag).message p
           { type := 3, cause := cause, launch := n })) ∧
     (∀ k : Core, k.eng.holds = [] → (k.abandon e).eng.holds = [] ∧ ∀ y ∈ (k.abandon e).eng.shadow, y.eng ≠ e))

/-- LC.CTX.OPEN takes the lowest EMPTY slot or writes −1; COMMIT of an OPEN slot writes its status and makes the slot
READY with status 0; ABORT and REL empty a slot; LC.STAT reads a status or fuse word; LC.SEL names the slot of LC.RUN.
LC.TBL, LC.RUN, LC.TSLICE, LC.UNSLICE and LC.POP, their operands checked, join the commands outstanding at the fabric
while it has room for a fourth; operand values outside their limits raise ACCESS-FAULT. (Rests on R344, R349,
R369–R373, R353, R359–R368.) -/
def Obligations.CeladonInstructions : Prop :=
  (∀ (f : ED) (g : EDAB) (h : EA) (q : EStat) (k : ESel) (z : ENone) (s : State) (x : FabSlot),
     let r := s.core.readS .e
     let me := s.myCluster
     let idle := s.core.eng.lcs = []
     let free := (List.range 4).find? fun n => (s.fabSlot me n).st = .empty
     let status := commitStatus (s.clusterAt me) x (s.core.spad.run (r g.b).toNat 64)
     let put := fun (t : State) (d : SReg) (v : Nat) => t.onCore fun c => c.writeS .e 1 d (BitVec.ofNat 64 v)
     (idle → free = none → Becomes (.lcCtxOpen f) s (put s f.d (2 ^ 64 - 1))) ∧
     (∀ n, idle → free = some n → Becomes (.lcCtxOpen f) s (put
       (s.setSlot me n { st := .open_, part := s.core.task.part, launch := s.core.task.launch }) f.d n)) ∧
     (idle → s.slotArg (r g.a) [.open_] = some x → scratchCheck (r g.b) 64 = none → s.slotBusy (r g.a).toNat false = false →
       s.core.behind s.stamp [(.loc (r g.b).toNat, 64)] false = false → badIn s.core.spadBad (r g.b).toNat 64 = none →
       Becomes (.lcCtxCommit g) s (put (if status = 0 then s.setSlot me (r g.a).toNat { x with st := .ready } else s) g.d status)) ∧
     (idle → s.slotArg (r g.a) [.open_] = none → s.readyFor (.lcCtxCommit g) = true →
       exec (.lcCtxCommit g) s = .next (s.faultPart .e accessFault (r g.a))) ∧
     (idle → s.slotArg (r h.a) [.open_] = some x → s.slotBusy (r h.a).toNat true = false →
       Becomes (.lcCtxAbort h) s (s.setSlot me (r h.a).toNat {})) ∧
     (idle → s.slotArg (r h.a) [.ready, .poisoned] = some x → s.slotBusy (r h.a).toNat true = false →
       Becomes (.lcCtxRel h) s (s.setSlot me (r h.a).toNat {})) ∧
     (idle → Completes (.lcStat q) s (s.core.writeS .e 1 q.d (if q.what = 0 then (s.fabSlot me q.slot.toNat).status
       else BitVec.ofNat 64 (field (s.clusterAt me).fuse (64 * (q.what.toNat - 1)) 64)))) ∧
     (∀ n, k.k = .imm n → Completes (.lcSel k) s { s.core with lcs := BitVec.ofNat 3 (4 + n.toNat) }) ∧
     (∀ a, k.k = .reg a → (r a).toNat < 4 → Completes (.lcSel k) s { s.core with lcs := BitVec.ofNat 3 (4 + (r a).toNat) }) ∧
     (idle → (∀ l ∈ s.core.eng.shadow, l.eng ≠ .celadon) → Becomes (.lcWait z) s s) ∧
     (commitStatus (s.clusterAt me) x [] = 2 ↔ x.rej.isSome = true)) ∧
  (∀ (f : ETbl) (g : EDAB) (h : ETslice) (u : EUnslice) (s : State),
     let r := s.core.readS .e
     let joins := fun (i : Instr) (l : List (Nat × Nat)) (c : LcCmd) => s.core.eng.lcs.length < 4 →
       rngFault (l.map fun r => { a := r.1, n := r.2 }) = none → Becomes i s
       { s.onEng (fun e => { e with lcs := e.lcs ++ [(s.stamp, c)] }) with stamp := s.stamp + 1 }
     let d := (r g.d).toNat
     let a := (r g.a).toNat
     let b := r g.b
     let nb := field b 48 16 + 1
     let outs := field b 32 13
     let nin := field b 0 11
     let slot := s.core.lcs.toNat % 4
     let n := (r f.b).toNat
     let x := r h.b
     let y := r u.b
     let tslice : LcCmd := .tslice (match h.fmt with
       | .i8 => 0
       | .e4m3 => 1
       | _ => 2) (h.nt.toNat + 1) (64 * h.thr.toNat) (r h.d).toNat (r h.a).toNat (field x 0 10 + 1) (field x 32 16 + 1)
     let unslice : LcCmd := .unslice (match u.elt with
       | .n8 => 1
       | .n16 => 2
       | _ => 4) (u.w.toNat + 1) (r u.d).toNat (r u.a).toNat (field y 0 12 + 1) (field y 32 16 + 1)
     let pop : LcCmd := .pop d a (field b 0 12 + 1) (field b 16 12 + 1) (field b 32 16 + 1)
     (1 ≤ n → n ≤ 16 → (s.slotArg (r f.d) [.open_]).isSome = true →
       joins (.lcTbl f) [((r f.a).toNat, 384 * n), (64 * f.map.toNat, 16)]
         (.tbl (r f.d).toNat (r f.a).toNat n (64 * f.map.toNat) 0)) ∧
     (n = 0 ∨ 16 < n → s.readyFor (.lcTbl f) = true → exec (.lcTbl f) s = .next (s.faultPart .e accessFault (r f.b))) ∧
     (bitOf s.core.lcs 2 = true → (s.slotArg (BitVec.ofNat 64 slot) [.ready, .poisoned]).isSome = true →
       field b 45 3 = 0 → field b 28 4 = 0 → field b 11 5 = 0 → 1 ≤ outs → outs ≤ 4096 → 1 ≤ nin → nin ≤ 1024 →
       field b 16 12 + outs ≤ 4096 →
       joins (.lcRun g) [(d, 8 * outs * nb), (a, 8 * nin * nb)] (.run slot d a nb outs (field b 16 12) nin 0)) ∧
     (field x 10 22 = 0 → field x 48 16 = 0 → (field x 0 10 + 1) * (h.nt.toNat + 1) ≤ 1024 →
       joins (.lcTslice h) (tslice.dest ++ tslice.sources) tslice) ∧
     (field y 12 20 = 0 → field y 48 16 = 0 → (field y 0 12 + 1) * (u.w.toNat + 1) ≤ 4096 →
       joins (.lcUnslice u) (unslice.dest ++ unslice.sources) unslice) ∧
     (field b 12 4 = 0 → field b 28 4 = 0 → field b 48 16 = 0 → (field b 0 12 + 1) * (field b 16 12 + 1) ≤ 4096 →
       joins (.lcPop g) (pop.dest ++ pop.sources) pop))

/-- The fabric reads one record or runs one batch of the first command that can move; a poisoned slot holds its batches
and tells the supervisor, and the supervisor's rewrite makes it READY once its words have the recorded digest and the
wiring holds; the slices and counts of a tensor are taken lane by lane. (Rests on R346, R347, R353–R356, R365–R368.) -/
def Obligations.CeladonFabric : Prop :=
  ∀ (s : State) (q n cell w : Nat) (words : CellWords),
    let f := s.fabSlot q n
    let g := f.rewrite words
    exec (.celadonRecordLoad q) s = .next (s.fabricStep q LcCmd.isTbl) ∧
    exec (.celadonBatch q) s = .next (s.fabricStep q LcCmd.isRun) ∧
    (f.st = .ready → cell < 4096 → s.msgOpen f.part = true → exec (.celadonSlotPoisoned q n cell) s = .next
      ((s.setSlot q n { f with st := .poisoned, badCell := cell, mended := false }).message f.part
        { type := 6, cause := dataFault, launch := f.launch, addr := BitVec.ofNat 64 cell, aux := n % 4 })) ∧
    (f.st = .ready → exec (.celadonPlacedDigest q n) s = .next (s.setSlot q n { f with placed := some (sha512 (placedBytes f.cells)) })) ∧
    (n < 4 → f.st = .poisoned → g.mended = false ∨ f.placed ≠ some (sha512 (placedBytes g.cells)) ∨ wiringOk (s.clusterAt q) g.cells = false →
      exec (.celadonSlotRepair q ⟨n, words⟩) s = .next (s.setSlot q n g)) ∧
    (n < 4 → f.st = .poisoned → g.mended = true → f.placed = some (sha512 (placedBytes g.cells)) → wiringOk (s.clusterAt q) g.cells = true →
      exec (.celadonSlotRepair q ⟨n, words⟩) s = .next ((s.coresOf q).foldl (fun s w => s.modCore w fun c =>
        if c.runsSlot n then { c with eng := { c.eng with holds := c.eng.holds.filter fun h => h.eng ≠ .celadon } } else c)
        (s.setSlot q n { g with st := .ready, badCell := 0, mended := false }))) ∧
    (∀ l, (s.coreAt w).held .celadon = false → (s.coreAt w).eng.lcs.head? = some l → l.2.isTbl = false → l.2.isRun = false →
      exec (.engineCommandDone w .celadon) s = .next (s.atCore w fun s => State.noteToken .celadon s.celadonGo)) ∧
    (∀ (ng g nb i l k : Nat) (planes : List Nat), i < nb → l < 64 → k < ng →
      (popCounts ng g nb planes)[(64 * i + l) * ng + k]? =
        some ((List.range g).map fun x => bitsAt (planes.getD (ng * g * i + g * k + x) 0) l 1).sum)

/-- An idle core that is open is given the best record that it may run; a task whose quantum has run out, or that is
pre-empted, leaves at a bundle boundary or a wait in place once everything issued has completed, unless it completes
or yields in that cycle: it goes to the tail of its priority as READY with cause QUANTUM, or to the head with cause
PRE-EMPTED; its unanswered full-empty requests and LC.CTX commands are withdrawn. A satisfied instance that is first
in order fires, when its level has a free save area and its cluster a free record: its entry is freed and its record
stands READY at the tail of its priority; a record that has waited 65,536 cycles rises by one priority, up to 6, and
is timed afresh. (Rests on R26–R28, R51, R128, R159, R217, R301–R303, R374, R25, R33, R37, R53.) -/
def Obligations.TaskSchedulingAndFiring : Prop :=
  (∀ (s : State) (w : Nat) (r : Rec),
     let f := s.focus w
     let h := f.front
     let g := h.withdrawFe
     let u := g.withdrawClose
     let leaves := h.core.busy = true ∧ h.atBoundary = true ∧ h.feAnswered = false ∧ h.completing = false ∧ g.settled = true
     let left := f.withdrawFe.core.eng.acc
     ((s.coreAt w).busy = false → s.coreOpen w = true → s.pick w = some r →
       exec (.taskDispatch w) s = .next (((s.chosen (s.offers w).length).focus w).dispatch r)) ∧
     (∀ t, r.ctxv = false → s.tmplOf { r with st := 2, prio := s.levelPrio r } = some t →
       (s.dispatch r).core.busy = true ∧ (s.dispatch r).core.task.st = 2 ∧ (s.dispatch r).core.task.addr = r.addr) ∧
     ((s.coreAt w).busy = true → exec (.taskDispatch w) s = .next s) ∧
     (f.quantumOut = true → h.yielding = false → leaves → u.frameWaits = false → u.suspendHere 5 1 false ≠ f →
       exec (.quantumExpiry w) s = .next (u.suspendHere 5 1 false)) ∧
     (f.core.pre = .supervisor → leaves → u.suspendHere 6 7 true ≠ f →
       exec (.preEmption w) s = .next (u.suspendHere 6 7 true)) ∧
     (f.core.busy = true → f.quantumOut = true → exec (.deferredRequestWithdrawn w) s = .next f.withdrawFe) ∧
     (left = f.core.eng.acc.filter fun a => !(a.deferred && !a.asked)) ∧
     (∀ t ∈ left, t.deferred = true → t.asked = true)) ∧
  (∀ (s : State) (q i a : Nat) (e : Entry) (r : Rec),
     let c := s.clusterAt q
     (c.mstore[i]? = some e → exec (.instanceFire q i) s = .next (s.fire q e)) ∧
     (c.mstore[i]? = none → exec (.instanceFire q i) s = .next s) ∧
     (∀ (l : Launch) (v : Level) (t : Tmpl) (x : LInst) (area no share : Nat),
       let level := l.tmplLevel e.tmpl
       let s0 := s.chosen v.freeAreas.length
       let y := firedRec q (q * 2 ^ 22 + no * 2 ^ 6) area l t v x e
       s.launchOf e.part e.launch = some l → l.levelEntry level = some v → l.tmpls[e.tmpl]? = some t →
       (s.partAt e.part).linst e.launch e.level e.linst = some x → v.freeAreas[s.choice v.freeAreas.length]? = some area →
       s0.freeRec q 65536 (s0.choice 65536) = some no → l.ended = false → l.hold = none → e.sat = 0xFF →
       s.firstInOrder l e = true → s.shareOf q y = some share →
       s.fire q e = ((((s0.chosen 65536).dropEntry q e).modLaunch e.part e.launch fun l =>
         { l with levels := l.levels.modify (level - 1) fun v => { v with used := area :: v.used } }).ready
           { y with share := share } 1 false)) ∧
     (s.recAt a = some r → a ∈ c.ready → r.since + 65536 ≤ c.cycle → r.prio < 6 →
       exec (.agingPromotion q a) s = .next ((s.setRec { r with
         prio := r.prio + 1, since := r.since + 65536, seq := c.seqNo + 1 }).setCluster q { c with
           ready := (c.ready.filter fun x => x ≠ a) ++ [a]
           seqNo := c.seqNo + 1 })) ∧
     (s.recAt a = some r → 6 ≤ r.prio → exec (.agingPromotion q a) s = .next s))

/-- A launch queue's entry is taken from its head and accepted or refused with a completion entry; a level instance is
placed and instantiated once its needs are met; a level instance that has lost its last core goes to another domain
instance; a launch whose tasks are gone retires; PART.END ends one and PART.RESUME lifts its hold. (Rests on
R295–R298, R316, R383.) -/
def Obligations.LaunchLife : Prop :=
  ∀ (s t u : State) (p n k i j : Nat) (sup : Bool) (l : Launch) (x : LInst) (v : Level) (e : List Byte),
    let queues := if sup then [64] else List.range 64
    let up := (s.partAt p).enclosing x
    let at_ := s.choice (s.launchQueues p sup).length
    let nos := s.domInstances p x.dom up
    let others := ((s.domInstances p x.dom none).filter fun no => no ≠ x.no).filter fun no => s.qualifies p l { x with no := no }
    (i ∈ s.launchQueues p sup ↔ i ∈ queues ∧ (s.hqAt p i).en = true ∧ 0 < (s.hqAt p i).count) ∧
    (sup = false ∨ (s.partAt p).agents = false → (s.launchQueues p sup)[at_]? = some i →
      (s.chosen (s.launchQueues p sup).length).hqHead p i = (t, some e) →
      ((t.hqPop p i).drainPosts p i).takeLaunch p sup e = some u → exec (.launchAccept p sup) s = .next u) ∧
    ((s.partAt p).linst n k i = some x → s.launchOf p n = some l → x.ready = false → l.ended = false → l.top ≤ k →
      l.levelEntry k = some v → v.costart = false →
      (s.chosen nos.length).placeOne p l x (rotated nos (s.choice nos.length)) = some (u, j) →
      exec (.levelInstantiate p n k i) s = .next u) ∧
    (s.launchOf p n = some l → s.mayRetire p n l = true → exec (.launchRetire p n) s = .next (s.retireLaunch p n l)) ∧
    (s.launchOf p n = some l → s.mayRetire p n l = false → exec (.launchRetire p n) s = .next s) ∧
    (∀ w : Word, s.launchOf p (field w 0 16) = some l → exec (.partEnd p w) s = .next
      ((s.modLaunch p (field w 0 16) fun l => { l with ended := true }).releaseLaunch p (field w 0 16) true)) ∧
    (∀ w : Word, exec (.partResume p w) s = .next
      (s.modLaunch p (field w 0 16) fun l => { l with hold := none, reached := false })) ∧
    ((s.partAt p).linst n k i = some x → s.launchOf p n = some l → x.ready = true → s.instCores p x = [] →
      ((s.domInstances p x.dom none).filter fun no => no ≠ x.no) = [] →
      exec (.levelReplace p n k i) s = .next (s.noCapacityTasks p x)) ∧
    (∀ no r, (s.partAt p).linst n k i = some x → s.launchOf p n = some l → x.ready = true → s.instCores p x = [] →
      others[s.choice others.length]? = some no → (s.chosen others.length).settleInst p l x no = some r →
      r.1.rehome p l x r.2 = some t → exec (.levelReplace p n k i) s = .next t)

/-- A delivery that may be taken leaves the scheduler's inbox when every registration has taken its copy, each staged or
counted, or held for want of a place, and is then acknowledged; a tagged one is not landed and its sender is told; a
pair leaves the filter at its due cycle. A drain marker that every registration of its cluster can take closes their
subscriptions and is accepted; a forwarding instance whose tasks are done publishes a marker under every output name
of its level instance, and its entry is released. (Rests on R62, R72–R75, R82–R83, R318, R385, R408, R46–R49, R52.) -/
def Obligations.DeliveriesAndMarkers : Prop :=
  (∀ (s t : State) (q i : Nat) (x : Packet × Endpoint),
     let c := s.clusterAt q
     let l := s.deliverable q false
     let m := s.deliverable q true
     let without := fun (n : Nat) => (s.chosen n).modCluster q fun c => { c with inbox := removeAt c.inbox i }
     let s1 := without l.length
     let first := l[s.choice l.length]? = some (x, i) ∧ x.1.copies = none
     (l[s.choice l.length]? = some (x, i) → x.1.copies.isSome = true → exec (.delivery q) s = .next (s1.takeCopy q i x)) ∧
     (first → (s1.clusterAt q).inHand x.1 = true → exec (.delivery q) s = .next s1) ∧
     (first → (s1.clusterAt q).inHand x.1 = false → s1.takeDelivery q x = .done t → exec (.delivery q) s = .next t) ∧
     (∀ pkt, first → (s1.clusterAt q).inHand x.1 = false → s1.takeDelivery q x = .split pkt →
       exec (.delivery q) s = .next (s1.takeCopy q i (pkt, x.2))) ∧
     (∀ g, c.copiesOf x.1 = [g] → s.staleColour x.1 = false → s.behindHeld q c.heldIn (copyFor x g).1 = false →
       s.arriveReg q g x.1.plain = some t → s.takeCopy q i x = t.accept q x) ∧
     (exec (.stagingAdmit q) s = .next ((s.replay q).admitHeld q [] ((s.replay q).clusterAt q).heldIn)) ∧
     (m[s.choice m.length]? = some (x, i) →
       exec (.negativeAck q) s = .next { without m.length with
         acks := (without m.length).acks ++ [(without m.length).deliveryAck q x true] }) ∧
     (∀ f, c.filter[i]? = some f → f.due ≤ c.cycle →
       exec (.filterExpiry q i) s = .next (s.setCluster q { c with filter := removeAt c.filter i })) ∧
     (∀ f, c.filter[i]? = some f → c.cycle < f.due → exec (.filterExpiry q i) s = .next s) ∧
     (s.staleColour x.1 = true → s.takeDelivery q x =
       .done ((s.modCluster q fun c => { c with stale := c.stale + 1 }).ackDelivery q x)) ∧
     (∀ g ∈ c.heldRegs x.1, g.task.isSome = true ∧ (x.1.src, x.1.seq) ∉ g.seen)) ∧
  (∀ (s t u : State) (q i : Nat) (x : Packet × Endpoint) (rest : List (Packet × Endpoint)) (e : Entry) (l : Launch),
     let c := s.clusterAt q
     let s1 := s.modCluster q fun c => { c with markers := rest }
     let s2 := s.modCluster q fun c => { c with drainQ := removeAt c.drainQ i }
     (c.markers = x :: rest → s.markOne q 0 x = some t → exec (.drainMarkerArrival q) s = .next t) ∧
     (c.markers = x :: rest → s1.markCopies q x.1 = (u, []) → s.markOne q 0 x = some (u.accept q x)) ∧
     (c.drainQ[i]? = some e → s.hasTask e = true → exec (.drainForward q i) s = .next s) ∧
     (c.drainQ[i]? = some e → s.hasTask e = false → (∀ x, s.entryOf q e = some x → x.sat ≠ 0xFF) →
       s.launchOf e.part e.launch = some l →
       exec (.drainForward q i) s = .next ((s.outNames e.part e.launch e.level e.linst e.tmpl).foldl
         (fun s o => s.inject e.part (.sched q) { name := nameOf l.tenant (nameTensor o) e.colour e.gen e.i e.j e.k 1 })
         ((s2.entryOf q e).elim s2 (s2.releaseEntry q)))))

/-- A router forwards one of its packets that can move; the slot tables of a field move one flit of a circuit for each
entry of the slot, to the next router or into the receive queue of its destination; and an addressed packet takes one
hop of its route word, or leaves the mesh when the route is done. An acknowledgement releases a kept packet, and a
negative one or a timeout sends it once more; a rendezvous slice retains a publication until its due cycle; a root
combines contributions, discards a tagged one, and keeps the bitmap of a released combine for a time. (Rests on
R57–R60, R79, R304–R307, R409, R410, R68, R80, R82, R87, R385, R386.) -/
def Obligations.RoutersAndTransport : Prop :=
  (∀ (s : State) (r p i out slot d circ : Nat) (f : Flight) (a : Addressed) (hops : List Nat) (x : CFlit) (fs ks : List CFlit),
     let l := s.movable r
     let field_ := routerField r
     let u : State := { s with cflits := removeAt s.cflits i }
     let on := (s.addressed.findIdx? fun a => a.at_ = r && a.out.isNone) = some i ∧ s.addressed[i]? = some a ∧
       s.reloading 1 r = false ∧ routePorts a.route = some hops ∧ (s.routerAt a.at_).stops a.inPort a.part = false
     (l[s.choice l.length]? = some (f, i) → exec (.routerForward r) s = .next ((s.chosen l.length).moveFlight i f)) ∧
     (l = [] → exec (.routerForward r) s = .next s) ∧
     (s.cflits = x :: fs → x.at_ = r → x.from_ = p → (s.circReady r p x.pkt.circ).isSome = true →
       (s.routerAt r).slotFor p x.pkt.circ = some (out, slot) →
       exec (.circuitFlit r p) s = .next (s.tickField field_ ((slot + 64 - Table.get 0 s.wafer.netCycles field_ % 64) % 64 + 1))) ∧
     (s.circReady r p circ = some (x, i) → s.flitHeld r out x = false →
       slotMove r (s, ks) (out, p, circ) =
         if out < 4 then ((u.circuitHop r out x).1, ks ++ (u.circuitHop r out x).2) else (u.circuitEject r x, ks)) ∧
     ((s.routerAt (neighbour r d)).stops (oppPort d) x.pkt.part = false → s.stitchFull r d x = false →
       s.circuitHop r d x = (s, [{ x with at_ := neighbour r d, from_ := oppPort d }])) ∧
     (s.recvFull r x = false → s.circuitEject r x = s.modCluster (routerCluster r) fun c => { c with recvQ := c.recvQ ++ [x] }) ∧
     (on → hops[a.hops]? = some d → exec (.addressedRoute r) s = .next { s with
       addressed := replaceAt s.addressed i { a with at_ := neighbour a.at_ d, inPort := oppPort d, hops := a.hops + 1 } }) ∧
     (on → hops[a.hops]? = none → exec (.addressedRoute r) s = .next { s with
       addressed := replaceAt s.addressed i { a with out := some (field a.route 57 4) } })) ∧
  (∀ (s t : State) (q i j k : Nat) (a : Ack) (x : Kept) (pkt : Packet) (rest : List (Nat × Packet)) (cs : List Packet),
     let c := s.clusterAt q
     let acked : State := { s with acks := removeAt s.acks i }
     (s.acks[i]? = some a → a.at_ = none → s.kept.findIdx? a.of = some j → s.kept[j]? = some x → (s.partAt x.pkt.part).namedHeld = false →
       exec (.acknowledgement i) s = .next (if a.neg then acked.resend j x else acked.released j x)) ∧
     (s.acks[i]? = some a → a.at_ = none → s.kept.findIdx? a.of = none → exec (.acknowledgement i) s = .next acked) ∧
     (∀ r b goal, s.acks[i]? = some a → a.at_ = some (r, b) → s.goalOf a.part a.name = some goal → s.ackStale a = false →
       exec (.acknowledgement i) s = .next (if r = goal then s.ackRoot i a b else s.ackUp a r goal)) ∧
     (s.kept[i]? = some x → (s.partAt x.pkt.part).namedHeld = false → x.due ≤ s.clockOf x.owner →
       exec (.resendTimeout i) s = .next (s.resend i x)) ∧
     (s.kept[i]? = some x → s.clockOf x.owner < x.due → exec (.resendTimeout i) s = .next s) ∧
     (c.pubs = (k, pkt) :: rest → (s.modCluster q fun c => { c with pubs := rest }).rendezvous q k pkt = some t →
       exec (.rendezvousRetain q) s = .next t) ∧
     (∀ r, c.retained[i]? = some r → r.gone = false → r.due ≤ c.cycle → s.treeOpen q r.slice r.pkt = false →
       exec (.retainExpiry q i) s = .next (s.setCluster q { c with
         retained := c.retained.modify i fun r => { r with gone := true } })) ∧
     (c.contribs = pkt :: cs → pkt.etag = true →
       exec (.contributionArrival q) s = .next (s.modCluster q fun c => { c with contribs := cs })) ∧
     (∀ y, c.contribs = pkt :: cs → pkt.etag = false → pkt.badData = false → c.combineOf pkt.part pkt.name = some y →
       y.bad = false → y.c.isSome = true →
       exec (.contributionArrival q) s = .next ((s.modCluster q fun c => { c with contribs := cs }).contribute q y pkt)) ∧
     (∀ y, c.combines[i]? = some y → y.published = true → y.kept = true → y.due ≤ c.cycle →
       exec (.combineBitmapExpiry q i) s = .next (s.setCluster q { c with
         combines := c.combines.modify i fun x => { x with kept := false, bitmap := [] } })))

/-- A registration is installed along its path; a late subscription reads its home, or is forwarded to the home's wafer; a
publication is written through; a mirror pair that agrees is published under its output name, and one copy that has
not come in time is reported. (Rests on R60, R63, R67, R69, R71, R402–R404, R431, R432.) -/
def Obligations.HomesAndMirrors : Prop :=
  ∀ (s t : State) (q i j k p : Nat) (g : Reg) (pkt u v : Packet) (n : Quad) (d : BitVec 256) (m : Mirror),
    let late : State := { s with fetches := removeAt s.fetches i }
    let pair := fun (f : List Mirror → List Mirror) => s.modPart p fun x => { x with mirrors := f x.mirrors }
    let at_ := (s.rendSlice p m.prim).elim Endpoint.sienna fun x => .slice x.1 x.2
    let no := fun (x : Option Packet) => (x.map (·.src)).getD (freeHalf s.freeCtr)
    let late1 : State := { pair (fun l => l.modify i fun m => { m with reported := true }) with freeCtr := s.freeCtr + 2 }
    (s.regFl[i]? = some (q, k) → ((s.clusterAt q).regs.find? fun g => g.no = k) = some g → s.pathOpen g = true →
      ({ s with regFl := removeAt s.regFl i } : State).installReg g = some t →
      exec (.subscriptionRegister i) s = .next (t.registered g)) ∧
    (s.fetches[i]? = some (q, n, d) → descHome d = 1 →
      exec (.homeFetch i) s = .next (s.fetchHome i q n d)) ∧
    (s.fetches[i]? = some (q, n, d) → descHome d = 2 →
      s.bolsarPort (s.clusterPart q) (descWafer d) (nameStem n) = some j →
      exec (.remoteForward i) s = .next (late.onWafer fun w =>
        { w with bolsarOut := w.bolsarOut ++ [(j, Frame4.name { name := n, part := s.clusterPart q })] })) ∧
    (s.writes[i]? = some pkt → pkt.desc = some d → descHome d = 1 →
      exec (.writeThrough i) s = .next (s.writeHome i pkt d)) ∧
    ((s.partAt p).mirrors[i]? = some m → m.a = some u → m.b = some v → mirrorDiff m u v = none →
      exec (.mirrorCompare p i) s = .next ((pair fun l => removeAt l i).inject p at_
        { name := m.out, size := u.size, data := u.data })) ∧
    ((s.partAt p).mirrors[i]? = some m → m.reported = false → (m.a.isSome && m.b.isSome) = false →
      m.since + s.wafer.mirWait ≤ (s.clusterAt (((s.rendSlice p m.prim).map (·.1)).getD 0)).cycle →
      exec (.mirrorTimeout p i) s = .next (((late1.chargeCopy m.a).chargeCopy m.b).mirrorReport m.prim 2 0 (no m.a) (no m.b)))

/-- The registers of a partition and of a cluster: each write changes what its fields name or, where its condition fails,
nothing; a load in progress ignores a second one and ends with a result; a read of CLUS.STAGE or CLUS.MSTORE.FILL
starts its peak again. (Rests on R58, R85, R299, R312, R313, R318, R320, R341, R421, R422.) -/
def Obligations.PartitionRegisters : Prop :=
  ∀ (s t : State) (p i q r : Nat) (v : Word) (on : Bool),
    let x := s.partAt p
    let w := s.holdWord p
    let kept := fun (o : Nat) => { x with
      loadBusy := true, load := { op := o, tslot := field v 40 4, pa := field v 0 40 * 4096 } : Part }
    exec (.partHoldNamed p on) s = .next (s.modPart p fun y => { y with
      holdNamed := on, holdCirc := x.holdCirc, holdStr := x.holdStr }) ∧
    exec (.partHoldCirc p on) s = .next (s.modPart p fun y => { y with
      holdNamed := x.holdNamed, holdCirc := on, holdStr := x.holdStr }) ∧
    exec (.partHoldStr p on) s = .next (s.modPart p fun y => { y with
      holdNamed := x.holdNamed, holdCirc := x.holdCirc, holdStr := on }) ∧
    bitOf w 0 = x.holdNamed ∧ bitOf w 1 = x.holdCirc ∧ bitOf w 2 = x.holdStr ∧
    (x.holdNamed = true → s.namedQuiet p = true → 4096 ≤ field v 32 32 → 256 ≤ field v 16 16 → field v 12 4 ≠ 0 →
      exec (.netCfgWrite p v) s = .next (s.modPart p fun y => { y with
        netRetain := field v 32 32, netTimeout := field v 16 16, netLimit := field v 12 4 })) ∧
    (field v 12 4 = 0 → exec (.netCfgWrite p v) s = .next s) ∧
    (bitOf v 0 = false → exec (.xlatRootWrite p i v) s = .next (s.modPart p fun y => { y with
      roots := y.roots.set (i % 16) (rootFields v) })) ∧
    (exec (.rimFeClr p v) s = .next (s.writeFeClr p v)) ∧
    (exec (.keySlotSelect p v) s = .next (s.modPart p fun y => { y with keySel := field v 0 8 })) ∧
    ((Table.get {} x.keys (field v 0 8)).state = 1 → exec (.keySlotClear p v) s = .next (s.modPart p fun y => { y with
      keySel := field v 0 8
      keys := Table.set y.keys (field v 0 8) { Table.get {} x.keys (field v 0 8) with state := 2 } })) ∧
    (∀ k, Table.find x.keys i = some k → k.state = 2 → s.keyBusy k.id = false →
      exec (.keySlotEmpty p i) s = .next (s.modPart p fun y => { y with keys := Table.drop y.keys i })) ∧
    (exec (.clusStageRead q) s = .next (s.modCluster q fun c => { c with peak := s.mostLines q })) ∧
    (2 ≤ field v 0 16 → exec (.clusStageWrite q v) s = .next (s.modCluster q fun c => { c with lines := field v 0 16 })) ∧
    (exec (.clusMstoreFillRead q) s = .next (s.modCluster q fun c => { c with fillSpilled := 0, fillPeak := c.used })) ∧
    (x.loadBusy = false → field v 56 7 = 0 → exec (.partLoadDescriptors p v) s = .next (s.setPart p (kept 1)) ∧
      exec (.partLoadRanges p v) s = .next (s.setPart p (kept 2)) ∧ exec (.partLoadCircuits p v) s = .next (s.setPart p (kept 3))) ∧
    (x.loadBusy = true → exec (.partLoadRanges p v) s = .next (s.setPart p x)) ∧
    (x.loadBusy = true → x.load.op = 1 → s.loadDescs p x.load = (t, r) →
      exec (.partLoadDone p) s = .next (t.modPart p fun y => { y with loadBusy := false, loadRes := r }))

/-- The registers of the management window: a queue's configuration, its doorbell, HEAD and notification words; the record
port; a core's window, closed while it runs a task; the core's own registers written from outside a bundle; Sienna's
and the power caps. A write of the host comes behind those before it at its port. (Rests on R23, R147, R148, R183,
R308–R310, R407, R427, R428, R435, R440, R441.) -/
def Obligations.ManagementRegisters : Prop :=
  ∀ (s : State) (p i w a : Nat) (v : Word) (port : HostPort),
    let q := s.hqAt p i
    let n := (field v 0 32 + 2 ^ 32 - q.head) % 2 ^ 32
    let left := (q.tail + 2 ^ 32 - field v 0 32) % 2 ^ 32
    let mine := s.inWindow p i = true
    let clear := s.portClear port = true
    let off := (a - 0xFFE0000000000) % 0x400000
    (mine → bitOf v 63 = false → bitOf v 62 = false → exec (.hqCfgWrite p i v) s = .next ((s.setHq p i { q with
      en := false, slice := false, logn := field v 58 4, base := field v 6 51 * 2 ^ 6, held := q.held && !bitOf v 57 }).drainAll p i)) ∧
    (clear → mine → q.en = true → q.slice = false → n ≤ q.cap → q.count < n →
      exec (.hqTailWrite p i ⟨port, v⟩) s = .next ((s.setHq p i { q with tail := field v 0 32 }).queueTurned p i (q.count = 0))) ∧
    (clear → mine → q.en = false → exec (.hqTailWrite p i ⟨port, v⟩) s = .next (s.setHq p i { q with ignored := q.ignored + 1 })) ∧
    (s.portClear port = false → exec (.hqTailWrite p i ⟨port, v⟩) s = .next s ∧ exec (.registerWrite a ⟨port, v⟩) s = .next s) ∧
    (mine → q.en = false → exec (.hqHeadWrite p i v) s = .next (s.setHq p i { q with ignored := q.ignored + 1 })) ∧
    (mine → q.en = true → q.slice = false → left ≤ q.cap →
      let t := (s.setHq p i { q with head := field v 0 32 }).drainAll p i
      exec (.hqHeadWrite p i v) s = .next (if left = 0 then t else t.queueTurned p i (q.count = 0))) ∧
    (mine → exec (.hqNotifyWrite p i v) s = .next (s.setHq p i { q with
      pend := q.pend && !bitOf v 17, ien := bitOf v 16, vec := field v 0 16 })) ∧
    (s.inWindow p i = false → exec (.hqNotifyWrite p i v) s = .next s) ∧
    ((s.partAt p).formed = true → exec (.recAddrWrite p v) s = .next (s.modPart p fun x => { x with recAddr := v })) ∧
    (s.portRec p = none → exec (.recDataWrite p i v) s = .next s) ∧
    (∀ r, s.portRec p = some r → s.runnerOf r.addr = none →
      let x := r.put (i % 8) v
      exec (.recDataWrite p i v) s = .next ((if i % 8 = 7 then s.zeroNrep x else s).putRec x)) ∧
    (∀ r k, s.portRec p = some r → s.runnerOf r.addr = some k →
      let x := r.put (i % 8) v
      exec (.recDataWrite p i v) s = .next (s.modCore k fun c =>
        if x.resv ≠ 0 ∨ x.st = 0 ∨ 8 < x.st then { c with doom := some (recordFault, 0), pre := .supervisor }
        else { c with task := { c.task with st := x.st, prio := x.prio, pc := x.pc, scm := x.scm, jump := x.jump } })) ∧
    (off % 8 = 0 → s.windowCore p a 8 = none → exec (.coreWindowWrite p a v) s = .next (s.windowFault p a)) ∧
    (∀ c, off % 8 = 0 → s.windowCore p a 8 = some c →
      (off = 0x209320 → exec (.coreWindowWrite p a v) s = .next (s.writeEfault c v)) ∧
      (off ≠ 0x209320 → (s.coreAt c).busy = true → exec (.coreWindowWrite p a v) s = .next (s.windowFault p a)) ∧
      (off ≠ 0x209320 → (s.coreAt c).busy = false → s.windowHeld c = false →
        exec (.coreWindowWrite p a v) s = .next (s.modCore c fun c => c.windowPut off v))) ∧
    exec (.coreSrndWrite w v) s = .next (s.modCore w fun c => c.sysApply (1, v)) ∧
    exec (.coreCtlScbWrite w v) s = .next (s.modCore w fun c => c.sysApply (0, v)) ∧
    exec (.coreChainWrite w v) s = .next (s.modCore w fun c => c.sysApply (5, v)) ∧
    (∀ c : Core, (c.sysApply (1, v)).srnd = (if v = 0 then 1 else v) ∧ (c.sysApply (1, v)).live = c.live) ∧
    (100 ≤ field v 32 32 → field v 8 8 ≠ 0 → field v 8 8 ≤ 32 → exec (.siennaCfgWrite v) s = .next (s.onWafer fun w => { w with
      interval := field v 32 32, agew := field v 16 16, chq := field v 8 8, sienEn := bitOf v 0 })) ∧
    (40 ≤ field v 0 16 → field v 0 16 ≤ 200 → exec (.pwrCapWrite w v) s = .next
      (s.modCluster w fun c => { c with cap := field v 0 16 })) ∧
    (200 < field v 0 16 → exec (.pwrCapWrite w v) s = .next s) ∧
    (clear → exec (.registerWrite 0x10 ⟨port, v⟩) s = .next (s.onWafer fun w => { w with evQ := v })) ∧
    (a % 8 ≠ 0 → exec (.registerWrite a ⟨port, v⟩) s = .next s)

/-- A page walk for a task loads the TLBs; a corrected error adds 1 to the score of its unit; a configuration region whose
word is uncorrectable is reloaded, with a message and a count, and a second failure in a row is fatal to the
partition; a spill area that faults holds its queue. (Rests on R324, R384, R387, R388, R391, R392, R310.) -/
def Obligations.ErrorsAndReloads : Prop :=
  ∀ (s : State) (w u p i : Nat) (v : Word) (b : Bool) (r : Reload),
    let h := s.hqAt p i
    let rest : State := { s with reloads := s.reloads.erase r }
    let owner := s.regionPart (u / 2 ^ 20) (u % 2 ^ 20)
    let one := (s.reloads.find? fun x => x.unit = u / 2 ^ 20 && x.no = u % 2 ^ 20) = some r
    ((s.coreAt w).busy = true → v.toNat < 2 ^ 57 → exec (.pageWalk w v b) s = .next
      (s.atCore w fun s => (s.xlate v.toNat (if b then .store else .load)).1)) ∧
    (u / 2 ^ 20 ≠ 2 → ∃ t : State, exec (.correctedError u) s = .next t ∧
      (t.unitAt (u / 2 ^ 20) (u % 2 ^ 20)).score = min 0xFFFF ((s.unitAt (u / 2 ^ 20) (u % 2 ^ 20)).score + 1)) ∧
    (u / 2 ^ 20 ≤ 7 → (s.partAt owner).formed = true → s.reloading (u / 2 ^ 20) (u % 2 ^ 20) = false →
      exec (.configReload u) s = .next { s with reloads := s.reloads ++ [{ unit := u / 2 ^ 20, no := u % 2 ^ 20 }] }) ∧
    (one → s.msgOpen owner = true → exec (.configReloadDone u true) s = .next (((rest.reloaded (u / 2 ^ 20) (u % 2 ^ 20)).modCluster
      (s.regionCluster (u / 2 ^ 20) (u % 2 ^ 20)) fun c => { c with cfgErr := c.cfgErr + 1 }).message owner { type := 4, aux := u })) ∧
    (one → r.fails = 0 → exec (.configReloadDone u false) s = .next { s with
      reloads := s.reloads.map fun x => if x = r then { x with fails := 1 } else x }) ∧
    (one → r.fails ≠ 0 → exec (.configReloadDone u false) s = .next (rest.fatal owner)) ∧
    (exec (.fatalError p) s = .next (s.fatal p)) ∧
    ((s.partAt p).formed = false → exec (.fatalError p) s = .next s) ∧
    (h.en = true → h.toSpill = true → h.held = false → h.sbase ≠ 0 →
      exec (.spillFault p i) s = .next ((s.setHq p i { h with held := true }).postLater (s.partAt p).faultQ
        (Message.bytes { type := 5, cause := 0x34, addr := BitVec.ofNat 64 (h.handle p i), aux := h.handle p i })))

/-- An interval halves every score and starts leases; a leased core is saved to a spare and tested, a link is drained, a
channel quiesced; a unit that passes returns to service and one that fails is retired; a margin plan below 1500 MHz
retires its cluster. (Rests on R393–R400, R405, R406, R415.) -/
def Obligations.SiennaLeases : Prop :=
  ∀ (s : State) (w u x p n q : Nat) (g : Nat × Nat × Nat) (l : Level),
    let c := s.coreAt w
    let halved := s.onWafer fun w => { w with
      boundaries := w.boundaries + 1
      units := w.units.map fun e => (e.1, { e.2 with score := e.2.score / 2 }) }
    let link := s.routerPart (linkRouter (u % 2 ^ 20))
    let k := s.clusterAt q
    (s.wafer.sienEn = false → exec .siennaInterval s = .next halved) ∧
    (s.wafer.sienEn = true → exec .siennaInterval s = .next ((List.range 32).foldl State.controllerStarts
      (((List.range 192).filter fun q => halved.serviceable q && (halved.partAt (halved.clusterPart q)).formed).foldl
        State.agentStarts halved))) ∧
    (c.lease = .prepare → c.busy = false → c.region = some g → s.spareFor w = some x →
      exec (.leaseSave w) s = .next ((s.modCore x fun d => d.spadPut 0 (c.spadGet 0 g.2.2)).modCore w fun c =>
        { c with lease := .test, spare := x })) ∧
    (c.lease = .prepare → c.busy = false → c.region = some g → s.spareFor w = none →
      exec (.leaseSave w) s = .next (s.abandonLease 0 w)) ∧
    (u / 2 ^ 20 = 0 → s.leaseOf 0 (u % 2 ^ 20) = .prepare → s.levelOf (s.coreAt (u % 2 ^ 20)).task = some l →
      (s.coreAt (u % 2 ^ 20)).busy = true →
      (s.unitAt 0 (u % 2 ^ 20)).since + l.quantum ≤ (s.coreAt (u % 2 ^ 20)).cycle.toNat →
      exec (.leaseAbandon u) s = .next (s.abandonLease 0 (u % 2 ^ 20))) ∧
    (s.leaseOf 1 (u % 2 ^ 20) = .prepare → s.aroundOk link (linkRouter (u % 2 ^ 20)) (linkPort (u % 2 ^ 20)) = true →
      s.circQuiet link = true → s.linkClear (u % 2 ^ 20) = true →
      exec (.linkDrained u) s = .next (((s.rerouted link fun s => s.setLink (u % 2 ^ 20) false).setLease 1 (u % 2 ^ 20) .test).setCirc link)) ∧
    (s.leaseOf 2 (u % 2 ^ 20) = .prepare → exec (.channelQuiesce u) s = .next (s.setLease 2 (u % 2 ^ 20) .test)) ∧
    (s.leaseOf 2 (u % 2 ^ 20) = .retire → (s.partAt p).owns (u % 2 ^ 20) = true →
      exec (.channelRelease p u) s = .next ((s.setLease 2 (u % 2 ^ 20) .retired).modPart p fun x =>
        { x with gone := x.gone ++ [u % 2 ^ 20] })) ∧
    (u / 2 ^ 20 = 0 → s.leaseOf 0 (u % 2 ^ 20) = .test →
      exec (.leaseTestDone u .pass) s = .next ((s.noteTest 0 (u % 2 ^ 20)).corePassed (u % 2 ^ 20)) ∧
      exec (.leaseTestDone u .marginal) s =
        .next (((s.noteTest 0 (u % 2 ^ 20)).charge 0 (u % 2 ^ 20) 512).corePassed (u % 2 ^ 20)) ∧
      exec (.leaseTestDone u .fail) s = .next ((s.noteTest 0 (u % 2 ^ 20)).retireCore (u % 2 ^ 20) 1)) ∧
    (u / 2 ^ 20 = 4 → s.serviceable (u % 2 ^ 20) = true →
      exec (.operatorCommand u) s = .next (s.retireCluster (u % 2 ^ 20) 2)) ∧
    (s.serviceable q = true → n < 1500 → exec (.marginPlanChange q n) s = .next (s.retireCluster q 1)) ∧
    (s.serviceable q = true → n = k.plan → n % 25 = 0 → 1500 ≤ n → n ≤ 1700 → k.clock = n →
      exec (.marginPlanChange q n) s = .next ((s.setCluster q { k with volt := k.volt + 1 }).clockNotice q))

/-- Greeting raises the links of a cluster, whose stages follow one another; the power cap steps the clock by 25 MHz; 100
°C holds the cluster at 1000 MHz and 110 °C stops the field; the ports of the host and of Bolsar come up. (Rests on
R411–R413, R425, R430, R433–R436.) -/
def Obligations.BringUpAndPower : Prop :=
  ∀ (s : State) (r d q f n i : Nat) (x : Nat × Frame4),
    let c := s.clusterAt q
    let stage := fun (t : State) (k : Nat) => t.modCluster q fun c => { c with stage := k }
    let port := s.wafer.bolsarOut.find? fun x => x.1 = i
    (d < 4 → r < 9216 → inMesh r d = true → s.awake r = true → exec (.greetingBurst r d) s = .next
      (s.modRouter r fun x => { x with sent := x.sent ||| dirBit d })) ∧
    (n ≠ 64 → exec (.greetingAnswer r d n) s = .next s) ∧
    (d < 4 → inMesh r d = true → bitOf (s.routerAt r).sent (3 - d) = true → s.awake (neighbour r d) = true →
      (s.routerAt (neighbour r d)).failed = false → ∃ t : State, exec (.greetingAnswer r d 64) s = .next t ∧ bitOf (t.routerAt r).nbr (3 - d) = true) ∧
    (q < 192 → s.wafer.stopped.contains (fieldOf q) = false →
      (c.stage = 0 → exec (.clusterStageAdvance q n) s = .next (stage ((s.readFuses q n).startCounters q) 1)) ∧
      (c.stage = 1 → s.greeted q = true → exec (.clusterStageAdvance q n) s = .next ((stage s 2).noteField (fieldOf q))) ∧
      (c.stage = 2 → s.clusterLost q = true → exec (.clusterStageAdvance q n) s = .next ((stage s 7).markRetired q)) ∧
      (c.stage = 3 → n ≠ 0 → exec (.clusterStageAdvance q n) s = .next ((stage (s.logRetirement 4 q 1) 7).markRetired q)) ∧
      (c.stage = 3 → exec (.clusterStageAdvance q 0) s =
        .next (stage (s.modCluster q fun c => { c with clock := 1000, plan := 1700 }) 4))) ∧
    (exec (.coldReset f) s = .next (s.resetField f)) ∧
    (c.cap < n → exec (.powerCapStep q n) s = .next (s.setCluster q { c with
      draw := n % 2 ^ 16, clock := max 1000 (c.clock - 25) })) ∧
    (n * 100 < c.cap * 95 → c.hot = true → exec (.powerCapStep q n) s = .next (s.setCluster q { c with
      draw := n % 2 ^ 16, clock := min 1000 (c.clock + 25) })) ∧
    (exec (.thermalHold q) s = .next (s.setCluster q { c with hot := true, clock := 1000 })) ∧
    (c.hot = true → c.stage = 5 → exec (.thermalRelease q) s = .next (s.setCluster q { c with hot := false, clock := c.plan })) ∧
    (f ∉ s.wafer.stopped → 16 ≤ s.fieldPartition f → exec (.thermalStop f) s = .next
      (s.onWafer fun w => { w with stopped := w.stopped ++ [f] })) ∧
    (i < 2 → i ∉ s.wafer.portSeen → exec (.pcieLinkTrain i) s = .next (s.onWafer fun w => { w with portSeen := w.portSeen ++ [i] })) ∧
    (i < 32 → i ∉ s.wafer.linkKey → exec (.bolsarLinkKey i) s = .next (s.onWafer fun w => { w with linkKey := w.linkKey ++ [i] })) ∧
    (port = some x → i ∈ s.wafer.linkKey →
      exec (.bolsarFlit i true) s = .next ((s.onWafer fun w => { w with bolsarOut := w.bolsarOut.erase x }).homeFrame x.2) ∧
      (∀ m, x.2 = .name m → exec (.bolsarFlit i true) s = .next (s.onWafer fun w => { w with
        bolsarOut := w.bolsarOut.erase x, remote := w.remote ++ [m] })) ∧
      exec (.bolsarFlit i false) s = .next (s.charge 3 i 1))

/-- PART.FORM takes a command unless it is busy; the command ends with the first reason of Table 31·5 that applies, and
with none forms the partition or dissolves it; a key-install message is answered and writes its slot; a rim reset
empties every slot; an access through BAR2 is performed. (Rests on R334, R414–R420, R422, R423, R426, R428.) -/
def Obligations.PartitionsAndKeys : Prop :=
  ∀ (s : State) (i : Nat) (v : Word) (m : List Byte) (b : Bar2),
    let w := s.wafer
    let ended := fun (why : Nat) => s.onWafer fun w => { w with formBusy := false, formReason := why }
    let answered := fun (k : Nat) => s.onWafer fun w => { w with spdm := removeAt w.spdm i, answers := w.answers ++ [k] }
    let slot : KeySlot := ⟨1, numAt m 8 2, numAt m 4 4, (s.installCheck m).2, w.keyCtr + 1⟩
    let a := w.number * 2 ^ 41 + b.addr % 2 ^ 41
    let n := min b.n (2 ^ 41 - b.addr % 2 ^ 41)
    (w.formBusy = false →
      exec (.partForm v) s = .next (s.onWafer fun w => { w with formVal := setField v 24 2 1, formCmd := 1, formBusy := true }) ∧
      exec (.partDissolve v) s = .next (s.onWafer fun w => { w with formVal := setField v 24 2 2, formCmd := 2, formBusy := true })) ∧
    (w.formBusy = true → exec (.partForm v) s = .next s ∧ exec (.partDissolve v) s = .next s) ∧
    (w.formBusy = true → w.formCmd = 1 → s.formReasons w.formVal true = 0 →
      exec .partFormDone s = .next ((ended 0).formPart (formOf w.formVal))) ∧
    (w.formBusy = true → w.formCmd = 2 → s.formReasons w.formVal false = 0 →
      exec .partFormDone s = .next ((ended 0).clearPart (formOf w.formVal).pid false)) ∧
    (∀ why, w.formBusy = true → w.formCmd = 1 → s.formReasons w.formVal true = why → why ≠ 0 →
      exec .partFormDone s = .next (ended why)) ∧
    (w.spdm[i]? = some m → (s.installCheck m).1 ≠ 0 → exec (.keyInstall i) s = .next (answered (s.installCheck m).1)) ∧
    (w.spdm[i]? = some m → (s.installCheck m).1 = 0 → exec (.keyInstall i) s = .next
      (((answered 0).modPart (numAt m 2 1) fun x => { x with keys := Table.set x.keys (numAt m 3 1) slot }).onWafer
        fun w => { w with keyCtr := w.keyCtr + 1 })) ∧
    (exec .rimReset s = .next { s with parts := s.parts.map fun e => (e.1, { e.2 with keys := [] }) }) ∧
    (w.bar2[i]? = some b → s.channelsUp a n 1 = true → b.write = true →
      (∀ x ∈ w.bar2.take i, x.write = true → x.port ≠ b.port) → exec (.bar2Access i) s = .next
      ((s.onWafer fun w => { w with bar2 := removeAt w.bar2 i }).storeRaw a (b.data.take n)))
end

