-- ==== Sys2Proof/Laws/Issue.lean ====
section
/-! SUPPORT. What a part can do when it issues: one lemma for each way (R116, R118, R121, R124, R376). -/

namespace Sys2Proof.Machine

/-- The facts that readiness stands for. -/
theorem readyFor_iff {s : State} {i : Instr} :
    s.readyFor i = true ↔ ∃ u, i.uses = some u ∧ s.syncHeld = false ∧ s.core.awaited u.slot (.p u.g.p) = false ∧
      s.core.guardTrue u.slot u.g = true ∧ (u.reads.any (s.core.awaited u.slot) || u.writes.any (s.core.owing u.slot)) = false ∧
      ∀ r ∈ RegRef.p u.g.p :: u.reads, r ∉ s.core.regBad := by
  unfold State.readyFor
  cases i.uses with
  | none => simp
  | some u => simp [and_assoc]

/-- A ready part does what its body says. -/
theorem issueAs_ready {s : State} {i : Instr} {u : Uses} (hu : i.uses = some u) (h : s.readyFor i = true)
    (body : State → Res) :
    s.issueAs u body =
      match body s with
      | .done s' => (s'.mend u.writes).finish u.slot
      | .wait => s.waitPart u.slot
      | .lock => s.lockPart u.slot
      | .bank => s.interlock u.slot
      | .stay s' => s'.waitPart u.slot
      | .fault cause arg => s.faultPart u.slot cause arg
      | .faultIn s' cause arg => if cause = heldBack then s'.waitPart u.slot else s'.faultPart u.slot cause arg
      | .leave s' => s' := by
  obtain ⟨v, hv, h1, h2, h3, h4, h5⟩ := readyFor_iff.1 h
  obtain rfl : v = u := Option.some.inj (hv.symm.trans hu)
  have hn : (RegRef.p v.g.p :: v.reads).find? (fun r => s.core.regBad.contains r) = none := by
    rw [List.find?_eq_none]
    intro r hr hc
    exact h5 r hr (List.contains_iff_mem.1 hc)
  simp only [State.issueAs, h1, h2, h3, h4, hn, Bool.false_eq_true, if_false, Bool.not_true]

theorem issue_done {s t : State} {i : Instr} {body : State → Res} (h : s.readyFor i = true) (hb : body s = .done t) :
    s.issue i body = .next (t.issued i) := by
  obtain ⟨u, hu, -⟩ := readyFor_iff.1 h
  simp only [State.issue, State.issued, hu, issueAs_ready hu h, hb]

theorem issue_wait {s : State} {i : Instr} {u : Uses} {body : State → Res} (hu : i.uses = some u)
    (h : s.readyFor i = true) (hb : body s = .wait) : s.issue i body = .next (s.waitPart u.slot) := by
  simp only [State.issue, hu, issueAs_ready hu h, hb]

theorem issue_lock {s : State} {i : Instr} {u : Uses} {body : State → Res} (hu : i.uses = some u)
    (h : s.readyFor i = true) (hb : body s = .lock) : s.issue i body = .next (s.lockPart u.slot) := by
  simp only [State.issue, hu, issueAs_ready hu h, hb]

theorem issue_stay {s t : State} {i : Instr} {u : Uses} {body : State → Res} (hu : i.uses = some u)
    (h : s.readyFor i = true) (hb : body s = .stay t) : s.issue i body = .next (t.waitPart u.slot) := by
  simp only [State.issue, hu, issueAs_ready hu h, hb]

theorem issue_fault {s : State} {i : Instr} {u : Uses} {body : State → Res} {c : Nat} {a : Word} (hu : i.uses = some u)
    (h : s.readyFor i = true) (hb : body s = .fault c a) : s.issue i body = .next (s.faultPart u.slot c a) := by
  simp only [State.issue, hu, issueAs_ready hu h, hb]

theorem issue_leave {s t : State} {i : Instr} {body : State → Res} (h : s.readyFor i = true) (hb : body s = .leave t) :
    s.issue i body = .next t := by
  obtain ⟨u, hu, -⟩ := readyFor_iff.1 h
  simp only [State.issue, hu, issueAs_ready hu h, hb]

/-- A ready part that only writes registers has the effect of its core function. -/
theorem compute_ready {s : State} {i : Instr} {f : Core → Core} (h : s.readyFor i = true) :
    s.compute i f = .next (s.ran i (f s.core)) := issue_done h rfl

/-- A part whose guard is false has no effect (R116). -/
theorem issue_guard_false {s : State} {i : Instr} {u : Uses} {body : State → Res} (hu : i.uses = some u)
    (h1 : s.syncHeld = false) (h2 : s.core.awaited u.slot (.p u.g.p) = false) (h3 : s.core.guardTrue u.slot u.g = false) :
    s.issue i body = .next (s.finish u.slot) := by
  simp [State.issue, hu, State.issueAs, h1, h2, h3]

/-- Nothing on a core holds a part back: no result is awaited or on its way, no earlier bundle has parts left, and no register
word is uncorrectable. -/
def Core.clear (c : Core) : Bool :=
  c.eng.awaits.isEmpty && c.lands.isEmpty && c.older.isEmpty && c.lat.todo.isEmpty && c.regBad.isEmpty

/-- On a core that is clear, a part issues as soon as its guard is true. -/
theorem ready_of_clear {s : State} {i : Instr} {u : Uses} (hu : i.uses = some u) (h : s.core.clear = true) :
    s.readyFor i = s.core.guardTrue u.slot u.g := by
  simp only [Core.clear, Bool.and_eq_true, List.isEmpty_iff] at h
  obtain ⟨⟨⟨⟨ha, hl⟩, ho⟩, ht⟩, hb⟩ := h
  have h1 : s.core.awaited u.slot = fun _ => false := funext fun r => by
    unfold Core.awaited
    split <;> simp [ha, hl, ho, Core.landing, Core.olderNames]
  have h2 : s.core.owing u.slot = fun _ => false := funext fun r => by
    unfold Core.owing
    split <;> simp [ha, hl, ho, Core.landing, Core.olderNames]
  have h3 : ∀ l : List RegRef, (l.any fun _ => false) = false := fun l => by induction l <;> simp_all
  have h4 : ∀ l : List RegRef, (l.all fun _ => true) = true := fun l => by induction l <;> simp_all
  simp [State.readyFor, hu, State.syncHeld, ht, h1, h2, hb, h3, h4]

/-- p0 and p8 are true guards (R116, R138). -/
theorem guardTrue_hard {c : Core} {k : Slot} {g : Guard} (h : g = ⟨false, 0⟩ ∨ g = ⟨false, 8⟩) : c.guardTrue k g = true := by
  rcases h with rfl | rfl <;> rfl

/-- Every instruction of a slot issues as a part with a body of its own. -/
theorem exec_issue {i : Instr} {u : Uses} (h : i.uses = some u) : ∃ b : State → Res, ∀ s, exec i s = s.issue i b := by
  cases i <;> first | (exfalso; simp [Instr.uses] at h; done) | exact ⟨_, fun _ => rfl⟩

/-- Whatever a part does, a slot instruction answers a next state: it never stops the machine. -/
theorem issue_next (s : State) (i : Instr) (body : State → Res) : ∃ t, s.issue i body = .next t := by
  unfold State.issue
  cases i.uses with
  | none => exact ⟨s, rfl⟩
  | some u => exact ⟨_, rfl⟩

end Sys2Proof.Machine
end

