-- ==== Sys2Proof/Laws/Mem.lean ====
section
/-! SUPPORT. The laws of byte stores and tables: a write changes exactly its bytes and keeps the canonical form, a run of a
store in that form is its bytes in order, and a table answers for a key what was last set for it. -/

namespace Sys2Proof.Machine

/-! ## The canonical form -/

theorem Mem.wfFrom_cons {lo k : Nat} {v : Byte} {t : Mem} :
    Mem.wfFrom lo ((k, v) :: t) = true ↔ lo ≤ k ∧ v ≠ emptyByte ∧ Mem.wfFrom (k + 1) t = true := by
  simp [Mem.wfFrom, and_assoc]

theorem Mem.wfFrom_mono {lo hi : Nat} {m : Mem} (h : Mem.wfFrom hi m = true) (hl : lo ≤ hi) : Mem.wfFrom lo m = true := by
  cases m with
  | nil => rfl
  | cons c t => obtain ⟨h1, h2, h3⟩ := Mem.wfFrom_cons.1 h; exact Mem.wfFrom_cons.2 ⟨hl.trans h1, h2, h3⟩

theorem Mem.byte_below {lo a : Nat} {m : Mem} (h : Mem.wfFrom lo m = true) (ha : a < lo) : m.byte a = emptyByte := by
  cases m with
  | nil => rfl
  | cons c t =>
    obtain ⟨h1, -, -⟩ := Mem.wfFrom_cons.1 h
    have h2 : c.1 ≠ a := by omega
    have h3 : a < c.1 := by omega
    simp [Mem.byte, h2, h3]

theorem Mem.wfFrom_put {a : Nat} {v : Byte} {m : Mem} (h : Mem.wfFrom (a + 1) m = true) :
    Mem.wfFrom a (Mem.cons a v m) = true := by
  unfold Mem.cons
  split
  · exact Mem.wfFrom_mono h (by omega)
  · rename_i hv; exact Mem.wfFrom_cons.2 ⟨le_rfl, hv, h⟩

theorem Mem.wfFrom_laid {bs : List Byte} : ∀ {a : Nat} {m : Mem}, Mem.wfFrom (a + bs.length) m = true →
    Mem.wfFrom a (Mem.laid a bs m) = true := by
  induction bs with
  | nil => intro a m h; exact h
  | cons v t ih =>
    intro a m h
    refine Mem.wfFrom_put (ih (a := a + 1) ?_)
    rw [List.length_cons] at h
    exact Mem.wfFrom_mono h (by omega)

theorem Mem.wfFrom_above {a : Nat} {m : Mem} : ∀ {lo : Nat}, Mem.wfFrom lo m = true → Mem.wfFrom a (Mem.above a m) = true := by
  induction m with
  | nil => intro _ _; rfl
  | cons c t ih =>
    intro lo h
    obtain ⟨h1, h2, h3⟩ := Mem.wfFrom_cons.1 h
    unfold Mem.above
    split
    · exact ih h3
    · exact Mem.wfFrom_cons.2 ⟨by omega, h2, h3⟩

theorem Mem.wfFrom_write {a : Nat} {bs : List Byte} {m : Mem} : ∀ {lo : Nat}, Mem.wfFrom lo m = true → lo ≤ a →
    Mem.wfFrom lo (m.write a bs) = true := by
  induction m with
  | nil => intro lo _ hl; exact Mem.wfFrom_mono (Mem.wfFrom_laid rfl) hl
  | cons c t ih =>
    intro lo h hl
    obtain ⟨h1, h2, h3⟩ := Mem.wfFrom_cons.1 h
    unfold Mem.write
    split
    · rename_i hk; exact Mem.wfFrom_cons.2 ⟨h1, h2, ih h3 (by omega)⟩
    · exact Mem.wfFrom_mono (Mem.wfFrom_laid (Mem.wfFrom_above h)) hl

/-- A write keeps the canonical form. -/
theorem Mem.wf_write {m : Mem} (h : m.wf = true) (a : Nat) (bs : List Byte) : (m.write a bs).wf = true :=
  Mem.wfFrom_write h (Nat.zero_le a)

theorem Mem.wf_nil : Mem.wf [] = true := rfl

/-! ## Reading after writing -/

theorem Mem.byte_put {a x : Nat} {v : Byte} {m : Mem} (h : Mem.wfFrom (a + 1) m = true) :
    (Mem.cons a v m).byte x = if x = a then v else m.byte x := by
  unfold Mem.cons
  by_cases hx : x = a
  · subst hx
    split
    · rename_i hv; rw [Mem.byte_below h (by omega), if_pos rfl, hv]
    · simp [Mem.byte]
  · rw [if_neg hx]
    split
    · rfl
    · have h1 : a ≠ x := fun e => hx e.symm
      by_cases h2 : x < a
      · simp [Mem.byte, h1, h2, Mem.byte_below h (a := x) (by omega)]
      · simp [Mem.byte, h1, h2]

theorem Mem.byte_laid {bs : List Byte} : ∀ {a x : Nat} {m : Mem}, Mem.wfFrom (a + bs.length) m = true →
    (Mem.laid a bs m).byte x = if a ≤ x ∧ x < a + bs.length then bs.getD (x - a) 0 else m.byte x := by
  induction bs with
  | nil => intro a x m h; rw [if_neg (by simp)]; rfl
  | cons v t ih =>
    intro a x m h
    have h' : Mem.wfFrom (a + 1 + t.length) m = true := Mem.wfFrom_mono h (by rw [List.length_cons]; omega)
    have hl : (v :: t).length = t.length + 1 := rfl
    show (Mem.cons a v (Mem.laid (a + 1) t m)).byte x = _
    rw [Mem.byte_put (Mem.wfFrom_laid h'), ih h', hl]
    by_cases hx : x = a
    · subst hx; simp
    · rw [if_neg hx]
      by_cases hin : a + 1 ≤ x ∧ x < a + 1 + t.length
      · rw [if_pos hin, if_pos (by omega)]
        obtain ⟨n, rfl⟩ : ∃ n, x = a + 1 + n := ⟨x - (a + 1), by omega⟩
        have e1 : a + 1 + n - a = n + 1 := by omega
        have e2 : a + 1 + n - (a + 1) = n := by omega
        rw [e1, e2]; rfl
      · rw [if_neg hin, if_neg (by omega)]

theorem Mem.byte_above {a x : Nat} {m : Mem} : ∀ {lo : Nat}, Mem.wfFrom lo m = true →
    (Mem.above a m).byte x = if x < a then emptyByte else m.byte x := by
  induction m with
  | nil => intro _ _; simp [Mem.above, Mem.byte]
  | cons c t ih =>
    intro lo h
    obtain ⟨h1, h2, h3⟩ := Mem.wfFrom_cons.1 h
    unfold Mem.above
    split
    · rename_i hk
      rw [ih h3]
      split
      · rfl
      · have e1 : c.1 ≠ x := by omega
        have e2 : ¬ x < c.1 := by omega
        simp [Mem.byte, e1, e2]
    · rename_i hk
      split
      · exact Mem.byte_below (Mem.wfFrom_cons.2 ⟨le_rfl, h2, h3⟩) (by omega)
      · rfl

theorem Mem.byte_writeFrom {a x : Nat} {bs : List Byte} {m : Mem} : ∀ {lo : Nat}, Mem.wfFrom lo m = true →
    (m.write a bs).byte x = if a ≤ x ∧ x < a + bs.length then bs.getD (x - a) 0 else m.byte x := by
  induction m with
  | nil => intro _ _; exact Mem.byte_laid rfl
  | cons c t ih =>
    intro lo h
    obtain ⟨h1, h2, h3⟩ := Mem.wfFrom_cons.1 h
    unfold Mem.write
    split
    · rename_i hk
      by_cases e1 : c.1 = x
      · rw [if_neg (by omega)]; simp [Mem.byte, e1]
      · by_cases e2 : x < c.1
        · rw [if_neg (by omega)]; simp [Mem.byte, e1, e2]
        · simp [Mem.byte, e1, e2, ih h3]
    · rename_i hk
      rw [Mem.byte_laid (Mem.wfFrom_above h), Mem.byte_above h]
      split
      · rfl
      · rename_i hout
        split
        · exact (Mem.byte_below (Mem.wfFrom_cons.2 ⟨le_rfl, h2, h3⟩) (by omega)).symm
        · rfl

/-- A byte after a write: the written one inside its bytes, the old one outside. -/
theorem Mem.byte_write {m : Mem} (h : m.wf = true) (a x : Nat) (bs : List Byte) :
    (m.write a bs).byte x = if a ≤ x ∧ x < a + bs.length then bs.getD (x - a) 0 else m.byte x := Mem.byte_writeFrom h

theorem Mem.byte_write_of_outside {m : Mem} (h : m.wf = true) {a x : Nat} {bs : List Byte} (hx : x < a ∨ a + bs.length ≤ x) :
    (m.write a bs).byte x = m.byte x := by
  rw [Mem.byte_write h, if_neg (by omega)]

/-! ## Runs of bytes -/

theorem Mem.run_length {n : Nat} : ∀ (m : Mem) (a : Nat), (m.run a n).length = n := by
  induction n with
  | zero => intro _ _; rfl
  | succ n ih =>
    intro m a
    unfold Mem.run
    split
    · simp [ih]
    · split <;> simp [ih]

theorem Mem.run_getD {n : Nat} : ∀ {m : Mem} {lo a i : Nat}, Mem.wfFrom lo m = true → i < n →
    (m.run a n).getD i 0 = m.byte (a + i) := by
  induction n with
  | zero => intro m lo a i _ hi; omega
  | succ n ih =>
    intro m lo a i h hi
    have hw := Mem.wfFrom_above (a := a) h
    have hb : m.byte (a + i) = (Mem.above a m).byte (a + i) := by rw [Mem.byte_above h, if_neg (by omega)]
    rw [hb]
    unfold Mem.run
    cases hm : Mem.above a m with
    | nil =>
      cases i with
      | zero => rfl
      | succ i => exact ih (m := []) (lo := 0) (a := a + 1) rfl (by omega)
    | cons c t =>
      rw [hm] at hw
      obtain ⟨h1, h2, h3⟩ := Mem.wfFrom_cons.1 hw
      by_cases hk : c.1 = a
      · cases i with
        | zero => simp [hk, Mem.byte]
        | succ i =>
          have e1 : c.1 ≠ a + (i + 1) := by omega
          have e2 : ¬ a + (i + 1) < c.1 := by omega
          have e3 : a + (i + 1) = a + 1 + i := by omega
          simp only [hk, if_true, List.getD_cons_succ]
          show _ = if c.1 = a + (i + 1) then c.2 else if a + (i + 1) < c.1 then emptyByte else Mem.byte t (a + (i + 1))
          rw [ih h3 (by omega), if_neg e1, if_neg e2, e3]
      · cases i with
        | zero =>
          have e2 : a < c.1 := by omega
          simp [hk, Mem.byte, e2]
        | succ i =>
          have e3 : a + (i + 1) = a + 1 + i := by omega
          simp only [hk, if_false, List.getD_cons_succ]
          rw [ih hw (by omega), e3]

/-- A run of a store in canonical form is its bytes in order. -/
theorem Mem.run_eq_read {m : Mem} (h : m.wf = true) (a n : Nat) : m.run a n = m.read a n := by
  refine List.ext_getElem (by simp [Mem.run_length, Mem.read]) ?_
  intro i h1 h2
  have hi : i < n := by rw [Mem.run_length] at h1; exact h1
  have := Mem.run_getD (a := a) h hi
  rw [List.getD_eq_getElem _ _ h1] at this
  simp [this, Mem.read]

/-! ## Tables -/

theorem Table.find_set_self {α : Type} (t : Table α) (k : Nat) (v : α) : Table.find (Table.set t k v) k = some v := by
  induction t with
  | nil => simp [Table.set, Table.find]
  | cons e r ih =>
    unfold Table.set
    split
    · simp [Table.find]
    · split
      · simp [Table.find]
      · rename_i h _; simp [Table.find, h, ih]

theorem Table.find_set_ne {α : Type} (t : Table α) {k j : Nat} (h : k ≠ j) (v : α) :
    Table.find (Table.set t k v) j = Table.find t j := by
  induction t with
  | nil => simp [Table.set, Table.find, h]
  | cons e r ih =>
    unfold Table.set
    split
    · rename_i he; simp [Table.find, h, he]
    · split
      · simp [Table.find, h]
      · by_cases e1 : e.1 = j <;> simp [Table.find, e1, ih]

theorem Table.find_set {α : Type} (t : Table α) (k j : Nat) (v : α) :
    Table.find (Table.set t k v) j = if k = j then some v else Table.find t j := by
  split
  · rename_i h; subst h; exact Table.find_set_self t k v
  · rename_i h; exact Table.find_set_ne t h v

@[simp] theorem Table.get_set_self {α : Type} (d : α) (t : Table α) (k : Nat) (v : α) :
    Table.get d (Table.set t k v) k = v := by simp [Table.get, Table.find_set_self]

theorem Table.get_set_ne {α : Type} (d : α) (t : Table α) {k j : Nat} (h : k ≠ j) (v : α) :
    Table.get d (Table.set t k v) j = Table.get d t j := by simp [Table.get, Table.find_set_ne t h]

/-- What holds of every entry of a table, and of a new one, holds of every entry once that is set. -/
theorem Table.all_set {α : Type} {p : α → Bool} {t : Table α} (h : (t.all fun e => p e.2) = true) (k : Nat) {v : α}
    (hv : p v = true) : ((Table.set t k v).all fun e => p e.2) = true := by
  induction t with
  | nil => simp [Table.set, hv]
  | cons e r ih =>
    simp only [List.all_cons, Bool.and_eq_true] at h
    unfold Table.set
    split
    · simp [hv, h.2]
    · split
      · simp [hv, h.1, h.2]
      · simp [h.1, ih h.2]

theorem Table.all_drop {α : Type} {p : α → Bool} {t : Table α} (h : (t.all fun e => p e.2) = true) (k : Nat) :
    ((Table.drop t k).all fun e => p e.2) = true := by
  induction t with
  | nil => rfl
  | cons e r ih =>
    simp only [List.all_cons, Bool.and_eq_true] at h
    unfold Table.drop
    split
    · exact h.2
    · simp [h.1, ih h.2]

theorem Table.all_get {α : Type} {p : α → Bool} {t : Table α} (h : (t.all fun e => p e.2) = true) {d : α} (hd : p d = true)
    (k : Nat) : p (Table.get d t k) = true := by
  induction t with
  | nil => exact hd
  | cons e r ih =>
    simp only [List.all_cons, Bool.and_eq_true] at h
    by_cases he : e.1 = k
    · have : Table.get d (e :: r) k = e.2 := by simp [Table.get, Table.find, he]
      rw [this]; exact h.1
    · have : Table.get d (e :: r) k = Table.get d r k := by simp [Table.get, Table.find, he]
      rw [this]; exact ih h.2

end Sys2Proof.Machine
end

