-- ==== Sys2Proof/Laws/PerInstr.lean ====
section
/-! SUPPORT. A statement about the syntax of every instruction: its encoding stands in the slot that its part issues in, and a
step of the device has neither (Tables 9·3, 9·7). -/

namespace Sys2Proof.Laws.SlotOfEncoding

/-- An instruction has an encoding exactly when it is a part, and then in the slot of that part. -/
def Statement (i : Instr) : Prop := i.encode.map (·.slot) = i.slot

theorem bundleDispatch : Statement .bundleDispatch := rfl
theorem br (f : CJ) : Statement (.br f) := rfl
theorem jmp (f : CJmp) : Statement (.jmp f) := by
  obtain ⟨g, t⟩ := f; cases t <;> rfl
theorem call (f : CJr) : Statement (.call f) := rfl
theorem ret (f : CA) : Statement (.ret f) := rfl
theorem loopSet (f : CAV) : Statement (.loopSet f) := rfl
theorem loopEnd (f : CJr) : Statement (.loopEnd f) := rfl
theorem frameAlloc (f : CImm) : Statement (.frameAlloc f) := rfl
theorem frameFree (f : CNone) : Statement (.frameFree f) := rfl
theorem frameSlotRelease (core : Nat) : Statement (.frameSlotRelease core) := rfl
theorem yield (f : CNone) : Statement (.yield f) := rfl
theorem waitQ (f : CA) : Statement (.waitQ f) := rfl
theorem waitS (f : CSub) : Statement (.waitS f) := rfl
theorem halt (f : CNone) : Statement (.halt f) := rfl
theorem trap (f : CImm) : Statement (.trap f) := rfl
theorem subscribe (f : CNSub) : Statement (.subscribe f) := rfl
theorem unsub (f : CNSub) : Statement (.unsub f) := rfl
theorem bind (f : CBind) : Statement (.bind f) := rfl
theorem wtst (f : CWtst) : Statement (.wtst f) := rfl
theorem pub (f : CPub) : Statement (.pub f) := rfl
theorem pubC (f : CPubC) : Statement (.pubC f) := rfl
theorem steer (f : CSteer) : Statement (.steer f) := rfl
theorem spawn (f : CSpawn) : Statement (.spawn f) := rfl
theorem spawnNb (f : CSpawn) : Statement (.spawnNb f) := rfl
theorem retn (f : CRetn) : Statement (.retn f) := rfl
theorem drain (f : CNone) : Statement (.drain f) := rfl
theorem colourGet (f : CA) : Statement (.colourGet f) := rfl
theorem colourFree (f : CA) : Statement (.colourFree f) := rfl
theorem nameSetField (f : CName) : Statement (.nameSetField f) := rfl
theorem nameSetWhole (f : CNameW) : Statement (.nameSetWhole f) := rfl
theorem nameSetCopy (f : CNameC) : Statement (.nameSetCopy f) := rfl
theorem nameAdd (f : CName) : Statement (.nameAdd f) := rfl
theorem nameLd (f : CNameL) : Statement (.nameLd f) := rfl
theorem pand (f : CP2) : Statement (.pand f) := rfl
theorem por (f : CP2) : Statement (.por f) := rfl
theorem pxor (f : CP2) : Statement (.pxor f) := rfl
theorem pnot (f : CP1) : Statement (.pnot f) := rfl
theorem pmov (f : CP1) : Statement (.pmov f) := rfl
theorem sysRd (f : CSysRd) : Statement (.sysRd f) := rfl
theorem sysWr (f : CSysWr) : Statement (.sysWr f) := rfl
theorem eret (f : CA) : Statement (.eret f) := rfl
theorem eretH (f : CA) : Statement (.eretH f) := rfl
theorem tlbInv (f : CA) : Statement (.tlbInv f) := rfl
theorem tlbInvAll (f : CNone) : Statement (.tlbInvAll f) := rfl
theorem dictLd (f : CAB) : Statement (.dictLd f) := rfl
theorem dictInv (f : CA) : Statement (.dictInv f) := rfl
theorem qenq (f : CAB) : Statement (.qenq f) := rfl
theorem qdeq (f : CAB) : Statement (.qdeq f) := rfl
theorem qenqNb (f : CQp) : Statement (.qenqNb f) := rfl
theorem qdeqNb (f : CQp) : Statement (.qdeqNb f) := rfl
theorem cycleRd (f : CA) : Statement (.cycleRd f) := rfl
theorem fmtSet (f : CA) : Statement (.fmtSet f) := rfl
theorem fmtSetH (f : CLit) : Statement (.fmtSetH f) := rfl
theorem fmtSetC (f : CMask) : Statement (.fmtSetC f) := rfl
theorem fmtRd (f : CA) : Statement (.fmtRd f) := rfl
theorem add (f : SR) : Statement (.add f) := rfl
theorem addi (f : SI) : Statement (.addi f) := rfl
theorem sub (f : SR) : Statement (.sub f) := rfl
theorem mul (f : SR) : Statement (.mul f) := rfl
theorem mulh (f : SR) : Statement (.mulh f) := rfl
theorem mulhN (f : SR) : Statement (.mulhN f) := rfl
theorem div (f : SR) : Statement (.div f) := rfl
theorem divN (f : SR) : Statement (.divN f) := rfl
theorem rem (f : SR) : Statement (.rem f) := rfl
theorem remN (f : SR) : Statement (.remN f) := rfl
theorem min (f : SR) : Statement (.min f) := rfl
theorem minN (f : SR) : Statement (.minN f) := rfl
theorem max (f : SR) : Statement (.max f) := rfl
theorem maxN (f : SR) : Statement (.maxN f) := rfl
theorem and (f : SR) : Statement (.and f) := rfl
theorem or (f : SR) : Statement (.or f) := rfl
theorem xor (f : SR) : Statement (.xor f) := rfl
theorem andn (f : SR) : Statement (.andn f) := rfl
theorem shl (f : SShift) : Statement (.shl f) := rfl
theorem shr (f : SShift) : Statement (.shr f) := rfl
theorem shrN (f : SShift) : Statement (.shrN f) := rfl
theorem rot (f : SShift) : Statement (.rot f) := rfl
theorem clz (f : SU) : Statement (.clz f) := rfl
theorem ctz (f : SU) : Statement (.ctz f) := rfl
theorem popc (f : SU) : Statement (.popc f) := rfl
theorem bfx (f : SBfx) : Statement (.bfx f) := rfl
theorem bfi (f : SBfi) : Statement (.bfi f) := rfl
theorem sext (f : SExt) : Statement (.sext f) := rfl
theorem zext (f : SExt) : Statement (.zext f) := rfl
theorem mov (f : SU) : Statement (.mov f) := rfl
theorem movStream (f : SStream) : Statement (.movStream f) := rfl
theorem movi (f : SMovi) : Statement (.movi f) := rfl
theorem moviZ (f : SMovi) : Statement (.moviZ f) := rfl
theorem moviH (f : SMoviH) : Statement (.moviH f) := rfl
theorem sel (f : SSel) : Statement (.sel f) := rfl
theorem cmpCc (f : SCmp) : Statement (.cmpCc f) := rfl
theorem cmpiCc (f : SCmpi) : Statement (.cmpiCc f) := rfl
theorem lea (f : SLea) : Statement (.lea f) := rfl
theorem fadd (f : SR) : Statement (.fadd f) := rfl
theorem fsub (f : SR) : Statement (.fsub f) := rfl
theorem fmul (f : SR) : Statement (.fmul f) := rfl
theorem ffma (f : SR) : Statement (.ffma f) := rfl
theorem fmin (f : SR) : Statement (.fmin f) := rfl
theorem fmax (f : SR) : Statement (.fmax f) := rfl
theorem fcmpCc (f : SFcmp) : Statement (.fcmpCc f) := rfl
theorem fcvt (f : SFcvt) : Statement (.fcvt f) := rfl
theorem ld (f : MLd) : Statement (.ld f) := rfl
theorem st (f : MSt) : Statement (.st f) := rfl
theorem ldv (f : MVec) : Statement (.ldv f) := rfl
theorem stv (f : MVec) : Statement (.stv f) := rfl
theorem ldvG (f : MGat) : Statement (.ldvG f) := rfl
theorem stvS (f : MGat) : Statement (.stvS f) := rfl
theorem ldFe (f : MFe) : Statement (.ldFe f) := rfl
theorem stFe (f : MFe) : Statement (.stFe f) := rfl
theorem peekFe (f : MPeek) : Statement (.peekFe f) := rfl
theorem mark (f : MFence) : Statement (.mark f) := rfl
theorem fence (f : MFence) : Statement (.fence f) := rfl
theorem atomAdd (f : MAtom) : Statement (.atomAdd f) := rfl
theorem atomMin (f : MAtom) : Statement (.atomMin f) := rfl
theorem atomMax (f : MAtom) : Statement (.atomMax f) := rfl
theorem atomAnd (f : MAtom) : Statement (.atomAnd f) := rfl
theorem atomOr (f : MAtom) : Statement (.atomOr f) := rfl
theorem atomXor (f : MAtom) : Statement (.atomXor f) := rfl
theorem atomSwp (f : MAtom) : Statement (.atomSwp f) := rfl
theorem atomCas (f : MAtom) : Statement (.atomCas f) := rfl
theorem atomFadd (f : MAtomF) : Statement (.atomFadd f) := rfl
theorem atomNib (f : MNib) : Statement (.atomNib f) := rfl
theorem pref (f : MPref) : Statement (.pref f) := rfl
theorem vadd (f : VBinX) : Statement (.vadd f) := rfl
theorem vsub (f : VBinX) : Statement (.vsub f) := rfl
theorem vmul (f : VBinX) : Statement (.vmul f) := rfl
theorem vfma (f : VFma) : Statement (.vfma f) := rfl
theorem vmin (f : VBin) : Statement (.vmin f) := rfl
theorem vmax (f : VBin) : Statement (.vmax f) := rfl
theorem vabs (f : VUnX) : Statement (.vabs f) := rfl
theorem vneg (f : VUnX) : Statement (.vneg f) := rfl
theorem vand (f : VBinX) : Statement (.vand f) := rfl
theorem vor (f : VBinX) : Statement (.vor f) := rfl
theorem vxor (f : VBinX) : Statement (.vxor f) := rfl
theorem vshl (f : VShift) : Statement (.vshl f) := rfl
theorem vshr (f : VShift) : Statement (.vshr f) := rfl
theorem vcmpCc (f : VCmp) : Statement (.vcmpCc f) := rfl
theorem vsel (f : VSel) : Statement (.vsel f) := rfl
theorem vcas (f : VCas) : Statement (.vcas f) := rfl
theorem vcasX (f : VCasX) : Statement (.vcasX f) := rfl
theorem vperm (f : VPerm) : Statement (.vperm f) := rfl
theorem vperm2 (f : VPerm2) : Statement (.vperm2 f) := rfl
theorem vbcastScalar (f : VBcS) : Statement (.vbcastScalar f) := rfl
theorem vbcastLane (f : VBcL) : Statement (.vbcastLane f) := rfl
theorem vbcastLiteral (f : VBcLit) : Statement (.vbcastLiteral f) := rfl
theorem vshuf (f : VShuf) : Statement (.vshuf f) := rfl
theorem vredAdd (f : VRed) : Statement (.vredAdd f) := rfl
theorem vredMax (f : VRed) : Statement (.vredMax f) := rfl
theorem vredMin (f : VRed) : Statement (.vredMin f) := rfl
theorem vscanAdd (f : VUn) : Statement (.vscanAdd f) := rfl
theorem vrcpE (f : VUn) : Statement (.vrcpE f) := rfl
theorem vrsqE (f : VUn) : Statement (.vrsqE f) := rfl
theorem vexp2 (f : VUn) : Statement (.vexp2 f) := rfl
theorem vlog2 (f : VUn) : Statement (.vlog2 f) := rfl
theorem vcvt (f : VCvt) : Statement (.vcvt f) := rfl
theorem vscl (f : VScl) : Statement (.vscl f) := rfl
theorem vpack (f : VPack) : Statement (.vpack f) := rfl
theorem vunpack (f : VPack) : Statement (.vunpack f) := rfl
theorem vmovS (f : VMovS) : Statement (.vmovS f) := rfl
theorem vext (f : VExt) : Statement (.vext f) := rfl
theorem viota (f : VIota) : Statement (.viota f) := rfl
theorem mand (f : MBin) : Statement (.mand f) := rfl
theorem mor (f : MBin) : Statement (.mor f) := rfl
theorem mnot (f : MUn) : Statement (.mnot f) := rfl
theorem vpopc (f : VPopc) : Statement (.vpopc f) := rfl
theorem mma (f : MMma) : Statement (.mma f) := rfl
theorem mmaG (f : MMmaG) : Statement (.mmaG f) := rfl
theorem zclr (f : MZclr) : Statement (.zclr f) := rfl
theorem zld (f : MZld) : Statement (.zld f) := rfl
theorem zst (f : MZst) : Statement (.zst f) := rfl
theorem zcvt (f : MZcvt) : Statement (.zcvt f) := rfl
theorem zadd (f : MZadd) : Statement (.zadd f) := rfl
theorem wld (f : MWld) : Statement (.wld f) := rfl
theorem mwait (f : MWaitI) : Statement (.mwait f) := rfl
theorem matrixWriteLand (core : Nat) : Statement (.matrixWriteLand core) := rfl
theorem wldTransferDone (core : Nat) : Statement (.wldTransferDone core) := rfl
theorem cp (f : ECp) : Statement (.cp f) := rfl
theorem cpName (f : EDA) : Statement (.cpName f) := rfl
theorem cpWin (f : EDAB) : Statement (.cpWin f) := rfl
theorem cpWait (f : ENone) : Statement (.cpWait f) := rfl
theorem sbind (f : ESbind) : Statement (.sbind f) := rfl
theorem scloseMarker (f : EA) : Statement (.scloseMarker f) := rfl
theorem scloseUnbind (f : EW) : Statement (.scloseUnbind f) := rfl
theorem hashSha (f : EHash) : Statement (.hashSha f) := rfl
theorem hashCrc (f : ECrc) : Statement (.hashCrc f) := rfl
theorem hashWait (f : ENone) : Statement (.hashWait f) := rfl
theorem engineCommandDone (core : Nat) (eng : Eng) : Statement (.engineCommandDone core eng) := rfl
theorem shadowCommit (core : Nat) (line : Nat) : Statement (.shadowCommit core line) := rfl
theorem streamLineRequest (core : Nat) (w : Fin 8) : Statement (.streamLineRequest core w) := rfl
theorem streamLineReturn (core : Nat) (w : Fin 8) : Statement (.streamLineReturn core w) := rfl
theorem lcCtxOpen (f : ED) : Statement (.lcCtxOpen f) := rfl
theorem lcCtxCommit (f : EDAB) : Statement (.lcCtxCommit f) := rfl
theorem lcCtxAbort (f : EA) : Statement (.lcCtxAbort f) := rfl
theorem lcCtxRel (f : EA) : Statement (.lcCtxRel f) := rfl
theorem lcTbl (f : ETbl) : Statement (.lcTbl f) := rfl
theorem celadonRecordLoad (cluster : Nat) : Statement (.celadonRecordLoad cluster) := rfl
theorem lcSel (f : ESel) : Statement (.lcSel f) := by
  rcases f with ⟨_, _, _ | _⟩ <;> rfl
theorem lcRun (f : EDAB) : Statement (.lcRun f) := rfl
theorem celadonBatch (cluster : Nat) : Statement (.celadonBatch cluster) := rfl
theorem lcTslice (f : ETslice) : Statement (.lcTslice f) := rfl
theorem lcUnslice (f : EUnslice) : Statement (.lcUnslice f) := rfl
theorem lcPop (f : EDAB) : Statement (.lcPop f) := rfl
theorem lcWait (f : ENone) : Statement (.lcWait f) := rfl
theorem lcStat (f : EStat) : Statement (.lcStat f) := rfl
theorem quantumExpiry (core : Nat) : Statement (.quantumExpiry core) := rfl
theorem preEmption (core : Nat) : Statement (.preEmption core) := rfl
theorem taskDispatch (core : Nat) : Statement (.taskDispatch core) := rfl
theorem instanceFire (cluster : Nat) (idx : Nat) : Statement (.instanceFire cluster idx) := rfl
theorem launchAccept (part : Nat) (sup : Bool) : Statement (.launchAccept part sup) := rfl
theorem levelInstantiate (part : Nat) (launch : Nat) (level : Nat) (inst : Nat) : Statement (.levelInstantiate part launch level inst) := rfl
theorem launchRetire (part : Nat) (launch : Nat) : Statement (.launchRetire part launch) := rfl
theorem routerForward (router : Nat) : Statement (.routerForward router) := rfl
theorem subscriptionRegister (idx : Nat) : Statement (.subscriptionRegister idx) := rfl
theorem homeFetch (idx : Nat) : Statement (.homeFetch idx) := rfl
theorem remoteForward (idx : Nat) : Statement (.remoteForward idx) := rfl
theorem rendezvousRetain (cluster : Nat) : Statement (.rendezvousRetain cluster) := rfl
theorem writeThrough (idx : Nat) : Statement (.writeThrough idx) := rfl
theorem delivery (cluster : Nat) : Statement (.delivery cluster) := rfl
theorem stagingAdmit (cluster : Nat) : Statement (.stagingAdmit cluster) := rfl
theorem drainMarkerArrival (cluster : Nat) : Statement (.drainMarkerArrival cluster) := rfl
theorem drainForward (cluster : Nat) (idx : Nat) : Statement (.drainForward cluster idx) := rfl
theorem contributionArrival (cluster : Nat) : Statement (.contributionArrival cluster) := rfl
theorem acknowledgement (idx : Nat) : Statement (.acknowledgement idx) := rfl
theorem circuitFlit (router : Nat) (port : Nat) : Statement (.circuitFlit router port) := rfl
theorem storeBufferDrain (cluster : Nat) (idx : Nat) : Statement (.storeBufferDrain cluster idx) := rfl
theorem rimAccessRequest (idx : Nat) : Statement (.rimAccessRequest idx) := rfl
theorem accessDataReturn (core : Nat) (idx : Nat) : Statement (.accessDataReturn core idx) := rfl
theorem engineFault (core : Nat) (eng : Eng) : Statement (.engineFault core eng) := rfl
theorem checkpointHoldReached (part : Nat) (launch : Nat) : Statement (.checkpointHoldReached part launch) := rfl
theorem keySlotEmpty (part : Nat) (slot : Nat) : Statement (.keySlotEmpty part slot) := rfl
theorem partLoadDone (part : Nat) : Statement (.partLoadDone part) := rfl
theorem partFormDone : Statement .partFormDone := rfl
theorem celadonSlotPoisoned (cluster : Nat) (slot : Nat) (cell : Nat) : Statement (.celadonSlotPoisoned cluster slot cell) := rfl
theorem celadonSlotRepair (cluster : Nat) (slot : SlotWords) : Statement (.celadonSlotRepair cluster slot) := rfl
theorem celadonPlacedDigest (cluster : Nat) (slot : Nat) : Statement (.celadonPlacedDigest cluster slot) := rfl
theorem coreChainWrite (core : Nat) (v : Word) : Statement (.coreChainWrite core v) := rfl
theorem agingPromotion (cluster : Nat) (rec : Nat) : Statement (.agingPromotion cluster rec) := rfl
theorem levelReplace (part : Nat) (launch : Nat) (level : Nat) (inst : Nat) : Statement (.levelReplace part launch level inst) := rfl
theorem addressedRoute (router : Nat) : Statement (.addressedRoute router) := rfl
theorem retainExpiry (cluster : Nat) (idx : Nat) : Statement (.retainExpiry cluster idx) := rfl
theorem combineBitmapExpiry (cluster : Nat) (idx : Nat) : Statement (.combineBitmapExpiry cluster idx) := rfl
theorem resendTimeout (idx : Nat) : Statement (.resendTimeout idx) := rfl
theorem negativeAck (cluster : Nat) : Statement (.negativeAck cluster) := rfl
theorem filterExpiry (cluster : Nat) (idx : Nat) : Statement (.filterExpiry cluster idx) := rfl
theorem pageWalk (core : Nat) (va : Word) (write : Bool) : Statement (.pageWalk core va write) := rfl
theorem holdLimit (core : Nat) (eng : Eng) : Statement (.holdLimit core eng) := rfl
theorem correctedError (unit : Nat) : Statement (.correctedError unit) := rfl
theorem configReload (region : Nat) : Statement (.configReload region) := rfl
theorem configReloadDone (region : Nat) (ok : Bool) : Statement (.configReloadDone region ok) := rfl
theorem fatalError (part : Nat) : Statement (.fatalError part) := rfl
theorem spillFault (part : Nat) (q : Nat) : Statement (.spillFault part q) := rfl
theorem siennaInterval : Statement .siennaInterval := rfl
theorem leaseSave (core : Nat) : Statement (.leaseSave core) := rfl
theorem leaseAbandon (core : Nat) : Statement (.leaseAbandon core) := rfl
theorem linkDrained (unit : Nat) : Statement (.linkDrained unit) := rfl
theorem channelQuiesce (unit : Nat) : Statement (.channelQuiesce unit) := rfl
theorem leaseTestDone (unit : Nat) (result : TestResult) : Statement (.leaseTestDone unit result) := rfl
theorem mirrorCompare (part : Nat) (pair : Nat) : Statement (.mirrorCompare part pair) := rfl
theorem mirrorTimeout (part : Nat) (pair : Nat) : Statement (.mirrorTimeout part pair) := rfl
theorem marginPlanChange (cluster : Nat) (plan : Nat) : Statement (.marginPlanChange cluster plan) := rfl
theorem powerCapStep (cluster : Nat) (draw : Nat) : Statement (.powerCapStep cluster draw) := rfl
theorem thermalHold (cluster : Nat) : Statement (.thermalHold cluster) := rfl
theorem thermalStop (field : Nat) : Statement (.thermalStop field) := rfl
theorem coldReset (field : Nat) : Statement (.coldReset field) := rfl
theorem clusterStageAdvance (cluster : Nat) (found : Nat) : Statement (.clusterStageAdvance cluster found) := rfl
theorem greetingBurst (router : Nat) (port : Nat) : Statement (.greetingBurst router port) := rfl
theorem greetingAnswer (router : Nat) (port : Nat) (intact : Nat) : Statement (.greetingAnswer router port intact) := rfl
theorem bolsarFlit (port : Nat) (crcOk : Bool) : Statement (.bolsarFlit port crcOk) := rfl
theorem pcieLinkTrain (port : Nat) : Statement (.pcieLinkTrain port) := rfl
theorem bar2Access (idx : Nat) : Statement (.bar2Access idx) := rfl
theorem keyInstall (idx : Nat) : Statement (.keyInstall idx) := rfl
theorem keySlotSelect (part : Nat) (v : Word) : Statement (.keySlotSelect part v) := rfl
theorem keySlotClear (part : Nat) (v : Word) : Statement (.keySlotClear part v) := rfl
theorem rimFeClr (part : Nat) (v : Word) : Statement (.rimFeClr part v) := rfl
theorem hqCfgWrite (part : Nat) (q : Nat) (v : Word) : Statement (.hqCfgWrite part q v) := rfl
theorem hqTailWrite (part : Nat) (q : Nat) (v : HostWord) : Statement (.hqTailWrite part q v) := rfl
theorem hqHeadWrite (part : Nat) (q : Nat) (v : Word) : Statement (.hqHeadWrite part q v) := rfl
theorem hqNotifyWrite (part : Nat) (q : Nat) (v : Word) : Statement (.hqNotifyWrite part q v) := rfl
theorem partHoldNamed (part : Nat) (on : Bool) : Statement (.partHoldNamed part on) := rfl
theorem partHoldCirc (part : Nat) (on : Bool) : Statement (.partHoldCirc part on) := rfl
theorem partHoldStr (part : Nat) (on : Bool) : Statement (.partHoldStr part on) := rfl
theorem partLoadDescriptors (part : Nat) (v : Word) : Statement (.partLoadDescriptors part v) := rfl
theorem partLoadRanges (part : Nat) (v : Word) : Statement (.partLoadRanges part v) := rfl
theorem partLoadCircuits (part : Nat) (v : Word) : Statement (.partLoadCircuits part v) := rfl
theorem partEnd (part : Nat) (v : Word) : Statement (.partEnd part v) := rfl
theorem partResume (part : Nat) (v : Word) : Statement (.partResume part v) := rfl
theorem partForm (v : Word) : Statement (.partForm v) := rfl
theorem partDissolve (v : Word) : Statement (.partDissolve v) := rfl
theorem coreEfaultRetry (core : Nat) : Statement (.coreEfaultRetry core) := rfl
theorem coreEfaultAbandon (core : Nat) : Statement (.coreEfaultAbandon core) := rfl
theorem recAddrWrite (part : Nat) (v : Word) : Statement (.recAddrWrite part v) := rfl
theorem recDataWrite (part : Nat) (idx : Nat) (v : Word) : Statement (.recDataWrite part idx v) := rfl
theorem coreWindowWrite (part : Nat) (addr : Nat) (v : Word) : Statement (.coreWindowWrite part addr v) := rfl
theorem netCfgWrite (part : Nat) (v : Word) : Statement (.netCfgWrite part v) := rfl
theorem clusStageWrite (cluster : Nat) (v : Word) : Statement (.clusStageWrite cluster v) := rfl
theorem xlatRootWrite (part : Nat) (idx : Nat) (v : Word) : Statement (.xlatRootWrite part idx v) := rfl
theorem siennaCfgWrite (v : Word) : Statement (.siennaCfgWrite v) := rfl
theorem pwrCapWrite (cluster : Nat) (v : Word) : Statement (.pwrCapWrite cluster v) := rfl
theorem coreSrndWrite (core : Nat) (v : Word) : Statement (.coreSrndWrite core v) := rfl
theorem coreCtlScbWrite (core : Nat) (v : Word) : Statement (.coreCtlScbWrite core v) := rfl
theorem clusMstoreFillRead (cluster : Nat) : Statement (.clusMstoreFillRead cluster) := rfl
theorem clusStageRead (cluster : Nat) : Statement (.clusStageRead cluster) := rfl
theorem registerWrite (addr : Nat) (v : HostWord) : Statement (.registerWrite addr v) := rfl
theorem thermalRelease (cluster : Nat) : Statement (.thermalRelease cluster) := rfl
theorem deferredRequestWithdrawn (core : Nat) : Statement (.deferredRequestWithdrawn core) := rfl
theorem bolsarLinkKey (port : Nat) : Statement (.bolsarLinkKey port) := rfl
theorem rimReset : Statement .rimReset := rfl
theorem channelRelease (part : Nat) (unit : Nat) : Statement (.channelRelease part unit) := rfl
theorem operatorCommand (unit : Nat) : Statement (.operatorCommand unit) := rfl

end Sys2Proof.Laws.SlotOfEncoding
end

