-- ==== Sys2Proof/Laws/State.lean ====
section
/-! SUPPORT. What each update of the state and of a core leaves in each field: one lemma for a field of an update. -/

namespace Sys2Proof.Machine

@[simp] theorem State.onCore_agenda (s : State) (f : Core → Core) : (s.onCore f).agenda = s.agenda := rfl
@[simp] theorem State.onCore_cur (s : State) (f : Core → Core) : (s.onCore f).cur = s.cur := rfl
@[simp] theorem State.onCore_core (s : State) (f : Core → Core) : (s.onCore f).core = f s.core := rfl
@[simp] theorem State.onCore_others (s : State) (f : Core → Core) : (s.onCore f).others = s.others := rfl
@[simp] theorem State.onCore_clusters (s : State) (f : Core → Core) : (s.onCore f).clusters = s.clusters := rfl
@[simp] theorem State.onCore_routers (s : State) (f : Core → Core) : (s.onCore f).routers = s.routers := rfl
@[simp] theorem State.onCore_parts (s : State) (f : Core → Core) : (s.onCore f).parts = s.parts := rfl
@[simp] theorem State.onCore_recs (s : State) (f : Core → Core) : (s.onCore f).recs = s.recs := rfl
@[simp] theorem State.onCore_hbm (s : State) (f : Core → Core) : (s.onCore f).hbm = s.hbm := rfl
@[simp] theorem State.onCore_flights (s : State) (f : Core → Core) : (s.onCore f).flights = s.flights := rfl
@[simp] theorem State.onCore_cflits (s : State) (f : Core → Core) : (s.onCore f).cflits = s.cflits := rfl
@[simp] theorem State.onCore_kept (s : State) (f : Core → Core) : (s.onCore f).kept = s.kept := rfl
@[simp] theorem State.onCore_acks (s : State) (f : Core → Core) : (s.onCore f).acks = s.acks := rfl
@[simp] theorem State.onCore_seqs (s : State) (f : Core → Core) : (s.onCore f).seqs = s.seqs := rfl
@[simp] theorem State.onCore_regNo (s : State) (f : Core → Core) : (s.onCore f).regNo = s.regNo := rfl
@[simp] theorem State.onCore_regFl (s : State) (f : Core → Core) : (s.onCore f).regFl = s.regFl := rfl
@[simp] theorem State.onCore_fetches (s : State) (f : Core → Core) : (s.onCore f).fetches = s.fetches := rfl
@[simp] theorem State.onCore_writes (s : State) (f : Core → Core) : (s.onCore f).writes = s.writes := rfl
@[simp] theorem State.onCore_addressed (s : State) (f : Core → Core) : (s.onCore f).addressed = s.addressed := rfl
@[simp] theorem State.onCore_reloads (s : State) (f : Core → Core) : (s.onCore f).reloads = s.reloads := rfl
@[simp] theorem State.onCore_wafer (s : State) (f : Core → Core) : (s.onCore f).wafer = s.wafer := rfl
@[simp] theorem State.onCore_freeCtr (s : State) (f : Core → Core) : (s.onCore f).freeCtr = s.freeCtr := rfl
@[simp] theorem State.onCore_stamp (s : State) (f : Core → Core) : (s.onCore f).stamp = s.stamp := rfl

@[simp] theorem State.onEng_agenda (s : State) (f : Engines → Engines) : (s.onEng f).agenda = s.agenda := rfl
@[simp] theorem State.onEng_cur (s : State) (f : Engines → Engines) : (s.onEng f).cur = s.cur := rfl
@[simp] theorem State.onEng_core (s : State) (f : Engines → Engines) : (s.onEng f).core = { s.core with eng := f s.core.eng } :=
  rfl
@[simp] theorem State.onEng_others (s : State) (f : Engines → Engines) : (s.onEng f).others = s.others := rfl
@[simp] theorem State.onEng_clusters (s : State) (f : Engines → Engines) : (s.onEng f).clusters = s.clusters := rfl
@[simp] theorem State.onEng_routers (s : State) (f : Engines → Engines) : (s.onEng f).routers = s.routers := rfl
@[simp] theorem State.onEng_parts (s : State) (f : Engines → Engines) : (s.onEng f).parts = s.parts := rfl
@[simp] theorem State.onEng_recs (s : State) (f : Engines → Engines) : (s.onEng f).recs = s.recs := rfl
@[simp] theorem State.onEng_hbm (s : State) (f : Engines → Engines) : (s.onEng f).hbm = s.hbm := rfl
@[simp] theorem State.onEng_flights (s : State) (f : Engines → Engines) : (s.onEng f).flights = s.flights := rfl
@[simp] theorem State.onEng_cflits (s : State) (f : Engines → Engines) : (s.onEng f).cflits = s.cflits := rfl
@[simp] theorem State.onEng_kept (s : State) (f : Engines → Engines) : (s.onEng f).kept = s.kept := rfl
@[simp] theorem State.onEng_acks (s : State) (f : Engines → Engines) : (s.onEng f).acks = s.acks := rfl
@[simp] theorem State.onEng_seqs (s : State) (f : Engines → Engines) : (s.onEng f).seqs = s.seqs := rfl
@[simp] theorem State.onEng_regNo (s : State) (f : Engines → Engines) : (s.onEng f).regNo = s.regNo := rfl
@[simp] theorem State.onEng_regFl (s : State) (f : Engines → Engines) : (s.onEng f).regFl = s.regFl := rfl
@[simp] theorem State.onEng_fetches (s : State) (f : Engines → Engines) : (s.onEng f).fetches = s.fetches := rfl
@[simp] theorem State.onEng_writes (s : State) (f : Engines → Engines) : (s.onEng f).writes = s.writes := rfl
@[simp] theorem State.onEng_addressed (s : State) (f : Engines → Engines) : (s.onEng f).addressed = s.addressed := rfl
@[simp] theorem State.onEng_reloads (s : State) (f : Engines → Engines) : (s.onEng f).reloads = s.reloads := rfl
@[simp] theorem State.onEng_wafer (s : State) (f : Engines → Engines) : (s.onEng f).wafer = s.wafer := rfl
@[simp] theorem State.onEng_freeCtr (s : State) (f : Engines → Engines) : (s.onEng f).freeCtr = s.freeCtr := rfl
@[simp] theorem State.onEng_stamp (s : State) (f : Engines → Engines) : (s.onEng f).stamp = s.stamp := rfl

@[simp] theorem State.onWafer_agenda (s : State) (f : Wafer → Wafer) : (s.onWafer f).agenda = s.agenda := rfl
@[simp] theorem State.onWafer_cur (s : State) (f : Wafer → Wafer) : (s.onWafer f).cur = s.cur := rfl
@[simp] theorem State.onWafer_core (s : State) (f : Wafer → Wafer) : (s.onWafer f).core = s.core := rfl
@[simp] theorem State.onWafer_others (s : State) (f : Wafer → Wafer) : (s.onWafer f).others = s.others := rfl
@[simp] theorem State.onWafer_clusters (s : State) (f : Wafer → Wafer) : (s.onWafer f).clusters = s.clusters := rfl
@[simp] theorem State.onWafer_routers (s : State) (f : Wafer → Wafer) : (s.onWafer f).routers = s.routers := rfl
@[simp] theorem State.onWafer_parts (s : State) (f : Wafer → Wafer) : (s.onWafer f).parts = s.parts := rfl
@[simp] theorem State.onWafer_recs (s : State) (f : Wafer → Wafer) : (s.onWafer f).recs = s.recs := rfl
@[simp] theorem State.onWafer_hbm (s : State) (f : Wafer → Wafer) : (s.onWafer f).hbm = s.hbm := rfl
@[simp] theorem State.onWafer_flights (s : State) (f : Wafer → Wafer) : (s.onWafer f).flights = s.flights := rfl
@[simp] theorem State.onWafer_cflits (s : State) (f : Wafer → Wafer) : (s.onWafer f).cflits = s.cflits := rfl
@[simp] theorem State.onWafer_kept (s : State) (f : Wafer → Wafer) : (s.onWafer f).kept = s.kept := rfl
@[simp] theorem State.onWafer_acks (s : State) (f : Wafer → Wafer) : (s.onWafer f).acks = s.acks := rfl
@[simp] theorem State.onWafer_seqs (s : State) (f : Wafer → Wafer) : (s.onWafer f).seqs = s.seqs := rfl
@[simp] theorem State.onWafer_regNo (s : State) (f : Wafer → Wafer) : (s.onWafer f).regNo = s.regNo := rfl
@[simp] theorem State.onWafer_regFl (s : State) (f : Wafer → Wafer) : (s.onWafer f).regFl = s.regFl := rfl
@[simp] theorem State.onWafer_fetches (s : State) (f : Wafer → Wafer) : (s.onWafer f).fetches = s.fetches := rfl
@[simp] theorem State.onWafer_writes (s : State) (f : Wafer → Wafer) : (s.onWafer f).writes = s.writes := rfl
@[simp] theorem State.onWafer_addressed (s : State) (f : Wafer → Wafer) : (s.onWafer f).addressed = s.addressed := rfl
@[simp] theorem State.onWafer_reloads (s : State) (f : Wafer → Wafer) : (s.onWafer f).reloads = s.reloads := rfl
@[simp] theorem State.onWafer_wafer (s : State) (f : Wafer → Wafer) : (s.onWafer f).wafer = f s.wafer := rfl
@[simp] theorem State.onWafer_freeCtr (s : State) (f : Wafer → Wafer) : (s.onWafer f).freeCtr = s.freeCtr := rfl
@[simp] theorem State.onWafer_stamp (s : State) (f : Wafer → Wafer) : (s.onWafer f).stamp = s.stamp := rfl

@[simp] theorem State.setCluster_agenda (s : State) (q : Nat) (c : Cluster) : (s.setCluster q c).agenda = s.agenda :=
  rfl
@[simp] theorem State.setCluster_cur (s : State) (q : Nat) (c : Cluster) : (s.setCluster q c).cur = s.cur := rfl
@[simp] theorem State.setCluster_core (s : State) (q : Nat) (c : Cluster) : (s.setCluster q c).core = s.core := rfl
@[simp] theorem State.setCluster_others (s : State) (q : Nat) (c : Cluster) : (s.setCluster q c).others = s.others :=
  rfl
@[simp] theorem State.setCluster_clusters (s : State) (q : Nat) (c : Cluster) : (s.setCluster q c).clusters = Table.set s.clusters q c :=
  rfl
@[simp] theorem State.setCluster_routers (s : State) (q : Nat) (c : Cluster) : (s.setCluster q c).routers = s.routers :=
  rfl
@[simp] theorem State.setCluster_parts (s : State) (q : Nat) (c : Cluster) : (s.setCluster q c).parts = s.parts := rfl
@[simp] theorem State.setCluster_recs (s : State) (q : Nat) (c : Cluster) : (s.setCluster q c).recs = s.recs := rfl
@[simp] theorem State.setCluster_hbm (s : State) (q : Nat) (c : Cluster) : (s.setCluster q c).hbm = s.hbm := rfl
@[simp] theorem State.setCluster_flights (s : State) (q : Nat) (c : Cluster) : (s.setCluster q c).flights = s.flights :=
  rfl
@[simp] theorem State.setCluster_cflits (s : State) (q : Nat) (c : Cluster) : (s.setCluster q c).cflits = s.cflits :=
  rfl
@[simp] theorem State.setCluster_kept (s : State) (q : Nat) (c : Cluster) : (s.setCluster q c).kept = s.kept := rfl
@[simp] theorem State.setCluster_acks (s : State) (q : Nat) (c : Cluster) : (s.setCluster q c).acks = s.acks := rfl
@[simp] theorem State.setCluster_seqs (s : State) (q : Nat) (c : Cluster) : (s.setCluster q c).seqs = s.seqs := rfl
@[simp] theorem State.setCluster_regNo (s : State) (q : Nat) (c : Cluster) : (s.setCluster q c).regNo = s.regNo := rfl
@[simp] theorem State.setCluster_regFl (s : State) (q : Nat) (c : Cluster) : (s.setCluster q c).regFl = s.regFl := rfl
@[simp] theorem State.setCluster_fetches (s : State) (q : Nat) (c : Cluster) : (s.setCluster q c).fetches = s.fetches :=
  rfl
@[simp] theorem State.setCluster_writes (s : State) (q : Nat) (c : Cluster) : (s.setCluster q c).writes = s.writes :=
  rfl
@[simp] theorem State.setCluster_addressed (s : State) (q : Nat) (c : Cluster) : (s.setCluster q c).addressed = s.addressed :=
  rfl
@[simp] theorem State.setCluster_reloads (s : State) (q : Nat) (c : Cluster) : (s.setCluster q c).reloads = s.reloads :=
  rfl
@[simp] theorem State.setCluster_wafer (s : State) (q : Nat) (c : Cluster) : (s.setCluster q c).wafer = s.wafer := rfl
@[simp] theorem State.setCluster_freeCtr (s : State) (q : Nat) (c : Cluster) : (s.setCluster q c).freeCtr = s.freeCtr :=
  rfl
@[simp] theorem State.setCluster_stamp (s : State) (q : Nat) (c : Cluster) : (s.setCluster q c).stamp = s.stamp := rfl

@[simp] theorem State.setRouter_agenda (s : State) (q : Nat) (c : Router) : (s.setRouter q c).agenda = s.agenda := rfl
@[simp] theorem State.setRouter_cur (s : State) (q : Nat) (c : Router) : (s.setRouter q c).cur = s.cur := rfl
@[simp] theorem State.setRouter_core (s : State) (q : Nat) (c : Router) : (s.setRouter q c).core = s.core := rfl
@[simp] theorem State.setRouter_others (s : State) (q : Nat) (c : Router) : (s.setRouter q c).others = s.others := rfl
@[simp] theorem State.setRouter_clusters (s : State) (q : Nat) (c : Router) : (s.setRouter q c).clusters = s.clusters :=
  rfl
@[simp] theorem State.setRouter_routers (s : State) (q : Nat) (c : Router) : (s.setRouter q c).routers = Table.set s.routers q c :=
  rfl
@[simp] theorem State.setRouter_parts (s : State) (q : Nat) (c : Router) : (s.setRouter q c).parts = s.parts := rfl
@[simp] theorem State.setRouter_recs (s : State) (q : Nat) (c : Router) : (s.setRouter q c).recs = s.recs := rfl
@[simp] theorem State.setRouter_hbm (s : State) (q : Nat) (c : Router) : (s.setRouter q c).hbm = s.hbm := rfl
@[simp] theorem State.setRouter_flights (s : State) (q : Nat) (c : Router) : (s.setRouter q c).flights = s.flights :=
  rfl
@[simp] theorem State.setRouter_cflits (s : State) (q : Nat) (c : Router) : (s.setRouter q c).cflits = s.cflits := rfl
@[simp] theorem State.setRouter_kept (s : State) (q : Nat) (c : Router) : (s.setRouter q c).kept = s.kept := rfl
@[simp] theorem State.setRouter_acks (s : State) (q : Nat) (c : Router) : (s.setRouter q c).acks = s.acks := rfl
@[simp] theorem State.setRouter_seqs (s : State) (q : Nat) (c : Router) : (s.setRouter q c).seqs = s.seqs := rfl
@[simp] theorem State.setRouter_regNo (s : State) (q : Nat) (c : Router) : (s.setRouter q c).regNo = s.regNo := rfl
@[simp] theorem State.setRouter_regFl (s : State) (q : Nat) (c : Router) : (s.setRouter q c).regFl = s.regFl := rfl
@[simp] theorem State.setRouter_fetches (s : State) (q : Nat) (c : Router) : (s.setRouter q c).fetches = s.fetches :=
  rfl
@[simp] theorem State.setRouter_writes (s : State) (q : Nat) (c : Router) : (s.setRouter q c).writes = s.writes := rfl
@[simp] theorem State.setRouter_addressed (s : State) (q : Nat) (c : Router) : (s.setRouter q c).addressed = s.addressed :=
  rfl
@[simp] theorem State.setRouter_reloads (s : State) (q : Nat) (c : Router) : (s.setRouter q c).reloads = s.reloads :=
  rfl
@[simp] theorem State.setRouter_wafer (s : State) (q : Nat) (c : Router) : (s.setRouter q c).wafer = s.wafer := rfl
@[simp] theorem State.setRouter_freeCtr (s : State) (q : Nat) (c : Router) : (s.setRouter q c).freeCtr = s.freeCtr :=
  rfl
@[simp] theorem State.setRouter_stamp (s : State) (q : Nat) (c : Router) : (s.setRouter q c).stamp = s.stamp := rfl

@[simp] theorem State.setPart_agenda (s : State) (q : Nat) (c : Part) : (s.setPart q c).agenda = s.agenda := rfl
@[simp] theorem State.setPart_cur (s : State) (q : Nat) (c : Part) : (s.setPart q c).cur = s.cur := rfl
@[simp] theorem State.setPart_core (s : State) (q : Nat) (c : Part) : (s.setPart q c).core = s.core := rfl
@[simp] theorem State.setPart_others (s : State) (q : Nat) (c : Part) : (s.setPart q c).others = s.others := rfl
@[simp] theorem State.setPart_clusters (s : State) (q : Nat) (c : Part) : (s.setPart q c).clusters = s.clusters := rfl
@[simp] theorem State.setPart_routers (s : State) (q : Nat) (c : Part) : (s.setPart q c).routers = s.routers := rfl
@[simp] theorem State.setPart_parts (s : State) (q : Nat) (c : Part) : (s.setPart q c).parts = Table.set s.parts q c :=
  rfl
@[simp] theorem State.setPart_recs (s : State) (q : Nat) (c : Part) : (s.setPart q c).recs = s.recs := rfl
@[simp] theorem State.setPart_hbm (s : State) (q : Nat) (c : Part) : (s.setPart q c).hbm = s.hbm := rfl
@[simp] theorem State.setPart_flights (s : State) (q : Nat) (c : Part) : (s.setPart q c).flights = s.flights := rfl
@[simp] theorem State.setPart_cflits (s : State) (q : Nat) (c : Part) : (s.setPart q c).cflits = s.cflits := rfl
@[simp] theorem State.setPart_kept (s : State) (q : Nat) (c : Part) : (s.setPart q c).kept = s.kept := rfl
@[simp] theorem State.setPart_acks (s : State) (q : Nat) (c : Part) : (s.setPart q c).acks = s.acks := rfl
@[simp] theorem State.setPart_seqs (s : State) (q : Nat) (c : Part) : (s.setPart q c).seqs = s.seqs := rfl
@[simp] theorem State.setPart_regNo (s : State) (q : Nat) (c : Part) : (s.setPart q c).regNo = s.regNo := rfl
@[simp] theorem State.setPart_regFl (s : State) (q : Nat) (c : Part) : (s.setPart q c).regFl = s.regFl := rfl
@[simp] theorem State.setPart_fetches (s : State) (q : Nat) (c : Part) : (s.setPart q c).fetches = s.fetches := rfl
@[simp] theorem State.setPart_writes (s : State) (q : Nat) (c : Part) : (s.setPart q c).writes = s.writes := rfl
@[simp] theorem State.setPart_addressed (s : State) (q : Nat) (c : Part) : (s.setPart q c).addressed = s.addressed :=
  rfl
@[simp] theorem State.setPart_reloads (s : State) (q : Nat) (c : Part) : (s.setPart q c).reloads = s.reloads := rfl
@[simp] theorem State.setPart_wafer (s : State) (q : Nat) (c : Part) : (s.setPart q c).wafer = s.wafer := rfl
@[simp] theorem State.setPart_freeCtr (s : State) (q : Nat) (c : Part) : (s.setPart q c).freeCtr = s.freeCtr := rfl
@[simp] theorem State.setPart_stamp (s : State) (q : Nat) (c : Part) : (s.setPart q c).stamp = s.stamp := rfl

@[simp] theorem State.setRec_agenda (s : State) (r : Rec) : (s.setRec r).agenda = s.agenda := rfl
@[simp] theorem State.setRec_cur (s : State) (r : Rec) : (s.setRec r).cur = s.cur := rfl
@[simp] theorem State.setRec_core (s : State) (r : Rec) : (s.setRec r).core = s.core := rfl
@[simp] theorem State.setRec_others (s : State) (r : Rec) : (s.setRec r).others = s.others := rfl
@[simp] theorem State.setRec_clusters (s : State) (r : Rec) : (s.setRec r).clusters = s.clusters := rfl
@[simp] theorem State.setRec_routers (s : State) (r : Rec) : (s.setRec r).routers = s.routers := rfl
@[simp] theorem State.setRec_parts (s : State) (r : Rec) : (s.setRec r).parts = s.parts := rfl
@[simp] theorem State.setRec_recs (s : State) (r : Rec) : (s.setRec r).recs = Table.set s.recs r.addr r := rfl
@[simp] theorem State.setRec_hbm (s : State) (r : Rec) : (s.setRec r).hbm = s.hbm := rfl
@[simp] theorem State.setRec_flights (s : State) (r : Rec) : (s.setRec r).flights = s.flights := rfl
@[simp] theorem State.setRec_cflits (s : State) (r : Rec) : (s.setRec r).cflits = s.cflits := rfl
@[simp] theorem State.setRec_kept (s : State) (r : Rec) : (s.setRec r).kept = s.kept := rfl
@[simp] theorem State.setRec_acks (s : State) (r : Rec) : (s.setRec r).acks = s.acks := rfl
@[simp] theorem State.setRec_seqs (s : State) (r : Rec) : (s.setRec r).seqs = s.seqs := rfl
@[simp] theorem State.setRec_regNo (s : State) (r : Rec) : (s.setRec r).regNo = s.regNo := rfl
@[simp] theorem State.setRec_regFl (s : State) (r : Rec) : (s.setRec r).regFl = s.regFl := rfl
@[simp] theorem State.setRec_fetches (s : State) (r : Rec) : (s.setRec r).fetches = s.fetches := rfl
@[simp] theorem State.setRec_writes (s : State) (r : Rec) : (s.setRec r).writes = s.writes := rfl
@[simp] theorem State.setRec_addressed (s : State) (r : Rec) : (s.setRec r).addressed = s.addressed := rfl
@[simp] theorem State.setRec_reloads (s : State) (r : Rec) : (s.setRec r).reloads = s.reloads := rfl
@[simp] theorem State.setRec_wafer (s : State) (r : Rec) : (s.setRec r).wafer = s.wafer := rfl
@[simp] theorem State.setRec_freeCtr (s : State) (r : Rec) : (s.setRec r).freeCtr = s.freeCtr := rfl
@[simp] theorem State.setRec_stamp (s : State) (r : Rec) : (s.setRec r).stamp = s.stamp := rfl

@[simp] theorem State.dropRec_agenda (s : State) (a : Nat) : (s.dropRec a).agenda = s.agenda := rfl
@[simp] theorem State.dropRec_cur (s : State) (a : Nat) : (s.dropRec a).cur = s.cur := rfl
@[simp] theorem State.dropRec_core (s : State) (a : Nat) : (s.dropRec a).core = s.core := rfl
@[simp] theorem State.dropRec_others (s : State) (a : Nat) : (s.dropRec a).others = s.others := rfl
@[simp] theorem State.dropRec_clusters (s : State) (a : Nat) : (s.dropRec a).clusters = s.clusters := rfl
@[simp] theorem State.dropRec_routers (s : State) (a : Nat) : (s.dropRec a).routers = s.routers := rfl
@[simp] theorem State.dropRec_parts (s : State) (a : Nat) : (s.dropRec a).parts = s.parts := rfl
@[simp] theorem State.dropRec_recs (s : State) (a : Nat) : (s.dropRec a).recs = Table.drop s.recs a := rfl
@[simp] theorem State.dropRec_hbm (s : State) (a : Nat) : (s.dropRec a).hbm = s.hbm := rfl
@[simp] theorem State.dropRec_flights (s : State) (a : Nat) : (s.dropRec a).flights = s.flights := rfl
@[simp] theorem State.dropRec_cflits (s : State) (a : Nat) : (s.dropRec a).cflits = s.cflits := rfl
@[simp] theorem State.dropRec_kept (s : State) (a : Nat) : (s.dropRec a).kept = s.kept := rfl
@[simp] theorem State.dropRec_acks (s : State) (a : Nat) : (s.dropRec a).acks = s.acks := rfl
@[simp] theorem State.dropRec_seqs (s : State) (a : Nat) : (s.dropRec a).seqs = s.seqs := rfl
@[simp] theorem State.dropRec_regNo (s : State) (a : Nat) : (s.dropRec a).regNo = s.regNo := rfl
@[simp] theorem State.dropRec_regFl (s : State) (a : Nat) : (s.dropRec a).regFl = s.regFl := rfl
@[simp] theorem State.dropRec_fetches (s : State) (a : Nat) : (s.dropRec a).fetches = s.fetches := rfl
@[simp] theorem State.dropRec_writes (s : State) (a : Nat) : (s.dropRec a).writes = s.writes := rfl
@[simp] theorem State.dropRec_addressed (s : State) (a : Nat) : (s.dropRec a).addressed = s.addressed := rfl
@[simp] theorem State.dropRec_reloads (s : State) (a : Nat) : (s.dropRec a).reloads = s.reloads := rfl
@[simp] theorem State.dropRec_wafer (s : State) (a : Nat) : (s.dropRec a).wafer = s.wafer := rfl
@[simp] theorem State.dropRec_freeCtr (s : State) (a : Nat) : (s.dropRec a).freeCtr = s.freeCtr := rfl
@[simp] theorem State.dropRec_stamp (s : State) (a : Nat) : (s.dropRec a).stamp = s.stamp := rfl

@[simp] theorem State.finish_agenda (s : State) (k : Slot) : (s.finish k).agenda = s.agenda := rfl
@[simp] theorem State.finish_cur (s : State) (k : Slot) : (s.finish k).cur = s.cur := rfl
@[simp] theorem State.finish_core (s : State) (k : Slot) : (s.finish k).core = s.core.finish k := rfl
@[simp] theorem State.finish_others (s : State) (k : Slot) : (s.finish k).others = s.others := rfl
@[simp] theorem State.finish_clusters (s : State) (k : Slot) : (s.finish k).clusters = s.clusters := rfl
@[simp] theorem State.finish_routers (s : State) (k : Slot) : (s.finish k).routers = s.routers := rfl
@[simp] theorem State.finish_parts (s : State) (k : Slot) : (s.finish k).parts = s.parts := rfl
@[simp] theorem State.finish_recs (s : State) (k : Slot) : (s.finish k).recs = s.recs := rfl
@[simp] theorem State.finish_hbm (s : State) (k : Slot) : (s.finish k).hbm = s.hbm := rfl
@[simp] theorem State.finish_flights (s : State) (k : Slot) : (s.finish k).flights = s.flights := rfl
@[simp] theorem State.finish_cflits (s : State) (k : Slot) : (s.finish k).cflits = s.cflits := rfl
@[simp] theorem State.finish_kept (s : State) (k : Slot) : (s.finish k).kept = s.kept := rfl
@[simp] theorem State.finish_acks (s : State) (k : Slot) : (s.finish k).acks = s.acks := rfl
@[simp] theorem State.finish_seqs (s : State) (k : Slot) : (s.finish k).seqs = s.seqs := rfl
@[simp] theorem State.finish_regNo (s : State) (k : Slot) : (s.finish k).regNo = s.regNo := rfl
@[simp] theorem State.finish_regFl (s : State) (k : Slot) : (s.finish k).regFl = s.regFl := rfl
@[simp] theorem State.finish_fetches (s : State) (k : Slot) : (s.finish k).fetches = s.fetches := rfl
@[simp] theorem State.finish_writes (s : State) (k : Slot) : (s.finish k).writes = s.writes := rfl
@[simp] theorem State.finish_addressed (s : State) (k : Slot) : (s.finish k).addressed = s.addressed := rfl
@[simp] theorem State.finish_reloads (s : State) (k : Slot) : (s.finish k).reloads = s.reloads := rfl
@[simp] theorem State.finish_wafer (s : State) (k : Slot) : (s.finish k).wafer = s.wafer := rfl
@[simp] theorem State.finish_freeCtr (s : State) (k : Slot) : (s.finish k).freeCtr = s.freeCtr := rfl
@[simp] theorem State.finish_stamp (s : State) (k : Slot) : (s.finish k).stamp = s.stamp := rfl

@[simp] theorem State.waitPart_agenda (s : State) (k : Slot) : (s.waitPart k).agenda = s.agenda := rfl
@[simp] theorem State.waitPart_cur (s : State) (k : Slot) : (s.waitPart k).cur = s.cur := rfl
@[simp] theorem State.waitPart_others (s : State) (k : Slot) : (s.waitPart k).others = s.others := rfl
@[simp] theorem State.waitPart_clusters (s : State) (k : Slot) : (s.waitPart k).clusters = s.clusters := rfl
@[simp] theorem State.waitPart_routers (s : State) (k : Slot) : (s.waitPart k).routers = s.routers := rfl
@[simp] theorem State.waitPart_parts (s : State) (k : Slot) : (s.waitPart k).parts = s.parts := rfl
@[simp] theorem State.waitPart_recs (s : State) (k : Slot) : (s.waitPart k).recs = s.recs := rfl
@[simp] theorem State.waitPart_hbm (s : State) (k : Slot) : (s.waitPart k).hbm = s.hbm := rfl
@[simp] theorem State.waitPart_flights (s : State) (k : Slot) : (s.waitPart k).flights = s.flights := rfl
@[simp] theorem State.waitPart_cflits (s : State) (k : Slot) : (s.waitPart k).cflits = s.cflits := rfl
@[simp] theorem State.waitPart_kept (s : State) (k : Slot) : (s.waitPart k).kept = s.kept := rfl
@[simp] theorem State.waitPart_acks (s : State) (k : Slot) : (s.waitPart k).acks = s.acks := rfl
@[simp] theorem State.waitPart_seqs (s : State) (k : Slot) : (s.waitPart k).seqs = s.seqs := rfl
@[simp] theorem State.waitPart_regNo (s : State) (k : Slot) : (s.waitPart k).regNo = s.regNo := rfl
@[simp] theorem State.waitPart_regFl (s : State) (k : Slot) : (s.waitPart k).regFl = s.regFl := rfl
@[simp] theorem State.waitPart_fetches (s : State) (k : Slot) : (s.waitPart k).fetches = s.fetches := rfl
@[simp] theorem State.waitPart_writes (s : State) (k : Slot) : (s.waitPart k).writes = s.writes := rfl
@[simp] theorem State.waitPart_addressed (s : State) (k : Slot) : (s.waitPart k).addressed = s.addressed := rfl
@[simp] theorem State.waitPart_reloads (s : State) (k : Slot) : (s.waitPart k).reloads = s.reloads := rfl
@[simp] theorem State.waitPart_wafer (s : State) (k : Slot) : (s.waitPart k).wafer = s.wafer := rfl
@[simp] theorem State.waitPart_freeCtr (s : State) (k : Slot) : (s.waitPart k).freeCtr = s.freeCtr := rfl
@[simp] theorem State.waitPart_stamp (s : State) (k : Slot) : (s.waitPart k).stamp = s.stamp := rfl

@[simp] theorem State.interlock_agenda (s : State) (k : Slot) : (s.interlock k).agenda = s.agenda := rfl
@[simp] theorem State.interlock_cur (s : State) (k : Slot) : (s.interlock k).cur = s.cur := rfl
@[simp] theorem State.interlock_others (s : State) (k : Slot) : (s.interlock k).others = s.others := rfl
@[simp] theorem State.interlock_clusters (s : State) (k : Slot) : (s.interlock k).clusters = s.clusters := rfl
@[simp] theorem State.interlock_routers (s : State) (k : Slot) : (s.interlock k).routers = s.routers := rfl
@[simp] theorem State.interlock_parts (s : State) (k : Slot) : (s.interlock k).parts = s.parts := rfl
@[simp] theorem State.interlock_recs (s : State) (k : Slot) : (s.interlock k).recs = s.recs := rfl
@[simp] theorem State.interlock_hbm (s : State) (k : Slot) : (s.interlock k).hbm = s.hbm := rfl
@[simp] theorem State.interlock_flights (s : State) (k : Slot) : (s.interlock k).flights = s.flights := rfl
@[simp] theorem State.interlock_cflits (s : State) (k : Slot) : (s.interlock k).cflits = s.cflits := rfl
@[simp] theorem State.interlock_kept (s : State) (k : Slot) : (s.interlock k).kept = s.kept := rfl
@[simp] theorem State.interlock_acks (s : State) (k : Slot) : (s.interlock k).acks = s.acks := rfl
@[simp] theorem State.interlock_seqs (s : State) (k : Slot) : (s.interlock k).seqs = s.seqs := rfl
@[simp] theorem State.interlock_regNo (s : State) (k : Slot) : (s.interlock k).regNo = s.regNo := rfl
@[simp] theorem State.interlock_regFl (s : State) (k : Slot) : (s.interlock k).regFl = s.regFl := rfl
@[simp] theorem State.interlock_fetches (s : State) (k : Slot) : (s.interlock k).fetches = s.fetches := rfl
@[simp] theorem State.interlock_writes (s : State) (k : Slot) : (s.interlock k).writes = s.writes := rfl
@[simp] theorem State.interlock_addressed (s : State) (k : Slot) : (s.interlock k).addressed = s.addressed := rfl
@[simp] theorem State.interlock_reloads (s : State) (k : Slot) : (s.interlock k).reloads = s.reloads := rfl
@[simp] theorem State.interlock_wafer (s : State) (k : Slot) : (s.interlock k).wafer = s.wafer := rfl
@[simp] theorem State.interlock_freeCtr (s : State) (k : Slot) : (s.interlock k).freeCtr = s.freeCtr := rfl
@[simp] theorem State.interlock_stamp (s : State) (k : Slot) : (s.interlock k).stamp = s.stamp := rfl

@[simp] theorem State.syncWait_agenda (s : State) : (s.syncWait).agenda = s.agenda := rfl
@[simp] theorem State.syncWait_cur (s : State) : (s.syncWait).cur = s.cur := rfl
@[simp] theorem State.syncWait_others (s : State) : (s.syncWait).others = s.others := rfl
@[simp] theorem State.syncWait_clusters (s : State) : (s.syncWait).clusters = s.clusters := rfl
@[simp] theorem State.syncWait_routers (s : State) : (s.syncWait).routers = s.routers := rfl
@[simp] theorem State.syncWait_parts (s : State) : (s.syncWait).parts = s.parts := rfl
@[simp] theorem State.syncWait_recs (s : State) : (s.syncWait).recs = s.recs := rfl
@[simp] theorem State.syncWait_hbm (s : State) : (s.syncWait).hbm = s.hbm := rfl
@[simp] theorem State.syncWait_flights (s : State) : (s.syncWait).flights = s.flights := rfl
@[simp] theorem State.syncWait_cflits (s : State) : (s.syncWait).cflits = s.cflits := rfl
@[simp] theorem State.syncWait_kept (s : State) : (s.syncWait).kept = s.kept := rfl
@[simp] theorem State.syncWait_acks (s : State) : (s.syncWait).acks = s.acks := rfl
@[simp] theorem State.syncWait_seqs (s : State) : (s.syncWait).seqs = s.seqs := rfl
@[simp] theorem State.syncWait_regNo (s : State) : (s.syncWait).regNo = s.regNo := rfl
@[simp] theorem State.syncWait_regFl (s : State) : (s.syncWait).regFl = s.regFl := rfl
@[simp] theorem State.syncWait_fetches (s : State) : (s.syncWait).fetches = s.fetches := rfl
@[simp] theorem State.syncWait_writes (s : State) : (s.syncWait).writes = s.writes := rfl
@[simp] theorem State.syncWait_addressed (s : State) : (s.syncWait).addressed = s.addressed := rfl
@[simp] theorem State.syncWait_reloads (s : State) : (s.syncWait).reloads = s.reloads := rfl
@[simp] theorem State.syncWait_wafer (s : State) : (s.syncWait).wafer = s.wafer := rfl
@[simp] theorem State.syncWait_freeCtr (s : State) : (s.syncWait).freeCtr = s.freeCtr := rfl
@[simp] theorem State.syncWait_stamp (s : State) : (s.syncWait).stamp = s.stamp := rfl

@[simp] theorem State.setCore_agenda (s : State) (w : Nat) (c : Core) : (s.setCore w c).agenda = s.agenda :=
  by
  unfold State.setCore; split <;> rfl
@[simp] theorem State.setCore_cur (s : State) (w : Nat) (c : Core) : (s.setCore w c).cur = s.cur :=
  by
  unfold State.setCore; split <;> rfl
@[simp] theorem State.setCore_clusters (s : State) (w : Nat) (c : Core) : (s.setCore w c).clusters = s.clusters :=
  by
  unfold State.setCore; split <;> rfl
@[simp] theorem State.setCore_routers (s : State) (w : Nat) (c : Core) : (s.setCore w c).routers = s.routers :=
  by
  unfold State.setCore; split <;> rfl
@[simp] theorem State.setCore_parts (s : State) (w : Nat) (c : Core) : (s.setCore w c).parts = s.parts :=
  by
  unfold State.setCore; split <;> rfl
@[simp] theorem State.setCore_recs (s : State) (w : Nat) (c : Core) : (s.setCore w c).recs = s.recs :=
  by
  unfold State.setCore; split <;> rfl
@[simp] theorem State.setCore_hbm (s : State) (w : Nat) (c : Core) : (s.setCore w c).hbm = s.hbm :=
  by
  unfold State.setCore; split <;> rfl
@[simp] theorem State.setCore_flights (s : State) (w : Nat) (c : Core) : (s.setCore w c).flights = s.flights :=
  by
  unfold State.setCore; split <;> rfl
@[simp] theorem State.setCore_cflits (s : State) (w : Nat) (c : Core) : (s.setCore w c).cflits = s.cflits :=
  by
  unfold State.setCore; split <;> rfl
@[simp] theorem State.setCore_kept (s : State) (w : Nat) (c : Core) : (s.setCore w c).kept = s.kept :=
  by
  unfold State.setCore; split <;> rfl
@[simp] theorem State.setCore_acks (s : State) (w : Nat) (c : Core) : (s.setCore w c).acks = s.acks :=
  by
  unfold State.setCore; split <;> rfl
@[simp] theorem State.setCore_seqs (s : State) (w : Nat) (c : Core) : (s.setCore w c).seqs = s.seqs :=
  by
  unfold State.setCore; split <;> rfl
@[simp] theorem State.setCore_regNo (s : State) (w : Nat) (c : Core) : (s.setCore w c).regNo = s.regNo :=
  by
  unfold State.setCore; split <;> rfl
@[simp] theorem State.setCore_regFl (s : State) (w : Nat) (c : Core) : (s.setCore w c).regFl = s.regFl :=
  by
  unfold State.setCore; split <;> rfl
@[simp] theorem State.setCore_fetches (s : State) (w : Nat) (c : Core) : (s.setCore w c).fetches = s.fetches :=
  by
  unfold State.setCore; split <;> rfl
@[simp] theorem State.setCore_writes (s : State) (w : Nat) (c : Core) : (s.setCore w c).writes = s.writes :=
  by
  unfold State.setCore; split <;> rfl
@[simp] theorem State.setCore_addressed (s : State) (w : Nat) (c : Core) : (s.setCore w c).addressed = s.addressed :=
  by
  unfold State.setCore; split <;> rfl
@[simp] theorem State.setCore_reloads (s : State) (w : Nat) (c : Core) : (s.setCore w c).reloads = s.reloads :=
  by
  unfold State.setCore; split <;> rfl
@[simp] theorem State.setCore_wafer (s : State) (w : Nat) (c : Core) : (s.setCore w c).wafer = s.wafer :=
  by
  unfold State.setCore; split <;> rfl
@[simp] theorem State.setCore_freeCtr (s : State) (w : Nat) (c : Core) : (s.setCore w c).freeCtr = s.freeCtr :=
  by
  unfold State.setCore; split <;> rfl
@[simp] theorem State.setCore_stamp (s : State) (w : Nat) (c : Core) : (s.setCore w c).stamp = s.stamp :=
  by
  unfold State.setCore; split <;> rfl

@[simp] theorem State.modCore_agenda (s : State) (w : Nat) (f : Core → Core) : (s.modCore w f).agenda = s.agenda :=
  State.setCore_agenda ..
@[simp] theorem State.modCore_cur (s : State) (w : Nat) (f : Core → Core) : (s.modCore w f).cur = s.cur :=
  State.setCore_cur ..
@[simp] theorem State.modCore_clusters (s : State) (w : Nat) (f : Core → Core) : (s.modCore w f).clusters = s.clusters :=
  State.setCore_clusters ..
@[simp] theorem State.modCore_routers (s : State) (w : Nat) (f : Core → Core) : (s.modCore w f).routers = s.routers :=
  State.setCore_routers ..
@[simp] theorem State.modCore_parts (s : State) (w : Nat) (f : Core → Core) : (s.modCore w f).parts = s.parts :=
  State.setCore_parts ..
@[simp] theorem State.modCore_recs (s : State) (w : Nat) (f : Core → Core) : (s.modCore w f).recs = s.recs :=
  State.setCore_recs ..
@[simp] theorem State.modCore_hbm (s : State) (w : Nat) (f : Core → Core) : (s.modCore w f).hbm = s.hbm :=
  State.setCore_hbm ..
@[simp] theorem State.modCore_flights (s : State) (w : Nat) (f : Core → Core) : (s.modCore w f).flights = s.flights :=
  State.setCore_flights ..
@[simp] theorem State.modCore_cflits (s : State) (w : Nat) (f : Core → Core) : (s.modCore w f).cflits = s.cflits :=
  State.setCore_cflits ..
@[simp] theorem State.modCore_kept (s : State) (w : Nat) (f : Core → Core) : (s.modCore w f).kept = s.kept :=
  State.setCore_kept ..
@[simp] theorem State.modCore_acks (s : State) (w : Nat) (f : Core → Core) : (s.modCore w f).acks = s.acks :=
  State.setCore_acks ..
@[simp] theorem State.modCore_seqs (s : State) (w : Nat) (f : Core → Core) : (s.modCore w f).seqs = s.seqs :=
  State.setCore_seqs ..
@[simp] theorem State.modCore_regNo (s : State) (w : Nat) (f : Core → Core) : (s.modCore w f).regNo = s.regNo :=
  State.setCore_regNo ..
@[simp] theorem State.modCore_regFl (s : State) (w : Nat) (f : Core → Core) : (s.modCore w f).regFl = s.regFl :=
  State.setCore_regFl ..
@[simp] theorem State.modCore_fetches (s : State) (w : Nat) (f : Core → Core) : (s.modCore w f).fetches = s.fetches :=
  State.setCore_fetches ..
@[simp] theorem State.modCore_writes (s : State) (w : Nat) (f : Core → Core) : (s.modCore w f).writes = s.writes :=
  State.setCore_writes ..
@[simp] theorem State.modCore_addressed (s : State) (w : Nat) (f : Core → Core) : (s.modCore w f).addressed = s.addressed :=
  State.setCore_addressed ..
@[simp] theorem State.modCore_reloads (s : State) (w : Nat) (f : Core → Core) : (s.modCore w f).reloads = s.reloads :=
  State.setCore_reloads ..
@[simp] theorem State.modCore_wafer (s : State) (w : Nat) (f : Core → Core) : (s.modCore w f).wafer = s.wafer :=
  State.setCore_wafer ..
@[simp] theorem State.modCore_freeCtr (s : State) (w : Nat) (f : Core → Core) : (s.modCore w f).freeCtr = s.freeCtr :=
  State.setCore_freeCtr ..
@[simp] theorem State.modCore_stamp (s : State) (w : Nat) (f : Core → Core) : (s.modCore w f).stamp = s.stamp :=
  State.setCore_stamp ..

@[simp] theorem State.focus_agenda (s : State) (w : Nat) : (s.focus w).agenda = s.agenda :=
  by
  unfold State.focus; split <;> rfl
@[simp] theorem State.focus_clusters (s : State) (w : Nat) : (s.focus w).clusters = s.clusters :=
  by
  unfold State.focus; split <;> rfl
@[simp] theorem State.focus_routers (s : State) (w : Nat) : (s.focus w).routers = s.routers :=
  by
  unfold State.focus; split <;> rfl
@[simp] theorem State.focus_parts (s : State) (w : Nat) : (s.focus w).parts = s.parts :=
  by
  unfold State.focus; split <;> rfl
@[simp] theorem State.focus_recs (s : State) (w : Nat) : (s.focus w).recs = s.recs :=
  by
  unfold State.focus; split <;> rfl
@[simp] theorem State.focus_hbm (s : State) (w : Nat) : (s.focus w).hbm = s.hbm :=
  by
  unfold State.focus; split <;> rfl
@[simp] theorem State.focus_flights (s : State) (w : Nat) : (s.focus w).flights = s.flights :=
  by
  unfold State.focus; split <;> rfl
@[simp] theorem State.focus_cflits (s : State) (w : Nat) : (s.focus w).cflits = s.cflits :=
  by
  unfold State.focus; split <;> rfl
@[simp] theorem State.focus_kept (s : State) (w : Nat) : (s.focus w).kept = s.kept :=
  by
  unfold State.focus; split <;> rfl
@[simp] theorem State.focus_acks (s : State) (w : Nat) : (s.focus w).acks = s.acks :=
  by
  unfold State.focus; split <;> rfl
@[simp] theorem State.focus_seqs (s : State) (w : Nat) : (s.focus w).seqs = s.seqs :=
  by
  unfold State.focus; split <;> rfl
@[simp] theorem State.focus_regNo (s : State) (w : Nat) : (s.focus w).regNo = s.regNo :=
  by
  unfold State.focus; split <;> rfl
@[simp] theorem State.focus_regFl (s : State) (w : Nat) : (s.focus w).regFl = s.regFl :=
  by
  unfold State.focus; split <;> rfl
@[simp] theorem State.focus_fetches (s : State) (w : Nat) : (s.focus w).fetches = s.fetches :=
  by
  unfold State.focus; split <;> rfl
@[simp] theorem State.focus_writes (s : State) (w : Nat) : (s.focus w).writes = s.writes :=
  by
  unfold State.focus; split <;> rfl
@[simp] theorem State.focus_addressed (s : State) (w : Nat) : (s.focus w).addressed = s.addressed :=
  by
  unfold State.focus; split <;> rfl
@[simp] theorem State.focus_reloads (s : State) (w : Nat) : (s.focus w).reloads = s.reloads :=
  by
  unfold State.focus; split <;> rfl
@[simp] theorem State.focus_wafer (s : State) (w : Nat) : (s.focus w).wafer = s.wafer :=
  by
  unfold State.focus; split <;> rfl
@[simp] theorem State.focus_freeCtr (s : State) (w : Nat) : (s.focus w).freeCtr = s.freeCtr :=
  by
  unfold State.focus; split <;> rfl
@[simp] theorem State.focus_stamp (s : State) (w : Nat) : (s.focus w).stamp = s.stamp :=
  by
  unfold State.focus; split <;> rfl

@[simp] theorem State.mend_agenda (s : State) (ws : List RegRef) : (s.mend ws).agenda = s.agenda :=
  by
  unfold State.mend; split <;> rfl
@[simp] theorem State.mend_cur (s : State) (ws : List RegRef) : (s.mend ws).cur = s.cur :=
  by
  unfold State.mend; split <;> rfl
@[simp] theorem State.mend_others (s : State) (ws : List RegRef) : (s.mend ws).others = s.others :=
  by
  unfold State.mend; split <;> rfl
@[simp] theorem State.mend_clusters (s : State) (ws : List RegRef) : (s.mend ws).clusters = s.clusters :=
  by
  unfold State.mend; split <;> rfl
@[simp] theorem State.mend_routers (s : State) (ws : List RegRef) : (s.mend ws).routers = s.routers :=
  by
  unfold State.mend; split <;> rfl
@[simp] theorem State.mend_parts (s : State) (ws : List RegRef) : (s.mend ws).parts = s.parts :=
  by
  unfold State.mend; split <;> rfl
@[simp] theorem State.mend_recs (s : State) (ws : List RegRef) : (s.mend ws).recs = s.recs :=
  by
  unfold State.mend; split <;> rfl
@[simp] theorem State.mend_hbm (s : State) (ws : List RegRef) : (s.mend ws).hbm = s.hbm :=
  by
  unfold State.mend; split <;> rfl
@[simp] theorem State.mend_flights (s : State) (ws : List RegRef) : (s.mend ws).flights = s.flights :=
  by
  unfold State.mend; split <;> rfl
@[simp] theorem State.mend_cflits (s : State) (ws : List RegRef) : (s.mend ws).cflits = s.cflits :=
  by
  unfold State.mend; split <;> rfl
@[simp] theorem State.mend_kept (s : State) (ws : List RegRef) : (s.mend ws).kept = s.kept :=
  by
  unfold State.mend; split <;> rfl
@[simp] theorem State.mend_acks (s : State) (ws : List RegRef) : (s.mend ws).acks = s.acks :=
  by
  unfold State.mend; split <;> rfl
@[simp] theorem State.mend_seqs (s : State) (ws : List RegRef) : (s.mend ws).seqs = s.seqs :=
  by
  unfold State.mend; split <;> rfl
@[simp] theorem State.mend_regNo (s : State) (ws : List RegRef) : (s.mend ws).regNo = s.regNo :=
  by
  unfold State.mend; split <;> rfl
@[simp] theorem State.mend_regFl (s : State) (ws : List RegRef) : (s.mend ws).regFl = s.regFl :=
  by
  unfold State.mend; split <;> rfl
@[simp] theorem State.mend_fetches (s : State) (ws : List RegRef) : (s.mend ws).fetches = s.fetches :=
  by
  unfold State.mend; split <;> rfl
@[simp] theorem State.mend_writes (s : State) (ws : List RegRef) : (s.mend ws).writes = s.writes :=
  by
  unfold State.mend; split <;> rfl
@[simp] theorem State.mend_addressed (s : State) (ws : List RegRef) : (s.mend ws).addressed = s.addressed :=
  by
  unfold State.mend; split <;> rfl
@[simp] theorem State.mend_reloads (s : State) (ws : List RegRef) : (s.mend ws).reloads = s.reloads :=
  by
  unfold State.mend; split <;> rfl
@[simp] theorem State.mend_wafer (s : State) (ws : List RegRef) : (s.mend ws).wafer = s.wafer :=
  by
  unfold State.mend; split <;> rfl
@[simp] theorem State.mend_freeCtr (s : State) (ws : List RegRef) : (s.mend ws).freeCtr = s.freeCtr :=
  by
  unfold State.mend; split <;> rfl
@[simp] theorem State.mend_stamp (s : State) (ws : List RegRef) : (s.mend ws).stamp = s.stamp :=
  by
  unfold State.mend; split <;> rfl

@[simp] theorem Core.spadPut_busy (c : Core) (a : Nat) (bs : List Byte) : (c.spadPut a bs).busy = c.busy := rfl
@[simp] theorem Core.spadPut_waiting (c : Core) (a : Nat) (bs : List Byte) : (c.spadPut a bs).waiting = c.waiting := rfl
@[simp] theorem Core.spadPut_task (c : Core) (a : Nat) (bs : List Byte) : (c.spadPut a bs).task = c.task := rfl
@[simp] theorem Core.spadPut_live (c : Core) (a : Nat) (bs : List Byte) : (c.spadPut a bs).live = c.live := rfl
@[simp] theorem Core.spadPut_old (c : Core) (a : Nat) (bs : List Byte) : (c.spadPut a bs).old = c.old := rfl
@[simp] theorem Core.spadPut_lands (c : Core) (a : Nat) (bs : List Byte) : (c.spadPut a bs).lands = c.lands := rfl
@[simp] theorem Core.spadPut_fmtQ (c : Core) (a : Nat) (bs : List Byte) : (c.spadPut a bs).fmtQ = c.fmtQ := rfl
@[simp] theorem Core.spadPut_flagQ (c : Core) (a : Nat) (bs : List Byte) : (c.spadPut a bs).flagQ = c.flagQ := rfl
@[simp] theorem Core.spadPut_older (c : Core) (a : Nat) (bs : List Byte) : (c.spadPut a bs).older = c.older := rfl
@[simp] theorem Core.spadPut_lat (c : Core) (a : Nat) (bs : List Byte) : (c.spadPut a bs).lat = c.lat := rfl
@[simp] theorem Core.spadPut_younger (c : Core) (a : Nat) (bs : List Byte) : (c.spadPut a bs).younger = c.younger := rfl
@[simp] theorem Core.spadPut_pace (c : Core) (a : Nat) (bs : List Byte) : (c.spadPut a bs).pace = c.pace := rfl
@[simp] theorem Core.spadPut_hist (c : Core) (a : Nat) (bs : List Byte) : (c.spadPut a bs).hist = c.hist := rfl
@[simp] theorem Core.spadPut_nominal (c : Core) (a : Nat) (bs : List Byte) : (c.spadPut a bs).nominal = c.nominal := rfl
@[simp] theorem Core.spadPut_elapsed (c : Core) (a : Nat) (bs : List Byte) : (c.spadPut a bs).elapsed = c.elapsed := rfl
@[simp] theorem Core.spadPut_cycle (c : Core) (a : Nat) (bs : List Byte) : (c.spadPut a bs).cycle = c.cycle := rfl
@[simp] theorem Core.spadPut_mOcc (c : Core) (a : Nat) (bs : List Byte) : (c.spadPut a bs).mOcc = c.mOcc := rfl
@[simp] theorem Core.spadPut_eOcc (c : Core) (a : Nat) (bs : List Byte) : (c.spadPut a bs).eOcc = c.eOcc := rfl
@[simp] theorem Core.spadPut_z (c : Core) (a : Nat) (bs : List Byte) : (c.spadPut a bs).z = c.z := rfl
@[simp] theorem Core.spadPut_w (c : Core) (a : Nat) (bs : List Byte) : (c.spadPut a bs).w = c.w := rfl
@[simp] theorem Core.spadPut_srnd (c : Core) (a : Nat) (bs : List Byte) : (c.spadPut a bs).srnd = c.srnd := rfl
@[simp] theorem Core.spadPut_scb (c : Core) (a : Nat) (bs : List Byte) : (c.spadPut a bs).scb = c.scb := rfl
@[simp] theorem Core.spadPut_lcs (c : Core) (a : Nat) (bs : List Byte) : (c.spadPut a bs).lcs = c.lcs := rfl
@[simp] theorem Core.spadPut_chainEn (c : Core) (a : Nat) (bs : List Byte) : (c.spadPut a bs).chainEn = c.chainEn := rfl
@[simp] theorem Core.spadPut_tok (c : Core) (a : Nat) (bs : List Byte) : (c.spadPut a bs).tok = c.tok := rfl
@[simp] theorem Core.spadPut_rank (c : Core) (a : Nat) (bs : List Byte) : (c.spadPut a bs).rank = c.rank := rfl
@[simp] theorem Core.spadPut_named (c : Core) (a : Nat) (bs : List Byte) : (c.spadPut a bs).named = c.named := rfl
@[simp] theorem Core.spadPut_spad (c : Core) (a : Nat) (bs : List Byte) : (c.spadPut a bs).spad = c.spad.write a bs :=
  rfl
@[simp] theorem Core.spadPut_spadBad (c : Core) (a : Nat) (bs : List Byte) : (c.spadPut a bs).spadBad = badAfter c.spadBad a bs.length :=
  rfl
@[simp] theorem Core.spadPut_regBad (c : Core) (a : Nat) (bs : List Byte) : (c.spadPut a bs).regBad = c.regBad := rfl
@[simp] theorem Core.spadPut_wbuf (c : Core) (a : Nat) (bs : List Byte) : (c.spadPut a bs).wbuf = c.wbuf := rfl
@[simp] theorem Core.spadPut_wbufBad (c : Core) (a : Nat) (bs : List Byte) : (c.spadPut a bs).wbufBad = c.wbufBad := rfl
@[simp] theorem Core.spadPut_wOwner (c : Core) (a : Nat) (bs : List Byte) : (c.spadPut a bs).wOwner = c.wOwner := rfl
@[simp] theorem Core.spadPut_region (c : Core) (a : Nat) (bs : List Byte) : (c.spadPut a bs).region = c.region := rfl
@[simp] theorem Core.spadPut_eng (c : Core) (a : Nat) (bs : List Byte) : (c.spadPut a bs).eng = c.eng := rfl
@[simp] theorem Core.spadPut_utlb (c : Core) (a : Nat) (bs : List Byte) : (c.spadPut a bs).utlb = c.utlb := rfl
@[simp] theorem Core.spadPut_pre (c : Core) (a : Nat) (bs : List Byte) : (c.spadPut a bs).pre = c.pre := rfl
@[simp] theorem Core.spadPut_lease (c : Core) (a : Nat) (bs : List Byte) : (c.spadPut a bs).lease = c.lease := rfl
@[simp] theorem Core.spadPut_doom (c : Core) (a : Nat) (bs : List Byte) : (c.spadPut a bs).doom = c.doom := rfl
@[simp] theorem Core.spadPut_spare (c : Core) (a : Nat) (bs : List Byte) : (c.spadPut a bs).spare = c.spare := rfl

@[simp] theorem Core.landFlags_busy (c : Core) (e : Nat) : (c.landFlags e).busy = c.busy := rfl
@[simp] theorem Core.landFlags_waiting (c : Core) (e : Nat) : (c.landFlags e).waiting = c.waiting := rfl
@[simp] theorem Core.landFlags_task (c : Core) (e : Nat) : (c.landFlags e).task = c.task := rfl
@[simp] theorem Core.landFlags_old (c : Core) (e : Nat) : (c.landFlags e).old = c.old := rfl
@[simp] theorem Core.landFlags_lands (c : Core) (e : Nat) : (c.landFlags e).lands = c.lands := rfl
@[simp] theorem Core.landFlags_fmtQ (c : Core) (e : Nat) : (c.landFlags e).fmtQ = c.fmtQ := rfl
@[simp] theorem Core.landFlags_older (c : Core) (e : Nat) : (c.landFlags e).older = c.older := rfl
@[simp] theorem Core.landFlags_lat (c : Core) (e : Nat) : (c.landFlags e).lat = c.lat := rfl
@[simp] theorem Core.landFlags_younger (c : Core) (e : Nat) : (c.landFlags e).younger = c.younger := rfl
@[simp] theorem Core.landFlags_pace (c : Core) (e : Nat) : (c.landFlags e).pace = c.pace := rfl
@[simp] theorem Core.landFlags_hist (c : Core) (e : Nat) : (c.landFlags e).hist = c.hist := rfl
@[simp] theorem Core.landFlags_nominal (c : Core) (e : Nat) : (c.landFlags e).nominal = c.nominal := rfl
@[simp] theorem Core.landFlags_elapsed (c : Core) (e : Nat) : (c.landFlags e).elapsed = c.elapsed := rfl
@[simp] theorem Core.landFlags_cycle (c : Core) (e : Nat) : (c.landFlags e).cycle = c.cycle := rfl
@[simp] theorem Core.landFlags_mOcc (c : Core) (e : Nat) : (c.landFlags e).mOcc = c.mOcc := rfl
@[simp] theorem Core.landFlags_eOcc (c : Core) (e : Nat) : (c.landFlags e).eOcc = c.eOcc := rfl
@[simp] theorem Core.landFlags_z (c : Core) (e : Nat) : (c.landFlags e).z = c.z := rfl
@[simp] theorem Core.landFlags_w (c : Core) (e : Nat) : (c.landFlags e).w = c.w := rfl
@[simp] theorem Core.landFlags_srnd (c : Core) (e : Nat) : (c.landFlags e).srnd = c.srnd := rfl
@[simp] theorem Core.landFlags_scb (c : Core) (e : Nat) : (c.landFlags e).scb = c.scb := rfl
@[simp] theorem Core.landFlags_lcs (c : Core) (e : Nat) : (c.landFlags e).lcs = c.lcs := rfl
@[simp] theorem Core.landFlags_chainEn (c : Core) (e : Nat) : (c.landFlags e).chainEn = c.chainEn := rfl
@[simp] theorem Core.landFlags_tok (c : Core) (e : Nat) : (c.landFlags e).tok = c.tok := rfl
@[simp] theorem Core.landFlags_rank (c : Core) (e : Nat) : (c.landFlags e).rank = c.rank := rfl
@[simp] theorem Core.landFlags_named (c : Core) (e : Nat) : (c.landFlags e).named = c.named := rfl
@[simp] theorem Core.landFlags_spad (c : Core) (e : Nat) : (c.landFlags e).spad = c.spad := rfl
@[simp] theorem Core.landFlags_spadBad (c : Core) (e : Nat) : (c.landFlags e).spadBad = c.spadBad := rfl
@[simp] theorem Core.landFlags_regBad (c : Core) (e : Nat) : (c.landFlags e).regBad = c.regBad := rfl
@[simp] theorem Core.landFlags_wbuf (c : Core) (e : Nat) : (c.landFlags e).wbuf = c.wbuf := rfl
@[simp] theorem Core.landFlags_wbufBad (c : Core) (e : Nat) : (c.landFlags e).wbufBad = c.wbufBad := rfl
@[simp] theorem Core.landFlags_wOwner (c : Core) (e : Nat) : (c.landFlags e).wOwner = c.wOwner := rfl
@[simp] theorem Core.landFlags_region (c : Core) (e : Nat) : (c.landFlags e).region = c.region := rfl
@[simp] theorem Core.landFlags_eng (c : Core) (e : Nat) : (c.landFlags e).eng = c.eng := rfl
@[simp] theorem Core.landFlags_utlb (c : Core) (e : Nat) : (c.landFlags e).utlb = c.utlb := rfl
@[simp] theorem Core.landFlags_pre (c : Core) (e : Nat) : (c.landFlags e).pre = c.pre := rfl
@[simp] theorem Core.landFlags_lease (c : Core) (e : Nat) : (c.landFlags e).lease = c.lease := rfl
@[simp] theorem Core.landFlags_doom (c : Core) (e : Nat) : (c.landFlags e).doom = c.doom := rfl
@[simp] theorem Core.landFlags_spare (c : Core) (e : Nat) : (c.landFlags e).spare = c.spare := rfl

@[simp] theorem Core.setSrnd_busy (c : Core) (x : Word) : (c.setSrnd x).busy = c.busy := rfl
@[simp] theorem Core.setSrnd_waiting (c : Core) (x : Word) : (c.setSrnd x).waiting = c.waiting := rfl
@[simp] theorem Core.setSrnd_task (c : Core) (x : Word) : (c.setSrnd x).task = c.task := rfl
@[simp] theorem Core.setSrnd_live (c : Core) (x : Word) : (c.setSrnd x).live = c.live := rfl
@[simp] theorem Core.setSrnd_old (c : Core) (x : Word) : (c.setSrnd x).old = c.old := rfl
@[simp] theorem Core.setSrnd_lands (c : Core) (x : Word) : (c.setSrnd x).lands = c.lands := rfl
@[simp] theorem Core.setSrnd_fmtQ (c : Core) (x : Word) : (c.setSrnd x).fmtQ = c.fmtQ := rfl
@[simp] theorem Core.setSrnd_flagQ (c : Core) (x : Word) : (c.setSrnd x).flagQ = c.flagQ := rfl
@[simp] theorem Core.setSrnd_younger (c : Core) (x : Word) : (c.setSrnd x).younger = c.younger := rfl
@[simp] theorem Core.setSrnd_pace (c : Core) (x : Word) : (c.setSrnd x).pace = c.pace := rfl
@[simp] theorem Core.setSrnd_hist (c : Core) (x : Word) : (c.setSrnd x).hist = c.hist := rfl
@[simp] theorem Core.setSrnd_nominal (c : Core) (x : Word) : (c.setSrnd x).nominal = c.nominal := rfl
@[simp] theorem Core.setSrnd_elapsed (c : Core) (x : Word) : (c.setSrnd x).elapsed = c.elapsed := rfl
@[simp] theorem Core.setSrnd_cycle (c : Core) (x : Word) : (c.setSrnd x).cycle = c.cycle := rfl
@[simp] theorem Core.setSrnd_mOcc (c : Core) (x : Word) : (c.setSrnd x).mOcc = c.mOcc := rfl
@[simp] theorem Core.setSrnd_eOcc (c : Core) (x : Word) : (c.setSrnd x).eOcc = c.eOcc := rfl
@[simp] theorem Core.setSrnd_z (c : Core) (x : Word) : (c.setSrnd x).z = c.z := rfl
@[simp] theorem Core.setSrnd_w (c : Core) (x : Word) : (c.setSrnd x).w = c.w := rfl
@[simp] theorem Core.setSrnd_srnd (c : Core) (x : Word) : (c.setSrnd x).srnd = x := rfl
@[simp] theorem Core.setSrnd_scb (c : Core) (x : Word) : (c.setSrnd x).scb = c.scb := rfl
@[simp] theorem Core.setSrnd_lcs (c : Core) (x : Word) : (c.setSrnd x).lcs = c.lcs := rfl
@[simp] theorem Core.setSrnd_chainEn (c : Core) (x : Word) : (c.setSrnd x).chainEn = c.chainEn := rfl
@[simp] theorem Core.setSrnd_tok (c : Core) (x : Word) : (c.setSrnd x).tok = c.tok := rfl
@[simp] theorem Core.setSrnd_rank (c : Core) (x : Word) : (c.setSrnd x).rank = c.rank := rfl
@[simp] theorem Core.setSrnd_named (c : Core) (x : Word) : (c.setSrnd x).named = c.named := rfl
@[simp] theorem Core.setSrnd_spad (c : Core) (x : Word) : (c.setSrnd x).spad = c.spad := rfl
@[simp] theorem Core.setSrnd_spadBad (c : Core) (x : Word) : (c.setSrnd x).spadBad = c.spadBad := rfl
@[simp] theorem Core.setSrnd_regBad (c : Core) (x : Word) : (c.setSrnd x).regBad = c.regBad := rfl
@[simp] theorem Core.setSrnd_wbuf (c : Core) (x : Word) : (c.setSrnd x).wbuf = c.wbuf := rfl
@[simp] theorem Core.setSrnd_wbufBad (c : Core) (x : Word) : (c.setSrnd x).wbufBad = c.wbufBad := rfl
@[simp] theorem Core.setSrnd_wOwner (c : Core) (x : Word) : (c.setSrnd x).wOwner = c.wOwner := rfl
@[simp] theorem Core.setSrnd_region (c : Core) (x : Word) : (c.setSrnd x).region = c.region := rfl
@[simp] theorem Core.setSrnd_eng (c : Core) (x : Word) : (c.setSrnd x).eng = c.eng := rfl
@[simp] theorem Core.setSrnd_utlb (c : Core) (x : Word) : (c.setSrnd x).utlb = c.utlb := rfl
@[simp] theorem Core.setSrnd_pre (c : Core) (x : Word) : (c.setSrnd x).pre = c.pre := rfl
@[simp] theorem Core.setSrnd_lease (c : Core) (x : Word) : (c.setSrnd x).lease = c.lease := rfl
@[simp] theorem Core.setSrnd_doom (c : Core) (x : Word) : (c.setSrnd x).doom = c.doom := rfl
@[simp] theorem Core.setSrnd_spare (c : Core) (x : Word) : (c.setSrnd x).spare = c.spare := rfl

@[simp] theorem Core.settleFmt_busy (c : Core) : (c.settleFmt).busy = c.busy := rfl
@[simp] theorem Core.settleFmt_waiting (c : Core) : (c.settleFmt).waiting = c.waiting := rfl
@[simp] theorem Core.settleFmt_task (c : Core) : (c.settleFmt).task = c.task := rfl
@[simp] theorem Core.settleFmt_old (c : Core) : (c.settleFmt).old = c.old := rfl
@[simp] theorem Core.settleFmt_lands (c : Core) : (c.settleFmt).lands = c.lands := rfl
@[simp] theorem Core.settleFmt_fmtQ (c : Core) : (c.settleFmt).fmtQ = [] := rfl
@[simp] theorem Core.settleFmt_flagQ (c : Core) : (c.settleFmt).flagQ = [] := rfl
@[simp] theorem Core.settleFmt_older (c : Core) : (c.settleFmt).older = c.older := rfl
@[simp] theorem Core.settleFmt_lat (c : Core) : (c.settleFmt).lat = c.lat := rfl
@[simp] theorem Core.settleFmt_younger (c : Core) : (c.settleFmt).younger = c.younger := rfl
@[simp] theorem Core.settleFmt_pace (c : Core) : (c.settleFmt).pace = c.pace := rfl
@[simp] theorem Core.settleFmt_hist (c : Core) : (c.settleFmt).hist = c.hist := rfl
@[simp] theorem Core.settleFmt_nominal (c : Core) : (c.settleFmt).nominal = c.nominal := rfl
@[simp] theorem Core.settleFmt_elapsed (c : Core) : (c.settleFmt).elapsed = c.elapsed := rfl
@[simp] theorem Core.settleFmt_cycle (c : Core) : (c.settleFmt).cycle = c.cycle := rfl
@[simp] theorem Core.settleFmt_mOcc (c : Core) : (c.settleFmt).mOcc = c.mOcc := rfl
@[simp] theorem Core.settleFmt_eOcc (c : Core) : (c.settleFmt).eOcc = c.eOcc := rfl
@[simp] theorem Core.settleFmt_z (c : Core) : (c.settleFmt).z = c.z := rfl
@[simp] theorem Core.settleFmt_w (c : Core) : (c.settleFmt).w = c.w := rfl
@[simp] theorem Core.settleFmt_srnd (c : Core) : (c.settleFmt).srnd = c.srnd := rfl
@[simp] theorem Core.settleFmt_scb (c : Core) : (c.settleFmt).scb = c.scb := rfl
@[simp] theorem Core.settleFmt_lcs (c : Core) : (c.settleFmt).lcs = c.lcs := rfl
@[simp] theorem Core.settleFmt_chainEn (c : Core) : (c.settleFmt).chainEn = c.chainEn := rfl
@[simp] theorem Core.settleFmt_tok (c : Core) : (c.settleFmt).tok = c.tok := rfl
@[simp] theorem Core.settleFmt_rank (c : Core) : (c.settleFmt).rank = c.rank := rfl
@[simp] theorem Core.settleFmt_named (c : Core) : (c.settleFmt).named = c.named := rfl
@[simp] theorem Core.settleFmt_spad (c : Core) : (c.settleFmt).spad = c.spad := rfl
@[simp] theorem Core.settleFmt_spadBad (c : Core) : (c.settleFmt).spadBad = c.spadBad := rfl
@[simp] theorem Core.settleFmt_regBad (c : Core) : (c.settleFmt).regBad = c.regBad := rfl
@[simp] theorem Core.settleFmt_wbuf (c : Core) : (c.settleFmt).wbuf = c.wbuf := rfl
@[simp] theorem Core.settleFmt_wbufBad (c : Core) : (c.settleFmt).wbufBad = c.wbufBad := rfl
@[simp] theorem Core.settleFmt_wOwner (c : Core) : (c.settleFmt).wOwner = c.wOwner := rfl
@[simp] theorem Core.settleFmt_region (c : Core) : (c.settleFmt).region = c.region := rfl
@[simp] theorem Core.settleFmt_eng (c : Core) : (c.settleFmt).eng = c.eng := rfl
@[simp] theorem Core.settleFmt_utlb (c : Core) : (c.settleFmt).utlb = c.utlb := rfl
@[simp] theorem Core.settleFmt_pre (c : Core) : (c.settleFmt).pre = c.pre := rfl
@[simp] theorem Core.settleFmt_lease (c : Core) : (c.settleFmt).lease = c.lease := rfl
@[simp] theorem Core.settleFmt_doom (c : Core) : (c.settleFmt).doom = c.doom := rfl
@[simp] theorem Core.settleFmt_spare (c : Core) : (c.settleFmt).spare = c.spare := rfl

@[simp] theorem Core.mature_busy (c : Core) (n : Nat) : (c.mature n).busy = c.busy := rfl
@[simp] theorem Core.mature_waiting (c : Core) (n : Nat) : (c.mature n).waiting = c.waiting := rfl
@[simp] theorem Core.mature_task (c : Core) (n : Nat) : (c.mature n).task = c.task := rfl
@[simp] theorem Core.mature_old (c : Core) (n : Nat) : (c.mature n).old = c.old := rfl
@[simp] theorem Core.mature_lands (c : Core) (n : Nat) : (c.mature n).lands = c.lands := rfl
@[simp] theorem Core.mature_flagQ (c : Core) (n : Nat) : (c.mature n).flagQ = c.flagQ := rfl
@[simp] theorem Core.mature_older (c : Core) (n : Nat) : (c.mature n).older = c.older := rfl
@[simp] theorem Core.mature_lat (c : Core) (n : Nat) : (c.mature n).lat = c.lat := rfl
@[simp] theorem Core.mature_younger (c : Core) (n : Nat) : (c.mature n).younger = c.younger := rfl
@[simp] theorem Core.mature_pace (c : Core) (n : Nat) : (c.mature n).pace = c.pace := rfl
@[simp] theorem Core.mature_hist (c : Core) (n : Nat) : (c.mature n).hist = c.hist := rfl
@[simp] theorem Core.mature_nominal (c : Core) (n : Nat) : (c.mature n).nominal = c.nominal := rfl
@[simp] theorem Core.mature_elapsed (c : Core) (n : Nat) : (c.mature n).elapsed = c.elapsed := rfl
@[simp] theorem Core.mature_cycle (c : Core) (n : Nat) : (c.mature n).cycle = c.cycle := rfl
@[simp] theorem Core.mature_mOcc (c : Core) (n : Nat) : (c.mature n).mOcc = c.mOcc := rfl
@[simp] theorem Core.mature_eOcc (c : Core) (n : Nat) : (c.mature n).eOcc = c.eOcc := rfl
@[simp] theorem Core.mature_z (c : Core) (n : Nat) : (c.mature n).z = c.z := rfl
@[simp] theorem Core.mature_w (c : Core) (n : Nat) : (c.mature n).w = c.w := rfl
@[simp] theorem Core.mature_srnd (c : Core) (n : Nat) : (c.mature n).srnd = c.srnd := rfl
@[simp] theorem Core.mature_scb (c : Core) (n : Nat) : (c.mature n).scb = c.scb := rfl
@[simp] theorem Core.mature_lcs (c : Core) (n : Nat) : (c.mature n).lcs = c.lcs := rfl
@[simp] theorem Core.mature_chainEn (c : Core) (n : Nat) : (c.mature n).chainEn = c.chainEn := rfl
@[simp] theorem Core.mature_tok (c : Core) (n : Nat) : (c.mature n).tok = c.tok := rfl
@[simp] theorem Core.mature_rank (c : Core) (n : Nat) : (c.mature n).rank = c.rank := rfl
@[simp] theorem Core.mature_named (c : Core) (n : Nat) : (c.mature n).named = c.named := rfl
@[simp] theorem Core.mature_spad (c : Core) (n : Nat) : (c.mature n).spad = c.spad := rfl
@[simp] theorem Core.mature_spadBad (c : Core) (n : Nat) : (c.mature n).spadBad = c.spadBad := rfl
@[simp] theorem Core.mature_regBad (c : Core) (n : Nat) : (c.mature n).regBad = c.regBad := rfl
@[simp] theorem Core.mature_wbuf (c : Core) (n : Nat) : (c.mature n).wbuf = c.wbuf := rfl
@[simp] theorem Core.mature_wbufBad (c : Core) (n : Nat) : (c.mature n).wbufBad = c.wbufBad := rfl
@[simp] theorem Core.mature_wOwner (c : Core) (n : Nat) : (c.mature n).wOwner = c.wOwner := rfl
@[simp] theorem Core.mature_region (c : Core) (n : Nat) : (c.mature n).region = c.region := rfl
@[simp] theorem Core.mature_eng (c : Core) (n : Nat) : (c.mature n).eng = c.eng := rfl
@[simp] theorem Core.mature_utlb (c : Core) (n : Nat) : (c.mature n).utlb = c.utlb := rfl
@[simp] theorem Core.mature_pre (c : Core) (n : Nat) : (c.mature n).pre = c.pre := rfl
@[simp] theorem Core.mature_lease (c : Core) (n : Nat) : (c.mature n).lease = c.lease := rfl
@[simp] theorem Core.mature_doom (c : Core) (n : Nat) : (c.mature n).doom = c.doom := rfl
@[simp] theorem Core.mature_spare (c : Core) (n : Nat) : (c.mature n).spare = c.spare := rfl

@[simp] theorem Core.jump_busy (c : Core) (t : Half) (p : Nat) : (c.jump t p).busy = c.busy := rfl
@[simp] theorem Core.jump_waiting (c : Core) (t : Half) (p : Nat) : (c.jump t p).waiting = c.waiting := rfl
@[simp] theorem Core.jump_live (c : Core) (t : Half) (p : Nat) : (c.jump t p).live = c.live := rfl
@[simp] theorem Core.jump_old (c : Core) (t : Half) (p : Nat) : (c.jump t p).old = c.old := rfl
@[simp] theorem Core.jump_lands (c : Core) (t : Half) (p : Nat) : (c.jump t p).lands = c.lands := rfl
@[simp] theorem Core.jump_fmtQ (c : Core) (t : Half) (p : Nat) : (c.jump t p).fmtQ = c.fmtQ := rfl
@[simp] theorem Core.jump_flagQ (c : Core) (t : Half) (p : Nat) : (c.jump t p).flagQ = c.flagQ := rfl
@[simp] theorem Core.jump_older (c : Core) (t : Half) (p : Nat) : (c.jump t p).older = c.older := rfl
@[simp] theorem Core.jump_younger (c : Core) (t : Half) (p : Nat) : (c.jump t p).younger = c.younger := rfl
@[simp] theorem Core.jump_pace (c : Core) (t : Half) (p : Nat) : (c.jump t p).pace = c.pace := rfl
@[simp] theorem Core.jump_hist (c : Core) (t : Half) (p : Nat) : (c.jump t p).hist = c.hist := rfl
@[simp] theorem Core.jump_elapsed (c : Core) (t : Half) (p : Nat) : (c.jump t p).elapsed = c.elapsed := rfl
@[simp] theorem Core.jump_cycle (c : Core) (t : Half) (p : Nat) : (c.jump t p).cycle = c.cycle := rfl
@[simp] theorem Core.jump_mOcc (c : Core) (t : Half) (p : Nat) : (c.jump t p).mOcc = c.mOcc := rfl
@[simp] theorem Core.jump_eOcc (c : Core) (t : Half) (p : Nat) : (c.jump t p).eOcc = c.eOcc := rfl
@[simp] theorem Core.jump_z (c : Core) (t : Half) (p : Nat) : (c.jump t p).z = c.z := rfl
@[simp] theorem Core.jump_w (c : Core) (t : Half) (p : Nat) : (c.jump t p).w = c.w := rfl
@[simp] theorem Core.jump_srnd (c : Core) (t : Half) (p : Nat) : (c.jump t p).srnd = c.srnd := rfl
@[simp] theorem Core.jump_scb (c : Core) (t : Half) (p : Nat) : (c.jump t p).scb = c.scb := rfl
@[simp] theorem Core.jump_lcs (c : Core) (t : Half) (p : Nat) : (c.jump t p).lcs = c.lcs := rfl
@[simp] theorem Core.jump_chainEn (c : Core) (t : Half) (p : Nat) : (c.jump t p).chainEn = c.chainEn := rfl
@[simp] theorem Core.jump_tok (c : Core) (t : Half) (p : Nat) : (c.jump t p).tok = c.tok := rfl
@[simp] theorem Core.jump_rank (c : Core) (t : Half) (p : Nat) : (c.jump t p).rank = c.rank := rfl
@[simp] theorem Core.jump_named (c : Core) (t : Half) (p : Nat) : (c.jump t p).named = c.named := rfl
@[simp] theorem Core.jump_spad (c : Core) (t : Half) (p : Nat) : (c.jump t p).spad = c.spad := rfl
@[simp] theorem Core.jump_spadBad (c : Core) (t : Half) (p : Nat) : (c.jump t p).spadBad = c.spadBad := rfl
@[simp] theorem Core.jump_regBad (c : Core) (t : Half) (p : Nat) : (c.jump t p).regBad = c.regBad := rfl
@[simp] theorem Core.jump_wbuf (c : Core) (t : Half) (p : Nat) : (c.jump t p).wbuf = c.wbuf := rfl
@[simp] theorem Core.jump_wbufBad (c : Core) (t : Half) (p : Nat) : (c.jump t p).wbufBad = c.wbufBad := rfl
@[simp] theorem Core.jump_wOwner (c : Core) (t : Half) (p : Nat) : (c.jump t p).wOwner = c.wOwner := rfl
@[simp] theorem Core.jump_region (c : Core) (t : Half) (p : Nat) : (c.jump t p).region = c.region := rfl
@[simp] theorem Core.jump_eng (c : Core) (t : Half) (p : Nat) : (c.jump t p).eng = c.eng := rfl
@[simp] theorem Core.jump_utlb (c : Core) (t : Half) (p : Nat) : (c.jump t p).utlb = c.utlb := rfl
@[simp] theorem Core.jump_pre (c : Core) (t : Half) (p : Nat) : (c.jump t p).pre = c.pre := rfl
@[simp] theorem Core.jump_lease (c : Core) (t : Half) (p : Nat) : (c.jump t p).lease = c.lease := rfl
@[simp] theorem Core.jump_doom (c : Core) (t : Half) (p : Nat) : (c.jump t p).doom = c.doom := rfl
@[simp] theorem Core.jump_spare (c : Core) (t : Half) (p : Nat) : (c.jump t p).spare = c.spare := rfl

@[simp] theorem Core.raise_busy (c : Core) (lat : Nat) (f : Flags) : (c.raise lat f).busy = c.busy :=
  by
  unfold Core.raise; split <;> rfl
@[simp] theorem Core.raise_waiting (c : Core) (lat : Nat) (f : Flags) : (c.raise lat f).waiting = c.waiting :=
  by
  unfold Core.raise; split <;> rfl
@[simp] theorem Core.raise_task (c : Core) (lat : Nat) (f : Flags) : (c.raise lat f).task = c.task :=
  by
  unfold Core.raise; split <;> rfl
@[simp] theorem Core.raise_live (c : Core) (lat : Nat) (f : Flags) : (c.raise lat f).live = c.live :=
  by
  unfold Core.raise; split <;> rfl
@[simp] theorem Core.raise_old (c : Core) (lat : Nat) (f : Flags) : (c.raise lat f).old = c.old :=
  by
  unfold Core.raise; split <;> rfl
@[simp] theorem Core.raise_lands (c : Core) (lat : Nat) (f : Flags) : (c.raise lat f).lands = c.lands :=
  by
  unfold Core.raise; split <;> rfl
@[simp] theorem Core.raise_fmtQ (c : Core) (lat : Nat) (f : Flags) : (c.raise lat f).fmtQ = c.fmtQ :=
  by
  unfold Core.raise; split <;> rfl
@[simp] theorem Core.raise_older (c : Core) (lat : Nat) (f : Flags) : (c.raise lat f).older = c.older :=
  by
  unfold Core.raise; split <;> rfl
@[simp] theorem Core.raise_lat (c : Core) (lat : Nat) (f : Flags) : (c.raise lat f).lat = c.lat :=
  by
  unfold Core.raise; split <;> rfl
@[simp] theorem Core.raise_younger (c : Core) (lat : Nat) (f : Flags) : (c.raise lat f).younger = c.younger :=
  by
  unfold Core.raise; split <;> rfl
@[simp] theorem Core.raise_pace (c : Core) (lat : Nat) (f : Flags) : (c.raise lat f).pace = c.pace :=
  by
  unfold Core.raise; split <;> rfl
@[simp] theorem Core.raise_hist (c : Core) (lat : Nat) (f : Flags) : (c.raise lat f).hist = c.hist :=
  by
  unfold Core.raise; split <;> rfl
@[simp] theorem Core.raise_nominal (c : Core) (lat : Nat) (f : Flags) : (c.raise lat f).nominal = c.nominal :=
  by
  unfold Core.raise; split <;> rfl
@[simp] theorem Core.raise_elapsed (c : Core) (lat : Nat) (f : Flags) : (c.raise lat f).elapsed = c.elapsed :=
  by
  unfold Core.raise; split <;> rfl
@[simp] theorem Core.raise_cycle (c : Core) (lat : Nat) (f : Flags) : (c.raise lat f).cycle = c.cycle :=
  by
  unfold Core.raise; split <;> rfl
@[simp] theorem Core.raise_mOcc (c : Core) (lat : Nat) (f : Flags) : (c.raise lat f).mOcc = c.mOcc :=
  by
  unfold Core.raise; split <;> rfl
@[simp] theorem Core.raise_eOcc (c : Core) (lat : Nat) (f : Flags) : (c.raise lat f).eOcc = c.eOcc :=
  by
  unfold Core.raise; split <;> rfl
@[simp] theorem Core.raise_z (c : Core) (lat : Nat) (f : Flags) : (c.raise lat f).z = c.z :=
  by
  unfold Core.raise; split <;> rfl
@[simp] theorem Core.raise_w (c : Core) (lat : Nat) (f : Flags) : (c.raise lat f).w = c.w :=
  by
  unfold Core.raise; split <;> rfl
@[simp] theorem Core.raise_srnd (c : Core) (lat : Nat) (f : Flags) : (c.raise lat f).srnd = c.srnd :=
  by
  unfold Core.raise; split <;> rfl
@[simp] theorem Core.raise_scb (c : Core) (lat : Nat) (f : Flags) : (c.raise lat f).scb = c.scb :=
  by
  unfold Core.raise; split <;> rfl
@[simp] theorem Core.raise_lcs (c : Core) (lat : Nat) (f : Flags) : (c.raise lat f).lcs = c.lcs :=
  by
  unfold Core.raise; split <;> rfl
@[simp] theorem Core.raise_chainEn (c : Core) (lat : Nat) (f : Flags) : (c.raise lat f).chainEn = c.chainEn :=
  by
  unfold Core.raise; split <;> rfl
@[simp] theorem Core.raise_tok (c : Core) (lat : Nat) (f : Flags) : (c.raise lat f).tok = c.tok :=
  by
  unfold Core.raise; split <;> rfl
@[simp] theorem Core.raise_rank (c : Core) (lat : Nat) (f : Flags) : (c.raise lat f).rank = c.rank :=
  by
  unfold Core.raise; split <;> rfl
@[simp] theorem Core.raise_named (c : Core) (lat : Nat) (f : Flags) : (c.raise lat f).named = c.named :=
  by
  unfold Core.raise; split <;> rfl
@[simp] theorem Core.raise_spad (c : Core) (lat : Nat) (f : Flags) : (c.raise lat f).spad = c.spad :=
  by
  unfold Core.raise; split <;> rfl
@[simp] theorem Core.raise_spadBad (c : Core) (lat : Nat) (f : Flags) : (c.raise lat f).spadBad = c.spadBad :=
  by
  unfold Core.raise; split <;> rfl
@[simp] theorem Core.raise_regBad (c : Core) (lat : Nat) (f : Flags) : (c.raise lat f).regBad = c.regBad :=
  by
  unfold Core.raise; split <;> rfl
@[simp] theorem Core.raise_wbuf (c : Core) (lat : Nat) (f : Flags) : (c.raise lat f).wbuf = c.wbuf :=
  by
  unfold Core.raise; split <;> rfl
@[simp] theorem Core.raise_wbufBad (c : Core) (lat : Nat) (f : Flags) : (c.raise lat f).wbufBad = c.wbufBad :=
  by
  unfold Core.raise; split <;> rfl
@[simp] theorem Core.raise_wOwner (c : Core) (lat : Nat) (f : Flags) : (c.raise lat f).wOwner = c.wOwner :=
  by
  unfold Core.raise; split <;> rfl
@[simp] theorem Core.raise_region (c : Core) (lat : Nat) (f : Flags) : (c.raise lat f).region = c.region :=
  by
  unfold Core.raise; split <;> rfl
@[simp] theorem Core.raise_eng (c : Core) (lat : Nat) (f : Flags) : (c.raise lat f).eng = c.eng :=
  by
  unfold Core.raise; split <;> rfl
@[simp] theorem Core.raise_utlb (c : Core) (lat : Nat) (f : Flags) : (c.raise lat f).utlb = c.utlb :=
  by
  unfold Core.raise; split <;> rfl
@[simp] theorem Core.raise_pre (c : Core) (lat : Nat) (f : Flags) : (c.raise lat f).pre = c.pre :=
  by
  unfold Core.raise; split <;> rfl
@[simp] theorem Core.raise_lease (c : Core) (lat : Nat) (f : Flags) : (c.raise lat f).lease = c.lease :=
  by
  unfold Core.raise; split <;> rfl
@[simp] theorem Core.raise_doom (c : Core) (lat : Nat) (f : Flags) : (c.raise lat f).doom = c.doom :=
  by
  unfold Core.raise; split <;> rfl
@[simp] theorem Core.raise_spare (c : Core) (lat : Nat) (f : Flags) : (c.raise lat f).spare = c.spare :=
  by
  unfold Core.raise; split <;> rfl

@[simp] theorem Core.raiseNow_busy (c : Core) (f : Flags) : (c.raiseNow f).busy = c.busy :=
  by
  unfold Core.raiseNow; simp
@[simp] theorem Core.raiseNow_waiting (c : Core) (f : Flags) : (c.raiseNow f).waiting = c.waiting :=
  by
  unfold Core.raiseNow; simp
@[simp] theorem Core.raiseNow_task (c : Core) (f : Flags) : (c.raiseNow f).task = c.task :=
  by
  unfold Core.raiseNow; simp
@[simp] theorem Core.raiseNow_live (c : Core) (f : Flags) : (c.raiseNow f).live = c.live :=
  by
  unfold Core.raiseNow; simp
@[simp] theorem Core.raiseNow_old (c : Core) (f : Flags) : (c.raiseNow f).old = c.old := by
  unfold Core.raiseNow; simp
@[simp] theorem Core.raiseNow_lands (c : Core) (f : Flags) : (c.raiseNow f).lands = c.lands :=
  by
  unfold Core.raiseNow; simp
@[simp] theorem Core.raiseNow_fmtQ (c : Core) (f : Flags) : (c.raiseNow f).fmtQ = c.fmtQ :=
  by
  unfold Core.raiseNow; simp
@[simp] theorem Core.raiseNow_older (c : Core) (f : Flags) : (c.raiseNow f).older = c.older :=
  by
  unfold Core.raiseNow; simp
@[simp] theorem Core.raiseNow_lat (c : Core) (f : Flags) : (c.raiseNow f).lat = c.lat := by
  unfold Core.raiseNow; simp
@[simp] theorem Core.raiseNow_younger (c : Core) (f : Flags) : (c.raiseNow f).younger = c.younger :=
  by
  unfold Core.raiseNow; simp
@[simp] theorem Core.raiseNow_pace (c : Core) (f : Flags) : (c.raiseNow f).pace = c.pace :=
  by
  unfold Core.raiseNow; simp
@[simp] theorem Core.raiseNow_hist (c : Core) (f : Flags) : (c.raiseNow f).hist = c.hist :=
  by
  unfold Core.raiseNow; simp
@[simp] theorem Core.raiseNow_nominal (c : Core) (f : Flags) : (c.raiseNow f).nominal = c.nominal :=
  by
  unfold Core.raiseNow; simp
@[simp] theorem Core.raiseNow_elapsed (c : Core) (f : Flags) : (c.raiseNow f).elapsed = c.elapsed :=
  by
  unfold Core.raiseNow; simp
@[simp] theorem Core.raiseNow_cycle (c : Core) (f : Flags) : (c.raiseNow f).cycle = c.cycle :=
  by
  unfold Core.raiseNow; simp
@[simp] theorem Core.raiseNow_mOcc (c : Core) (f : Flags) : (c.raiseNow f).mOcc = c.mOcc :=
  by
  unfold Core.raiseNow; simp
@[simp] theorem Core.raiseNow_eOcc (c : Core) (f : Flags) : (c.raiseNow f).eOcc = c.eOcc :=
  by
  unfold Core.raiseNow; simp
@[simp] theorem Core.raiseNow_z (c : Core) (f : Flags) : (c.raiseNow f).z = c.z := by
  unfold Core.raiseNow; simp
@[simp] theorem Core.raiseNow_w (c : Core) (f : Flags) : (c.raiseNow f).w = c.w := by
  unfold Core.raiseNow; simp
@[simp] theorem Core.raiseNow_srnd (c : Core) (f : Flags) : (c.raiseNow f).srnd = c.srnd :=
  by
  unfold Core.raiseNow; simp
@[simp] theorem Core.raiseNow_scb (c : Core) (f : Flags) : (c.raiseNow f).scb = c.scb := by
  unfold Core.raiseNow; simp
@[simp] theorem Core.raiseNow_lcs (c : Core) (f : Flags) : (c.raiseNow f).lcs = c.lcs := by
  unfold Core.raiseNow; simp
@[simp] theorem Core.raiseNow_chainEn (c : Core) (f : Flags) : (c.raiseNow f).chainEn = c.chainEn :=
  by
  unfold Core.raiseNow; simp
@[simp] theorem Core.raiseNow_tok (c : Core) (f : Flags) : (c.raiseNow f).tok = c.tok := by
  unfold Core.raiseNow; simp
@[simp] theorem Core.raiseNow_rank (c : Core) (f : Flags) : (c.raiseNow f).rank = c.rank :=
  by
  unfold Core.raiseNow; simp
@[simp] theorem Core.raiseNow_named (c : Core) (f : Flags) : (c.raiseNow f).named = c.named :=
  by
  unfold Core.raiseNow; simp
@[simp] theorem Core.raiseNow_spad (c : Core) (f : Flags) : (c.raiseNow f).spad = c.spad :=
  by
  unfold Core.raiseNow; simp
@[simp] theorem Core.raiseNow_spadBad (c : Core) (f : Flags) : (c.raiseNow f).spadBad = c.spadBad :=
  by
  unfold Core.raiseNow; simp
@[simp] theorem Core.raiseNow_regBad (c : Core) (f : Flags) : (c.raiseNow f).regBad = c.regBad :=
  by
  unfold Core.raiseNow; simp
@[simp] theorem Core.raiseNow_wbuf (c : Core) (f : Flags) : (c.raiseNow f).wbuf = c.wbuf :=
  by
  unfold Core.raiseNow; simp
@[simp] theorem Core.raiseNow_wbufBad (c : Core) (f : Flags) : (c.raiseNow f).wbufBad = c.wbufBad :=
  by
  unfold Core.raiseNow; simp
@[simp] theorem Core.raiseNow_wOwner (c : Core) (f : Flags) : (c.raiseNow f).wOwner = c.wOwner :=
  by
  unfold Core.raiseNow; simp
@[simp] theorem Core.raiseNow_region (c : Core) (f : Flags) : (c.raiseNow f).region = c.region :=
  by
  unfold Core.raiseNow; simp
@[simp] theorem Core.raiseNow_eng (c : Core) (f : Flags) : (c.raiseNow f).eng = c.eng := by
  unfold Core.raiseNow; simp
@[simp] theorem Core.raiseNow_utlb (c : Core) (f : Flags) : (c.raiseNow f).utlb = c.utlb :=
  by
  unfold Core.raiseNow; simp
@[simp] theorem Core.raiseNow_pre (c : Core) (f : Flags) : (c.raiseNow f).pre = c.pre := by
  unfold Core.raiseNow; simp
@[simp] theorem Core.raiseNow_lease (c : Core) (f : Flags) : (c.raiseNow f).lease = c.lease :=
  by
  unfold Core.raiseNow; simp
@[simp] theorem Core.raiseNow_doom (c : Core) (f : Flags) : (c.raiseNow f).doom = c.doom :=
  by
  unfold Core.raiseNow; simp
@[simp] theorem Core.raiseNow_spare (c : Core) (f : Flags) : (c.raiseNow f).spare = c.spare :=
  by
  unfold Core.raiseNow; simp

@[simp] theorem Core.writeLoc_busy (c : Core) (k : Slot) (lat : Nat) (l : Loc) (v : Nat) : (c.writeLoc k lat l v).busy = c.busy :=
  rfl
@[simp] theorem Core.writeLoc_waiting (c : Core) (k : Slot) (lat : Nat) (l : Loc) (v : Nat) : (c.writeLoc k lat l v).waiting = c.waiting :=
  rfl
@[simp] theorem Core.writeLoc_task (c : Core) (k : Slot) (lat : Nat) (l : Loc) (v : Nat) : (c.writeLoc k lat l v).task = c.task :=
  rfl
@[simp] theorem Core.writeLoc_fmtQ (c : Core) (k : Slot) (lat : Nat) (l : Loc) (v : Nat) : (c.writeLoc k lat l v).fmtQ = c.fmtQ :=
  rfl
@[simp] theorem Core.writeLoc_flagQ (c : Core) (k : Slot) (lat : Nat) (l : Loc) (v : Nat) : (c.writeLoc k lat l v).flagQ = c.flagQ :=
  rfl
@[simp] theorem Core.writeLoc_older (c : Core) (k : Slot) (lat : Nat) (l : Loc) (v : Nat) : (c.writeLoc k lat l v).older = c.older :=
  rfl
@[simp] theorem Core.writeLoc_younger (c : Core) (k : Slot) (lat : Nat) (l : Loc) (v : Nat) : (c.writeLoc k lat l v).younger = c.younger :=
  rfl
@[simp] theorem Core.writeLoc_pace (c : Core) (k : Slot) (lat : Nat) (l : Loc) (v : Nat) : (c.writeLoc k lat l v).pace = c.pace :=
  rfl
@[simp] theorem Core.writeLoc_hist (c : Core) (k : Slot) (lat : Nat) (l : Loc) (v : Nat) : (c.writeLoc k lat l v).hist = c.hist :=
  rfl
@[simp] theorem Core.writeLoc_nominal (c : Core) (k : Slot) (lat : Nat) (l : Loc) (v : Nat) : (c.writeLoc k lat l v).nominal = c.nominal :=
  rfl
@[simp] theorem Core.writeLoc_elapsed (c : Core) (k : Slot) (lat : Nat) (l : Loc) (v : Nat) : (c.writeLoc k lat l v).elapsed = c.elapsed :=
  rfl
@[simp] theorem Core.writeLoc_cycle (c : Core) (k : Slot) (lat : Nat) (l : Loc) (v : Nat) : (c.writeLoc k lat l v).cycle = c.cycle :=
  rfl
@[simp] theorem Core.writeLoc_mOcc (c : Core) (k : Slot) (lat : Nat) (l : Loc) (v : Nat) : (c.writeLoc k lat l v).mOcc = c.mOcc :=
  rfl
@[simp] theorem Core.writeLoc_eOcc (c : Core) (k : Slot) (lat : Nat) (l : Loc) (v : Nat) : (c.writeLoc k lat l v).eOcc = c.eOcc :=
  rfl
@[simp] theorem Core.writeLoc_z (c : Core) (k : Slot) (lat : Nat) (l : Loc) (v : Nat) : (c.writeLoc k lat l v).z = c.z :=
  rfl
@[simp] theorem Core.writeLoc_w (c : Core) (k : Slot) (lat : Nat) (l : Loc) (v : Nat) : (c.writeLoc k lat l v).w = c.w :=
  rfl
@[simp] theorem Core.writeLoc_srnd (c : Core) (k : Slot) (lat : Nat) (l : Loc) (v : Nat) : (c.writeLoc k lat l v).srnd = c.srnd :=
  rfl
@[simp] theorem Core.writeLoc_scb (c : Core) (k : Slot) (lat : Nat) (l : Loc) (v : Nat) : (c.writeLoc k lat l v).scb = c.scb :=
  rfl
@[simp] theorem Core.writeLoc_lcs (c : Core) (k : Slot) (lat : Nat) (l : Loc) (v : Nat) : (c.writeLoc k lat l v).lcs = c.lcs :=
  rfl
@[simp] theorem Core.writeLoc_chainEn (c : Core) (k : Slot) (lat : Nat) (l : Loc) (v : Nat) : (c.writeLoc k lat l v).chainEn = c.chainEn :=
  rfl
@[simp] theorem Core.writeLoc_tok (c : Core) (k : Slot) (lat : Nat) (l : Loc) (v : Nat) : (c.writeLoc k lat l v).tok = c.tok :=
  rfl
@[simp] theorem Core.writeLoc_rank (c : Core) (k : Slot) (lat : Nat) (l : Loc) (v : Nat) : (c.writeLoc k lat l v).rank = c.rank :=
  rfl
@[simp] theorem Core.writeLoc_named (c : Core) (k : Slot) (lat : Nat) (l : Loc) (v : Nat) : (c.writeLoc k lat l v).named = c.named :=
  rfl
@[simp] theorem Core.writeLoc_spad (c : Core) (k : Slot) (lat : Nat) (l : Loc) (v : Nat) : (c.writeLoc k lat l v).spad = c.spad :=
  rfl
@[simp] theorem Core.writeLoc_spadBad (c : Core) (k : Slot) (lat : Nat) (l : Loc) (v : Nat) : (c.writeLoc k lat l v).spadBad = c.spadBad :=
  rfl
@[simp] theorem Core.writeLoc_regBad (c : Core) (k : Slot) (lat : Nat) (l : Loc) (v : Nat) : (c.writeLoc k lat l v).regBad = c.regBad :=
  rfl
@[simp] theorem Core.writeLoc_wbuf (c : Core) (k : Slot) (lat : Nat) (l : Loc) (v : Nat) : (c.writeLoc k lat l v).wbuf = c.wbuf :=
  rfl
@[simp] theorem Core.writeLoc_wbufBad (c : Core) (k : Slot) (lat : Nat) (l : Loc) (v : Nat) : (c.writeLoc k lat l v).wbufBad = c.wbufBad :=
  rfl
@[simp] theorem Core.writeLoc_wOwner (c : Core) (k : Slot) (lat : Nat) (l : Loc) (v : Nat) : (c.writeLoc k lat l v).wOwner = c.wOwner :=
  rfl
@[simp] theorem Core.writeLoc_region (c : Core) (k : Slot) (lat : Nat) (l : Loc) (v : Nat) : (c.writeLoc k lat l v).region = c.region :=
  rfl
@[simp] theorem Core.writeLoc_eng (c : Core) (k : Slot) (lat : Nat) (l : Loc) (v : Nat) : (c.writeLoc k lat l v).eng = c.eng :=
  rfl
@[simp] theorem Core.writeLoc_utlb (c : Core) (k : Slot) (lat : Nat) (l : Loc) (v : Nat) : (c.writeLoc k lat l v).utlb = c.utlb :=
  rfl
@[simp] theorem Core.writeLoc_pre (c : Core) (k : Slot) (lat : Nat) (l : Loc) (v : Nat) : (c.writeLoc k lat l v).pre = c.pre :=
  rfl
@[simp] theorem Core.writeLoc_lease (c : Core) (k : Slot) (lat : Nat) (l : Loc) (v : Nat) : (c.writeLoc k lat l v).lease = c.lease :=
  rfl
@[simp] theorem Core.writeLoc_doom (c : Core) (k : Slot) (lat : Nat) (l : Loc) (v : Nat) : (c.writeLoc k lat l v).doom = c.doom :=
  rfl
@[simp] theorem Core.writeLoc_spare (c : Core) (k : Slot) (lat : Nat) (l : Loc) (v : Nat) : (c.writeLoc k lat l v).spare = c.spare :=
  rfl

@[simp] theorem Core.writeOpt_busy (c : Core) (k : Slot) (lat : Nat) (l : Option Loc) (v : Nat) : (c.writeOpt k lat l v).busy = c.busy :=
  by
  unfold Core.writeOpt; split
  · rfl
  · simp
@[simp] theorem Core.writeOpt_waiting (c : Core) (k : Slot) (lat : Nat) (l : Option Loc) (v : Nat) : (c.writeOpt k lat l v).waiting = c.waiting :=
  by
  unfold Core.writeOpt; split
  · rfl
  · simp
@[simp] theorem Core.writeOpt_task (c : Core) (k : Slot) (lat : Nat) (l : Option Loc) (v : Nat) : (c.writeOpt k lat l v).task = c.task :=
  by
  unfold Core.writeOpt; split
  · rfl
  · simp
@[simp] theorem Core.writeOpt_fmtQ (c : Core) (k : Slot) (lat : Nat) (l : Option Loc) (v : Nat) : (c.writeOpt k lat l v).fmtQ = c.fmtQ :=
  by
  unfold Core.writeOpt; split
  · rfl
  · simp
@[simp] theorem Core.writeOpt_flagQ (c : Core) (k : Slot) (lat : Nat) (l : Option Loc) (v : Nat) : (c.writeOpt k lat l v).flagQ = c.flagQ :=
  by
  unfold Core.writeOpt; split
  · rfl
  · simp
@[simp] theorem Core.writeOpt_older (c : Core) (k : Slot) (lat : Nat) (l : Option Loc) (v : Nat) : (c.writeOpt k lat l v).older = c.older :=
  by
  unfold Core.writeOpt; split
  · rfl
  · simp
@[simp] theorem Core.writeOpt_younger (c : Core) (k : Slot) (lat : Nat) (l : Option Loc) (v : Nat) : (c.writeOpt k lat l v).younger = c.younger :=
  by
  unfold Core.writeOpt; split
  · rfl
  · simp
@[simp] theorem Core.writeOpt_pace (c : Core) (k : Slot) (lat : Nat) (l : Option Loc) (v : Nat) : (c.writeOpt k lat l v).pace = c.pace :=
  by
  unfold Core.writeOpt; split
  · rfl
  · simp
@[simp] theorem Core.writeOpt_hist (c : Core) (k : Slot) (lat : Nat) (l : Option Loc) (v : Nat) : (c.writeOpt k lat l v).hist = c.hist :=
  by
  unfold Core.writeOpt; split
  · rfl
  · simp
@[simp] theorem Core.writeOpt_nominal (c : Core) (k : Slot) (lat : Nat) (l : Option Loc) (v : Nat) : (c.writeOpt k lat l v).nominal = c.nominal :=
  by
  unfold Core.writeOpt; split
  · rfl
  · simp
@[simp] theorem Core.writeOpt_elapsed (c : Core) (k : Slot) (lat : Nat) (l : Option Loc) (v : Nat) : (c.writeOpt k lat l v).elapsed = c.elapsed :=
  by
  unfold Core.writeOpt; split
  · rfl
  · simp
@[simp] theorem Core.writeOpt_cycle (c : Core) (k : Slot) (lat : Nat) (l : Option Loc) (v : Nat) : (c.writeOpt k lat l v).cycle = c.cycle :=
  by
  unfold Core.writeOpt; split
  · rfl
  · simp
@[simp] theorem Core.writeOpt_mOcc (c : Core) (k : Slot) (lat : Nat) (l : Option Loc) (v : Nat) : (c.writeOpt k lat l v).mOcc = c.mOcc :=
  by
  unfold Core.writeOpt; split
  · rfl
  · simp
@[simp] theorem Core.writeOpt_eOcc (c : Core) (k : Slot) (lat : Nat) (l : Option Loc) (v : Nat) : (c.writeOpt k lat l v).eOcc = c.eOcc :=
  by
  unfold Core.writeOpt; split
  · rfl
  · simp
@[simp] theorem Core.writeOpt_z (c : Core) (k : Slot) (lat : Nat) (l : Option Loc) (v : Nat) : (c.writeOpt k lat l v).z = c.z :=
  by
  unfold Core.writeOpt; split
  · rfl
  · simp
@[simp] theorem Core.writeOpt_w (c : Core) (k : Slot) (lat : Nat) (l : Option Loc) (v : Nat) : (c.writeOpt k lat l v).w = c.w :=
  by
  unfold Core.writeOpt; split
  · rfl
  · simp
@[simp] theorem Core.writeOpt_srnd (c : Core) (k : Slot) (lat : Nat) (l : Option Loc) (v : Nat) : (c.writeOpt k lat l v).srnd = c.srnd :=
  by
  unfold Core.writeOpt; split
  · rfl
  · simp
@[simp] theorem Core.writeOpt_scb (c : Core) (k : Slot) (lat : Nat) (l : Option Loc) (v : Nat) : (c.writeOpt k lat l v).scb = c.scb :=
  by
  unfold Core.writeOpt; split
  · rfl
  · simp
@[simp] theorem Core.writeOpt_lcs (c : Core) (k : Slot) (lat : Nat) (l : Option Loc) (v : Nat) : (c.writeOpt k lat l v).lcs = c.lcs :=
  by
  unfold Core.writeOpt; split
  · rfl
  · simp
@[simp] theorem Core.writeOpt_chainEn (c : Core) (k : Slot) (lat : Nat) (l : Option Loc) (v : Nat) : (c.writeOpt k lat l v).chainEn = c.chainEn :=
  by
  unfold Core.writeOpt; split
  · rfl
  · simp
@[simp] theorem Core.writeOpt_tok (c : Core) (k : Slot) (lat : Nat) (l : Option Loc) (v : Nat) : (c.writeOpt k lat l v).tok = c.tok :=
  by
  unfold Core.writeOpt; split
  · rfl
  · simp
@[simp] theorem Core.writeOpt_rank (c : Core) (k : Slot) (lat : Nat) (l : Option Loc) (v : Nat) : (c.writeOpt k lat l v).rank = c.rank :=
  by
  unfold Core.writeOpt; split
  · rfl
  · simp
@[simp] theorem Core.writeOpt_named (c : Core) (k : Slot) (lat : Nat) (l : Option Loc) (v : Nat) : (c.writeOpt k lat l v).named = c.named :=
  by
  unfold Core.writeOpt; split
  · rfl
  · simp
@[simp] theorem Core.writeOpt_spad (c : Core) (k : Slot) (lat : Nat) (l : Option Loc) (v : Nat) : (c.writeOpt k lat l v).spad = c.spad :=
  by
  unfold Core.writeOpt; split
  · rfl
  · simp
@[simp] theorem Core.writeOpt_spadBad (c : Core) (k : Slot) (lat : Nat) (l : Option Loc) (v : Nat) : (c.writeOpt k lat l v).spadBad = c.spadBad :=
  by
  unfold Core.writeOpt; split
  · rfl
  · simp
@[simp] theorem Core.writeOpt_regBad (c : Core) (k : Slot) (lat : Nat) (l : Option Loc) (v : Nat) : (c.writeOpt k lat l v).regBad = c.regBad :=
  by
  unfold Core.writeOpt; split
  · rfl
  · simp
@[simp] theorem Core.writeOpt_wbuf (c : Core) (k : Slot) (lat : Nat) (l : Option Loc) (v : Nat) : (c.writeOpt k lat l v).wbuf = c.wbuf :=
  by
  unfold Core.writeOpt; split
  · rfl
  · simp
@[simp] theorem Core.writeOpt_wbufBad (c : Core) (k : Slot) (lat : Nat) (l : Option Loc) (v : Nat) : (c.writeOpt k lat l v).wbufBad = c.wbufBad :=
  by
  unfold Core.writeOpt; split
  · rfl
  · simp
@[simp] theorem Core.writeOpt_wOwner (c : Core) (k : Slot) (lat : Nat) (l : Option Loc) (v : Nat) : (c.writeOpt k lat l v).wOwner = c.wOwner :=
  by
  unfold Core.writeOpt; split
  · rfl
  · simp
@[simp] theorem Core.writeOpt_region (c : Core) (k : Slot) (lat : Nat) (l : Option Loc) (v : Nat) : (c.writeOpt k lat l v).region = c.region :=
  by
  unfold Core.writeOpt; split
  · rfl
  · simp
@[simp] theorem Core.writeOpt_eng (c : Core) (k : Slot) (lat : Nat) (l : Option Loc) (v : Nat) : (c.writeOpt k lat l v).eng = c.eng :=
  by
  unfold Core.writeOpt; split
  · rfl
  · simp
@[simp] theorem Core.writeOpt_utlb (c : Core) (k : Slot) (lat : Nat) (l : Option Loc) (v : Nat) : (c.writeOpt k lat l v).utlb = c.utlb :=
  by
  unfold Core.writeOpt; split
  · rfl
  · simp
@[simp] theorem Core.writeOpt_pre (c : Core) (k : Slot) (lat : Nat) (l : Option Loc) (v : Nat) : (c.writeOpt k lat l v).pre = c.pre :=
  by
  unfold Core.writeOpt; split
  · rfl
  · simp
@[simp] theorem Core.writeOpt_lease (c : Core) (k : Slot) (lat : Nat) (l : Option Loc) (v : Nat) : (c.writeOpt k lat l v).lease = c.lease :=
  by
  unfold Core.writeOpt; split
  · rfl
  · simp
@[simp] theorem Core.writeOpt_doom (c : Core) (k : Slot) (lat : Nat) (l : Option Loc) (v : Nat) : (c.writeOpt k lat l v).doom = c.doom :=
  by
  unfold Core.writeOpt; split
  · rfl
  · simp
@[simp] theorem Core.writeOpt_spare (c : Core) (k : Slot) (lat : Nat) (l : Option Loc) (v : Nat) : (c.writeOpt k lat l v).spare = c.spare :=
  by
  unfold Core.writeOpt; split
  · rfl
  · simp

@[simp] theorem Core.writeS_busy (c : Core) (k : Slot) (lat : Nat) (i : SReg) (v : Word) : (c.writeS k lat i v).busy = c.busy :=
  by
  unfold Core.writeS; simp
@[simp] theorem Core.writeS_waiting (c : Core) (k : Slot) (lat : Nat) (i : SReg) (v : Word) : (c.writeS k lat i v).waiting = c.waiting :=
  by
  unfold Core.writeS; simp
@[simp] theorem Core.writeS_task (c : Core) (k : Slot) (lat : Nat) (i : SReg) (v : Word) : (c.writeS k lat i v).task = c.task :=
  by
  unfold Core.writeS; simp
@[simp] theorem Core.writeS_fmtQ (c : Core) (k : Slot) (lat : Nat) (i : SReg) (v : Word) : (c.writeS k lat i v).fmtQ = c.fmtQ :=
  by
  unfold Core.writeS; simp
@[simp] theorem Core.writeS_flagQ (c : Core) (k : Slot) (lat : Nat) (i : SReg) (v : Word) : (c.writeS k lat i v).flagQ = c.flagQ :=
  by
  unfold Core.writeS; simp
@[simp] theorem Core.writeS_older (c : Core) (k : Slot) (lat : Nat) (i : SReg) (v : Word) : (c.writeS k lat i v).older = c.older :=
  by
  unfold Core.writeS; simp
@[simp] theorem Core.writeS_younger (c : Core) (k : Slot) (lat : Nat) (i : SReg) (v : Word) : (c.writeS k lat i v).younger = c.younger :=
  by
  unfold Core.writeS; simp
@[simp] theorem Core.writeS_pace (c : Core) (k : Slot) (lat : Nat) (i : SReg) (v : Word) : (c.writeS k lat i v).pace = c.pace :=
  by
  unfold Core.writeS; simp
@[simp] theorem Core.writeS_hist (c : Core) (k : Slot) (lat : Nat) (i : SReg) (v : Word) : (c.writeS k lat i v).hist = c.hist :=
  by
  unfold Core.writeS; simp
@[simp] theorem Core.writeS_nominal (c : Core) (k : Slot) (lat : Nat) (i : SReg) (v : Word) : (c.writeS k lat i v).nominal = c.nominal :=
  by
  unfold Core.writeS; simp
@[simp] theorem Core.writeS_elapsed (c : Core) (k : Slot) (lat : Nat) (i : SReg) (v : Word) : (c.writeS k lat i v).elapsed = c.elapsed :=
  by
  unfold Core.writeS; simp
@[simp] theorem Core.writeS_cycle (c : Core) (k : Slot) (lat : Nat) (i : SReg) (v : Word) : (c.writeS k lat i v).cycle = c.cycle :=
  by
  unfold Core.writeS; simp
@[simp] theorem Core.writeS_mOcc (c : Core) (k : Slot) (lat : Nat) (i : SReg) (v : Word) : (c.writeS k lat i v).mOcc = c.mOcc :=
  by
  unfold Core.writeS; simp
@[simp] theorem Core.writeS_eOcc (c : Core) (k : Slot) (lat : Nat) (i : SReg) (v : Word) : (c.writeS k lat i v).eOcc = c.eOcc :=
  by
  unfold Core.writeS; simp
@[simp] theorem Core.writeS_z (c : Core) (k : Slot) (lat : Nat) (i : SReg) (v : Word) : (c.writeS k lat i v).z = c.z :=
  by
  unfold Core.writeS; simp
@[simp] theorem Core.writeS_w (c : Core) (k : Slot) (lat : Nat) (i : SReg) (v : Word) : (c.writeS k lat i v).w = c.w :=
  by
  unfold Core.writeS; simp
@[simp] theorem Core.writeS_srnd (c : Core) (k : Slot) (lat : Nat) (i : SReg) (v : Word) : (c.writeS k lat i v).srnd = c.srnd :=
  by
  unfold Core.writeS; simp
@[simp] theorem Core.writeS_scb (c : Core) (k : Slot) (lat : Nat) (i : SReg) (v : Word) : (c.writeS k lat i v).scb = c.scb :=
  by
  unfold Core.writeS; simp
@[simp] theorem Core.writeS_lcs (c : Core) (k : Slot) (lat : Nat) (i : SReg) (v : Word) : (c.writeS k lat i v).lcs = c.lcs :=
  by
  unfold Core.writeS; simp
@[simp] theorem Core.writeS_chainEn (c : Core) (k : Slot) (lat : Nat) (i : SReg) (v : Word) : (c.writeS k lat i v).chainEn = c.chainEn :=
  by
  unfold Core.writeS; simp
@[simp] theorem Core.writeS_tok (c : Core) (k : Slot) (lat : Nat) (i : SReg) (v : Word) : (c.writeS k lat i v).tok = c.tok :=
  by
  unfold Core.writeS; simp
@[simp] theorem Core.writeS_rank (c : Core) (k : Slot) (lat : Nat) (i : SReg) (v : Word) : (c.writeS k lat i v).rank = c.rank :=
  by
  unfold Core.writeS; simp
@[simp] theorem Core.writeS_named (c : Core) (k : Slot) (lat : Nat) (i : SReg) (v : Word) : (c.writeS k lat i v).named = c.named :=
  by
  unfold Core.writeS; simp
@[simp] theorem Core.writeS_spad (c : Core) (k : Slot) (lat : Nat) (i : SReg) (v : Word) : (c.writeS k lat i v).spad = c.spad :=
  by
  unfold Core.writeS; simp
@[simp] theorem Core.writeS_spadBad (c : Core) (k : Slot) (lat : Nat) (i : SReg) (v : Word) : (c.writeS k lat i v).spadBad = c.spadBad :=
  by
  unfold Core.writeS; simp
@[simp] theorem Core.writeS_regBad (c : Core) (k : Slot) (lat : Nat) (i : SReg) (v : Word) : (c.writeS k lat i v).regBad = c.regBad :=
  by
  unfold Core.writeS; simp
@[simp] theorem Core.writeS_wbuf (c : Core) (k : Slot) (lat : Nat) (i : SReg) (v : Word) : (c.writeS k lat i v).wbuf = c.wbuf :=
  by
  unfold Core.writeS; simp
@[simp] theorem Core.writeS_wbufBad (c : Core) (k : Slot) (lat : Nat) (i : SReg) (v : Word) : (c.writeS k lat i v).wbufBad = c.wbufBad :=
  by
  unfold Core.writeS; simp
@[simp] theorem Core.writeS_wOwner (c : Core) (k : Slot) (lat : Nat) (i : SReg) (v : Word) : (c.writeS k lat i v).wOwner = c.wOwner :=
  by
  unfold Core.writeS; simp
@[simp] theorem Core.writeS_region (c : Core) (k : Slot) (lat : Nat) (i : SReg) (v : Word) : (c.writeS k lat i v).region = c.region :=
  by
  unfold Core.writeS; simp
@[simp] theorem Core.writeS_eng (c : Core) (k : Slot) (lat : Nat) (i : SReg) (v : Word) : (c.writeS k lat i v).eng = c.eng :=
  by
  unfold Core.writeS; simp
@[simp] theorem Core.writeS_utlb (c : Core) (k : Slot) (lat : Nat) (i : SReg) (v : Word) : (c.writeS k lat i v).utlb = c.utlb :=
  by
  unfold Core.writeS; simp
@[simp] theorem Core.writeS_pre (c : Core) (k : Slot) (lat : Nat) (i : SReg) (v : Word) : (c.writeS k lat i v).pre = c.pre :=
  by
  unfold Core.writeS; simp
@[simp] theorem Core.writeS_lease (c : Core) (k : Slot) (lat : Nat) (i : SReg) (v : Word) : (c.writeS k lat i v).lease = c.lease :=
  by
  unfold Core.writeS; simp
@[simp] theorem Core.writeS_doom (c : Core) (k : Slot) (lat : Nat) (i : SReg) (v : Word) : (c.writeS k lat i v).doom = c.doom :=
  by
  unfold Core.writeS; simp
@[simp] theorem Core.writeS_spare (c : Core) (k : Slot) (lat : Nat) (i : SReg) (v : Word) : (c.writeS k lat i v).spare = c.spare :=
  by
  unfold Core.writeS; simp

@[simp] theorem Core.writeP_busy (c : Core) (k : Slot) (lat : Nat) (i : PReg) (v : Bool) : (c.writeP k lat i v).busy = c.busy :=
  by
  unfold Core.writeP; simp
@[simp] theorem Core.writeP_waiting (c : Core) (k : Slot) (lat : Nat) (i : PReg) (v : Bool) : (c.writeP k lat i v).waiting = c.waiting :=
  by
  unfold Core.writeP; simp
@[simp] theorem Core.writeP_task (c : Core) (k : Slot) (lat : Nat) (i : PReg) (v : Bool) : (c.writeP k lat i v).task = c.task :=
  by
  unfold Core.writeP; simp
@[simp] theorem Core.writeP_fmtQ (c : Core) (k : Slot) (lat : Nat) (i : PReg) (v : Bool) : (c.writeP k lat i v).fmtQ = c.fmtQ :=
  by
  unfold Core.writeP; simp
@[simp] theorem Core.writeP_flagQ (c : Core) (k : Slot) (lat : Nat) (i : PReg) (v : Bool) : (c.writeP k lat i v).flagQ = c.flagQ :=
  by
  unfold Core.writeP; simp
@[simp] theorem Core.writeP_older (c : Core) (k : Slot) (lat : Nat) (i : PReg) (v : Bool) : (c.writeP k lat i v).older = c.older :=
  by
  unfold Core.writeP; simp
@[simp] theorem Core.writeP_younger (c : Core) (k : Slot) (lat : Nat) (i : PReg) (v : Bool) : (c.writeP k lat i v).younger = c.younger :=
  by
  unfold Core.writeP; simp
@[simp] theorem Core.writeP_pace (c : Core) (k : Slot) (lat : Nat) (i : PReg) (v : Bool) : (c.writeP k lat i v).pace = c.pace :=
  by
  unfold Core.writeP; simp
@[simp] theorem Core.writeP_hist (c : Core) (k : Slot) (lat : Nat) (i : PReg) (v : Bool) : (c.writeP k lat i v).hist = c.hist :=
  by
  unfold Core.writeP; simp
@[simp] theorem Core.writeP_nominal (c : Core) (k : Slot) (lat : Nat) (i : PReg) (v : Bool) : (c.writeP k lat i v).nominal = c.nominal :=
  by
  unfold Core.writeP; simp
@[simp] theorem Core.writeP_elapsed (c : Core) (k : Slot) (lat : Nat) (i : PReg) (v : Bool) : (c.writeP k lat i v).elapsed = c.elapsed :=
  by
  unfold Core.writeP; simp
@[simp] theorem Core.writeP_cycle (c : Core) (k : Slot) (lat : Nat) (i : PReg) (v : Bool) : (c.writeP k lat i v).cycle = c.cycle :=
  by
  unfold Core.writeP; simp
@[simp] theorem Core.writeP_mOcc (c : Core) (k : Slot) (lat : Nat) (i : PReg) (v : Bool) : (c.writeP k lat i v).mOcc = c.mOcc :=
  by
  unfold Core.writeP; simp
@[simp] theorem Core.writeP_eOcc (c : Core) (k : Slot) (lat : Nat) (i : PReg) (v : Bool) : (c.writeP k lat i v).eOcc = c.eOcc :=
  by
  unfold Core.writeP; simp
@[simp] theorem Core.writeP_z (c : Core) (k : Slot) (lat : Nat) (i : PReg) (v : Bool) : (c.writeP k lat i v).z = c.z :=
  by
  unfold Core.writeP; simp
@[simp] theorem Core.writeP_w (c : Core) (k : Slot) (lat : Nat) (i : PReg) (v : Bool) : (c.writeP k lat i v).w = c.w :=
  by
  unfold Core.writeP; simp
@[simp] theorem Core.writeP_srnd (c : Core) (k : Slot) (lat : Nat) (i : PReg) (v : Bool) : (c.writeP k lat i v).srnd = c.srnd :=
  by
  unfold Core.writeP; simp
@[simp] theorem Core.writeP_scb (c : Core) (k : Slot) (lat : Nat) (i : PReg) (v : Bool) : (c.writeP k lat i v).scb = c.scb :=
  by
  unfold Core.writeP; simp
@[simp] theorem Core.writeP_lcs (c : Core) (k : Slot) (lat : Nat) (i : PReg) (v : Bool) : (c.writeP k lat i v).lcs = c.lcs :=
  by
  unfold Core.writeP; simp
@[simp] theorem Core.writeP_chainEn (c : Core) (k : Slot) (lat : Nat) (i : PReg) (v : Bool) : (c.writeP k lat i v).chainEn = c.chainEn :=
  by
  unfold Core.writeP; simp
@[simp] theorem Core.writeP_tok (c : Core) (k : Slot) (lat : Nat) (i : PReg) (v : Bool) : (c.writeP k lat i v).tok = c.tok :=
  by
  unfold Core.writeP; simp
@[simp] theorem Core.writeP_rank (c : Core) (k : Slot) (lat : Nat) (i : PReg) (v : Bool) : (c.writeP k lat i v).rank = c.rank :=
  by
  unfold Core.writeP; simp
@[simp] theorem Core.writeP_named (c : Core) (k : Slot) (lat : Nat) (i : PReg) (v : Bool) : (c.writeP k lat i v).named = c.named :=
  by
  unfold Core.writeP; simp
@[simp] theorem Core.writeP_spad (c : Core) (k : Slot) (lat : Nat) (i : PReg) (v : Bool) : (c.writeP k lat i v).spad = c.spad :=
  by
  unfold Core.writeP; simp
@[simp] theorem Core.writeP_spadBad (c : Core) (k : Slot) (lat : Nat) (i : PReg) (v : Bool) : (c.writeP k lat i v).spadBad = c.spadBad :=
  by
  unfold Core.writeP; simp
@[simp] theorem Core.writeP_regBad (c : Core) (k : Slot) (lat : Nat) (i : PReg) (v : Bool) : (c.writeP k lat i v).regBad = c.regBad :=
  by
  unfold Core.writeP; simp
@[simp] theorem Core.writeP_wbuf (c : Core) (k : Slot) (lat : Nat) (i : PReg) (v : Bool) : (c.writeP k lat i v).wbuf = c.wbuf :=
  by
  unfold Core.writeP; simp
@[simp] theorem Core.writeP_wbufBad (c : Core) (k : Slot) (lat : Nat) (i : PReg) (v : Bool) : (c.writeP k lat i v).wbufBad = c.wbufBad :=
  by
  unfold Core.writeP; simp
@[simp] theorem Core.writeP_wOwner (c : Core) (k : Slot) (lat : Nat) (i : PReg) (v : Bool) : (c.writeP k lat i v).wOwner = c.wOwner :=
  by
  unfold Core.writeP; simp
@[simp] theorem Core.writeP_region (c : Core) (k : Slot) (lat : Nat) (i : PReg) (v : Bool) : (c.writeP k lat i v).region = c.region :=
  by
  unfold Core.writeP; simp
@[simp] theorem Core.writeP_eng (c : Core) (k : Slot) (lat : Nat) (i : PReg) (v : Bool) : (c.writeP k lat i v).eng = c.eng :=
  by
  unfold Core.writeP; simp
@[simp] theorem Core.writeP_utlb (c : Core) (k : Slot) (lat : Nat) (i : PReg) (v : Bool) : (c.writeP k lat i v).utlb = c.utlb :=
  by
  unfold Core.writeP; simp
@[simp] theorem Core.writeP_pre (c : Core) (k : Slot) (lat : Nat) (i : PReg) (v : Bool) : (c.writeP k lat i v).pre = c.pre :=
  by
  unfold Core.writeP; simp
@[simp] theorem Core.writeP_lease (c : Core) (k : Slot) (lat : Nat) (i : PReg) (v : Bool) : (c.writeP k lat i v).lease = c.lease :=
  by
  unfold Core.writeP; simp
@[simp] theorem Core.writeP_doom (c : Core) (k : Slot) (lat : Nat) (i : PReg) (v : Bool) : (c.writeP k lat i v).doom = c.doom :=
  by
  unfold Core.writeP; simp
@[simp] theorem Core.writeP_spare (c : Core) (k : Slot) (lat : Nat) (i : PReg) (v : Bool) : (c.writeP k lat i v).spare = c.spare :=
  by
  unfold Core.writeP; simp

@[simp] theorem Core.writeV_busy (c : Core) (k : Slot) (lat : Nat) (i : VReg) (v : Vec) : (c.writeV k lat i v).busy = c.busy :=
  by
  unfold Core.writeV; simp
@[simp] theorem Core.writeV_waiting (c : Core) (k : Slot) (lat : Nat) (i : VReg) (v : Vec) : (c.writeV k lat i v).waiting = c.waiting :=
  by
  unfold Core.writeV; simp
@[simp] theorem Core.writeV_task (c : Core) (k : Slot) (lat : Nat) (i : VReg) (v : Vec) : (c.writeV k lat i v).task = c.task :=
  by
  unfold Core.writeV; simp
@[simp] theorem Core.writeV_fmtQ (c : Core) (k : Slot) (lat : Nat) (i : VReg) (v : Vec) : (c.writeV k lat i v).fmtQ = c.fmtQ :=
  by
  unfold Core.writeV; simp
@[simp] theorem Core.writeV_flagQ (c : Core) (k : Slot) (lat : Nat) (i : VReg) (v : Vec) : (c.writeV k lat i v).flagQ = c.flagQ :=
  by
  unfold Core.writeV; simp
@[simp] theorem Core.writeV_older (c : Core) (k : Slot) (lat : Nat) (i : VReg) (v : Vec) : (c.writeV k lat i v).older = c.older :=
  by
  unfold Core.writeV; simp
@[simp] theorem Core.writeV_younger (c : Core) (k : Slot) (lat : Nat) (i : VReg) (v : Vec) : (c.writeV k lat i v).younger = c.younger :=
  by
  unfold Core.writeV; simp
@[simp] theorem Core.writeV_pace (c : Core) (k : Slot) (lat : Nat) (i : VReg) (v : Vec) : (c.writeV k lat i v).pace = c.pace :=
  by
  unfold Core.writeV; simp
@[simp] theorem Core.writeV_hist (c : Core) (k : Slot) (lat : Nat) (i : VReg) (v : Vec) : (c.writeV k lat i v).hist = c.hist :=
  by
  unfold Core.writeV; simp
@[simp] theorem Core.writeV_nominal (c : Core) (k : Slot) (lat : Nat) (i : VReg) (v : Vec) : (c.writeV k lat i v).nominal = c.nominal :=
  by
  unfold Core.writeV; simp
@[simp] theorem Core.writeV_elapsed (c : Core) (k : Slot) (lat : Nat) (i : VReg) (v : Vec) : (c.writeV k lat i v).elapsed = c.elapsed :=
  by
  unfold Core.writeV; simp
@[simp] theorem Core.writeV_cycle (c : Core) (k : Slot) (lat : Nat) (i : VReg) (v : Vec) : (c.writeV k lat i v).cycle = c.cycle :=
  by
  unfold Core.writeV; simp
@[simp] theorem Core.writeV_mOcc (c : Core) (k : Slot) (lat : Nat) (i : VReg) (v : Vec) : (c.writeV k lat i v).mOcc = c.mOcc :=
  by
  unfold Core.writeV; simp
@[simp] theorem Core.writeV_eOcc (c : Core) (k : Slot) (lat : Nat) (i : VReg) (v : Vec) : (c.writeV k lat i v).eOcc = c.eOcc :=
  by
  unfold Core.writeV; simp
@[simp] theorem Core.writeV_z (c : Core) (k : Slot) (lat : Nat) (i : VReg) (v : Vec) : (c.writeV k lat i v).z = c.z :=
  by
  unfold Core.writeV; simp
@[simp] theorem Core.writeV_w (c : Core) (k : Slot) (lat : Nat) (i : VReg) (v : Vec) : (c.writeV k lat i v).w = c.w :=
  by
  unfold Core.writeV; simp
@[simp] theorem Core.writeV_srnd (c : Core) (k : Slot) (lat : Nat) (i : VReg) (v : Vec) : (c.writeV k lat i v).srnd = c.srnd :=
  by
  unfold Core.writeV; simp
@[simp] theorem Core.writeV_scb (c : Core) (k : Slot) (lat : Nat) (i : VReg) (v : Vec) : (c.writeV k lat i v).scb = c.scb :=
  by
  unfold Core.writeV; simp
@[simp] theorem Core.writeV_lcs (c : Core) (k : Slot) (lat : Nat) (i : VReg) (v : Vec) : (c.writeV k lat i v).lcs = c.lcs :=
  by
  unfold Core.writeV; simp
@[simp] theorem Core.writeV_chainEn (c : Core) (k : Slot) (lat : Nat) (i : VReg) (v : Vec) : (c.writeV k lat i v).chainEn = c.chainEn :=
  by
  unfold Core.writeV; simp
@[simp] theorem Core.writeV_tok (c : Core) (k : Slot) (lat : Nat) (i : VReg) (v : Vec) : (c.writeV k lat i v).tok = c.tok :=
  by
  unfold Core.writeV; simp
@[simp] theorem Core.writeV_rank (c : Core) (k : Slot) (lat : Nat) (i : VReg) (v : Vec) : (c.writeV k lat i v).rank = c.rank :=
  by
  unfold Core.writeV; simp
@[simp] theorem Core.writeV_named (c : Core) (k : Slot) (lat : Nat) (i : VReg) (v : Vec) : (c.writeV k lat i v).named = c.named :=
  by
  unfold Core.writeV; simp
@[simp] theorem Core.writeV_spad (c : Core) (k : Slot) (lat : Nat) (i : VReg) (v : Vec) : (c.writeV k lat i v).spad = c.spad :=
  by
  unfold Core.writeV; simp
@[simp] theorem Core.writeV_spadBad (c : Core) (k : Slot) (lat : Nat) (i : VReg) (v : Vec) : (c.writeV k lat i v).spadBad = c.spadBad :=
  by
  unfold Core.writeV; simp
@[simp] theorem Core.writeV_regBad (c : Core) (k : Slot) (lat : Nat) (i : VReg) (v : Vec) : (c.writeV k lat i v).regBad = c.regBad :=
  by
  unfold Core.writeV; simp
@[simp] theorem Core.writeV_wbuf (c : Core) (k : Slot) (lat : Nat) (i : VReg) (v : Vec) : (c.writeV k lat i v).wbuf = c.wbuf :=
  by
  unfold Core.writeV; simp
@[simp] theorem Core.writeV_wbufBad (c : Core) (k : Slot) (lat : Nat) (i : VReg) (v : Vec) : (c.writeV k lat i v).wbufBad = c.wbufBad :=
  by
  unfold Core.writeV; simp
@[simp] theorem Core.writeV_wOwner (c : Core) (k : Slot) (lat : Nat) (i : VReg) (v : Vec) : (c.writeV k lat i v).wOwner = c.wOwner :=
  by
  unfold Core.writeV; simp
@[simp] theorem Core.writeV_region (c : Core) (k : Slot) (lat : Nat) (i : VReg) (v : Vec) : (c.writeV k lat i v).region = c.region :=
  by
  unfold Core.writeV; simp
@[simp] theorem Core.writeV_eng (c : Core) (k : Slot) (lat : Nat) (i : VReg) (v : Vec) : (c.writeV k lat i v).eng = c.eng :=
  by
  unfold Core.writeV; simp
@[simp] theorem Core.writeV_utlb (c : Core) (k : Slot) (lat : Nat) (i : VReg) (v : Vec) : (c.writeV k lat i v).utlb = c.utlb :=
  by
  unfold Core.writeV; simp
@[simp] theorem Core.writeV_pre (c : Core) (k : Slot) (lat : Nat) (i : VReg) (v : Vec) : (c.writeV k lat i v).pre = c.pre :=
  by
  unfold Core.writeV; simp
@[simp] theorem Core.writeV_lease (c : Core) (k : Slot) (lat : Nat) (i : VReg) (v : Vec) : (c.writeV k lat i v).lease = c.lease :=
  by
  unfold Core.writeV; simp
@[simp] theorem Core.writeV_doom (c : Core) (k : Slot) (lat : Nat) (i : VReg) (v : Vec) : (c.writeV k lat i v).doom = c.doom :=
  by
  unfold Core.writeV; simp
@[simp] theorem Core.writeV_spare (c : Core) (k : Slot) (lat : Nat) (i : VReg) (v : Vec) : (c.writeV k lat i v).spare = c.spare :=
  by
  unfold Core.writeV; simp

@[simp] theorem Core.writeM_busy (c : Core) (k : Slot) (lat : Nat) (i : MReg) (v : Quad) : (c.writeM k lat i v).busy = c.busy :=
  by
  unfold Core.writeM; simp
@[simp] theorem Core.writeM_waiting (c : Core) (k : Slot) (lat : Nat) (i : MReg) (v : Quad) : (c.writeM k lat i v).waiting = c.waiting :=
  by
  unfold Core.writeM; simp
@[simp] theorem Core.writeM_task (c : Core) (k : Slot) (lat : Nat) (i : MReg) (v : Quad) : (c.writeM k lat i v).task = c.task :=
  by
  unfold Core.writeM; simp
@[simp] theorem Core.writeM_fmtQ (c : Core) (k : Slot) (lat : Nat) (i : MReg) (v : Quad) : (c.writeM k lat i v).fmtQ = c.fmtQ :=
  by
  unfold Core.writeM; simp
@[simp] theorem Core.writeM_flagQ (c : Core) (k : Slot) (lat : Nat) (i : MReg) (v : Quad) : (c.writeM k lat i v).flagQ = c.flagQ :=
  by
  unfold Core.writeM; simp
@[simp] theorem Core.writeM_older (c : Core) (k : Slot) (lat : Nat) (i : MReg) (v : Quad) : (c.writeM k lat i v).older = c.older :=
  by
  unfold Core.writeM; simp
@[simp] theorem Core.writeM_younger (c : Core) (k : Slot) (lat : Nat) (i : MReg) (v : Quad) : (c.writeM k lat i v).younger = c.younger :=
  by
  unfold Core.writeM; simp
@[simp] theorem Core.writeM_pace (c : Core) (k : Slot) (lat : Nat) (i : MReg) (v : Quad) : (c.writeM k lat i v).pace = c.pace :=
  by
  unfold Core.writeM; simp
@[simp] theorem Core.writeM_hist (c : Core) (k : Slot) (lat : Nat) (i : MReg) (v : Quad) : (c.writeM k lat i v).hist = c.hist :=
  by
  unfold Core.writeM; simp
@[simp] theorem Core.writeM_nominal (c : Core) (k : Slot) (lat : Nat) (i : MReg) (v : Quad) : (c.writeM k lat i v).nominal = c.nominal :=
  by
  unfold Core.writeM; simp
@[simp] theorem Core.writeM_elapsed (c : Core) (k : Slot) (lat : Nat) (i : MReg) (v : Quad) : (c.writeM k lat i v).elapsed = c.elapsed :=
  by
  unfold Core.writeM; simp
@[simp] theorem Core.writeM_cycle (c : Core) (k : Slot) (lat : Nat) (i : MReg) (v : Quad) : (c.writeM k lat i v).cycle = c.cycle :=
  by
  unfold Core.writeM; simp
@[simp] theorem Core.writeM_mOcc (c : Core) (k : Slot) (lat : Nat) (i : MReg) (v : Quad) : (c.writeM k lat i v).mOcc = c.mOcc :=
  by
  unfold Core.writeM; simp
@[simp] theorem Core.writeM_eOcc (c : Core) (k : Slot) (lat : Nat) (i : MReg) (v : Quad) : (c.writeM k lat i v).eOcc = c.eOcc :=
  by
  unfold Core.writeM; simp
@[simp] theorem Core.writeM_z (c : Core) (k : Slot) (lat : Nat) (i : MReg) (v : Quad) : (c.writeM k lat i v).z = c.z :=
  by
  unfold Core.writeM; simp
@[simp] theorem Core.writeM_w (c : Core) (k : Slot) (lat : Nat) (i : MReg) (v : Quad) : (c.writeM k lat i v).w = c.w :=
  by
  unfold Core.writeM; simp
@[simp] theorem Core.writeM_srnd (c : Core) (k : Slot) (lat : Nat) (i : MReg) (v : Quad) : (c.writeM k lat i v).srnd = c.srnd :=
  by
  unfold Core.writeM; simp
@[simp] theorem Core.writeM_scb (c : Core) (k : Slot) (lat : Nat) (i : MReg) (v : Quad) : (c.writeM k lat i v).scb = c.scb :=
  by
  unfold Core.writeM; simp
@[simp] theorem Core.writeM_lcs (c : Core) (k : Slot) (lat : Nat) (i : MReg) (v : Quad) : (c.writeM k lat i v).lcs = c.lcs :=
  by
  unfold Core.writeM; simp
@[simp] theorem Core.writeM_chainEn (c : Core) (k : Slot) (lat : Nat) (i : MReg) (v : Quad) : (c.writeM k lat i v).chainEn = c.chainEn :=
  by
  unfold Core.writeM; simp
@[simp] theorem Core.writeM_tok (c : Core) (k : Slot) (lat : Nat) (i : MReg) (v : Quad) : (c.writeM k lat i v).tok = c.tok :=
  by
  unfold Core.writeM; simp
@[simp] theorem Core.writeM_rank (c : Core) (k : Slot) (lat : Nat) (i : MReg) (v : Quad) : (c.writeM k lat i v).rank = c.rank :=
  by
  unfold Core.writeM; simp
@[simp] theorem Core.writeM_named (c : Core) (k : Slot) (lat : Nat) (i : MReg) (v : Quad) : (c.writeM k lat i v).named = c.named :=
  by
  unfold Core.writeM; simp
@[simp] theorem Core.writeM_spad (c : Core) (k : Slot) (lat : Nat) (i : MReg) (v : Quad) : (c.writeM k lat i v).spad = c.spad :=
  by
  unfold Core.writeM; simp
@[simp] theorem Core.writeM_spadBad (c : Core) (k : Slot) (lat : Nat) (i : MReg) (v : Quad) : (c.writeM k lat i v).spadBad = c.spadBad :=
  by
  unfold Core.writeM; simp
@[simp] theorem Core.writeM_regBad (c : Core) (k : Slot) (lat : Nat) (i : MReg) (v : Quad) : (c.writeM k lat i v).regBad = c.regBad :=
  by
  unfold Core.writeM; simp
@[simp] theorem Core.writeM_wbuf (c : Core) (k : Slot) (lat : Nat) (i : MReg) (v : Quad) : (c.writeM k lat i v).wbuf = c.wbuf :=
  by
  unfold Core.writeM; simp
@[simp] theorem Core.writeM_wbufBad (c : Core) (k : Slot) (lat : Nat) (i : MReg) (v : Quad) : (c.writeM k lat i v).wbufBad = c.wbufBad :=
  by
  unfold Core.writeM; simp
@[simp] theorem Core.writeM_wOwner (c : Core) (k : Slot) (lat : Nat) (i : MReg) (v : Quad) : (c.writeM k lat i v).wOwner = c.wOwner :=
  by
  unfold Core.writeM; simp
@[simp] theorem Core.writeM_region (c : Core) (k : Slot) (lat : Nat) (i : MReg) (v : Quad) : (c.writeM k lat i v).region = c.region :=
  by
  unfold Core.writeM; simp
@[simp] theorem Core.writeM_eng (c : Core) (k : Slot) (lat : Nat) (i : MReg) (v : Quad) : (c.writeM k lat i v).eng = c.eng :=
  by
  unfold Core.writeM; simp
@[simp] theorem Core.writeM_utlb (c : Core) (k : Slot) (lat : Nat) (i : MReg) (v : Quad) : (c.writeM k lat i v).utlb = c.utlb :=
  by
  unfold Core.writeM; simp
@[simp] theorem Core.writeM_pre (c : Core) (k : Slot) (lat : Nat) (i : MReg) (v : Quad) : (c.writeM k lat i v).pre = c.pre :=
  by
  unfold Core.writeM; simp
@[simp] theorem Core.writeM_lease (c : Core) (k : Slot) (lat : Nat) (i : MReg) (v : Quad) : (c.writeM k lat i v).lease = c.lease :=
  by
  unfold Core.writeM; simp
@[simp] theorem Core.writeM_doom (c : Core) (k : Slot) (lat : Nat) (i : MReg) (v : Quad) : (c.writeM k lat i v).doom = c.doom :=
  by
  unfold Core.writeM; simp
@[simp] theorem Core.writeM_spare (c : Core) (k : Slot) (lat : Nat) (i : MReg) (v : Quad) : (c.writeM k lat i v).spare = c.spare :=
  by
  unfold Core.writeM; simp

@[simp] theorem Core.writeN_busy (c : Core) (lat : Nat) (i : NReg) (v : Quad) : (c.writeN lat i v).busy = c.busy :=
  by
  unfold Core.writeN; simp
@[simp] theorem Core.writeN_waiting (c : Core) (lat : Nat) (i : NReg) (v : Quad) : (c.writeN lat i v).waiting = c.waiting :=
  by
  unfold Core.writeN; simp
@[simp] theorem Core.writeN_task (c : Core) (lat : Nat) (i : NReg) (v : Quad) : (c.writeN lat i v).task = c.task :=
  by
  unfold Core.writeN; simp
@[simp] theorem Core.writeN_fmtQ (c : Core) (lat : Nat) (i : NReg) (v : Quad) : (c.writeN lat i v).fmtQ = c.fmtQ :=
  by
  unfold Core.writeN; simp
@[simp] theorem Core.writeN_flagQ (c : Core) (lat : Nat) (i : NReg) (v : Quad) : (c.writeN lat i v).flagQ = c.flagQ :=
  by
  unfold Core.writeN; simp
@[simp] theorem Core.writeN_older (c : Core) (lat : Nat) (i : NReg) (v : Quad) : (c.writeN lat i v).older = c.older :=
  by
  unfold Core.writeN; simp
@[simp] theorem Core.writeN_younger (c : Core) (lat : Nat) (i : NReg) (v : Quad) : (c.writeN lat i v).younger = c.younger :=
  by
  unfold Core.writeN; simp
@[simp] theorem Core.writeN_pace (c : Core) (lat : Nat) (i : NReg) (v : Quad) : (c.writeN lat i v).pace = c.pace :=
  by
  unfold Core.writeN; simp
@[simp] theorem Core.writeN_hist (c : Core) (lat : Nat) (i : NReg) (v : Quad) : (c.writeN lat i v).hist = c.hist :=
  by
  unfold Core.writeN; simp
@[simp] theorem Core.writeN_nominal (c : Core) (lat : Nat) (i : NReg) (v : Quad) : (c.writeN lat i v).nominal = c.nominal :=
  by
  unfold Core.writeN; simp
@[simp] theorem Core.writeN_elapsed (c : Core) (lat : Nat) (i : NReg) (v : Quad) : (c.writeN lat i v).elapsed = c.elapsed :=
  by
  unfold Core.writeN; simp
@[simp] theorem Core.writeN_cycle (c : Core) (lat : Nat) (i : NReg) (v : Quad) : (c.writeN lat i v).cycle = c.cycle :=
  by
  unfold Core.writeN; simp
@[simp] theorem Core.writeN_mOcc (c : Core) (lat : Nat) (i : NReg) (v : Quad) : (c.writeN lat i v).mOcc = c.mOcc :=
  by
  unfold Core.writeN; simp
@[simp] theorem Core.writeN_eOcc (c : Core) (lat : Nat) (i : NReg) (v : Quad) : (c.writeN lat i v).eOcc = c.eOcc :=
  by
  unfold Core.writeN; simp
@[simp] theorem Core.writeN_z (c : Core) (lat : Nat) (i : NReg) (v : Quad) : (c.writeN lat i v).z = c.z :=
  by
  unfold Core.writeN; simp
@[simp] theorem Core.writeN_w (c : Core) (lat : Nat) (i : NReg) (v : Quad) : (c.writeN lat i v).w = c.w :=
  by
  unfold Core.writeN; simp
@[simp] theorem Core.writeN_srnd (c : Core) (lat : Nat) (i : NReg) (v : Quad) : (c.writeN lat i v).srnd = c.srnd :=
  by
  unfold Core.writeN; simp
@[simp] theorem Core.writeN_scb (c : Core) (lat : Nat) (i : NReg) (v : Quad) : (c.writeN lat i v).scb = c.scb :=
  by
  unfold Core.writeN; simp
@[simp] theorem Core.writeN_lcs (c : Core) (lat : Nat) (i : NReg) (v : Quad) : (c.writeN lat i v).lcs = c.lcs :=
  by
  unfold Core.writeN; simp
@[simp] theorem Core.writeN_chainEn (c : Core) (lat : Nat) (i : NReg) (v : Quad) : (c.writeN lat i v).chainEn = c.chainEn :=
  by
  unfold Core.writeN; simp
@[simp] theorem Core.writeN_tok (c : Core) (lat : Nat) (i : NReg) (v : Quad) : (c.writeN lat i v).tok = c.tok :=
  by
  unfold Core.writeN; simp
@[simp] theorem Core.writeN_rank (c : Core) (lat : Nat) (i : NReg) (v : Quad) : (c.writeN lat i v).rank = c.rank :=
  by
  unfold Core.writeN; simp
@[simp] theorem Core.writeN_named (c : Core) (lat : Nat) (i : NReg) (v : Quad) : (c.writeN lat i v).named = c.named :=
  by
  unfold Core.writeN; simp
@[simp] theorem Core.writeN_spad (c : Core) (lat : Nat) (i : NReg) (v : Quad) : (c.writeN lat i v).spad = c.spad :=
  by
  unfold Core.writeN; simp
@[simp] theorem Core.writeN_spadBad (c : Core) (lat : Nat) (i : NReg) (v : Quad) : (c.writeN lat i v).spadBad = c.spadBad :=
  by
  unfold Core.writeN; simp
@[simp] theorem Core.writeN_regBad (c : Core) (lat : Nat) (i : NReg) (v : Quad) : (c.writeN lat i v).regBad = c.regBad :=
  by
  unfold Core.writeN; simp
@[simp] theorem Core.writeN_wbuf (c : Core) (lat : Nat) (i : NReg) (v : Quad) : (c.writeN lat i v).wbuf = c.wbuf :=
  by
  unfold Core.writeN; simp
@[simp] theorem Core.writeN_wbufBad (c : Core) (lat : Nat) (i : NReg) (v : Quad) : (c.writeN lat i v).wbufBad = c.wbufBad :=
  by
  unfold Core.writeN; simp
@[simp] theorem Core.writeN_wOwner (c : Core) (lat : Nat) (i : NReg) (v : Quad) : (c.writeN lat i v).wOwner = c.wOwner :=
  by
  unfold Core.writeN; simp
@[simp] theorem Core.writeN_region (c : Core) (lat : Nat) (i : NReg) (v : Quad) : (c.writeN lat i v).region = c.region :=
  by
  unfold Core.writeN; simp
@[simp] theorem Core.writeN_eng (c : Core) (lat : Nat) (i : NReg) (v : Quad) : (c.writeN lat i v).eng = c.eng :=
  by
  unfold Core.writeN; simp
@[simp] theorem Core.writeN_utlb (c : Core) (lat : Nat) (i : NReg) (v : Quad) : (c.writeN lat i v).utlb = c.utlb :=
  by
  unfold Core.writeN; simp
@[simp] theorem Core.writeN_pre (c : Core) (lat : Nat) (i : NReg) (v : Quad) : (c.writeN lat i v).pre = c.pre :=
  by
  unfold Core.writeN; simp
@[simp] theorem Core.writeN_lease (c : Core) (lat : Nat) (i : NReg) (v : Quad) : (c.writeN lat i v).lease = c.lease :=
  by
  unfold Core.writeN; simp
@[simp] theorem Core.writeN_doom (c : Core) (lat : Nat) (i : NReg) (v : Quad) : (c.writeN lat i v).doom = c.doom :=
  by
  unfold Core.writeN; simp
@[simp] theorem Core.writeN_spare (c : Core) (lat : Nat) (i : NReg) (v : Quad) : (c.writeN lat i v).spare = c.spare :=
  by
  unfold Core.writeN; simp

@[simp] theorem Core.land_busy (c : Core) (l : Option Loc) (v : Nat) : (c.land l v).busy = c.busy :=
  by
  unfold Core.land; split <;> rfl
@[simp] theorem Core.land_waiting (c : Core) (l : Option Loc) (v : Nat) : (c.land l v).waiting = c.waiting :=
  by
  unfold Core.land; split <;> rfl
@[simp] theorem Core.land_task (c : Core) (l : Option Loc) (v : Nat) : (c.land l v).task = c.task :=
  by
  unfold Core.land; split <;> rfl
@[simp] theorem Core.land_old (c : Core) (l : Option Loc) (v : Nat) : (c.land l v).old = c.old :=
  by
  unfold Core.land; split <;> rfl
@[simp] theorem Core.land_lands (c : Core) (l : Option Loc) (v : Nat) : (c.land l v).lands = c.lands :=
  by
  unfold Core.land; split <;> rfl
@[simp] theorem Core.land_fmtQ (c : Core) (l : Option Loc) (v : Nat) : (c.land l v).fmtQ = c.fmtQ :=
  by
  unfold Core.land; split <;> rfl
@[simp] theorem Core.land_flagQ (c : Core) (l : Option Loc) (v : Nat) : (c.land l v).flagQ = c.flagQ :=
  by
  unfold Core.land; split <;> rfl
@[simp] theorem Core.land_older (c : Core) (l : Option Loc) (v : Nat) : (c.land l v).older = c.older :=
  by
  unfold Core.land; split <;> rfl
@[simp] theorem Core.land_lat (c : Core) (l : Option Loc) (v : Nat) : (c.land l v).lat = c.lat :=
  by
  unfold Core.land; split <;> rfl
@[simp] theorem Core.land_younger (c : Core) (l : Option Loc) (v : Nat) : (c.land l v).younger = c.younger :=
  by
  unfold Core.land; split <;> rfl
@[simp] theorem Core.land_pace (c : Core) (l : Option Loc) (v : Nat) : (c.land l v).pace = c.pace :=
  by
  unfold Core.land; split <;> rfl
@[simp] theorem Core.land_hist (c : Core) (l : Option Loc) (v : Nat) : (c.land l v).hist = c.hist :=
  by
  unfold Core.land; split <;> rfl
@[simp] theorem Core.land_nominal (c : Core) (l : Option Loc) (v : Nat) : (c.land l v).nominal = c.nominal :=
  by
  unfold Core.land; split <;> rfl
@[simp] theorem Core.land_elapsed (c : Core) (l : Option Loc) (v : Nat) : (c.land l v).elapsed = c.elapsed :=
  by
  unfold Core.land; split <;> rfl
@[simp] theorem Core.land_cycle (c : Core) (l : Option Loc) (v : Nat) : (c.land l v).cycle = c.cycle :=
  by
  unfold Core.land; split <;> rfl
@[simp] theorem Core.land_mOcc (c : Core) (l : Option Loc) (v : Nat) : (c.land l v).mOcc = c.mOcc :=
  by
  unfold Core.land; split <;> rfl
@[simp] theorem Core.land_eOcc (c : Core) (l : Option Loc) (v : Nat) : (c.land l v).eOcc = c.eOcc :=
  by
  unfold Core.land; split <;> rfl
@[simp] theorem Core.land_z (c : Core) (l : Option Loc) (v : Nat) : (c.land l v).z = c.z :=
  by
  unfold Core.land; split <;> rfl
@[simp] theorem Core.land_w (c : Core) (l : Option Loc) (v : Nat) : (c.land l v).w = c.w :=
  by
  unfold Core.land; split <;> rfl
@[simp] theorem Core.land_srnd (c : Core) (l : Option Loc) (v : Nat) : (c.land l v).srnd = c.srnd :=
  by
  unfold Core.land; split <;> rfl
@[simp] theorem Core.land_scb (c : Core) (l : Option Loc) (v : Nat) : (c.land l v).scb = c.scb :=
  by
  unfold Core.land; split <;> rfl
@[simp] theorem Core.land_lcs (c : Core) (l : Option Loc) (v : Nat) : (c.land l v).lcs = c.lcs :=
  by
  unfold Core.land; split <;> rfl
@[simp] theorem Core.land_chainEn (c : Core) (l : Option Loc) (v : Nat) : (c.land l v).chainEn = c.chainEn :=
  by
  unfold Core.land; split <;> rfl
@[simp] theorem Core.land_tok (c : Core) (l : Option Loc) (v : Nat) : (c.land l v).tok = c.tok :=
  by
  unfold Core.land; split <;> rfl
@[simp] theorem Core.land_rank (c : Core) (l : Option Loc) (v : Nat) : (c.land l v).rank = c.rank :=
  by
  unfold Core.land; split <;> rfl
@[simp] theorem Core.land_named (c : Core) (l : Option Loc) (v : Nat) : (c.land l v).named = c.named :=
  by
  unfold Core.land; split <;> rfl
@[simp] theorem Core.land_spad (c : Core) (l : Option Loc) (v : Nat) : (c.land l v).spad = c.spad :=
  by
  unfold Core.land; split <;> rfl
@[simp] theorem Core.land_spadBad (c : Core) (l : Option Loc) (v : Nat) : (c.land l v).spadBad = c.spadBad :=
  by
  unfold Core.land; split <;> rfl
@[simp] theorem Core.land_regBad (c : Core) (l : Option Loc) (v : Nat) : (c.land l v).regBad = c.regBad :=
  by
  unfold Core.land; split <;> rfl
@[simp] theorem Core.land_wbuf (c : Core) (l : Option Loc) (v : Nat) : (c.land l v).wbuf = c.wbuf :=
  by
  unfold Core.land; split <;> rfl
@[simp] theorem Core.land_wbufBad (c : Core) (l : Option Loc) (v : Nat) : (c.land l v).wbufBad = c.wbufBad :=
  by
  unfold Core.land; split <;> rfl
@[simp] theorem Core.land_wOwner (c : Core) (l : Option Loc) (v : Nat) : (c.land l v).wOwner = c.wOwner :=
  by
  unfold Core.land; split <;> rfl
@[simp] theorem Core.land_region (c : Core) (l : Option Loc) (v : Nat) : (c.land l v).region = c.region :=
  by
  unfold Core.land; split <;> rfl
@[simp] theorem Core.land_utlb (c : Core) (l : Option Loc) (v : Nat) : (c.land l v).utlb = c.utlb :=
  by
  unfold Core.land; split <;> rfl
@[simp] theorem Core.land_pre (c : Core) (l : Option Loc) (v : Nat) : (c.land l v).pre = c.pre :=
  by
  unfold Core.land; split <;> rfl
@[simp] theorem Core.land_lease (c : Core) (l : Option Loc) (v : Nat) : (c.land l v).lease = c.lease :=
  by
  unfold Core.land; split <;> rfl
@[simp] theorem Core.land_doom (c : Core) (l : Option Loc) (v : Nat) : (c.land l v).doom = c.doom :=
  by
  unfold Core.land; split <;> rfl
@[simp] theorem Core.land_spare (c : Core) (l : Option Loc) (v : Nat) : (c.land l v).spare = c.spare :=
  by
  unfold Core.land; split <;> rfl

@[simp] theorem Core.await_busy (c : Core) (k : Slot) (lat : Nat) (l : Option Loc) : (c.await k lat l).busy = c.busy :=
  by
  unfold Core.await; split
  · rfl
  · split <;> rfl
@[simp] theorem Core.await_waiting (c : Core) (k : Slot) (lat : Nat) (l : Option Loc) : (c.await k lat l).waiting = c.waiting :=
  by
  unfold Core.await; split
  · rfl
  · split <;> rfl
@[simp] theorem Core.await_task (c : Core) (k : Slot) (lat : Nat) (l : Option Loc) : (c.await k lat l).task = c.task :=
  by
  unfold Core.await; split
  · rfl
  · split <;> rfl
@[simp] theorem Core.await_live (c : Core) (k : Slot) (lat : Nat) (l : Option Loc) : (c.await k lat l).live = c.live :=
  by
  unfold Core.await; split
  · rfl
  · split <;> rfl
@[simp] theorem Core.await_lands (c : Core) (k : Slot) (lat : Nat) (l : Option Loc) : (c.await k lat l).lands = c.lands :=
  by
  unfold Core.await; split
  · rfl
  · split <;> rfl
@[simp] theorem Core.await_fmtQ (c : Core) (k : Slot) (lat : Nat) (l : Option Loc) : (c.await k lat l).fmtQ = c.fmtQ :=
  by
  unfold Core.await; split
  · rfl
  · split <;> rfl
@[simp] theorem Core.await_flagQ (c : Core) (k : Slot) (lat : Nat) (l : Option Loc) : (c.await k lat l).flagQ = c.flagQ :=
  by
  unfold Core.await; split
  · rfl
  · split <;> rfl
@[simp] theorem Core.await_older (c : Core) (k : Slot) (lat : Nat) (l : Option Loc) : (c.await k lat l).older = c.older :=
  by
  unfold Core.await; split
  · rfl
  · split <;> rfl
@[simp] theorem Core.await_younger (c : Core) (k : Slot) (lat : Nat) (l : Option Loc) : (c.await k lat l).younger = c.younger :=
  by
  unfold Core.await; split
  · rfl
  · split <;> rfl
@[simp] theorem Core.await_pace (c : Core) (k : Slot) (lat : Nat) (l : Option Loc) : (c.await k lat l).pace = c.pace :=
  by
  unfold Core.await; split
  · rfl
  · split <;> rfl
@[simp] theorem Core.await_hist (c : Core) (k : Slot) (lat : Nat) (l : Option Loc) : (c.await k lat l).hist = c.hist :=
  by
  unfold Core.await; split
  · rfl
  · split <;> rfl
@[simp] theorem Core.await_nominal (c : Core) (k : Slot) (lat : Nat) (l : Option Loc) : (c.await k lat l).nominal = c.nominal :=
  by
  unfold Core.await; split
  · rfl
  · split <;> rfl
@[simp] theorem Core.await_elapsed (c : Core) (k : Slot) (lat : Nat) (l : Option Loc) : (c.await k lat l).elapsed = c.elapsed :=
  by
  unfold Core.await; split
  · rfl
  · split <;> rfl
@[simp] theorem Core.await_cycle (c : Core) (k : Slot) (lat : Nat) (l : Option Loc) : (c.await k lat l).cycle = c.cycle :=
  by
  unfold Core.await; split
  · rfl
  · split <;> rfl
@[simp] theorem Core.await_mOcc (c : Core) (k : Slot) (lat : Nat) (l : Option Loc) : (c.await k lat l).mOcc = c.mOcc :=
  by
  unfold Core.await; split
  · rfl
  · split <;> rfl
@[simp] theorem Core.await_eOcc (c : Core) (k : Slot) (lat : Nat) (l : Option Loc) : (c.await k lat l).eOcc = c.eOcc :=
  by
  unfold Core.await; split
  · rfl
  · split <;> rfl
@[simp] theorem Core.await_z (c : Core) (k : Slot) (lat : Nat) (l : Option Loc) : (c.await k lat l).z = c.z :=
  by
  unfold Core.await; split
  · rfl
  · split <;> rfl
@[simp] theorem Core.await_w (c : Core) (k : Slot) (lat : Nat) (l : Option Loc) : (c.await k lat l).w = c.w :=
  by
  unfold Core.await; split
  · rfl
  · split <;> rfl
@[simp] theorem Core.await_srnd (c : Core) (k : Slot) (lat : Nat) (l : Option Loc) : (c.await k lat l).srnd = c.srnd :=
  by
  unfold Core.await; split
  · rfl
  · split <;> rfl
@[simp] theorem Core.await_scb (c : Core) (k : Slot) (lat : Nat) (l : Option Loc) : (c.await k lat l).scb = c.scb :=
  by
  unfold Core.await; split
  · rfl
  · split <;> rfl
@[simp] theorem Core.await_lcs (c : Core) (k : Slot) (lat : Nat) (l : Option Loc) : (c.await k lat l).lcs = c.lcs :=
  by
  unfold Core.await; split
  · rfl
  · split <;> rfl
@[simp] theorem Core.await_chainEn (c : Core) (k : Slot) (lat : Nat) (l : Option Loc) : (c.await k lat l).chainEn = c.chainEn :=
  by
  unfold Core.await; split
  · rfl
  · split <;> rfl
@[simp] theorem Core.await_tok (c : Core) (k : Slot) (lat : Nat) (l : Option Loc) : (c.await k lat l).tok = c.tok :=
  by
  unfold Core.await; split
  · rfl
  · split <;> rfl
@[simp] theorem Core.await_rank (c : Core) (k : Slot) (lat : Nat) (l : Option Loc) : (c.await k lat l).rank = c.rank :=
  by
  unfold Core.await; split
  · rfl
  · split <;> rfl
@[simp] theorem Core.await_named (c : Core) (k : Slot) (lat : Nat) (l : Option Loc) : (c.await k lat l).named = c.named :=
  by
  unfold Core.await; split
  · rfl
  · split <;> rfl
@[simp] theorem Core.await_spad (c : Core) (k : Slot) (lat : Nat) (l : Option Loc) : (c.await k lat l).spad = c.spad :=
  by
  unfold Core.await; split
  · rfl
  · split <;> rfl
@[simp] theorem Core.await_spadBad (c : Core) (k : Slot) (lat : Nat) (l : Option Loc) : (c.await k lat l).spadBad = c.spadBad :=
  by
  unfold Core.await; split
  · rfl
  · split <;> rfl
@[simp] theorem Core.await_regBad (c : Core) (k : Slot) (lat : Nat) (l : Option Loc) : (c.await k lat l).regBad = c.regBad :=
  by
  unfold Core.await; split
  · rfl
  · split <;> rfl
@[simp] theorem Core.await_wbuf (c : Core) (k : Slot) (lat : Nat) (l : Option Loc) : (c.await k lat l).wbuf = c.wbuf :=
  by
  unfold Core.await; split
  · rfl
  · split <;> rfl
@[simp] theorem Core.await_wbufBad (c : Core) (k : Slot) (lat : Nat) (l : Option Loc) : (c.await k lat l).wbufBad = c.wbufBad :=
  by
  unfold Core.await; split
  · rfl
  · split <;> rfl
@[simp] theorem Core.await_wOwner (c : Core) (k : Slot) (lat : Nat) (l : Option Loc) : (c.await k lat l).wOwner = c.wOwner :=
  by
  unfold Core.await; split
  · rfl
  · split <;> rfl
@[simp] theorem Core.await_region (c : Core) (k : Slot) (lat : Nat) (l : Option Loc) : (c.await k lat l).region = c.region :=
  by
  unfold Core.await; split
  · rfl
  · split <;> rfl
@[simp] theorem Core.await_utlb (c : Core) (k : Slot) (lat : Nat) (l : Option Loc) : (c.await k lat l).utlb = c.utlb :=
  by
  unfold Core.await; split
  · rfl
  · split <;> rfl
@[simp] theorem Core.await_pre (c : Core) (k : Slot) (lat : Nat) (l : Option Loc) : (c.await k lat l).pre = c.pre :=
  by
  unfold Core.await; split
  · rfl
  · split <;> rfl
@[simp] theorem Core.await_lease (c : Core) (k : Slot) (lat : Nat) (l : Option Loc) : (c.await k lat l).lease = c.lease :=
  by
  unfold Core.await; split
  · rfl
  · split <;> rfl
@[simp] theorem Core.await_doom (c : Core) (k : Slot) (lat : Nat) (l : Option Loc) : (c.await k lat l).doom = c.doom :=
  by
  unfold Core.await; split
  · rfl
  · split <;> rfl
@[simp] theorem Core.await_spare (c : Core) (k : Slot) (lat : Nat) (l : Option Loc) : (c.await k lat l).spare = c.spare :=
  by
  unfold Core.await; split
  · rfl
  · split <;> rfl

@[simp] theorem Core.sysApply_busy (c : Core) (w : Nat × Word) : (c.sysApply w).busy = c.busy :=
  by
  unfold Core.sysApply; (repeat' split) <;> rfl
@[simp] theorem Core.sysApply_waiting (c : Core) (w : Nat × Word) : (c.sysApply w).waiting = c.waiting :=
  by
  unfold Core.sysApply; (repeat' split) <;> rfl
@[simp] theorem Core.sysApply_task (c : Core) (w : Nat × Word) : (c.sysApply w).task = c.task :=
  by
  unfold Core.sysApply; (repeat' split) <;> rfl
@[simp] theorem Core.sysApply_live (c : Core) (w : Nat × Word) : (c.sysApply w).live = c.live :=
  by
  unfold Core.sysApply; (repeat' split) <;> rfl
@[simp] theorem Core.sysApply_old (c : Core) (w : Nat × Word) : (c.sysApply w).old = c.old :=
  by
  unfold Core.sysApply; (repeat' split) <;> rfl
@[simp] theorem Core.sysApply_lands (c : Core) (w : Nat × Word) : (c.sysApply w).lands = c.lands :=
  by
  unfold Core.sysApply; (repeat' split) <;> rfl
@[simp] theorem Core.sysApply_fmtQ (c : Core) (w : Nat × Word) : (c.sysApply w).fmtQ = c.fmtQ :=
  by
  unfold Core.sysApply; (repeat' split) <;> rfl
@[simp] theorem Core.sysApply_flagQ (c : Core) (w : Nat × Word) : (c.sysApply w).flagQ = c.flagQ :=
  by
  unfold Core.sysApply; (repeat' split) <;> rfl
@[simp] theorem Core.sysApply_older (c : Core) (w : Nat × Word) : (c.sysApply w).older = c.older :=
  by
  unfold Core.sysApply; (repeat' split) <;> rfl
@[simp] theorem Core.sysApply_lat (c : Core) (w : Nat × Word) : (c.sysApply w).lat = c.lat :=
  by
  unfold Core.sysApply; (repeat' split) <;> rfl
@[simp] theorem Core.sysApply_younger (c : Core) (w : Nat × Word) : (c.sysApply w).younger = c.younger :=
  by
  unfold Core.sysApply; (repeat' split) <;> rfl
@[simp] theorem Core.sysApply_pace (c : Core) (w : Nat × Word) : (c.sysApply w).pace = c.pace :=
  by
  unfold Core.sysApply; (repeat' split) <;> rfl
@[simp] theorem Core.sysApply_hist (c : Core) (w : Nat × Word) : (c.sysApply w).hist = c.hist :=
  by
  unfold Core.sysApply; (repeat' split) <;> rfl
@[simp] theorem Core.sysApply_nominal (c : Core) (w : Nat × Word) : (c.sysApply w).nominal = c.nominal :=
  by
  unfold Core.sysApply; (repeat' split) <;> rfl
@[simp] theorem Core.sysApply_elapsed (c : Core) (w : Nat × Word) : (c.sysApply w).elapsed = c.elapsed :=
  by
  unfold Core.sysApply; (repeat' split) <;> rfl
@[simp] theorem Core.sysApply_cycle (c : Core) (w : Nat × Word) : (c.sysApply w).cycle = c.cycle :=
  by
  unfold Core.sysApply; (repeat' split) <;> rfl
@[simp] theorem Core.sysApply_mOcc (c : Core) (w : Nat × Word) : (c.sysApply w).mOcc = c.mOcc :=
  by
  unfold Core.sysApply; (repeat' split) <;> rfl
@[simp] theorem Core.sysApply_eOcc (c : Core) (w : Nat × Word) : (c.sysApply w).eOcc = c.eOcc :=
  by
  unfold Core.sysApply; (repeat' split) <;> rfl
@[simp] theorem Core.sysApply_z (c : Core) (w : Nat × Word) : (c.sysApply w).z = c.z :=
  by
  unfold Core.sysApply; (repeat' split) <;> rfl
@[simp] theorem Core.sysApply_w (c : Core) (w : Nat × Word) : (c.sysApply w).w = c.w :=
  by
  unfold Core.sysApply; (repeat' split) <;> rfl
@[simp] theorem Core.sysApply_lcs (c : Core) (w : Nat × Word) : (c.sysApply w).lcs = c.lcs :=
  by
  unfold Core.sysApply; (repeat' split) <;> rfl
@[simp] theorem Core.sysApply_rank (c : Core) (w : Nat × Word) : (c.sysApply w).rank = c.rank :=
  by
  unfold Core.sysApply; (repeat' split) <;> rfl
@[simp] theorem Core.sysApply_named (c : Core) (w : Nat × Word) : (c.sysApply w).named = c.named :=
  by
  unfold Core.sysApply; (repeat' split) <;> rfl
@[simp] theorem Core.sysApply_spad (c : Core) (w : Nat × Word) : (c.sysApply w).spad = c.spad :=
  by
  unfold Core.sysApply; (repeat' split) <;> rfl
@[simp] theorem Core.sysApply_spadBad (c : Core) (w : Nat × Word) : (c.sysApply w).spadBad = c.spadBad :=
  by
  unfold Core.sysApply; (repeat' split) <;> rfl
@[simp] theorem Core.sysApply_regBad (c : Core) (w : Nat × Word) : (c.sysApply w).regBad = c.regBad :=
  by
  unfold Core.sysApply; (repeat' split) <;> rfl
@[simp] theorem Core.sysApply_wbuf (c : Core) (w : Nat × Word) : (c.sysApply w).wbuf = c.wbuf :=
  by
  unfold Core.sysApply; (repeat' split) <;> rfl
@[simp] theorem Core.sysApply_wbufBad (c : Core) (w : Nat × Word) : (c.sysApply w).wbufBad = c.wbufBad :=
  by
  unfold Core.sysApply; (repeat' split) <;> rfl
@[simp] theorem Core.sysApply_wOwner (c : Core) (w : Nat × Word) : (c.sysApply w).wOwner = c.wOwner :=
  by
  unfold Core.sysApply; (repeat' split) <;> rfl
@[simp] theorem Core.sysApply_region (c : Core) (w : Nat × Word) : (c.sysApply w).region = c.region :=
  by
  unfold Core.sysApply; (repeat' split) <;> rfl
@[simp] theorem Core.sysApply_eng (c : Core) (w : Nat × Word) : (c.sysApply w).eng = c.eng :=
  by
  unfold Core.sysApply; (repeat' split) <;> rfl
@[simp] theorem Core.sysApply_utlb (c : Core) (w : Nat × Word) : (c.sysApply w).utlb = c.utlb :=
  by
  unfold Core.sysApply; (repeat' split) <;> rfl
@[simp] theorem Core.sysApply_pre (c : Core) (w : Nat × Word) : (c.sysApply w).pre = c.pre :=
  by
  unfold Core.sysApply; (repeat' split) <;> rfl
@[simp] theorem Core.sysApply_lease (c : Core) (w : Nat × Word) : (c.sysApply w).lease = c.lease :=
  by
  unfold Core.sysApply; (repeat' split) <;> rfl
@[simp] theorem Core.sysApply_doom (c : Core) (w : Nat × Word) : (c.sysApply w).doom = c.doom :=
  by
  unfold Core.sysApply; (repeat' split) <;> rfl
@[simp] theorem Core.sysApply_spare (c : Core) (w : Nat × Word) : (c.sysApply w).spare = c.spare :=
  by
  unfold Core.sysApply; (repeat' split) <;> rfl

end Sys2Proof.Machine
end

