-- ==== Sys2Proof/Laws/Regs.lean ====
section
/-! SUPPORT. The laws of the register files: what a write changes and what it leaves, what retiring and finishing leave, and
which locations names stand for (R119, R136, R138, R139, R143). -/

namespace Sys2Proof.Machine

/-! ## One location written -/

theorem Vector.get_eq {α : Type} {n : Nat} (v : Vector α n) (i : Fin n) : v.get i = v[i.val]'i.isLt := rfl

theorem Regs.get_set_ne (r : Regs) {l m : Loc} (v : Nat) (h : l ≠ m) : (r.set l v).get m = r.get m := by
  cases l <;> cases m <;> simp only [Regs.set, Regs.get, Vector.get_eq] <;>
    (rw [Vector.getElem_set_ne]; intro e; exact h (congrArg _ (Fin.ext e)))

/-- Bits of a location. -/
def Loc.bits : Loc → Nat
  | .s _ | .f _ => 64
  | .p _ => 1
  | .v _ => 1024
  | .m _ | .n _ => 128

theorem Regs.get_set_self (r : Regs) (l : Loc) (v : Nat) : (r.set l v).get l = v % 2 ^ l.bits := by
  cases l
  case p i =>
    simp only [Regs.set, Regs.get, Vector.get_eq, Vector.getElem_set_self, Loc.bits, pow_one]
    rcases Nat.mod_two_eq_zero_or_one v with h | h <;> simp [h]
  all_goals simp only [Regs.set, Regs.get, Vector.get_eq, Vector.getElem_set_self, Loc.bits, BitVec.toNat_ofNat]

@[simp] theorem Regs.set_frame (r : Regs) (l : Loc) (v : Nat) : (r.set l v).frame = r.frame := by cases l <;> rfl
@[simp] theorem Regs.set_fmt (r : Regs) (l : Loc) (v : Nat) : (r.set l v).fmt = r.fmt := by cases l <;> rfl

theorem Core.writeLoc_live {c : Core} {k : Slot} {l : Loc} (h : c.overtaken k l = false) (lat v : Nat) :
    (c.writeLoc k lat l v).live = c.live.set l v := by
  unfold Core.writeLoc; rw [if_neg (by simp [h])]

/-- A write leaves every other location alone. -/
theorem Core.writeLoc_get_ne (c : Core) (k : Slot) (lat : Nat) {l m : Loc} (v : Nat) (h : l ≠ m) :
    (c.writeLoc k lat l v).live.get m = c.live.get m := by
  unfold Core.writeLoc
  split
  · rfl
  · exact Regs.get_set_ne _ _ h

theorem Core.writeLoc_frame (c : Core) (k : Slot) (lat : Nat) (l : Loc) (v : Nat) :
    (c.writeLoc k lat l v).live.frame = c.live.frame ∧ (c.writeLoc k lat l v).live.fmt = c.live.fmt := by
  unfold Core.writeLoc
  split
  · exact ⟨rfl, rfl⟩
  · exact ⟨Regs.set_frame .., Regs.set_fmt ..⟩

theorem Core.writeLoc_sysw (c : Core) (k : Slot) (lat : Nat) (l : Loc) (v : Nat) :
    (c.writeLoc k lat l v).lat.sysw = c.lat.sysw := rfl

/-! ## Names and their locations -/

@[simp] theorem sLoc_zero (f : Frame) : sLoc f 0 = none := rfl
@[simp] theorem sLoc_32 (f : Frame) : sLoc f 32 = none := rfl
@[simp] theorem pLoc_zero : pLoc 0 = none := rfl
@[simp] theorem pLoc_8 : pLoc 8 = none := rfl
@[simp] theorem mLoc_zero : mLoc 0 = none := rfl

/-- Outside a frame every scalar but the hard-wired two stands for itself (R143). -/
theorem sLoc_noFrame {f : Frame} {i : SReg} (hf : f.n = 0) (hi : sHard i = false) : sLoc f i = some (.s i) := by
  simp [sLoc, hf, hi]

/-- What a register field stands for depends on the renaming of the bundle alone. -/
theorem Core.locOf_view {c d : Core} (h : d.view = c.view) (r : RegRef) : d.locOf r = c.locOf r := by
  simp [Core.locOf, h]

/-! ## Retiring and finishing -/

@[simp] theorem Core.mature_get (c : Core) (n : Nat) (l : Loc) : (c.mature n).live.get l = c.live.get l := by
  cases l <;> rfl
@[simp] theorem Core.mature_frame (c : Core) (n : Nat) : (c.mature n).live.frame = c.live.frame := rfl

/-- A fold of a function that leaves something alone leaves it alone. -/
theorem foldl_keeps {α β γ : Type} (g : β → γ) (f : β → α → β) (h : ∀ b a, g (f b a) = g b) (l : List α) (b : β) :
    g (l.foldl f b) = g b := by
  induction l generalizing b with
  | nil => rfl
  | cons a t ih => exact (ih (f b a)).trans (h b a)

/-- What no SYS.WR of a bundle changes, applying those of a bundle leaves alone. -/
theorem Core.applySys_keeps {γ : Type} (g : Core → γ) (h : ∀ c w, g (Core.sysApply c w) = g c) (c : Core) (b : Latch) :
    g (c.applySys b) = g c := foldl_keeps g _ h _ c

/-- What the bundles that leave do not change: all but the bundles in flight, their history and what SYS.WR wrote. -/
theorem Core.leaveFront_keeps {γ : Type} (g : Core → γ) (hs : ∀ c w, g (Core.sysApply c w) = g c)
    (hf : ∀ (c : Core) o l y h, g { c with older := o, lat := l, younger := y, hist := h } = g c) (c : Core) (bs : List Latch) :
    g (c.leaveFront bs) = g c := by
  induction bs generalizing c with
  | nil => exact hf c [] {} [] c.hist
  | cons b rest ih =>
    unfold Core.leaveFront
    split
    · exact (ih _).trans ((hf (c.applySys b) _ _ _ _).trans (Core.applySys_keeps g hs c b))
    · exact hf c [] b rest c.hist

/-- What retiring leaves: everything but the bundles in flight, fmt and the registers of SYS.WR. -/
theorem Core.retire_keeps (c : Core) : c.retire.busy = c.busy ∧ c.retire.z = c.z ∧ c.retire.w = c.w ∧
    c.retire.lcs = c.lcs ∧ c.retire.rank = c.rank ∧ c.retire.named = c.named ∧ c.retire.spad = c.spad ∧
    c.retire.spadBad = c.spadBad ∧ c.retire.regBad = c.regBad ∧ c.retire.wbuf = c.wbuf ∧ c.retire.wbufBad = c.wbufBad ∧
    c.retire.wOwner = c.wOwner ∧ c.retire.region = c.region ∧ c.retire.eng = c.eng ∧ c.retire.utlb = c.utlb ∧
    c.retire.pre = c.pre ∧ c.retire.lease = c.lease ∧ c.retire.doom = c.doom ∧ c.retire.spare = c.spare ∧
    c.retire.task = c.task := by
  refine ⟨?_, ?_, ?_, ?_, ?_, ?_, ?_, ?_, ?_, ?_, ?_, ?_, ?_, ?_, ?_, ?_, ?_, ?_, ?_, ?_⟩ <;>
    · simp only [Core.retire, Core.mature]
      exact Core.leaveFront_keeps _ (by intros; simp) (by intros; rfl) _ _

theorem Core.retire_get (c : Core) (l : Loc) : c.retire.live.get l = c.live.get l := by
  simp only [Core.retire, Core.mature_get]
  exact congrArg (Regs.get · l) (Core.leaveFront_keeps Core.live (by intros; simp) (by intros; rfl) _ _)

theorem Core.retire_frame (c : Core) : c.retire.live.frame = c.live.frame := by
  simp only [Core.retire, Core.mature_frame]
  exact congrArg Regs.frame (Core.leaveFront_keeps Core.live (by intros; simp) (by intros; rfl) _ _)

theorem Core.finish_get (c : Core) (k : Slot) (l : Loc) : (c.finish k).live.get l = c.live.get l := by
  unfold Core.finish
  simp only
  split
  · exact Core.retire_get _ l
  · rfl

theorem Core.finish_frame (c : Core) (k : Slot) : (c.finish k).live.frame = c.live.frame := by
  unfold Core.finish
  simp only
  split
  · exact Core.retire_frame _
  · rfl

/-- What finishing a part leaves. -/
theorem Core.finish_keeps (c : Core) (k : Slot) : (c.finish k).z = c.z ∧ (c.finish k).w = c.w ∧ (c.finish k).spad = c.spad ∧
    (c.finish k).wbuf = c.wbuf ∧ (c.finish k).eng = c.eng ∧ (c.finish k).lcs = c.lcs ∧ (c.finish k).utlb = c.utlb := by
  unfold Core.finish
  simp only
  split
  · obtain ⟨-, h1, h2, h3, -, -, h4, -, -, h5, -, -, -, h6, h7, -⟩ := Core.retire_keeps
      { c with pace := c.paceAfter k,
               lat := { c.lat with todo := c.lat.todo.erase k, done := c.lat.done ++ [k], joined := true } }
    exact ⟨h1, h2, h4, h5, h6, h3, h7⟩
  · exact ⟨rfl, rfl, rfl, rfl, rfl, rfl, rfl⟩

end Sys2Proof.Machine
end

