-- ==== Sys2Proof/Tests/Slice0.lean ====
section
/-! SUPPORT. The model's own tests: decoding of words set out from the spec's tables, terms that the dispatch checks
refuse, small steps with results from the spec's tables and examples, and a witness for the hypotheses of every
statement. -/

namespace Sys2Proof.Tests

open Sys2Proof Sys2Proof.Machine

set_option Elab.async false

/-- The guard p0, not negated. -/
def g0 : Guard := ⟨false, 0⟩

/-- A literal. -/
def lit : Half := 0x89ABCDEF

/-! ## Decoding -/

/-- Control (Table 9·7, chapter 13): slot words set out field by field from Tables 9·3 and 9·4 and the entries. -/
theorem test_decode_control_1 :
    decodeSlot .c none 0x009FFFFFFD00 = .ok (.br ⟨⟨true, 3⟩, -3⟩) ∧
    decodeSlot .c none 0x0100E0000000 = .ok (.jmp ⟨g0, .reg 7⟩) ∧
    decodeSlot .c (some lit) 0x010000000100 = .ok (.jmp ⟨g0, .lit lit⟩) ∧
    decodeSlot .c none 0x020001234509 = .ok (.call ⟨g0, 9, 0x12345⟩) ∧
    decodeSlot .c none 0x030500000000 = .ok (.ret ⟨g0, 40⟩) ∧
    decodeSlot .c none 0x0400A00100C8 = .ok (.loopSet ⟨g0, 5, .imm 200⟩) ∧
    decodeSlot .c (some lit) 0x0400A0000100 = .ok (.loopSet ⟨g0, 5, .lit lit⟩) ∧
    decodeSlot .c none 0x0400B0800000 = .ok (.loopSet ⟨g0, 5, .reg 33⟩) ∧
    decodeSlot .c none 0x0507FFFFFD21 = .ok (.loopEnd ⟨g0, 33, -3⟩) ∧
    decodeSlot .c none 0x060000000010 = .ok (.frameAlloc ⟨g0, 16⟩) ∧
    decodeSlot .c none 0x070000000000 = .ok (.frameFree ⟨g0⟩) ∧
    decodeSlot .c none 0x080000000000 = .ok (.yield ⟨g0⟩) := by decide +kernel

/-- Control (Table 9·7, chapter 13): slot words set out field by field from Tables 9·3 and 9·4 and the entries. -/
theorem test_decode_control_2 :
    decodeSlot .c none 0x090060000000 = .ok (.waitQ ⟨g0, 3⟩) ∧
    decodeSlot .c none 0x090000000206 = .ok (.waitS ⟨g0, 6⟩) ∧
    decodeSlot .c none 0x0A0000000000 = .ok (.halt ⟨g0⟩) ∧
    decodeSlot .c none 0x0B000000007F = .ok (.trap ⟨g0, 0x7F⟩) := by decide +kernel

/-- Names (chapter 13): slot words set out field by field from Tables 9·3 and 9·4 and the entries. -/
theorem test_decode_names_1 :
    decodeSlot .c none 0x100000100005 = .ok (.subscribe ⟨g0, 1, 5⟩) ∧
    decodeSlot .c none 0x110000600002 = .ok (.unsub ⟨g0, 6, 2⟩) ∧
    decodeSlot .c none 0x120000600002 = .ok (.bind ⟨g0, 2, 6⟩) ∧
    decodeSlot .c none 0x1301A0000004 = .ok (.wtst ⟨g0, 13, 4⟩) ∧
    decodeSlot .c none 0x1400A0200007 = .ok (.pub ⟨g0, 5, 2, .level⟩) ∧
    decodeSlot .c none 0x1500A3200202 = .ok (.pubC ⟨g0, 5, 6, 2, 1, .cluster⟩) ∧
    decodeSlot .c none 0x1600A0220607 = .ok (.steer ⟨g0, 5, 2, 1, 3, .level⟩) ∧
    decodeSlot .c none 0x1700A3220003 = .ok (.spawn ⟨g0, 5, 6, 2, 1, 3⟩) ∧
    decodeSlot .c none 0x1800A3220000 = .ok (.spawnNb ⟨g0, 5, 6, 2, 1, 0⟩) ∧
    decodeSlot .c none 0x190120000005 = .ok (.retn ⟨g0, 9, .wafer⟩) ∧
    decodeSlot .c none 0x1A0000000000 = .ok (.drain ⟨g0⟩) ∧
    decodeSlot .c none 0x1B0120000000 = .ok (.colourGet ⟨g0, 9⟩) := by decide +kernel

/-- Names (chapter 13): slot words set out field by field from Tables 9·3 and 9·4 and the entries. -/
theorem test_decode_names_2 :
    decodeSlot .c none 0x1C0120000000 = .ok (.colourFree ⟨g0, 9⟩) ∧
    decodeSlot .c none 0x1D0011400800 = .ok (.nameSetField ⟨g0, 4, .i, .reg 34⟩) ∧
    decodeSlot .c none 0x1D0000410E02 = .ok (.nameSetField ⟨g0, 4, .kind, .imm 2⟩) ∧
    decodeSlot .c none 0x1D0145C01000 = .ok (.nameSetWhole ⟨g0, 4, 10, 11⟩) ∧
    decodeSlot .c none 0x1D00004A1200 = .ok (.nameSetCopy ⟨g0, 4, 5⟩) ∧
    decodeSlot .c (some lit) 0x1E0000300700 = .ok (.nameAdd ⟨g0, 3, .gen, .lit lit⟩) ∧
    decodeSlot .c none 0x1F0180300000 = .ok (.nameLd ⟨g0, 3, 12⟩) := by decide +kernel

/-- System registers and queues (chapter 13): slot words set out field by field from Tables 9·3 and 9·4 and the entries. -/
theorem test_decode_system_1 :
    decodeSlot .c none 0x20049A010000 = .ok (.pand ⟨g0, 9, 3, 4, false, true⟩) ∧
    decodeSlot .c none 0x21049A010000 = .ok (.por ⟨g0, 9, 3, 4, false, true⟩) ∧
    decodeSlot .c none 0x22049A010000 = .ok (.pxor ⟨g0, 9, 3, 4, false, true⟩) ∧
    decodeSlot .c none 0x230498008000 = .ok (.pnot ⟨g0, 9, 3, true⟩) ∧
    decodeSlot .c none 0x240158000000 = .ok (.pmov ⟨g0, 2, 11, false⟩) ∧
    decodeSlot .c none 0x300080000400 = .ok (.sysRd ⟨g0, 4, 0, 0x200⟩) ∧
    decodeSlot .c none 0x310080000001 = .ok (.sysWr ⟨g0, 4, 1⟩) ∧
    decodeSlot .c none 0x320080000000 = .ok (.eret ⟨g0, 4⟩) ∧
    decodeSlot .c none 0x320080000200 = .ok (.eretH ⟨g0, 4⟩) ∧
    decodeSlot .c none 0x330080000000 = .ok (.tlbInv ⟨g0, 4⟩) ∧
    decodeSlot .c none 0x330000000200 = .ok (.tlbInvAll ⟨g0⟩) ∧
    decodeSlot .c none 0x340082800000 = .ok (.dictLd ⟨g0, 4, 5⟩) := by decide +kernel

/-- System registers and queues (chapter 13): slot words set out field by field from Tables 9·3 and 9·4 and the entries. -/
theorem test_decode_system_2 :
    decodeSlot .c none 0x350080000000 = .ok (.dictInv ⟨g0, 4⟩) ∧
    decodeSlot .c none 0x360082800000 = .ok (.qenq ⟨g0, 4, 5⟩) ∧
    decodeSlot .c none 0x370082800000 = .ok (.qdeq ⟨g0, 4, 5⟩) ∧
    decodeSlot .c none 0x380082801800 = .ok (.qenqNb ⟨g0, 12, 4, 5⟩) ∧
    decodeSlot .c none 0x390082800400 = .ok (.qdeqNb ⟨g0, 2, 4, 5⟩) ∧
    decodeSlot .c none 0x3A0080000000 = .ok (.cycleRd ⟨g0, 4⟩) ∧
    decodeSlot .c none 0x3B0080000000 = .ok (.fmtSet ⟨g0, 4⟩) ∧
    decodeSlot .c (some lit) 0x3B0000000300 = .ok (.fmtSetH ⟨g0, lit⟩) ∧
    decodeSlot .c none 0x3B000000042A = .ok (.fmtSetC ⟨g0, 0x2A⟩) ∧
    decodeSlot .c none 0x3C0080000000 = .ok (.fmtRd ⟨g0, 4⟩) := by decide +kernel

/-- Scalar slots (chapter 13; Table 13·9): slot words set out field by field from Tables 9·3 and 9·4 and the entries. -/
theorem test_decode_scalar_1 :
    decodeSlot .s0 none 0x0000620A0000 = .ok (.add ⟨.a, g0, 3, 4, .reg 5⟩) ∧
    decodeSlot .s0 none 0x0200620A0000 = .ok (.sub ⟨.a, g0, 3, 4, .reg 5⟩) ∧
    decodeSlot .s0 none 0x0300620A0000 = .ok (.mul ⟨.a, g0, 3, 4, .reg 5⟩) ∧
    decodeSlot .s0 none 0x0400620A0000 = .ok (.mulh ⟨.a, g0, 3, 4, .reg 5⟩) ∧
    decodeSlot .s0 none 0x0500620A0000 = .ok (.mulhN ⟨.a, g0, 3, 4, .reg 5⟩) ∧
    decodeSlot .s0 none 0x0600620A0000 = .ok (.div ⟨.a, g0, 3, 4, .reg 5⟩) ∧
    decodeSlot .s0 none 0x0700620A0000 = .ok (.divN ⟨.a, g0, 3, 4, .reg 5⟩) ∧
    decodeSlot .s0 none 0x0800620A0000 = .ok (.rem ⟨.a, g0, 3, 4, .reg 5⟩) ∧
    decodeSlot .s0 none 0x0900620A0000 = .ok (.remN ⟨.a, g0, 3, 4, .reg 5⟩) ∧
    decodeSlot .s0 none 0x0A00620A0000 = .ok (.min ⟨.a, g0, 3, 4, .reg 5⟩) ∧
    decodeSlot .s0 none 0x0B00620A0000 = .ok (.minN ⟨.a, g0, 3, 4, .reg 5⟩) ∧
    decodeSlot .s0 none 0x0C00620A0000 = .ok (.max ⟨.a, g0, 3, 4, .reg 5⟩) := by decide +kernel

/-- Scalar slots (chapter 13; Table 13·9): slot words set out field by field from Tables 9·3 and 9·4 and the entries. -/
theorem test_decode_scalar_2 :
    decodeSlot .s0 none 0x0D00620A0000 = .ok (.maxN ⟨.a, g0, 3, 4, .reg 5⟩) ∧
    decodeSlot .s0 none 0x0E00620A0000 = .ok (.and ⟨.a, g0, 3, 4, .reg 5⟩) ∧
    decodeSlot .s0 none 0x0F00620A0000 = .ok (.or ⟨.a, g0, 3, 4, .reg 5⟩) ∧
    decodeSlot .s0 none 0x1000620A0000 = .ok (.xor ⟨.a, g0, 3, 4, .reg 5⟩) ∧
    decodeSlot .s0 none 0x1100620A0000 = .ok (.andn ⟨.a, g0, 3, 4, .reg 5⟩) ∧
    decodeSlot .s1 (some lit) 0x004510800100 = .ok (.add ⟨.b, ⟨false, 8⟩, 40, 33, .lit lit⟩) ∧
    decodeSlot .s0 none 0x01006201FFFF = .ok (.addi ⟨.a, g0, 3, 4, .imm (-1)⟩) ∧
    decodeSlot .s0 (some lit) 0x010062020000 = .ok (.addi ⟨.a, g0, 3, 4, .lit lit⟩) ∧
    decodeSlot .s0 none 0x1200620A0000 = .ok (.shl ⟨.a, g0, 3, 4, .reg 5⟩) ∧
    decodeSlot .s0 none 0x130062017E00 = .ok (.shr ⟨.a, g0, 3, 4, .imm 63⟩) ∧
    decodeSlot .s0 (some lit) 0x140062000100 = .ok (.shrN ⟨.a, g0, 3, 4, .lit lit⟩) ∧
    decodeSlot .s0 none 0x150062010200 = .ok (.rot ⟨.a, g0, 3, 4, .imm 1⟩) := by decide +kernel

/-- Scalar slots (chapter 13; Table 13·9): slot words set out field by field from Tables 9·3 and 9·4 and the entries. -/
theorem test_decode_scalar_3 :
    decodeSlot .s0 none 0x160062000000 = .ok (.clz ⟨.a, g0, 3, 4⟩) ∧
    decodeSlot .s0 none 0x170062000000 = .ok (.ctz ⟨.a, g0, 3, 4⟩) ∧
    decodeSlot .s0 none 0x180062000000 = .ok (.popc ⟨.a, g0, 3, 4⟩) ∧
    decodeSlot .s0 none 0x1900620011F8 = .ok (.bfx ⟨.a, g0, 3, 4, 56, 7, true⟩) ∧
    decodeSlot .s0 none 0x1A00620003C8 = .ok (.bfi ⟨.a, g0, 3, 4, 8, 15⟩) ∧
    decodeSlot .s0 none 0x1B0062003E00 = .ok (.sext ⟨.a, g0, 3, 4, 31⟩) ∧
    decodeSlot .s0 none 0x1C0062000E00 = .ok (.zext ⟨.a, g0, 3, 4, 7⟩) ∧
    decodeSlot .s0 none 0x1D0062000000 = .ok (.mov ⟨.a, g0, 3, 4⟩) ∧
    decodeSlot .s0 none 0x1D8980010000 = .ok (.movStream ⟨.a, ⟨true, 1⟩, 12, 0⟩) ∧
    decodeSlot .s0 none 0x1E0060010000 = .ok (.movi ⟨.a, g0, 3, .imm 0x10000⟩) ∧
    decodeSlot .s0 none 0x1E0060050000 = .ok (.moviZ ⟨.a, g0, 3, .imm 0x10000⟩) ∧
    decodeSlot .s0 (some lit) 0x1E00600A0000 = .ok (.moviH ⟨.a, g0, 3, lit⟩) := by decide +kernel

/-- Scalar slots (chapter 13; Table 13·9): slot words set out field by field from Tables 9·3 and 9·4 and the entries. -/
theorem test_decode_scalar_4 :
    decodeSlot .s0 none 0x1F00620A0C00 = .ok (.sel ⟨.a, g0, 3, 4, .reg 5, 6⟩) ∧
    decodeSlot .s0 none 0x2000620A1600 = .ok (.cmpCc ⟨.a, g0, 3, 4, .reg 5, .ntst⟩) ∧
    decodeSlot .s0 none 0x210062080064 = .ok (.cmpiCc ⟨.a, g0, 3, 4, .imm 100, .lt⟩) ∧
    decodeSlot .s0 none 0x2200620A0600 = .ok (.lea ⟨.a, g0, 3, 4, .reg 5, 3⟩) ∧
    decodeSlot .s0 none 0x4000620A0000 = .ok (.fadd ⟨.a, g0, 3, 4, .reg 5⟩) ∧
    decodeSlot .s0 none 0x4100620A0000 = .ok (.fsub ⟨.a, g0, 3, 4, .reg 5⟩) ∧
    decodeSlot .s0 none 0x4200620A0000 = .ok (.fmul ⟨.a, g0, 3, 4, .reg 5⟩) ∧
    decodeSlot .s0 none 0x4300620A0000 = .ok (.ffma ⟨.a, g0, 3, 4, .reg 5⟩) ∧
    decodeSlot .s0 none 0x4400620A0000 = .ok (.fmin ⟨.a, g0, 3, 4, .reg 5⟩) ∧
    decodeSlot .s0 none 0x4500620A0000 = .ok (.fmax ⟨.a, g0, 3, 4, .reg 5⟩) ∧
    decodeSlot .s0 (some lit) 0x460062000D00 = .ok (.fcmpCc ⟨.a, g0, 3, 4, .lit lit, .un⟩) ∧
    decodeSlot .s0 none 0x470062000600 = .ok (.fcvt ⟨.a, g0, 3, 4, false, .e4m3⟩) := by decide +kernel

/-- Scalar slots (chapter 13; Table 13·9): slot words set out field by field from Tables 9·3 and 9·4 and the entries. -/
theorem test_decode_scalar_5 :
    decodeSlot .s0 none 0x470062011C00 = .ok (.fcvt ⟨.a, g0, 3, 4, true, .n64⟩) := by decide +kernel

/-- Loads and stores (Tables 15·3 and 15·6): slot words set out field by field from Tables 9·3 and 9·4 and the entries. -/
theorem test_decode_memory_1 :
    decodeSlot .s1 none 0x804D10804040 = .ok (.ld ⟨.b, ⟨false, 9⟩, 40, 33, 0, .loc, .i32, .imm 64⟩) ∧
    decodeSlot .s0 (some lit) 0x8001420B6800 = .ok (.ld ⟨.a, g0, 10, 4, 5, .vm, .w64, .lit lit⟩) ∧
    decodeSlot .s0 none 0x8101420AB7FF = .ok (.st ⟨.a, g0, 10, 4, 5, .win, .b64, .imm (-1)⟩) ∧
    decodeSlot .s0 none 0x8203E20B3080 = .ok (.ldv ⟨.a, g0, 31, 4, 5, .vm, 3, .imm 128⟩) ∧
    decodeSlot .s0 none 0x8303E20A3080 = .ok (.stv ⟨.a, g0, 31, 4, 5, .loc, 3, .imm 128⟩) ∧
    decodeSlot .s0 none 0x8403E23D4500 = .ok (.ldvG ⟨.a, g0, 31, 4, 30, .vm, true, 5⟩) ∧
    decodeSlot .s0 none 0x8503E23C0500 = .ok (.stvS ⟨.a, g0, 31, 4, 30, .loc, false, 5⟩) ∧
    decodeSlot .s0 none 0x8601420B0008 = .ok (.ldFe ⟨.a, g0, 10, 4, 5, .imm 8⟩) ∧
    decodeSlot .s0 none 0x8701420B0008 = .ok (.stFe ⟨.a, g0, 10, 4, 5, .imm 8⟩) ∧
    decodeSlot .s0 none 0x8800C20B0008 = .ok (.peekFe ⟨.a, g0, 6, 4, 5, .imm 8⟩) ∧
    decodeSlot .s0 none 0x890000000007 = .ok (.mark ⟨.a, g0, .level⟩) ∧
    decodeSlot .s0 none 0x8A0000000003 = .ok (.fence ⟨.a, g0, .field⟩) := by decide +kernel

/-- Loads and stores (Tables 15·3 and 15·6): slot words set out field by field from Tables 9·3 and 9·4 and the entries. -/
theorem test_decode_memory_2 :
    decodeSlot .s0 none 0x9001420B5010 = .ok (.atomAdd ⟨.a, g0, 10, 4, 5, .vm, true, true, .imm 16⟩) ∧
    decodeSlot .s0 none 0x9101420B5010 = .ok (.atomMin ⟨.a, g0, 10, 4, 5, .vm, true, true, .imm 16⟩) ∧
    decodeSlot .s0 none 0x9201420B5010 = .ok (.atomMax ⟨.a, g0, 10, 4, 5, .vm, true, true, .imm 16⟩) ∧
    decodeSlot .s0 none 0x9301420B5010 = .ok (.atomAnd ⟨.a, g0, 10, 4, 5, .vm, true, true, .imm 16⟩) ∧
    decodeSlot .s0 none 0x9401420B5010 = .ok (.atomOr ⟨.a, g0, 10, 4, 5, .vm, true, true, .imm 16⟩) ∧
    decodeSlot .s0 none 0x9501420B5010 = .ok (.atomXor ⟨.a, g0, 10, 4, 5, .vm, true, true, .imm 16⟩) ∧
    decodeSlot .s0 none 0x9601420B5010 = .ok (.atomSwp ⟨.a, g0, 10, 4, 5, .vm, true, true, .imm 16⟩) ∧
    decodeSlot .s0 none 0x9701420B5010 = .ok (.atomCas ⟨.a, g0, 10, 4, 5, .vm, true, true, .imm 16⟩) ∧
    decodeSlot .s0 none 0x9801420A0010 = .ok (.atomFadd ⟨.a, g0, 10, 4, 5, .loc, .imm 16⟩) ∧
    decodeSlot .s0 none 0x9901420A9003 = .ok (.atomNib ⟨.a, g0, 10, 4, 5, .win, true, .imm 3⟩) ∧
    decodeSlot .s0 none 0x9F00020B2040 = .ok (.pref ⟨.a, g0, 4, 5, 2, .imm 64⟩) := by decide +kernel

/-- V slot (chapter 17): slot words set out field by field from Tables 9·3 and 9·4 and the entries. -/
theorem test_decode_vector_1 :
    decodeSlot .v none 0x000250702A004000 = .ok (.vadd ⟨g0, .i16, 9, 8, .reg 7, 2, true, true⟩) ∧
    decodeSlot .v none 0x010250702A004000 = .ok (.vsub ⟨g0, .i16, 9, 8, .reg 7, 2, true, true⟩) ∧
    decodeSlot .v none 0x020250702A004000 = .ok (.vmul ⟨g0, .i16, 9, 8, .reg 7, 2, true, true⟩) ∧
    decodeSlot .v (some lit) 0x0002500000002000 = .ok (.vadd ⟨g0, .f32, 9, 8, .lit lit, 0, false, false⟩) ∧
    decodeSlot .v none 0x0302507328800000 = .ok (.vfma ⟨g0, .bf16, 9, 8, .reg 7, 6, 2, true⟩) ∧
    decodeSlot .v none 0x040250702AC00000 = .ok (.vmin ⟨g0, .n8, 9, 8, .reg 7, 2, true⟩) ∧
    decodeSlot .v none 0x050250702A800000 = .ok (.vmax ⟨g0, .i64, 9, 8, .reg 7, 2, true⟩) ∧
    decodeSlot .v none 0x0602500029C04000 = .ok (.vabs ⟨g0, .i8, 9, 8, 2, true, true⟩) ∧
    decodeSlot .v none 0x0702500028400000 = .ok (.vneg ⟨g0, .f16, 9, 8, 2, true, false⟩) ∧
    decodeSlot .v none 0x0802507029804000 = .ok (.vand ⟨g0, .i4, 9, 8, .reg 7, 2, true, true⟩) ∧
    decodeSlot .v none 0x0902507029804000 = .ok (.vor ⟨g0, .i4, 9, 8, .reg 7, 2, true, true⟩) ∧
    decodeSlot .v none 0x0A02507029804000 = .ok (.vxor ⟨g0, .i4, 9, 8, .reg 7, 2, true, true⟩) := by decide +kernel

/-- V slot (chapter 17): slot words set out field by field from Tables 9·3 and 9·4 and the entries. -/
theorem test_decode_vector_2 :
    decodeSlot .v none 0x0B0250702B400000 = .ok (.vshl ⟨g0, .n32, 9, 8, .reg 7, 2, true⟩) ∧
    decodeSlot .v none 0x0C0250002240401F = .ok (.vshr ⟨g0, .i32, 9, 8, .imm 31, 2, false⟩) ∧
    decodeSlot .v none 0x0D0150702241C000 = .ok (.vcmpCc ⟨g0, .i32, 5, 8, .reg 7, 2, 7⟩) ∧
    decodeSlot .v none 0x0E02507021400000 = .ok (.vsel ⟨g0, .e2m1, 9, 8, 7, 2⟩) ∧
    decodeSlot .v none 0x0F025000280000A3 = .ok (.vcas ⟨g0, .f32, 9, 8, 2, true, 3, 4, true⟩) ∧
    decodeSlot .v none 0x1001043298400078 = .ok (.vcasX ⟨g0, .f16, 4, 5, 2, 3, 1, true, 0, 15, false⟩) ∧
    decodeSlot .v none 0x1102507002C00000 = .ok (.vperm ⟨g0, .n8, 9, 8, 7⟩) ∧
    decodeSlot .v none 0x1102507302C04000 = .ok (.vperm2 ⟨g0, .n8, 9, 8, 6, 7⟩) ∧
    decodeSlot .v none 0x1202400002B20000 = .ok (.vbcastScalar ⟨g0, .i64, 9, 50⟩) ∧
    decodeSlot .v none 0x120250000300403F = .ok (.vbcastLane ⟨g0, .n16, 9, 8, 63⟩) ∧
    decodeSlot .v (some lit) 0x120240000000A000 = .ok (.vbcastLiteral ⟨g0, .f32, 9, lit⟩) ∧
    decodeSlot .v none 0x130250700300C000 = .ok (.vshuf ⟨g0, .n16, 9, 8, 7, .unzipo⟩) := by decide +kernel

/-- V slot (chapter 17): slot words set out field by field from Tables 9·3 and 9·4 and the entries. -/
theorem test_decode_vector_3 :
    decodeSlot .v none 0x1400100020320000 = .ok (.vredAdd ⟨g0, .f32, 50, 8, 2⟩) ∧
    decodeSlot .v none 0x1500100021F20000 = .ok (.vredMax ⟨g0, .i8, 50, 8, 2⟩) ∧
    decodeSlot .v none 0x1600100023B20000 = .ok (.vredMin ⟨g0, .n64, 50, 8, 2⟩) ∧
    decodeSlot .v none 0x170250002A400000 = .ok (.vscanAdd ⟨g0, .i32, 9, 8, 2, true⟩) ∧
    decodeSlot .v none 0x1802500028000000 = .ok (.vrcpE ⟨g0, .f32, 9, 8, 2, true⟩) ∧
    decodeSlot .v none 0x1902500028400000 = .ok (.vrsqE ⟨g0, .f16, 9, 8, 2, true⟩) ∧
    decodeSlot .v none 0x1A02500028800000 = .ok (.vexp2 ⟨g0, .bf16, 9, 8, 2, true⟩) ∧
    decodeSlot .v none 0x1B02500028000000 = .ok (.vlog2 ⟨g0, .f32, 9, 8, 2, true⟩) ∧
    decodeSlot .v none 0x1C02500000114000 = .ok (.vcvt ⟨g0, .f32, .e2m1, 2, 9, 8, 0, false⟩) ∧
    decodeSlot .v none 0x1D0250702841C040 = .ok (.vscl ⟨g0, .f16, 9, 8, 7, 2, true, .ue5m3, true, true, 64⟩) ∧
    decodeSlot .v none 0x1E02500300094340 = .ok (.vpack ⟨g0, .f32, .e2m1, 1, 9, 8, 6, 0, false, some .ue5m3, true, 64⟩) ∧
    decodeSlot .v none 0x1F02500000C84000 = .ok (.vunpack ⟨g0, .e4m3, .f16, 1, 9, 8, 0, 0, false, none, false, 0⟩) := by decide +kernel

/-- V slot (chapter 17): slot words set out field by field from Tables 9·3 and 9·4 and the entries. -/
theorem test_decode_vector_4 :
    decodeSlot .v none 0x200240000272001F = .ok (.vmovS ⟨g0, .i32, 9, 50, 31⟩) ∧
    decodeSlot .v none 0x210010000272001F = .ok (.vext ⟨g0, .i32, 50, 8, 31⟩) ∧
    decodeSlot .v none 0x220240002A001FFF = .ok (.viota ⟨g0, .i16, 9, 2, true, -1⟩) ∧
    decodeSlot .v none 0x23014C7004008000 = .ok (.mand ⟨g0, .e8m0, 5, 6, 7, false, true⟩) ∧
    decodeSlot .v none 0x24014C7001804000 = .ok (.mor ⟨g0, .i4, 5, 6, 7, true, false⟩) ∧
    decodeSlot .v none 0x25014C0000000000 = .ok (.mnot ⟨g0, .f32, 5, 6⟩) ∧
    decodeSlot .v none 0x26000C0020328000 = .ok (.vpopc ⟨g0, .f32, 50, 6, 2, .high⟩) := by decide +kernel

/-- M slot (chapter 19): slot words set out field by field from Tables 9·3 and 9·4 and the entries. -/
theorem test_decode_matrix :
    decodeSlot .m none 0x0007E80828C0E000 = .ok (.mma ⟨g0, 63, 2, 4, 5, 6, true, true, true⟩) ∧
    decodeSlot .m none 0x0103E00210638000 = .ok (.mmaG ⟨g0, 31, 0, 1, 2, 3, false, true, 3⟩) ∧
    decodeSlot .m none 0x0200000000102000 = .ok (.zclr ⟨g0, 0, 0x81⟩) ∧
    decodeSlot .m none 0x0307EC5000000000 = .ok (.zld ⟨g0, 63, 3, 40⟩) ∧
    decodeSlot .m none 0x0401EC5000004000 = .ok (.zst ⟨g0, 15, 3, 40, 2⟩) ∧
    decodeSlot .m none 0x0501EE0000006000 = .ok (.zcvt ⟨g0, 15, 3, 4, .e4m3⟩) ∧
    decodeSlot .m none 0x0601EE0000000000 = .ok (.zadd ⟨g0, 15, 3, 4⟩) ∧
    decodeSlot .m none 0x0700000828C02000 = .ok (.wld ⟨g0, 0, 4, 5, 6, true⟩) ∧
    decodeSlot .m none 0x0800000000000000 = .ok (.mwait ⟨g0, 0⟩) := by decide +kernel

/-- E slot, the engines (chapters 19 and 22): slot words set out field by field from Tables 9·3 and 9·4 and the entries. -/
theorem test_decode_engines :
    decodeSlot .e none 0x0000020A30080000 = .ok (.cp ⟨g0, 4, 5, 6, .loc, .vm⟩) ∧
    decodeSlot .e none 0x0100020A00000000 = .ok (.cpName ⟨g0, 4, 5⟩) ∧
    decodeSlot .e none 0x0200020A30000000 = .ok (.cpWin ⟨g0, 4, 5, 6⟩) ∧
    decodeSlot .e none 0x0300000000000000 = .ok (.cpWait ⟨g0⟩) ∧
    decodeSlot .e none 0x0400000A3701000F = .ok (.sbind ⟨g0, 7, 5, 6, .f16, 15⟩) ∧
    decodeSlot .e none 0x0500000A00000000 = .ok (.scloseMarker ⟨g0, 5⟩) ∧
    decodeSlot .e none 0x0500000007010000 = .ok (.scloseUnbind ⟨g0, 7⟩) ∧
    decodeSlot .e none 0x0600020A30020000 = .ok (.hashSha ⟨g0, 4, 5, 6, false, true⟩) ∧
    decodeSlot .e none 0x0700020A30010000 = .ok (.hashCrc ⟨g0, 4, 5, 6, true⟩) ∧
    decodeSlot .e none 0x0800000000000000 = .ok (.hashWait ⟨g0⟩) := by decide +kernel

/-- E slot, Celadon (chapter 25): slot words set out field by field from Tables 9·3 and 9·4 and the entries. -/
theorem test_decode_celadon_1 :
    decodeSlot .e none 0x4000020000000000 = .ok (.lcCtxOpen ⟨g0, 4⟩) ∧
    decodeSlot .e none 0x4000020A30010000 = .ok (.lcCtxCommit ⟨g0, 4, 5, 6⟩) ∧
    decodeSlot .e none 0x4000000A00020000 = .ok (.lcCtxAbort ⟨g0, 5⟩) ∧
    decodeSlot .e none 0x4000000A00030000 = .ok (.lcCtxRel ⟨g0, 5⟩) ∧
    decodeSlot .e none 0x41000A00A8000080 = .ok (.lcTbl ⟨g0, 20, 0, 21, 0x80⟩) ∧
    decodeSlot .e none 0x4200000A00000000 = .ok (.lcSel ⟨g0, .reg 5⟩) ∧
    decodeSlot .e none 0x4200000000010002 = .ok (.lcSel ⟨g0, .imm 2⟩) ∧
    decodeSlot .e none 0x4300020A30000000 = .ok (.lcRun ⟨g0, 4, 5, 6⟩) ∧
    decodeSlot .e none 0x4400020A300D0010 = .ok (.lcTslice ⟨g0, 4, 5, 6, .e4m3, 3, 0x10⟩) ∧
    decodeSlot .e none 0x4500020A304E0000 = .ok (.lcUnslice ⟨g0, 4, 5, 6, .n32, 19⟩) ∧
    decodeSlot .e none 0x4600020A30000000 = .ok (.lcPop ⟨g0, 4, 5, 6⟩) ∧
    decodeSlot .e none 0x4700000000000000 = .ok (.lcWait ⟨g0⟩) := by decide +kernel

/-- E slot, Celadon (chapter 25): slot words set out field by field from Tables 9·3 and 9·4 and the entries. -/
theorem test_decode_celadon_2 :
    decodeSlot .e none 0x4800020000000003 = .ok (.lcStat ⟨g0, 4, 0, 3⟩) := by decide +kernel
/-! ## Bundles and what a decoder refuses -/

/-- Table 9·2: a bundle of S0 `ADD s3, s4, s5` alone has bit 377 set and the slot's word at bits 287 to 240; its code
stream is an escape (R109, R110), and the same bits as a table word decode to the instruction. -/
theorem test_bundle :
    bundleOf (encS .a 0x00 g0 0x620A0000 none) = BitVec.ofNat 384 (2 ^ 377 + 0x0000620A0000 * 2 ^ 240) ∧
    bundleSlots (BitVec.ofNat 384 (2 ^ 377 + 0x0000620A0000 * 2 ^ 240)) = [.s0] ∧
    decodeTableWord 384 (2 ^ 377 + 0x0000620A0000 * 2 ^ 240) = some (.add ⟨.a, g0, 3, 4, .reg 5⟩) := by decide +kernel

/-- R109: what a halfword of a code stream means. -/
theorem test_code_index :
    codeIndex 0 = .dict 0 ∧ codeIndex 0x3FFF = .dict 0x3FFF ∧ codeIndex 0x4000 = .bad ∧ codeIndex 0xFFFD = .bad ∧
    codeIndex 0xFFFE = .empty ∧ codeIndex 0xFFFF = .escape := by decide +kernel

/-- R117, R131, R114, R141: the reasons a bundle is no instruction, with the WAITARG of R129. -/
theorem test_decode_refuses :
    decodeSlot .s0 none 0xFF0000000000 = .error .opcode ∧
    decodeSlot .s0 none 0x000062000001 = .error .reserved ∧
    decodeSlot .s0 none 0x200062081800 = .error .xValue ∧
    decodeSlot .s0 none 0x000062000100 = .error .noLiteral ∧
    bundleCheck (BitVec.ofNat 384 (2 ^ 368)) = some (6, .bundleBits) ∧
    bundleCheck (BitVec.ofNat 384 (2 ^ 377 + 0xFF0000000000 * 2 ^ 240)) = some (1, .opcode) ∧
    bundleCheck (BitVec.ofNat 384 (2 ^ 378 + 0x12 * 2 ^ 328 + 2 ^ 377 + 0x1D0180010000 * 2 ^ 240)) =
      some (6, .streamTwice) ∧
    firstPart 0 = .error .noSlot := by decide +kernel

/-- An ill-formed term for every check that a dispatch makes, and the check that refuses it. -/
theorem test_ill_formed_banks :
    (Instr.add ⟨.a, ⟨false, 8⟩, 3, 4, .reg 5⟩).check = some .guardBank ∧
    (Instr.add ⟨.a, g0, 35, 4, .reg 5⟩).check = some .destBank ∧
    (Instr.add ⟨.b, ⟨false, 8⟩, 35, 4, .reg 5⟩).check = some .crossPath ∧
    (Instr.cmpCc ⟨.a, g0, 9, 4, .reg 5, .eq⟩).check = some .predBank := by decide +kernel

theorem test_ill_formed_control :
    (Instr.frameAlloc ⟨g0, 1⟩).check = some .frameSize ∧ (Instr.frameAlloc ⟨g0, 17⟩).check = some .frameSize ∧
    (Instr.frameAlloc ⟨g0, 2⟩).check = none ∧ (Instr.frameAlloc ⟨g0, 16⟩).check = none ∧
    (Instr.pubC ⟨g0, 1, 2, 0, 9, .core⟩).check = some .combineOp ∧
    (Instr.spawn ⟨g0, 1, 2, 6, 7, 2⟩).check = some .spawnNames ∧ (Instr.spawn ⟨g0, 1, 2, 6, 7, 1⟩).check = none ∧
    (Instr.sysRd ⟨g0, 1, 0, 0x0007⟩).check = some .sysReg := by decide +kernel

theorem test_ill_formed_scalar_vector :
    (Instr.bfx ⟨.a, g0, 1, 2, 57, 7, true⟩).check = some .bitField ∧
    (Instr.vcmpCc ⟨g0, .f32, 1, 2, .reg 3, 0, 8⟩).check = some .condition ∧
    (Instr.fcvt ⟨.a, g0, 1, 2, false, .f32⟩).check = some .conversion ∧
    (Instr.vadd ⟨g0, .i4, 1, 2, .reg 3, 0, false, false⟩).check = some .typeCode ∧
    (Instr.vadd ⟨g0, .f32, 1, 2, .reg 3, 0, false, true⟩).check = some .intOnly ∧
    (Instr.vshl ⟨g0, .i16, 1, 2, .imm 16, 0, false⟩).check = some .shiftAmount ∧
    (Instr.vcas ⟨g0, .i64, 1, 2, 0, false, 4, 15, true⟩).check = some .exchange ∧
    (Instr.vext ⟨g0, .i64, 1, 2, 16⟩).check = some .lane ∧
    (Instr.vcvt ⟨g0, .f32, .f16, 2, 1, 2, 0, false⟩).check = some .part ∧
    (Instr.vscl ⟨g0, .f16, 1, 2, 3, 0, false, .e8m0, false, true, 0⟩).check = some .scale := by decide +kernel

theorem test_ill_formed_matrix_engines :
    (Instr.mma ⟨g0, 30, 0, 1, 2, 3, true, true, true⟩).check = some .beats ∧
    (Instr.zclr ⟨g0, 0, 0⟩).check = some .tileMask ∧
    (Instr.cp ⟨g0, 1, 2, 3, .win, .vm⟩).check = some .copySpaces ∧
    (Instr.sbind ⟨g0, 0, 1, 2, .e8m0, 0⟩).check = some .streamFormat ∧
    (Instr.lcTslice ⟨g0, 1, 2, 3, .f32, 0, 0⟩).check = some .sliceFormat ∧
    (Instr.lcStat ⟨g0, 1, 5, 0⟩).check = some .statWhat := by decide +kernel

/-! ## Small states -/

/-- A state of which only the focused core is not as after reset. -/
def cpu (f : Core → Core) : State := { State.reset with core := f Core.reset }

/-- Scalar registers of a core, as its parts read and write them. -/
def withS (l : List (Fin 64 × Word)) (c : Core) : Core :=
  let r := { c.live with s := l.foldl (fun v x => v.set x.1.val x.2) c.live.s }
  { c with live := r }

/-- Vector registers. -/
def withV (l : List (Fin 32 × Vec)) (c : Core) : Core :=
  let r := { c.live with v := l.foldl (fun v x => v.set x.1.val x.2) c.live.v }
  { c with live := r }

/-- Predicate registers. -/
def withP (l : List (Fin 16 × Bool)) (c : Core) : Core :=
  let r := { c.live with p := l.foldl (fun v x => v.set x.1.val x.2) c.live.p }
  { c with live := r }

/-- Mask registers. -/
def withM (l : List (Fin 8 × Quad)) (c : Core) : Core :=
  let r := { c.live with m := l.foldl (fun v x => v.set x.1.val x.2) c.live.m }
  { c with live := r }

/-- Name registers. -/
def withN (l : List (Fin 8 × Quad)) (c : Core) : Core :=
  let r := { c.live with n := l.foldl (fun v x => v.set x.1.val x.2) c.live.n }
  { c with live := r }

/-- fmt. -/
def withFmt (x : Word) (c : Core) : Core :=
  let r := { c.live with fmt := x }
  { c with live := r }

/-- A vector of halfwords, lane 0 first. -/
def vec16 (l : List Nat) : Vec := BitVec.ofNat 1024 (l.foldr (fun x a => a * 65536 + x) 0)

/-- An instruction answers a next state that meets a test. -/
def after (i : Instr) (s : State) (p : State → Bool) : Bool :=
  match exec i s with
  | .next t => p t
  | .fault _ => false
  | .refused _ => false

/-- A part on a core that differs from reset in its scalar registers: the value of s3 afterwards. -/
def s3After (i : Instr) (l : List (Fin 64 × Word)) (x : Word) : Bool :=
  after i (cpu (withS l)) fun t => t.core.live.s[3] = x

/-! ## Small steps, with results from the spec's tables and examples -/

/-- Table 14·1: a = −7, b = 2. -/
theorem test_div_signed :
    s3After (.div ⟨.a, g0, 3, 4, .reg 5⟩) [(4, -7), (5, 2)] (-3) ∧ s3After (.rem ⟨.a, g0, 3, 4, .reg 5⟩) [(4, -7), (5, 2)] (-1) ∧
    s3After (.divN ⟨.a, g0, 3, 4, .reg 5⟩) [(4, -7), (5, 2)] 0x7FFFFFFFFFFFFFFC ∧
    s3After (.remN ⟨.a, g0, 3, 4, .reg 5⟩) [(4, -7), (5, 2)] 1 := by decide +kernel

/-- Table 13·5: a divisor of zero, and −2^63 by −1. -/
theorem test_div_edges :
    s3After (.div ⟨.a, g0, 3, 4, .reg 5⟩) [(4, 5)] 0xFFFFFFFFFFFFFFFF ∧ s3After (.rem ⟨.a, g0, 3, 4, .reg 5⟩) [(4, 5)] 5 ∧
    s3After (.div ⟨.a, g0, 3, 4, .reg 5⟩) [(4, 0x8000000000000000), (5, -1)] 0x8000000000000000 ∧
    s3After (.rem ⟨.a, g0, 3, 4, .reg 5⟩) [(4, 0x8000000000000000), (5, -1)] 0 := by decide +kernel

/-- R192, R194: a sum wraps; a shift by 64 or more gives 0, or the sign. -/
theorem test_add_wraps_shift_out :
    s3After (.add ⟨.a, g0, 3, 4, .reg 5⟩) [(4, -1), (5, 2)] 1 ∧ s3After (.shl ⟨.a, g0, 3, 4, .reg 5⟩) [(4, -1), (5, 64)] 0 ∧
    s3After (.shr ⟨.a, g0, 3, 4, .reg 5⟩) [(4, 0x8000000000000000), (5, 200)] (-1) ∧
    s3After (.rot ⟨.a, g0, 3, 4, .reg 5⟩) [(4, 1), (5, 65)] 2 := by decide +kernel

/-- R192: the high half of a product, signed and unsigned. -/
theorem test_mulh :
    s3After (.mulh ⟨.a, g0, 3, 4, .reg 5⟩) [(4, -1), (5, 2)] (-1) ∧ s3After (.mulhN ⟨.a, g0, 3, 4, .reg 5⟩) [(4, -1), (5, 2)] 1 := by
  decide +kernel

/-- R114: a literal is sign-extended for ADD and zero-extended for AND. -/
theorem test_literal_extension :
    s3After (.add ⟨.a, g0, 3, 0, .lit lit⟩) [] 0xFFFFFFFF89ABCDEF ∧
    s3After (.or ⟨.a, g0, 3, 0, .lit lit⟩) [] 0x89ABCDEF := by decide +kernel

/-- R195: a field of eight bits from bit 56 up, and one put at bit 8. -/
theorem test_bit_fields :
    s3After (.bfx ⟨.a, g0, 3, 4, 56, 7, true⟩) [(4, 0x8100000000000000)] 0xFFFFFFFFFFFFFF81 ∧
    s3After (.bfi ⟨.a, g0, 3, 4, 8, 7⟩) [(3, -1), (4, 0x5A)] 0xFFFFFFFFFFFF5AFF := by decide +kernel

/-- R136: s0 takes no write and reads as zero. -/
theorem test_s0 : after (.add ⟨.a, g0, 0, 4, .reg 5⟩) (cpu (withS [(4, 1), (5, 2)])) (fun t => t.core.readS .c 0 = 0) := by
  decide +kernel

/-- Table 8·1: FCVT from FP32 at the fmt of reset. -/
theorem test_fcvt_narrow :
    s3After (.fcvt ⟨.a, g0, 3, 4, false, .e4m3⟩) [(4, 0x3E99999A)] 0x2A ∧
    s3After (.fcvt ⟨.a, g0, 3, 4, false, .e4m3⟩) [(4, 0x3B800000)] 0x02 ∧
    s3After (.fcvt ⟨.a, g0, 3, 4, false, .e2m1⟩) [(4, 0x40200000)] 0x4 ∧
    s3After (.fcvt ⟨.a, g0, 3, 4, false, .e2m1⟩) [(4, 0xBFA00000)] 0xA := by decide +kernel

/-- Table 8·1, and the flag NX at bit 2 (Table 7·4). -/
theorem test_fcvt_scale_and_flag :
    s3After (.fcvt ⟨.a, g0, 3, 4, false, .ue5m3⟩) [(4, 0x3F400000)] 0x74 ∧
    s3After (.fcvt ⟨.a, g0, 3, 4, false, .ue5m3⟩) [(4, 0x40400000)] 0x84 ∧
    after (.fcvt ⟨.a, g0, 3, 4, false, .e2m1⟩) (cpu (withS [(4, 0x40200000)])) (fun t => t.core.flagQ.map (·.2) = [4]) ∧
    after (.fcvt ⟨.a, g0, 3, 4, false, .ue5m3⟩) (cpu (withS [(4, 0x40400000)])) (fun t => t.core.flagQ = []) := by decide +kernel

/-- Chapter 8: 1.0 + 2^−24 is a tie that goes to 1.0; 2^−24 + 2^−24 is 2^−23, and with 1.0 it is 0x3F800001. -/
theorem test_fadd_ties :
    s3After (.fadd ⟨.a, g0, 3, 4, .reg 5⟩) [(4, 0x3F800000), (5, 0x33800000)] 0x3F800000 ∧
    s3After (.fadd ⟨.a, g0, 3, 4, .reg 5⟩) [(4, 0x33800000), (5, 0x33800000)] 0x34000000 ∧
    s3After (.fadd ⟨.a, g0, 3, 4, .reg 5⟩) [(4, 0x34000000), (5, 0x3F800000)] 0x3F800001 ∧
    s3After (.fsub ⟨.a, g0, 3, 4, .reg 5⟩) [(4, 0x7F800000), (5, 0x7F800000)] 0x7FC00000 := by decide +kernel

/-- R197, Table 13·6: −1 is below 1 as a signed value and above it as an unsigned one. -/
theorem test_compare :
    after (.cmpCc ⟨.a, g0, 3, 4, .reg 5, .lt⟩) (cpu (withS [(4, -1), (5, 1)])) (fun t => t.core.live.p[3]) ∧
    after (.cmpCc ⟨.a, g0, 3, 4, .reg 5, .ltn⟩) (cpu (withS [(4, -1), (5, 1)])) (fun t => !t.core.live.p[3]) ∧
    after (.fcmpCc ⟨.a, g0, 3, 4, .reg 5, .un⟩) (cpu (withS [(4, 0x7FC00000)])) (fun t => t.core.live.p[3]) := by decide +kernel

/-- R116: a part whose guard is false writes nothing. -/
theorem test_guard_false :
    after (.add ⟨.a, ⟨true, 0⟩, 3, 4, .reg 5⟩) (cpu (withS [(3, 9), (4, 1), (5, 2)])) (fun t => t.core.live.s[3] = 9) := by
  decide +kernel

/-- R156, R157: a branch of −3 units from a bundle at 16, and the last pass of a loop. -/
theorem test_branch_and_loop :
    after (.br ⟨g0, -3⟩) (cpu fun c => { c with lat := { c.lat with pc := 16, todo := [.c, .s0] } })
      (fun t => t.core.lat.target = some 13 ∧ t.core.lat.penalty = 2) ∧
    after (.loopEnd ⟨g0, 5, -3⟩) (cpu fun c => { withS [(5, 1)] c with lat := { todo := [.c, .s0] } }) (fun t => t.core.lat.target = none ∧ t.core.live.s[5] = 0) := by
  decide +kernel

/-- Table 5·1: NAME.SET writes J at bits [43:28] and NAME.ADD wraps within K at [27:12]. -/
theorem test_name_fields :
    after (.nameSetField ⟨g0, 1, .j, .imm 5⟩) (cpu id) (fun t => t.core.live.n[1] = 0x50000000) ∧
    after (.nameAdd ⟨g0, 1, .k, .imm 1⟩) (cpu (withN [(1, 0x0FFFF000)])) (fun t => t.core.live.n[1] = 0) := by decide +kernel

/-- R98: CORE.SRND takes 1 for a write of 0. R181: CORE.SRND reads 1 after reset. -/
theorem test_srnd :
    (Core.reset.sysApply (1, 0)).srnd = 1 ∧
    after (.sysRd ⟨g0, 3, 0, 1⟩) (cpu id) (fun t => t.core.live.s[3] = 1) := by decide +kernel

/-- R95, R145: a fmt with a reserved rounding code is not legal; a legal one shows its configuration at a distance of 4. -/
theorem test_fmt :
    fmtLegal (-1) = false ∧ after (.fmtSet ⟨g0, 4⟩) (cpu (withS [(4, 0x18C0100000000004)]))
      (fun t => t.core.live.fmt = 0x18C0100000000004 ∧ t.core.fmtQ.map (·.1) = [4]) := by decide +kernel

/-- Tables 15·1, 15·4: a halfword is stored with its low byte first, and LD.i16 extends its sign. -/
theorem test_store_load :
    after (.st ⟨.a, g0, 3, 4, 0, .loc, .b16, .imm 0⟩) (cpu (withS [(3, 0x12348001), (4, 64)]))
      (fun t => after (.rimAccessRequest t.cur) t fun u => u.core.spad = [(64, 0x01), (65, 0x80)]) ∧
    after (.ld ⟨.a, g0, 3, 4, 0, .loc, .i16, .imm 0⟩) (cpu fun c => { withS [(4, 64)] c with spad := [(64, 0x01), (65, 0x80)] })
      (fun t => t.core.live.s[3] = 0xFFFFFFFFFFFF8001) := by decide +kernel

/-- R218: ATOM.ADD on the own scratchpad returns the old value and stores the sum. -/
theorem test_atomic :
    after (.atomAdd ⟨.a, g0, 3, 4, 5, .loc, true, false, .imm 0⟩)
        (cpu fun c => { withS [(4, 64), (5, 0xFFFFFFFF)] c with spad := [(64, 2)] })
      (fun t => after (.rimAccessRequest t.cur) t fun u =>
        u.core.spad = [(64, 1)] ∧ u.core.eng.acc.map (fun a => ofBytes a.data) = [2]) := by decide +kernel

/-- Table 16·3: ATOM.NIB.HI puts its nibble above the one that is there. -/
theorem test_nibble :
    after (.atomNib ⟨.a, g0, 3, 4, 5, .loc, true, .imm 0⟩)
        (cpu fun c => { withS [(4, 64), (5, 0x5)] c with spad := [(64, 0x03)] })
      (fun t => after (.rimAccessRequest t.cur) t fun u => u.core.spad = [(64, 0x53)]) := by decide +kernel

/-- Table 17·3: one descending step at distance 1. -/
theorem test_vcas_x :
    after (.vcasX ⟨g0, .f16, 4, 5, 2, 3, 1, true, 0, 15, false⟩)
        (cpu fun c => withM [(1, 0x3F)] (withV [(2, vec16 [0x3C00, 0x4000, 0x7E01, 0x3800, 0x4200, 0x4200, 0x1111]),
          (3, vec16 [0, 1, 2, 3, 5, 4, 7])] c))
      (fun t => t.core.live.v[4] = vec16 [0x4000, 0x3C00, 0x3800, 0x7E01, 0x4200, 0x4200] ∧
        t.core.live.v[5] = vec16 [1, 0, 3, 2, 4, 5]) := by decide +kernel

/-- Chapter 18, rows 0 and 2 of the gate: 2^−1 is 0.5, and the reciprocals of 1.5 and 1.25 are 0x3955 and 0x3A66. -/
theorem test_estimates :
    after (.vexp2 ⟨g0, .f16, 4, 2, 1, true⟩) (cpu fun c => withM [(1, 1)] (withV [(2, vec16 [0xBC00])] c))
      (fun t => t.core.live.v[4] = 0x3800) ∧
    after (.vrcpE ⟨g0, .f16, 4, 2, 1, true⟩) (cpu fun c => withM [(1, 3)] (withV [(2, vec16 [0x3E00, 0x3D00])] c))
      (fun t => t.core.live.v[4] = vec16 [0x3955, 0x3A66]) := by decide +kernel

/-- Chapter 18, row 0: 1 − 1365/2048 is 0x3556. -/
theorem test_vsub :
    after (.vsub ⟨g0, .f16, 4, 2, .reg 3, 1, true, false⟩)
        (cpu fun c => withM [(1, 1)] (withV [(2, vec16 [0x3C00]), (3, vec16 [0x3955])] c))
      (fun t => t.core.live.v[4] = 0x3556) := by decide +kernel

/-- R243: a saturating sum of bytes clamps, a plain one wraps, and an inactive lane keeps its value without MZ. -/
theorem test_vadd_bytes :
    after (.vadd ⟨g0, .i8, 4, 2, .reg 3, 1, false, true⟩)
        (cpu fun c => withM [(1, 1)] (withV [(2, 0x7F7F), (3, 0x0101), (4, 0x5555)] c)) (fun t => t.core.live.v[4] = 0x557F) ∧
    after (.vadd ⟨g0, .i8, 4, 2, .reg 3, 1, true, false⟩)
        (cpu fun c => withM [(1, 1)] (withV [(2, 0x7F7F), (3, 0x0101), (4, 0x5555)] c)) (fun t => t.core.live.v[4] = 0x80) := by
  decide +kernel

/-- Table 8·2: the block of 24 bytes decodes to its 32 weights. -/
theorem test_cw8_block :
    cwBlock ([0x70, 0x44, 0x49, 0x83, 0xE0] ++ List.replicate 19 0) = some ([0x3C, 0xB0, 0x44, 0x00] ++ List.replicate 28 0x38) := by
  decide +kernel

/-- The check value of CRC-32C over the digits 1 to 9 (R286 names the polynomial). -/
theorem test_crc : crc32c [0x31, 0x32, 0x33, 0x34, 0x35, 0x36, 0x37, 0x38, 0x39] = 0xE3069283 := by decide +kernel

/-- R359: LC.CTX.OPEN takes slot 0 of an empty fabric. -/
theorem test_celadon_open :
    after (.lcCtxOpen ⟨g0, 3⟩) (cpu (withS [(3, 9)])) (fun t => t.core.live.s[3] = 0 ∧ (t.fabSlot 0 0).st = .open_) := by decide +kernel

/-- Table 25·10: the fields of step 11 of chapter 26 (the word that chapter prints puts LAUNCH elsewhere; log entry 46). -/
theorem test_celadon_status :
    FabSlot.status { st := .open_, launch := 7, rej := some (5, 2, 0x26), blks := [0x24, 0x25] } = 0x1000700522600200 := by
  decide +kernel

/-- R271: ZCLR captures and joins the engine's queue. -/
theorem test_zclr : after (.zclr ⟨g0, 0, 3⟩) (cpu id) (fun t => t.core.eng.mq.length = 1) := by decide +kernel

/-- Chapter 31: the route word of the path east 3, north 2. -/
theorem test_route_word : routePorts 0x5210602000000000 = some [1, 1, 1, 0, 0] := by decide +kernel

/-- Table 32·1: the words of two partitions, and the field columns and rows that they name. -/
theorem test_form_word :
    formOf 0x01203000 = ⟨0, 0, 3, 0, 2, 0⟩ ∧ formOf 0x01535201 = ⟨1, 2, 5, 3, 5, 0⟩ ∧
    (formOf 0x01203000).fields = [0, 1, 2, 3, 8, 9, 10, 11, 16, 17, 18, 19] := by decide +kernel

/-- R411: with a link down the mesh has no way on; R7: no link is up after reset. -/
theorem test_no_links : State.reset.legOf 0 1 = none := by decide +kernel

/-- R60 on Tables 5·1 and 5·3: with NI = 8, NJ = 4 and TSIZE 1, tile (1, 2, 3) is number (3 × 4 + 2) × 8 + 1 = 113, at 128
bytes each from the base 0x1000. -/
theorem test_home_address :
    homeVa (BitVec.ofNat 256 (0x1000 * 2 ^ 96 + 4 * 2 ^ 184 + 8 * 2 ^ 200 + 1 * 2 ^ 249))
      (BitVec.ofNat 128 (1 * 2 ^ 44 + 2 * 2 ^ 28 + 3 * 2 ^ 12)) = 0x1000 + 113 * 128 := by
  decide +kernel

/-- Table 29·8: a marginal result adds 512 to the score of the leased core. -/
theorem test_marginal_score :
    let s : State := { State.reset with wafer := { Wafer.reset with units := [(7, { score := 2049 })] } }
    ((s.testScored 0 7 .marginal).unitAt 0 7).score = 2561 ∧ ((s.testScored 0 7 .pass).unitAt 0 7).score = 2049 := by decide +kernel

/-- R344, R413: a defective block, core and router that the fuses name. -/
theorem test_read_fuses :
    let t := State.reset.readFuses 0 (2 ^ 0x25 + 2 ^ (256 + 17) + 2 ^ 464)
    (t.clusterAt 0).fused 0x25 = true ∧ t.coreBad 17 = true ∧ t.coreBad 18 = false ∧ (t.routerAt 0).failed = true := by decide +kernel
/-! ## Witnesses: states and operands that meet the hypotheses of the statements -/

/-- A part under p0 or p8, on a core with nothing in flight and no bundle latched, is ready: what `Completes` and
`Becomes` suppose, for every instruction of a slot. -/
theorem meets_ready (i : Instr) (u : Uses) (f : Regs) (hu : i.uses = some u) (hg : u.g = ⟨false, 0⟩ ∨ u.g = ⟨false, 8⟩) :
    (cpu fun c => { c with live := f }).readyFor i = true :=
  (ready_of_clear hu rfl).trans (guardTrue_hard hg)

/-! ### A running task -/

/-- HBM homed, 128-byte tiles of 64 halfwords at 0x10000, 256 × 1 × 1. -/
def desc0 : BitVec 256 := BitVec.ofNat 256 (2 ^ 255 + 2 ^ 253 + 1 * 2 ^ 249 + 1 * 2 ^ 244 + 6 * 2 ^ 236 + 256 * 2 ^ 200 +
  2 ^ 184 + 2 ^ 168 + 0x10000 * 2 ^ 96)

def sub0 : SubDecl :=
  { tensor := 0x150, colour := 0, cfix := false, gen := 0, gfix := false, note := 0, contrib := false, strm := false,
    count := 1, land := 2, lsize := 1, ir := {}, jr := {}, kr := {}, shI := 0, shJ := 0, shK := 0, keyI := false,
    keyJ := false, keyK := false, circ := 0 }

def tmpl0 : Tmpl := { entry := 0, dlvl := 1, fwd := false, subs := [sub0], outs := [(0, 0)] }

def level0 : Level :=
  { dom := 4, scope := 2, prio := 3, costart := false, hold := 1, flim := 0, tmpl := 0, count := 1, saves := 1,
    quantum := 4096, nq := 0, csa := 0x30000 }

def launch0 : Launch :=
  { kernel := 5, tenant := 1, lvls := 1, code := 0x10000, clen := 64, dlen := 1, dict := 0x10000, data := 0, dsize := 0, cq := 1,
    rgn0 := {}, rgn1 := {}, tag := 0, levels := [level0], tmpls := [tmpl0] }

/-- A page of plain memory at 0x10000 and one of full-empty words at 0x20000. -/
def tlb0 (fe : Bool) (va : Nat) : TlbEntry :=
  { tenant := 1, part := 0, va := va, size := 0x1000, pa := va + 0x40000, key := 0, dirty := true, lat := 0, fe := fe,
    gran := 1, x := true, w := true }

def part0 : Part :=
  { formed := true, descs := [(1, { tenant := 1, ents := [(0x150, desc0)] })], launches := [(1, launch0)],
    hqs := [(0, { en := true, slice := true, ents := [List.replicate 64 7], bads := [false], tail := 1 }),
      (1, { en := true, slice := true }), (2, { en := true, base := 0x80000, tail := 16 })] }

def rec0 : Rec := { addr := 0x1000, st := 2, part := 0, share := 0, launch := 1, tenant := 1, dlvl := 1, kernel := 5, csa := 0x30000 }

/-- Core 0 of cluster 0 runs a task of launch 1 in partition 0. -/
def running : State :=
  { State.reset with
    core := { Core.reset with busy := true, task := rec0, utlb := [tlb0 false 0x10000, tlb0 true 0x20000], region := some (0, 1, 0x10000) }
    parts := [(0, part0)], clusters := [(0, { Cluster.reset with stage := 5 })]
    wafer := { Wafer.reset with fieldPart := [(0, 0)], fieldUp := [0] } }

/-- The running task with its core changed. -/
def run (f : Core → Core) : State := running.onCore f

theorem run_ready (i : Instr) (u : Uses) (f : Regs) (hu : i.uses = some u) (hg : u.g = ⟨false, 0⟩ ∨ u.g = ⟨false, 8⟩) :
    (run fun c => { c with live := f }).readyFor i = true :=
  (ready_of_clear hu rfl).trans (guardTrue_hard hg)

/-! ### Statements that suppose readiness alone -/

theorem meets_IntegerArithmetic :
    (cpu id).readyFor (.add ⟨.a, g0, 0, 31, .reg 32⟩) = true ∧ (cpu id).readyFor (.lea ⟨.b, ⟨false, 8⟩, 63, 32, .lit lit, 7⟩) = true := by
  decide +kernel

theorem meets_ControlTransfers :
    (cpu id).readyFor (.br ⟨g0, -1⟩) = true ∧ (cpu id).readyFor (.loopEnd ⟨⟨false, 8⟩, 63, 0⟩) = true := by decide +kernel

theorem meets_VectorArithmetic :
    (cpu id).readyFor (.vadd ⟨g0, .n8, 31, 0, .lit lit, 7, true, true⟩) = true ∧
    (cpu id).readyFor (.vfma ⟨g0, .f32, 0, 31, .reg 31, 0, 0, false⟩) = true := by decide +kernel

theorem meets_ReductionsAndEstimates :
    (cpu id).readyFor (.vredAdd ⟨g0, .f16, 63, 0, 7⟩) = true ∧ (cpu id).readyFor (.vexp2 ⟨g0, .bf16, 0, 31, 0, true⟩) = true := by
  decide +kernel

theorem meets_VectorConversions :
    (cpu id).readyFor (.vcvt ⟨g0, .f32, .e2m1, 7, 0, 31, 0, false⟩) = true ∧
    (cpu id).readyFor (.vpack ⟨g0, .f32, .e2m1, 7, 9, 8, 6, 0, false, some .ue5m3, true, 64⟩) = true := by decide +kernel

/-! ### The machine -/

/-- `ADD s3, s4, s5` alone in a bundle. -/
def addBundle : Nat := 2 ^ 377 + 0x0000620A0000 * 2 ^ 240

theorem meets_MemWfStep :
    let s : State := { State.reset with agenda := [.event (.partHoldNamed 0 true)], hbm := { State.reset.hbm with bytes := [(64, 1)] } }
    s.memWf = true ∧ ∃ t, step s = .next t := ⟨by decide +kernel, _, rfl⟩

theorem meets_StepRunsDecodedPart :
    let s := State.reset.withFetchWord 384 addBundle
    let b : Latch := { on := true, bits := BitVec.ofNat 384 addBundle, todo := [.s0] }
    let u := fun (f : Core → Core) => ({ run f with agenda := [] } : State)
    (s.agenda = [.run s.cur] ∧ s.core.busy = true ∧ s.core.nextPart = some (0, .s0) ∧
      bundlePart (s.core.focusOn 0).lat.bits .s0 = .ok (.add ⟨.a, g0, 3, 4, .reg 5⟩)) ∧
    (let f := u fun c => { c with lat := { b with fault := some (.s0, dataFault, 0) } };
      f.core.nextPart = none ∧ f.front.core.lat.fault.isSome = true ∧ f.front.settled = true ∧ f.msgOpen f.core.task.part = true) ∧
    ((u id).core.busy = true ∧ (u id).core.nextPart = none ∧ (u id).front.core.lat.fault.isSome = false ∧ (u id).core.dispatchOpen = true) ∧
    (let f := u fun c => { c with waiting := true }; f.core.nextPart = none ∧ f.core.dispatchOpen = false) ∧
    (State.reset.core.busy = false ∧ State.reset.core.lat.on = false) ∧ (Instr.taskDispatch 0).uses = none := by
  and_intros <;> decide +kernel

theorem meets_PlacedWordRuns : decodeTableWord 384 addBundle = some (.add ⟨.a, g0, 3, 4, .reg 5⟩) := by decide +kernel

theorem meets_EncodeDecode :
    let i : Instr := .add ⟨.b, ⟨true, 15⟩, 63, 63, .lit lit⟩
    let j : Instr := .viota ⟨⟨true, 15⟩, .n64, 31, 7, true, -4096⟩
    i.check = none ∧ (i.encode.map (·.slot)) = some .s1 ∧ j.check = none ∧ (j.encode.map (·.slot)) = some .v := by decide +kernel

theorem meets_GuardsAndInterlocks :
    let i : Instr := .add ⟨.a, ⟨false, 3⟩, 3, 4, .reg 5⟩
    let waits := fun (l : List Loc) (p : Bool) => cpu fun c => { withP [(3, p)] c with eng := { awaits := l } }
    let b : Latch := { on := true, bits := BitVec.ofNat 384 (addBundle + 2 ^ 379), todo := [.s0] }
    let sync := cpu fun c => { c with eng := { awaits := [.s 4] }, lat := b }
    (i.uses.map (·.g)) = some ⟨false, 3⟩ ∧ sync.syncHeld = true ∧ (waits [.p 3] true).syncHeld = false ∧
    (waits [.p 3] true).core.awaited .s0 (.p 3) = true ∧ (waits [] false).core.awaited .s0 (.p 3) = false ∧
    (waits [] false).core.guardTrue .s0 ⟨false, 3⟩ = false ∧ (waits [.s 4] true).core.awaited .s0 (.p 3) = false ∧
    (waits [.s 4] true).core.guardTrue .s0 ⟨false, 3⟩ = true ∧ (waits [.s 4] true).core.awaited .s0 (.s 4) = true ∧
    (waits [.s 3] true).core.owing .s0 (.s 3) = true := by
  and_intros <;> decide +kernel

theorem meets_RegisterFrame :
    let i : Instr := .add ⟨.a, g0, 3, 4, .reg 5⟩
    i.registerOnly = true ∧ i.uses.isSome = true ∧ (cpu id).readyFor i = true ∧
    ((cpu id).core.older ++ (cpu id).core.lat :: (cpu id).core.younger).all (fun b => b.sysw.isEmpty) = true ∧
    (cpu id).core.fmtQ = [] ∧ i.raises = false ∧ i.draws = false := by and_intros <;> decide +kernel

theorem meets_StoreFrame :
    let f := fun (sp : Space) => (⟨.a, g0, 3, 4, 0, sp, .b64, .imm 0⟩ : MSt)
    let s := fun (a : Word) => ({ run (withS [(4, a)]) with
      others := [(1, { Core.fresh 1 with region := some (0, 1, 0x10000) })] } : State)
    let r := fun (a : Word) (sp : Space) => ((s a).place sp ((s a).core.ea .s0 (f sp).a (f sp).b (f sp).off) 8 8 .store .any).2
    let store := fun (p : Spot) => ({ kind := .store (toBytes 8 7) false, slot := .s0, parts := [(p, 8)] } : Access)
    let queued := fun (p : Spot) => (s 0).onCore fun c => { c with eng := { acc := [store p] } }
    let opens := fun (p : Spot) => (queued p).memWf = true ∧ ((queued p).openAccesses 0).map (fun x => (x.1.travels, x.2)) = [(false, 0)] ∧
      (queued p).choice 1 = 0 ∧ ((queued p).coreAt 0).held .queues = false ∧ (queued p).portOf p.space = none
    (r 8 .loc = .ok (.loc 8) ∧ r 0x1FFFF8 .loc = .ok (.loc 0x1FFFF8) ∧ r 0x200010 .win = .ok (.win 1 16) ∧
      r 0x10FF8 .vm = .ok (.vm 0x10FF8 0x50FF8 1 0 false 0)) ∧
    opens (.loc 0x1FFFF8) ∧ opens (.win 1 16) ∧ opens (.vm 0x10FF8 0x50FF8 1 0 false 0) := by
  and_intros <;> decide +kernel

theorem meets_PreciseFault :
    let b : Latch := { on := true, todo := [.s0], fault := some (.s0, dataFault, 64) }
    (running.core.lat.fault = none ∧ running.settled = true ∧ (running.partAt running.core.task.part).faultQ = 0) ∧
    (b.fault.isSome = true ∧ bundleSync b.bits = false) ∧ (run fun c => { c with lat := b }).core.lat.fault = some (.s0, dataFault, 64) ∧
    ((run fun c => { c with lat := b, younger := [{ on := true, todo := [.v] }] }).core.flight.take 1).map (fun a => a.fault.isSome) = [true] := by
  and_intros <;> decide +kernel

theorem meets_RegisterWrites :
    let c := (cpu fun c => { c with live := { c.live with frame := { n := 4, held := 1 } } }).core
    sLoc c.view 24 = none ∧ sLoc c.view 63 = none ∧ sLoc c.view 16 ≠ none ∧
    (1 : SReg) ≠ 0 ∧ (1 : SReg) ≠ 32 ∧ (15 : SReg).val % 32 < 16 ∧ (Core.reset.view.n = 0) ∧
    c.overtaken .v (.v 4) = false ∧ 0 < Fmt.lanes .i4 ∧ 255 < Fmt.lanes .i4 := by and_intros <;> decide +kernel

theorem meets_HomeAddress :
    let n := nameOf 1 0x150 0 0 3 2 1 0
    let m := nameOf 1 0x150 9 7 3 2 1 0
    field m 12 16 = field n 12 16 ∧ field m 28 16 = field n 28 16 ∧ field m 44 16 = field n 44 16 ∧ m ≠ n := by decide +kernel

theorem meets_VselLanes : Core.reset.overtaken .v (.v 31) = false ∧ 255 < Fmt.lanes .e2m1 ∧ 15 < Fmt.lanes .n64 := by decide +kernel

/-- A byte store that holds a byte string at a place. -/
def laid (a : Nat) (bs : List Byte) : Mem := bs.zipIdx.filterMap fun x => if x.1 = 0 then none else some (a + x.2, x.1)

/-- HBM with some bytes, written under G64 and key 0. -/
def withHbm (l : List (Nat × Byte)) (s : State) : State :=
  { s with hbm := { s.hbm with bytes := l, tags := (((l.map fun (c : Nat × Byte) => c.1 / 32 * 32) ++ [0x50020]).eraseDups.map fun p => (p, ⟨1, 0, false⟩)) } }

/-- The escape of `ADD s3, s4, s5` (R109, R110) at the code of launch 1. -/
def coded : State := withHbm [(0x50000, 0xFF), (0x50001, 0xFF), (0x50003, 0x02), (0x50010, 0x0A), (0x50011, 0x62)] running

theorem meets_BundleDispatchAndRetire :
    (coded.core.busy = true ∧ coded.core.dispatchOpen = true ∧ coded.quantumOut = false ∧ coded.core.pre = .none ∧
      coded.codeFrozen (clusterOf coded.cur) = false ∧ coded.clockStopped (clusterOf coded.cur) = false ∧
      coded.myLaunch = some launch0) ∧
    ((coded.fetchBundle launch0).2 = .ok (BitVec.ofNat 384 addBundle, 25) ∧ coded.core.task.scm = 0 ∧
      (coded.fetchBundle launch0).1.core.scbWaits (BitVec.ofNat 384 addBundle) (bundleSlots (BitVec.ofNat 384 addBundle)) = false ∧
      (coded.fetchBundle launch0).1.core.dispatchCheck (BitVec.ofNat 384 addBundle) (bundleSlots (BitVec.ofNat 384 addBundle)) = none) ∧
    (let far := run fun c => { c with task := { c.task with pc := 64 } };
      (far.fetchBundle launch0).2 = .error (fetchFault, 64) ∧ (far.fetchBundle launch0).1.core.flight = [] ∧
      (far.fetchBundle launch0).1.settled = true) ∧
    ((running.core.dispatchCheck (2 ^ 368) []).map (·.1)).isSome = true ∧
    bundleSlots (BitVec.ofNat 384 addBundle) ≠ [] ∧ (State.reset.withFetchWord 384 addBundle).core.lat.todo = [.s0] ∧
    (run fun c => { c with lat := { on := true, todo := [.s0] }, younger := [{ on := true, todo := [.v] }] }).core.older = [] := by
  and_intros <;> decide +kernel

theorem meets_CommitStatus :
    let x : FabSlot := { st := .open_, part := 0, launch := 1 }
    let s := (run (withS [(4, 3), (5, 0x1FFFC0)])).setSlot 0 3 x
    s.core.eng.lcs = [] ∧ s.slotArg 3 [.open_] = some x ∧ scratchCheck 0x1FFFC0 64 = none ∧ s.slotBusy 3 false = false ∧
    s.core.behind s.stamp [(.loc 0x1FFFC0, 64)] false = false ∧ badIn s.core.spadBad 0x1FFFC0 64 = none := by and_intros <;> decide +kernel

theorem meets_IntegerLogicAndFields :
    (63 : BitVec 6).toNat + (0 : BitVec 6).toNat + 1 ≤ 64 ∧ (0 : BitVec 6).toNat + (63 : BitVec 6).toNat + 1 ≤ 64 := by decide

theorem meets_Fp32Arithmetic : f32v 0x7FC00000 = .nan ∧ f32v 0xFFFFFFFF = .nan := by decide +kernel

theorem meets_Compares : f32v 0x7F800001 = .nan := by decide +kernel

theorem meets_FrameSlots :
    let s := fun (f : Frame) (n : Nat) => run fun c => { c with live := { c.live with frame := f }, eng := { c.eng with awaits := if n = 0 then [] else [.f 0] } }
    (s {} 0).core.live.frame.n = 0 ∧ (s {} 0).core.slotNamed 0 true (s {} 0).core.older = false ∧
    ((s { n := 4, held := 3, tag := 3 } 0).core.slotNamed 0 true [] = false) ∧
    (let b := (s {} 0).onCore fun c => { c with older := [{ on := true, bits := BitVec.ofNat 384 (addBundle + 2 ^ 273), todo := [.s0], frame := some { n := 4, held := 1 } }] };
      b.core.slotNamed 0 true b.core.older = true) ∧
    ((s { n := 16, held := 15, tag := 14 } 0).core.live.frame.n ≠ 0 ∧ 15 < (s { n := 16, held := 15, tag := 14 } 0).core.live.frame.n) ∧
    ((s { n := 4, held := 4 } 0).core.live.frame.n ≠ 5 ∧ (s { n := 4, held := 4 } 0).readyFor (.frameAlloc ⟨g0, 5⟩) = true) ∧
    (s { n := 4, held := 4, pend := 3 } 0).core.live.frame.held ≠ 3 ∧
    (s { n := 4, held := 4, pend := 4 } 0).readyFor (.frameFree ⟨g0⟩) = true ∧
    ((s { n := 4, held := 2, pend := 1, old := 3 } 1).coreAt 0).releasable = true := by and_intros <;> decide +kernel

theorem meets_SuspensionPoints :
    let s := run (withS [(4, 0), (5, 1)])
    let h := fun (i : Word) => s.hqAt (handlePart i) (handleIdx i)
    running.readyFor (.yield ⟨g0⟩) = true ∧ running.mayLeave = true ∧ running.core.doom = none ∧
    (s.handleOk 0 = true ∧ handlePart 0 = s.core.task.part ∧ 0 < (h 0).count) ∧
    (s.readyFor (.waitQ ⟨g0, 5⟩) = true ∧ s.handleOk 1 = true ∧ handlePart 1 = s.core.task.part ∧ (h 1).count = 0 ∧ s.mayLeave = true) ∧
    (s.subDecl 0 = some sub0 ∧ sub0.strm = false ∧ bitOf s.core.task.sat 0 = true ∧
      s.core.behind s.stamp [(.loc (64 * sub0.land), 2 ^ (sub0.lsize + 6))] true = false) ∧
    (let w := run fun c => { c with task := { c.task with sat := 0xFE } };
      w.readyFor (.waitS ⟨g0, 0⟩) = true ∧ w.subDecl 0 = some sub0 ∧ bitOf w.core.task.sat 0 = false ∧ w.mayLeave = true) ∧
    (running.readyFor (.halt ⟨g0⟩) = true ∧ running.core.older = [] ∧ running.alone .c = true ∧ running.core.eng.quiet = true) ∧
    running.readyFor (.trap ⟨g0, 255⟩) = true := by and_intros <;> decide +kernel

theorem meets_PredicatesAndFmt :
    fmtLegal 0 = true ∧ fmtLegal (-1) = false ∧ (cpu (withS [(4, -1)])).readyFor (.fmtSet ⟨g0, 4⟩) = true ∧
    fmtLegal (setField (setField Core.reset.lastFmt 32 32 0x18C01000) 0 6 Core.reset.sticky.toNat) = true ∧
    fmtLegal Core.reset.lastFmt = true ∧ Core.reset.flagsDue Core.reset.elapsed = false ∧ Core.reset.flagsDue (Core.reset.elapsed + 1) = false := by and_intros <;> decide +kernel

theorem meets_NameRegisters :
    (0 : Nat) % 16 = 0 ∧ (0x1FFFF0 : Nat) % 16 = 0 ∧ 0x1FFFF0 + 16 ≤ 2 ^ 21 ∧ badIn Core.reset.spadBad 0x1FFFF0 16 = none := by decide

/-- The name of tile (3, 0, 0) of the tensor of `desc0`. -/
def name0 : Quad := nameOf 0 0x150 0 0 3 0 0 0

theorem meets_Subscriptions :
    let s := run (withN [(1, name0), (2, nameOf 0 0x150 0 0 3 0 0 1)])
    let held := s.register (s.ownReg name0 0 (subKinds 0) none)
    ((nameKind name0 = 0 ∧ nameRes name0 = 0 ∧ (s.myDesc name0).isSome = true ∧ s.subDecl 0 = some sub0 ∧ sub0.strm = false ∧
      sub0.lsize = s.tsizeOf name0) ∧
      ((s.unregisterAll (s.subRegs 0)).clusterAt s.core.task.share).used < Config.mstoreEntries) ∧
    (nameKind (s.core.readN 2) ≠ 0 ∧ s.readyFor (.subscribe ⟨g0, 2, 0⟩) = true) ∧
    ((held.subRegs 0).filter (fun g => g.matches (s.ownName name0)) ≠ []) ∧
    ((s.subRegs 0).filter (fun g => g.matches (s.ownName name0)) = [] ∧ s.core.task.stagedAs 0 (s.ownName name0) = false) := by
  and_intros <;> decide +kernel

/-- A stream register in a state. -/
def withW (x : Stream) (c : Core) : Core := { c with w := c.w.set 7 x }

theorem meets_Streams :
    let s := run (withN [(1, name0)])
    let b := fun (x : Stream) => run (withW x)
    (((s.myDesc name0).bind fun d => fmtOf (descFmt d)) = some .f16 ∧ nameKind name0 = 0 ∧ nameRes name0 = 0 ∧
      (s.core.w.get 7).st = .unbound) ∧
    ((run fun c => withW { st := .ended } (withN [(1, name0)] c)).readyFor (.bind ⟨g0, 7, 1⟩) = true) ∧
    (((b { st := .bound, width := 2, buf := [1, 2] }).core.w.get 7).buf = [1, 2]) ∧
    ((b { st := .ended }).readyFor (.movStream ⟨.a, g0, 3, 7⟩) = true ∧ (b { st := .ended }).readyFor (.wtst ⟨g0, 3, 7⟩) = true ∧
      ((b { st := .ended }).core.w.get 7).st ≠ .bound) ∧
    (((b { st := .bound, marker := true }).core.w.get 7).marker = true) ∧
    ((0x1000 : Nat) % 2 = 0 ∧ (0 : Nat) % 2 = 0 ∧ (2 ^ 57 - 2) + 2 ≤ 2 ^ 57) ∧
    ((b { st := .bound }).readyFor (.sbind ⟨g0, 7, 4, 5, .f16, 15⟩) = true) ∧
    (let m := run fun c => { withS [(4, 64)] c with spad := laid 64 (toBytes 16 (nameOf 0 0x150 0 0 3 0 0 2).toNat) };
      m.storedName 64 = .ok (nameOf 0 0x150 0 0 3 0 0 2) ∧ nameKind (nameOf 0 0x150 0 0 3 0 0 2) = 2 ∧
      reservedTensor (nameTensor (nameOf 0 0x150 0 0 3 0 0 2)) = false ∧ (m.myDesc (nameOf 0 0x150 0 0 3 0 0 2)).isSome = true ∧
      m.resendRoom 1 = true) ∧
    (let g := b { st := .bound, src := .vm, width := 2, pos := 0x10000, nextVa := 0x10000, stop := 0x10040, window := 1 };
      g.streamAsks 0 ((g.coreAt 0).w.get 7) = true ∧ g.streamClear 0 ((g.coreAt 0).w.get 7) = true) := by and_intros <;> decide +kernel

theorem meets_StreamLine :
    let r : Part := { part0 with ranges := [BitVec.ofNat 128 (0x10 + 0x50 * 2 ^ 45 + 2 ^ 85 + 2 ^ 127)] }
    let x : Stream := { st := .bound, src := .vm, width := 2, pos := 0x10000, nextVa := 0x10040, stop := 0x10040, asked := [(0x10000, 0)] }
    let s : State := { run (withW x) with parts := [(0, r)] }
    (s.coreAt 0).streamHeld 7 = false ∧ (s.streamLine 0 ((s.coreAt 0).w.get 7)).2.isOk = true := by
  and_intros <;> decide +kernel

theorem meets_Publication :
    let s := run fun c => withS [(4, 0x1FFF80)] (withN [(1, name0), (2, nameOf 0 0x150 0 0 3 0 0 1), (3, nameOf 0 0x150 0 0 4 0 0 3)] c)
    (s.checkPub 0 [(1, name0)] [(0x1FFF80, s.tsizeOf name0)] = none ∧ s.resendRoom 1 = true) ∧
    (nameKind (s.core.readN 2) ≠ 0 ∧ s.readyFor (.pub ⟨g0, 4, 2, .level⟩) = true) ∧
    (let d := BitVec.ofNat 256 (2 ^ 255 + 1 * 2 ^ 249 + 0 * 2 ^ 244 + 5 * 2 ^ 236 + 256 * 2 ^ 200 + 2 ^ 184 + 2 ^ 168);
     let u : State := { s with parts := [(0, { part0 with descs := [(1, { tenant := 1, ents := [(0x150, d)] })] })] };
      u.checkPub 3 [(3, s.core.readN 3)] [(0x1FFF80, u.tsizeOf (s.core.readN 3))] = none ∧
      ((u.myDesc (s.core.readN 3)).bind fun d => fmtOf (descFmt d)) = some .f32) ∧
    (s.checkPub 0 [(1, name0), (0, s.core.readN 1)] [(0x1FFF80, s.tsizeOf name0)] = none) ∧
    (let u := run fun c => { withS [(4, 0)] c with task := { c.task with colour := 65535 } };
     let v : State := { u with parts := [(0, { part0 with rets := [(65535, name0)], colours := [(65535, .spawn)] })] };
      (v.partAt 0).returnName 65535 = some name0 ∧ v.checkPub 0 [(8, name0)] [(0, v.tsizeOf name0)] = none ∧
      (u.partAt 0).returnName 65535 = none ∧ u.readyFor (.retn ⟨g0, 4, .wafer⟩) = true) ∧
    running.resendRoom (running.taskOuts running.core.task).length = true := by
  and_intros <;> decide +kernel

theorem meets_Captures :
    let k : Packet := { name := name0, size := 1 }
    let job : PubJob := { no := 0, scope := some 4, srcs := [(0x1FFF80, 128)], pkts := [k], circ := true }
    let s := fun (p : PubJob) => run fun c => { c with eng := { c.eng with pubs := [p] } }
    let old : Access := { no := 0, kind := .store [1] false, slot := .s0, parts := [(.loc 0, 1)] }
    let behind := (s { job with no := 1 }).onCore fun c => { c with eng := { c.eng with acc := [old] } }
    ((s job).coreAt 0).eng.pubs ≠ [] ∧ behind.performed behind.cur 1 4 false = false ∧ (s job).performed (s job).cur 0 4 false = true ∧
    (let p : PubJob := { job with first := some (List.replicate 128 0), data := List.replicate 64 0 };
      (s p).core.spad.run (0x1FFF80 + 64) 64 = ((List.replicate 128 (0 : Byte)).drop 64).take 64 ∧
        badIn (s p).core.spadBad (0x1FFF80 + 64) 64 = none) ∧
    (s job).circuitOf name0 = none := by and_intros <;> decide +kernel

theorem meets_ColoursAndSpawning :
    let f : CSpawn := ⟨g0, 5, 6, 1, 2, 0⟩
    let s := run fun c => withN [(1, name0), (2, name0)] c
    let none_ : State := { s with parts := [(0, { part0 with waiters := [0x2000], colours := [(1, .get)] })] }
    let ok := fun (s : State) => s.checkPub 0 ((s.spawnArgs f).1 ++ [(f.n2.val, s.core.readN f.n2)]) (s.spawnArgs f).2 = none
    (ok s ∧ (s.partAt 0).draw = some 1 ∧ s.readyFor (.spawn f) = true ∧ s.readyFor (.spawnNb f) = true ∧ s.readyFor (.colourGet ⟨g0, 5⟩) = true ∧ s.resendRoom (s.spawnArgs f).1.length = true) ∧
    (ok none_ ∧ (none_.partAt 0).draw = none ∧ none_.mayLeave = true ∧ none_.core.doom = none ∧ none_.readyFor (.spawn f) = true) ∧
    Table.find (none_.partAt 0).colours 1 = some .get ∧ (Table.find (none_.partAt 0).colours 2 ≠ some .get) ∧
    none_.readyFor (.colourFree ⟨g0, 5⟩) = true := by and_intros <;> decide +kernel

/-- The task of a partition supervisor. -/
def priv : State :=
  { running with parts := [(0, { part0 with launches := [(1, { launch0 with levels := [{ level0 with prio := 7 }] })] })] }

theorem meets_SystemRegisters :
    (running.privileged = false ∧ priv.privileged = true) ∧ (0 : SReg).val = 0 ∧ (5 : BitVec 16).toNat ≤ 5 ∧
    (let s := priv.onCore (withS [(9, BitVec.ofNat 64 (0xFFE0000000000 + 0x400000))]);
      s.coreOfWindow (s.core.readS .c 9) = some 1 ∧ s.clusterPart (clusterOf 1) = s.myPart) ∧
    running.readyFor (.sysRd ⟨g0, 4, 0, 6⟩) = true ∧ priv.alone .c = true ∧ running.readyFor (.sysWr ⟨g0, 4, 0⟩) = true ∧
    (0x300 : BitVec 16).toNat ≠ 5 := by and_intros <;> decide +kernel

theorem meets_PrivilegeAndReturn :
    let r : Rec := { addr := 0x2000, st := 6, part := 0, launch := 1, ctxv := true }
    let s : State := { priv with recs := [(0x2000, r)] }
    (running.privileged = false ∧ running.readyFor (.eret ⟨g0, 4⟩) = true ∧ running.readyFor (.dictLd ⟨g0, 4, 5⟩) = true ∧
      running.readyFor (.tlbInvAll ⟨g0⟩) = true) ∧
    (s.privileged = true ∧ s.recAt 0x2000 = some r ∧ r.part = s.core.task.part ∧ r.returns = true ∧ r.resv = 0 ∧
      s.readyFor (.eret ⟨g0, 4⟩) = true ∧ s.readyFor (.eretH ⟨g0, 4⟩) = true) ∧
    (s.recAt 0x3000 = none ∧ s.readyFor (.eret ⟨g0, 4⟩) = true) := by and_intros <;> decide +kernel

theorem meets_TranslationsAndDictionaries :
    (priv.privileged = true ∧ priv.ownStoresOut = true ∧ priv.tlbQuiet (priv.tlbHits 0 fun _ => true) = true ∧
      priv.tlbQuiet (priv.tlbHits 0 fun t => decide (t.va ≤ 0x10FFF) && decide (0x10FFF < t.va + t.size)) = true) ∧
    ((tlb0 true 0x20000) ∈ (priv.tlbDrop 0 fun t => decide (t.va ≤ 0x10FFF) && decide (0x10FFF < t.va + t.size)).core.utlb) ∧
    ((0x10000 : Word).toNat % 64 = 0 ∧ field (BitVec.ofNat 64 (6 * 2 ^ 32)) 14 18 = 0 ∧ field (BitVec.ofNat 64 (6 * 2 ^ 32)) 48 16 = 0 ∧
      (priv.clusterAt 0).dicts = [] ∧ 48 ≤ Config.codeStoreBytes ∧
      (priv.readVa 0 1 0x10000 48 .dict).2.isOk = true) ∧
    (priv.kernelLive 0 0 7 = false) ∧ priv.readyFor (.dictInv ⟨g0, 4⟩) = true := by and_intros <;> decide +kernel

theorem meets_KernelLive :
    let s : State := { priv with parts := [(0, { (priv.partAt 0) with linsts := [{ launch := 1, level := 1, path := [0, 0, 0, 0, 0, 0, 0], idx := 0, dom := 4, no := 0, ready := true, shares := [(0, 256)] }] })] }
    s.kernelLive 0 0 5 = true := by decide +kernel

theorem meets_QueueInstructions :
    let s := running
    let q := fun (h : Word) => s.hqAt (handlePart h) (handleIdx h)
    (s.queueCheck 0 0x1FFFC0 true = none ∧ (q 0).room = true ∧ s.performed s.cur s.stamp 4 false = true ∧ s.ringUp (q 0) (q 0).toSpill (q 0).tail = true ∧
      s.spillFaults 0 0 = false ∧ s.readyFor (.qenq ⟨g0, 4, 5⟩) = true ∧ s.readyFor (.qdeq ⟨g0, 4, 5⟩) = true ∧ badIn s.core.spadBad 0x1FFFC0 64 = none) ∧
    (s.queueCheck 2 0 true = none ∧ (q 2).room = false) ∧
    (s.queueCheck 0 0x1FFFC0 false = none ∧ (q 0).count ≠ 0 ∧
      s.ringUp (q 0) (decide (0 < (q 0).spilled)) (if (q 0).slice then (q 0).firstSpilled else (q 0).head) = true ∧
      s.hqHead 0 0 = (s, some (List.replicate 64 7))) ∧
    (s.queueCheck 1 0 false = none ∧ (q 1).count = 0) ∧
    (s.handleOk 5 = false ∧ s.readyFor (.qenq ⟨g0, 4, 5⟩) = true ∧ s.readyFor (.qdeq ⟨g0, 4, 5⟩) = true) := by
  and_intros <;> decide +kernel

/-! ### Memory -/

theorem meets_LoadsAndStores :
    let other : State := { running with others := [(1, { Core.fresh 1 with region := some (0, 1, 0x10000) })] }
    let at_ := fun (a : Word) (sp : Space) (u : Use) (need : FeNeed) => other.place sp a 8 8 u need
    let barred := ({ other with stamp := 1 } : State).onCore fun c => { c with eng := { acc := [{ no := 0, kind := .mark 4 false, slot := .s0, parts := [] }] } }
    other.core.deferredAt Slot.s0.num = none ∧ badIn other.core.spadBad 0x1FFFF8 8 = none ∧
    other.bankBusy [(.loc 0x1FFFF8, 8)] = false ∧ other.core.pendingStores other.stamp = [] ∧
    (barred.bankBusy [(.loc 0x1FFFF8, 8)] = true ∧ barred.readyFor (.ld ⟨.a, g0, 3, 4, 0, .loc, .w64, .imm 0⟩) = true) ∧
    (at_ 0x1FFFF8 .loc .load .any).2 = .ok (.loc 0x1FFFF8) ∧ (at_ 0xFFF8 .win .load .any).2 = .ok (.loc 0xFFF8) ∧
    (at_ 0x20FFF8 .win .load .any).2 = .ok (.win 1 0xFFF8) ∧
    (at_ 0x10FF8 .vm .load .any).2 = .ok (.vm 0x10FF8 0x50FF8 1 0 false 0) ∧
    (let t := (at_ 0x20000 .vm .load .any).1;
      (at_ 0x20000 .vm .load .any).2 = .ok (.vm 0x20000 0x60000 1 0 true 0) ∧ t.accessBarred [(.vm 0x20000 0x60000 1 0 true 0, 8)] = false ∧
        t.channelsUp 0x60000 8 1 = true ∧ t.storeHeld t.stamp .vm 0x60000 8 = false ∧ t.hbm.full 0x60000 = true ∧
        t.hbm.waiters 0x60000 = [] ∧ (t.readPa 0x60000 8 1 0).2.isSome = true) ∧
    (at_ 0x20000 .vm .store .any).2 = .ok (.vm 0x20000 0x60000 1 0 true 0) ∧
    (other.place .loc 0x200000 8 8 .load .any).2 = .error (accessFault, 0x200000) ∧
    (other.place .loc 0x1FFFFF 8 8 .load .any).2 = .error (alignFault, 0x1FFFFF) ∧
    (other.place .win 0x20000000 8 8 .load .any).2 = .error (accessFault, 0x20000000) ∧
    (other.place .vm 0x200000000000000 8 8 .load .any).2 = .error (accessFault, 0x200000000000000) := by
  and_intros <;> decide +kernel

theorem meets_VectorMemory :
    let s := run (withM [(5, 0x80000000000000000000000000000001)])
    let f : MGat := ⟨.a, g0, 31, 4, 30, .loc, false, 5⟩
    let g : MGat := ⟨.a, g0, 31, 4, 30, .vm, true, 5⟩
    let v := run fun c => withS [(4, 0x10FF8)] (withM [(5, 1)] c)
    ((0x1FFF80 : Nat) < 2 ^ 21 ∧ 0x1FFF80 % 128 = 0 ∧ s.core.spadBad = [] ∧ (s.core.readM .s0 5).toNat ≠ 0 ∧ s.core.spad.wf = true ∧
      s.bankBusy ((maskRuns (s.core.readM .s0 5)).map fun x => (.loc (0x1FFF80 + x.1), x.2)) = false) ∧
    (v.placeLanes g .load [0]).2 = .ok [(.vm 0x10FF8 0x50FF8 1 0 false 0, 8)] ∧
    (v.placeLanes g .store [0]).2 = .ok [(.vm 0x10FF8 0x50FF8 1 0 false 0, 8)] ∧
    (v.placeLanes g .load []).2 = .ok [] ∧
    ((run (withM [(5, 1)])).placeLanes f .load [0] = (run (withM [(5, 1)]), .ok [(.loc 0, 4)])) ∧
    (run (withM [(5, 1)])).core.badParts [(.loc 0, 4)] = none ∧ (run (withM [(5, 1)])).core.pendingStores 0 = [] := by
  and_intros <;> decide +kernel

theorem meets_FullEmptyAndAtomics :
    let w : Spot := .vm 0x20FF8 0x60FF8 1 0 true 0
    let e : State := { running with hbm := { running.hbm with empty := [0x60FF8] } }
    let goes := fun (x : State) => let p := x.place .vm 0x20FF8 8 8 .store .required
      p.2 = .ok w ∧ p.1.accessBarred [(w, 8)] = false ∧ p.1.channelsUp 0x60FF8 8 1 = true ∧
        p.1.storeHeld p.1.stamp .vm 0x60FF8 8 = false ∧ p.1.hbm.waiters 0x60FF8 = [] ∧ (p.1.readPa 0x60FF8 8 1 0).2.isSome = true
    let atom := fun (sp : Space) (a : Word) => (running.place sp a 8 8 .store .any).2
    running.core.deferredAt Slot.s0.num = none ∧ (0x60FF8 / 8 * 8 : Nat) = 0x60FF8 ∧
    (goes running ∧ 0x60FF8 ∉ (running.place .vm 0x20FF8 8 8 .store .required).1.hbm.empty ∧
      (running.place .vm 0x20FF8 8 8 .store .required).1.hbm.full 0x60FF8 = true) ∧
    (goes e ∧ 0x60FF8 ∈ (e.place .vm 0x20FF8 8 8 .store .required).1.hbm.empty ∧
      e.readyFor (.ldFe ⟨.a, g0, 3, 4, 0, .imm 0⟩) = true) ∧
    running.readyFor (.stFe ⟨.a, g0, 3, 4, 0, .imm 0⟩) = true ∧
    (running.place .vm 0x20FF8 8 8 .load .required).2 = .ok w ∧
    atom .loc 0x1FFFF8 = .ok (.loc 0x1FFFF8) ∧ atom .vm 0x10FF8 = .ok (.vm 0x10FF8 0x50FF8 1 0 false 0) ∧ atom .vm 0x20FF8 = .ok w ∧
    running.core.badParts [(.loc 0x1FFFF8, 8)] = none ∧ badIn running.core.spadBad 0x1FFFF8 8 = none ∧
    (0xFFFFFFFF : Nat) < 2 ^ 32 := by and_intros <;> decide +kernel

theorem meets_OrderingAndVirtualAccess :
    let a : Access := { kind := .load (some (.s 3)) .w64, slot := .s0, parts := [(.vm 0x10FF8 0x50FF8 1 0 false 0, 8)] }
    let there : Access := { a with came := some 0 }
    let m : Access := { kind := .mark 4 false, slot := .s0, parts := [] }
    let q := fun (x : Access) => run fun c => { c with eng := { acc := [x], awaits := [.s 3] } }
    let copying := run fun c => { c with eng := { cps := [{ kind := .cp .loc .loc, d := 0, a := 64, n := 64 }] } }
    let b := fun (m : Option Nat) => running.modCluster 0 fun c =>
      { c with stbuf := [{ pa := 0x50000, data := [some 1, some 2], gran := 1, key := 0, task := 0x1000, came := m }] }
    let only := fun (s : State) => (s.openAccesses 0).map (fun x => (x.1.travels, x.2))
    running.core.eng.fenced = true ∧
    (copying.core.eng.fenced = false ∧ copying.readyFor (.fence ⟨.a, g0, .partition⟩) = true) ∧
    (only (q m) = [(false, 0)] ∧ (q m).choice 1 = 0 ∧ ((q m).coreAt 0).held .queues = false) ∧
    (only (q a) = [(true, 0)] ∧ only (q there) = [(false, 0)] ∧ (q there).chosen 1 = q there ∧
      (q there).portOf (.vm, 0x50FF8) = none ∧ ((q there).performAccess 0 there).2.isOk = true) ∧
    running.readyFor (.pref ⟨.a, g0, 4, 5, 0, .imm 0⟩) = true ∧ (running.tlbFind 0 1 0x10000).isSome = true ∧
    ((q { a with asked := true, data := [1] }).coreAt 0).eng.acc.map (fun x => (x.asked, x.deferred, x.reg.isSome)) = [(true, false, true)] ∧
    (((b none).clusterAt 0).stbuf.map (fun e => e.came) = [none] ∧ ((b (some 0)).clusterAt 0).stbuf.length = 1 ∧
      (b (some 0)).channelsUp 0x50000 2 1 = true ∧ (b (some 0)).portOf (.vm, 0x50000) = none ∧
      (b (some 0)).rimTurn (((b (some 0)).clusterAt 0).stbuf.flatMap fun e => e.asks 0) = true) := by
  and_intros <;> decide +kernel

/-! ### Vector and matrix -/

theorem meets_VectorLogicAndMasks : (127 : Nat) < 128 ∧ (128 : Nat) ≤ 128 := by decide

theorem meets_VectorExchangeAndMoves :
    Fmt.isF .i8 = false ∧ (126 : Nat) / 2 ^ 0 % 2 = 0 ∧ (63 : Nat) / 2 ^ 6 % 2 = 0 ∧ intVal .i8 0x80 < intVal .i8 0x7F := by decide +kernel

theorem meets_MatrixIssue :
    let s := run (withS [(4, 0x1FF000), (5, 0), (6, 64)])
    let ok := fun (fmt : Word) (k2 wb : Bool) (beats : Nat) (f : Mma → Bool) => (match mmaOf fmt k2 wb beats false with
      | some p => f p
      | none => false)
    (s.core.live.fmt = fmtReset ∧ ok fmtReset false false 32 (fun p => (rngFault (mmaRanges p false 0x1FF000 0 0)).isNone) = true ∧
      s.mLocked (.mma ⟨g0, 31, 0, 4, 5, 5, false, false, true⟩) = false ∧ s.reduced = false) ∧
    (mmaOf fmtReset false false 64 false = none ∧ s.readyFor (.mma ⟨g0, 63, 0, 4, 5, 6, false, false, true⟩) = true) ∧
    (ok fmtReset true true 64 (fun p => (rngFault (mmaGRanges p 8 0 0 0)).isNone) = true ∧
      s.mLocked (.mmaG ⟨g0, 63, 0, 5, 5, 5, true, true, 7⟩) = false) ∧
    (wldFault false 0 0 64 = none ∧ wldFault true 0 0x1FFFFE 4096 = none ∧ s.mLocked (.wld ⟨g0, 0, 5, 5, 6, false⟩) = false) ∧
    ((0x1FF000 : Nat) + 4096 ≤ 2 ^ 21 ∧ 0x1FF000 % 4096 = 0) ∧
    (run (withS [(4, 64)])).readyFor (.zld ⟨g0, 63, 3, 4⟩) = true ∧ (64 : Nat) + 4096 ≤ 2 ^ 21 ∧ 64 % 4096 ≠ 0 ∧
    (0x1FFE00 : Nat) + zstBytes ⟨g0, 7, 3, 4, 3⟩ ≤ 2 ^ 21 ∧ 0x1FFE00 % zstBytes ⟨g0, 7, 3, 4, 3⟩ = 0 ∧
    fmtSto fmtReset = false ∧ s.core.eng.mq = [] := by and_intros <;> decide +kernel

theorem meets_MatrixEngineSteps :
    let m := fun (i : Instr) => ({ i := i, c := 64 } : MOp)
    let s := fun (i : Instr) => run fun c => { c with eng := { c.eng with mq := [m i] } }
    let z : Instr := .zclr ⟨g0, 0, 255⟩
    let w : Instr := .wld ⟨g0, 0, 4, 5, 6, false⟩
    ((s z).coreAt 0).eng.mq = [m z] ∧ (m z).ran = false ∧ (m z).ends ≤ ((s z).coreAt 0).elapsed ∧ ((s z).coreAt 0).sourcesIn (m z) = true ∧
    ((s w).coreAt 0).sourcesIn (m w) = true ∧ ((s z).coreAt 0).held .matrix = false ∧ (m z).wldPending = none ∧
    ((s w).coreAt 0).eng.mq = [m w] ∧ (m w).wldPending ≠ none ∧ ((s w).coreAt 0).spadBad = [] ∧ ((s w).coreAt 0).wbuf.wf = true ∧
    (m w).done = 0 ∧ (m w).c % 64 = 0 ∧ badIn ((s z).coreAt 0).spadBad 0 4096 = none := by
  and_intros <;> decide +kernel

theorem meets_MatrixProduct :
    let i : Instr := .mma ⟨g0, 31, 0, 4, 5, 6, false, false, true⟩
    let m : MOp := { i := i, fmt := fmtReset, beats := 32 }
    let c : Core := { Core.reset with eng := { mq := [m] } }
    let int : Word := BitVec.ofNat 64 (7 * 2 ^ 59 + 7 * 2 ^ 54 + 2 ^ 53)
    c.eng.mq = [m] ∧ m.ran = false ∧ m.ends ≤ c.elapsed ∧ c.sourcesIn m = true ∧ (mmaOf m.fmt false false m.beats false).isSome = true ∧ c.badOf m.track = none ∧
    (match mmaOf m.fmt false false m.beats false with
      | some g => (c.mmaB g false m.b).isOk && !g.int && decide (g.kb = 1)
      | none => false) = true ∧
    (match mmaOf int false false 32 false with
      | some g => (c.mmaB g false 0).isOk && g.int && decide (g.kb = 1)
      | none => false) = true := by
  and_intros <;> decide +kernel

/-! ### Engines -/

theorem meets_CopyAndHashCommands :
    let s := run (withS [(4, 0), (5, 64), (6, 0x200001)])
    let n := nameOf 1 0x150 0 0 3 0 0 0
    let m := run fun c => { withS [(4, 0x40), (5, 0x1FFF80)] c with spad := laid 64 (toBytes 16 n.toNat) }
    (s.core.eng.cps.length < 4 ∧ s.rangeLeaves .vm (2 ^ 57 - 64) 64 = false ∧ s.rangeLeaves .loc 0x1FFFC0 64 = false ∧
      overlaps 0 64 64 64 = false) ∧
    ((0x200001 : Nat) > 2097152 ∧ s.readyFor (.cp ⟨g0, 4, 5, 6, .loc, .vm⟩) = true) ∧
    (m.storedName 0x40 = .ok n ∧ m.homeDesc n = some desc0 ∧ scratchCheck 0x1FFF80 (tileBytes desc0) = none) ∧
    ((0x100 : Nat) / 256 % 256 = 1 ∧ s.rankReaches 0 0x40 64 = true ∧ s.rangeLeaves .loc 0x40 64 = false ∧ 0x40 % 64 = 0) ∧
    (s.core.eng.cps = [] ∧ s.core.eng.shadow = [] ∧ s.core.eng.hashes = []) ∧
    ((0x1FFF80 : Nat) % 128 = 0 ∧ 0x1FFF80 + 128 ≤ 2 ^ 21) ∧ s.readyFor (.hashCrc ⟨g0, 4, 6, 6, true⟩) = true := by
  and_intros <;> decide +kernel

theorem meets_EngineCommandsAndHolds :
    let e := fun (x : Engines) => run fun c => { c with eng := x }
    let crc : HashCmd := .crc 0 (some (.s 3)) 64 128
    let sha : HashCmd := .sha true true 128 0 128
    let cp : CpCmd := { kind := .cp .loc .loc, d := 0x1FFFC0, a := 64, n := 64 }
    let l : Shadow := { eng := .hash, sp := .loc, addr := 128, data := [1] }
    let h : Hold := { eng := .matrix, cause := dataFault, addr := 64 }
    ((e { hashes := [(0, crc)] }).core.eng.hashes ≠ [] ∧ (e { hashes := [(0, crc)] }).core.held .hash = false ∧
      (e { hashes := [(0, crc)] }).core.behind 0 [(.loc 64, 128)] false = false ∧
      ((e { hashes := [(0, crc)] }).engineRead .hash 64 128).isOk = true) ∧
    ((e { hashes := [(0, sha)] }).core.behind 0 [(.loc 0, 128), (.loc 128, 128)] false = false ∧
      ((e { hashes := [(0, sha)] }).engineRead .hash 0 128).isOk = true) ∧
    (((e { cps := [cp] }).coreAt 0).held .copy = false ∧ cp.done < cp.n ∧ (e { cps := [cp] }).producerWaits cp = false ∧
      (e { cps := [cp] }).core.behind cp.no [(.loc 64, 64)] false = false ∧ (e { cps := [cp] }).core.spadBad = [] ∧
      ((e { cps := [cp] }).cpLine cp).2 = .ok) ∧
    ((e { shadow := [l] }).commits 0 0 l = true ∧ l.sp = .loc ∧ l.eng ≠ .copy ∧ l.tag = false) ∧
    (let f := run fun c => { c with spadBad := [64], eng := { hashes := [(0, crc)] } };
      (f.coreAt 0).busy = true ∧ (f.coreAt 0).engineHeld .hash = false ∧ f.msgOpen 0 = true ∧ (f.engineStop 0 .hash).2.isSome = true) ∧
    (let f := run fun c => { c with cycle := 0x100000, eng := { holds := [h] } };
      (f.coreAt 0).eng.holds.find? (·.posted) = some h ∧ ((f.coreAt 0).eng.holds.find? fun h => h.eng = .matrix) = some h ∧
        f.levelOf (f.coreAt 0).task = some level0 ∧ h.since + 2 ^ (level0.hold + 12) ≤ (f.coreAt 0).cycle.toNat) ∧
    (let x : State := { State.reset with parts := [(0, { part0 with launches := [(1, { launch0 with hold := some 2 })] })] };
      x.launchOf 0 1 = some { launch0 with hold := some 2 } ∧ launch0.reached = false ∧ x.msgOpen 0 = true ∧ x.launchRunners 0 1 = []) := by
  and_intros <;> decide +kernel

/-! ### Celadon -/

theorem meets_CeladonInstructions :
    let slot := fun (st : SlotSt) => running.setSlot 0 3 { st := st, part := 0, launch := 1 }
    let full := (List.range 4).foldl (fun s n => s.setSlot 0 n { st := .ready }) running
    let run2 := (slot .ready).onCore fun c => { c with lcs := 7 }
    (running.core.eng.lcs = [] ∧ running.core.eng.shadow = [] ∧
      ((List.range 4).find? fun n => (running.fabSlot running.myCluster n).st = .empty) = some 0 ∧
      ((List.range 4).find? fun n => (full.fabSlot full.myCluster n).st = .empty) = none) ∧
    (((slot .open_).slotArg 3 [.open_]).isSome = true ∧ scratchCheck 0x1FFFC0 64 = none ∧ (slot .open_).slotBusy 3 false = false ∧
      (slot .open_).slotBusy 3 true = false ∧ (slot .open_).core.behind 0 [(.loc 0x1FFFC0, 64)] false = false) ∧
    ((slot .open_).slotArg 2 [.open_] = none ∧ (slot .open_).readyFor (.lcCtxCommit ⟨g0, 4, 5, 6⟩) = true) ∧
    (((slot .poisoned).slotArg 3 [.ready, .poisoned]).isSome = true) ∧ (3 : Word).toNat < 4 ∧
    (running.core.eng.lcs.length < 4 ∧ rngFault [{ a := 0x1FE800, n := 384 * 16 }, { a := 64 * 0x7FFF, n := 16 }] = none) ∧
    running.readyFor (.lcTbl ⟨g0, 4, 5, 6, 0⟩) = true ∧
    (bitOf run2.core.lcs 2 = true ∧ (run2.slotArg 3 [.ready, .poisoned]).isSome = true ∧
      (let b := BitVec.ofNat 64 (4095 * 2 ^ 16 + 1 * 2 ^ 32 + 1);
        field b 45 3 = 0 ∧ field b 28 4 = 0 ∧ field b 11 5 = 0 ∧ field b 16 12 + field b 32 13 ≤ 4096 ∧ 1 ≤ field b 0 11)) ∧
    (field (1023 : Word) 10 22 = 0 ∧ (field (1023 : Word) 0 10 + 1) * 1 ≤ 1024 ∧ field (4095 : Word) 12 20 = 0 ∧
      field (BitVec.ofNat 64 (4095 * 2 ^ 16)) 12 4 = 0 ∧ (field (BitVec.ofNat 64 (4095 * 2 ^ 16)) 16 12 + 1) ≤ 4096) := by
  and_intros <;> decide +kernel

theorem meets_CeladonFabric :
    let slot := fun (f : FabSlot) => running.setSlot 0 3 f
    let e := fun (x : Engines) => run fun c => { c with eng := x }
    (((slot { st := .ready }).fabSlot 0 3).st = .ready ∧ (slot { st := .ready }).msgOpen ((slot { st := .ready }).fabSlot 0 3).part = true ∧ (4095 : Nat) < 4096) ∧
    (((slot { st := .poisoned }).fabSlot 0 3).st = .poisoned ∧ (({ st := .poisoned } : FabSlot).rewrite []).mended = false) ∧
    wiringOk (running.clusterAt 0) [] = true ∧
    (((e { lcs := [(0, .pop 0 0 1 1 1)] }).coreAt 0).held .celadon = false ∧ ((e { lcs := [(0, .pop 0 0 1 1 1)] }).coreAt 0).eng.lcs.head?.isSome = true ∧
      LcCmd.isTbl (.pop 0 0 1 1 1) = false ∧ LcCmd.isRun (.pop 0 0 1 1 1) = false) := by and_intros <;> decide +kernel

theorem meets_CeladonRepair :
    let f : FabSlot := { st := .poisoned, badCell := 7, placed := some (sha512 (placedBytes [])) }
    let g := f.rewrite [(7, 0)]
    g.mended = true ∧ f.placed = some (sha512 (placedBytes g.cells)) := ⟨rfl, rfl⟩
/-! ### The scheduler -/

def linst0 : LInst := { launch := 1, level := 1, path := [0, 0, 0, 0, 0, 0, 0], idx := 0, dom := 4, no := 0, ready := true, shares := [(0, 256)] }

/-- Core 0 is idle, and a record of its share is READY. -/
def idle : State :=
  { running with
    core := { Core.reset with utlb := [tlb0 false 0x10000], region := some (0, 1, 0x10000) }
    parts := [(0, { part0 with linsts := [linst0] })]
    recs := [(0x2000, { rec0 with addr := 0x2000, st := 1, prio := 3 })]
    clusters := [(0, { Cluster.reset with stage := 5, ready := [0x2000], cycle := 65536 })] }

theorem meets_TaskSchedulingAndFiring :
    let r : Rec := { rec0 with addr := 0x2000, st := 1, prio := 3 }
    let q := run fun c => { c with elapsed := 4096 }
    let p := run fun c => { c with pre := .supervisor }
    let e : Entry := { launch := 1, part := 0, tmpl := 0, colour := 0, gen := 0, i := 0, j := 0, k := 0, sat := 0xFF }
    ((idle.coreAt 0).busy = false ∧ idle.coreOpen 0 = true ∧ idle.pick 0 = some r ∧ idle.offers 0 = [r]) ∧
    (r.ctxv = false ∧ (idle.tmplOf { r with st := 2, prio := idle.levelPrio r }).isSome = true) ∧ (running.coreAt 0).busy = true ∧
    (q.focus 0 = q ∧ q.quantumOut = true ∧ q.core.busy = true ∧ q.atBoundary = true ∧ q.feAnswered = false ∧
      q.completing = false ∧ q.yielding = false ∧ q.withdrawFe.settled = true ∧ q.withdrawFe.frameWaits = false ∧
      (q.withdrawFe.withdrawClose.suspendHere 5 1 false).core.busy = false) ∧
    (p.core.pre = .supervisor ∧ p.withdrawFe.settled = true ∧ (p.withdrawFe.withdrawClose.suspendHere 6 7 true).core.busy = false) ∧
    ((idle.modCluster 0 fun c => { c with mstore := [e] }).clusterAt 0).mstore[0]? = some e ∧ (idle.clusterAt 0).mstore[0]? = none ∧
    (idle.recAt 0x2000 = some r ∧ 0x2000 ∈ (idle.clusterAt 0).ready ∧ r.since + 65536 ≤ (idle.clusterAt 0).cycle ∧ r.prio < 6) ∧
    (({ idle with recs := [(0x2000, { r with prio := 6 })] } : State).recAt 0x2000).map (·.prio) = some 6 := by
  and_intros <;> first | rfl | decide +kernel

theorem freeRec_of_none (s : State) (q n i : Nat) (h : ∀ a, s.recLive a = false) : (s.freeRec q (n + 1) i).isSome = true := by
  simp [State.freeRec, h]

theorem meets_InstanceFires :
    let e : Entry := { launch := 1, part := 0, tmpl := 0, colour := 0, gen := 0, i := 0, j := 0, k := 0, sat := 0xFF, order := some 0 }
    let s : State := { (idle.modCluster 0 fun c => { c with mstore := [e], ready := [] }) with recs := [] }
    let y := firedRec 0 0 0 launch0 tmpl0 level0 linst0 e
    (s.launchOf 0 1 = some launch0 ∧ launch0.levelEntry (launch0.tmplLevel 0) = some level0 ∧ launch0.tmpls[0]? = some tmpl0 ∧
      (s.partAt 0).linst 1 1 0 = some linst0 ∧ level0.freeAreas[s.choice 1]? = some 0 ∧ launch0.ended = false ∧ launch0.hold = none ∧
      s.firstInOrder launch0 e = true ∧ s.shareOf 0 y = some 0) ∧
    (∀ i, (s.freeRec 0 65536 i).isSome = true) := by
  refine ⟨by and_intros <;> decide +kernel, fun i => freeRec_of_none _ _ _ _ fun a => ?_⟩
  rfl

theorem meets_LaunchLife :
    let part := fun (f : Part → Part) => ({ idle with parts := [(0, f (idle.partAt 0))], recs := [] } : State)
    let waits := part fun x => { x with linsts := [{ linst0 with ready := false }] }
    let gone := part fun x => { x with launches := [(1, { launch0 with ended := true })] }
    let lost := part fun x => { x with linsts := [{ linst0 with no := 9 }] }
    let one := part fun x => { x with hqs := x.hqs.filter fun q => q.1 = 0 }
    (one.launchQueues 0 false = [0] ∧ one.choice 1 = 0 ∧ one.chosen 1 = one ∧ (one.hqAt 0 0).en = true ∧
      (one.partAt 0).agents = false ∧ (one.hqHead 0 0).2 = some (List.replicate 64 7)) ∧
    ((((one.hqPop 0 0).drainPosts 0 0).takeLaunch 0 false (List.replicate 64 7)).isSome = true) ∧
    ((waits.partAt 0).linst 1 1 0 = some { linst0 with ready := false } ∧ waits.launchOf 0 1 = some launch0 ∧ launch0.ended = false ∧
      launch0.top ≤ 1 ∧ launch0.levelEntry 1 = some level0 ∧ level0.costart = false ∧
      waits.domInstances 0 4 ((waits.partAt 0).enclosing { linst0 with ready := false }) = [0] ∧ waits.choice 1 = 0 ∧ waits.chosen 1 = waits ∧
      (waits.placeOne 0 launch0 { linst0 with ready := false } (rotated [0] 0)).isSome = true) ∧
    (gone.launchOf 0 1 = some { launch0 with ended := true } ∧ gone.mayRetire 0 1 { launch0 with ended := true } = true) ∧
    (idle.launchOf 0 1 = some launch0 ∧ idle.mayRetire 0 1 launch0 = false) ∧
    ((lost.partAt 0).linst 1 1 0 = some { linst0 with no := 9 } ∧ lost.launchOf 0 1 = some launch0 ∧
      lost.instCores 0 { linst0 with no := 9 } = [] ∧ (lost.domInstances 0 4 none).filter (fun no => no ≠ 9) = [0] ∧
      lost.qualifies 0 launch0 { linst0 with no := 0 } = true ∧ (lost.settleInst 0 launch0 { linst0 with no := 9 } 0).isSome = true ∧
      ((lost.settleInst 0 launch0 { linst0 with no := 9 } 0).bind fun r => r.1.rehome 0 launch0 { linst0 with no := 9 } r.2).isSome = true) ∧
    (let none_ : State := { lost with clusters := [] };
      none_.instCores 0 { linst0 with no := 9 } = [] ∧ (none_.domInstances 0 4 none).filter (fun no => no ≠ 9) = []) := by
  and_intros <;> decide +kernel

/-- A data packet of partition 0 under `name0`. -/
def pkt0 : Packet := { name := withTenant name0 1, size := 1, data := List.replicate 128 3 }

theorem meets_DeliveriesAndMarkers :
    let c := fun (f : Cluster → Cluster) => running.modCluster 0 f
    let box := c fun c => { c with inbox := [(pkt0, .core 0)] }
    let tagged := c fun c => { c with inbox := [({ pkt0 with etag := true }, .core 0)] }
    let e : Entry := { launch := 1, part := 0, tmpl := 0, colour := 0, gen := 0, i := 0, j := 0, k := 0, sat := 0xFF }
    let g := { running.ownReg name0 0 7 none with no := 4 }
    let reg := c fun c => { c with regs := [g] }
    let x : Packet × Endpoint := ({ pkt0 with copies := some [4] }, .core 0)
    (box.deliverable 0 false = [((pkt0, .core 0), 0)] ∧ box.choice 1 = 0 ∧ box.chosen 1 = box ∧ pkt0.copies = none ∧
      (running.clusterAt 0).inHand pkt0 = false ∧
      (match running.takeDelivery 0 (pkt0, .core 0) with
        | .done _ => true
        | _ => false) = true) ∧
    ((match reg.takeDelivery 0 (pkt0, .core 0) with
        | .split p => p.copies
        | _ => none) = some [4]) ∧
    ((reg.clusterAt 0).copiesOf x.1 = [g] ∧ reg.staleColour x.1 = false ∧ reg.behindHeld 0 (reg.clusterAt 0).heldIn (copyFor x g).1 = false ∧
      (reg.arriveReg 0 g x.1.plain).isSome = true) ∧
    ((c fun c => { c with heldIn := [x] }).clusterAt 0).inHand pkt0 = true ∧
    tagged.deliverable 0 true = [(({ pkt0 with etag := true }, .core 0), 0)] ∧
    (((c fun c => { c with filter := [⟨0, 0, 0⟩, ⟨0, 1, 9⟩] }).clusterAt 0).filter.map (·.due)) = [0, 9] ∧
    running.staleColour { pkt0 with name := nameOf 1 0x150 7 0 0 0 0 0 } = true ∧
    (let m : Packet × Endpoint := ({ pkt0 with name := nameOf 1 0x150 0 0 0 0 0 1 }, .core 0);
      ((c fun c => { c with markers := [m] }).clusterAt 0).markers = [m] ∧ ((c fun c => { c with markers := [m] }).markOne 0 0 m).isSome = true ∧
      (((c fun c => { c with markers := [m] }).modCluster 0 fun c => { c with markers := [] }).markCopies 0 m.1).2 = []) ∧
    (((c fun c => { c with drainQ := [e] }).clusterAt 0).drainQ[0]? = some e ∧ running.hasTask e = true ∧
      running.hasTask { e with i := 1 } = false ∧ running.entryOf 0 { e with i := 1 } = none ∧ running.launchOf 0 1 = some launch0) := by and_intros <;> decide +kernel

/-! ### The network -/

theorem meets_RoutersAndTransport :
    let g : Flight := { at_ := 0, from_ := 3, down := false, sender := .core 0, goal := 0, route := [], pkt := pkt0 }
    let x : CFlit := { at_ := 0, from_ := 3, sender := .core 0, pkt := { pkt0 with cls := 2, circ := 5 }, idx := 0 }
    let entry : BitVec 16 := BitVec.ofNat 16 (2 ^ 15 + 3 * 2 ^ 11 + 5)
    let circ : State := { running with cflits := [x], routers := [(0, { slots := [[], [entry]] }), (neighbour 0 1, { part := some 0 })] }
    let a : Addressed := { at_ := 0, part := 0, route := 0x5210602000000000 }
    let done : Addressed := { a with hops := 5 }
    (({ running with flights := [g] } : State).movable 0 = [(g, 0)] ∧ running.movable 0 = [] ∧ running.choice 1 = 0) ∧
    ((circ.circReady 0 3 5) = some (x, 0) ∧ circ.flitHeld 0 1 x = false ∧ circ.flitHeld 0 4 x = false ∧
      ((circ.routerAt 0).slotFor 3 5).isSome = true) ∧
    ((circ.routerAt (neighbour 0 1)).stops (oppPort 1) 0 = false ∧ circ.stitchFull 0 1 x = false ∧ circ.recvFull 0 x = false) ∧
    ((({ running with addressed := [a] } : State).addressed.findIdx? fun a => a.at_ = 0 && a.out.isNone) = some 0 ∧
      running.reloading 1 0 = false ∧ routePorts a.route = some [1, 1, 1, 0, 0] ∧ (running.routerAt 0).stops 9 0 = false ∧
      [1, 1, 1, 0, 0][done.hops]? = none) := by
  and_intros <;> decide +kernel

theorem meets_AcknowledgementsAndSlices :
    let x : Kept := { owner := .core 0, dest := none, pkt := { pkt0 with src := 9, seq := 4 }, due := 0 }
    let k : Ack := { owner := .core 0, src := 9, seq := 4, dest := none }
    let up : Ack := { k with at_ := some (0, 1), name := pkt0.name }
    let c := fun (f : Cluster → Cluster) => running.modCluster 0 f
    let y : Combine := { slice := 0, name := pkt0.name, part := 0, cop := 0, c := some 3 }
    (let s : State := { running with acks := [k], kept := [x] };
      s.acks[0]? = some k ∧ k.at_ = none ∧ s.kept.findIdx? k.of = some 0 ∧ s.kept[0]? = some x ∧ (s.partAt 0).namedHeld = false ∧
        x.due ≤ s.clockOf x.owner ∧ ([] : List Kept).findIdx? k.of = none) ∧
    (let s : State := { running with acks := [up], kept := [x], parts := [(0, { part0 with slices := [(0, 0)] })] };
      s.acks[0]? = some up ∧ (s.goalOf 0 up.name).isSome = true ∧ s.ackStale up = false) ∧
    (({ running with kept := [{ x with due := 1 }] } : State).clockOf x.owner < 1) ∧
    ((c fun c => { c with pubs := [(0, pkt0)] }).clusterAt 0).pubs = [(0, pkt0)] ∧
    (((c fun c => { c with pubs := [] }).rendezvous 0 0 pkt0).isSome = true) ∧
    (let s := c fun c => { c with retained := [{ slice := 0, pkt := pkt0, due := 0, home := true }] };
      (s.clusterAt 0).retained.length = 1 ∧ s.treeOpen 0 0 pkt0 = false) ∧
    (let s := c fun c => { c with contribs := [pkt0], combines := [y] };
      (s.clusterAt 0).contribs = [pkt0] ∧ pkt0.etag = false ∧ pkt0.badData = false ∧ (s.clusterAt 0).combineOf 0 pkt0.name = some y ∧
        y.bad = false ∧ y.c.isSome = true) ∧
    (let s := c fun c => { c with combines := [{ y with published := true }] };
      (s.clusterAt 0).combines[0]? = some { y with published := true } ∧ y.kept = true ∧ y.due ≤ (s.clusterAt 0).cycle) := by
  and_intros <;> decide +kernel

theorem meets_HomesAndMirrors :
    let g := { running.ownReg name0 0 7 none with no := 4 }
    let reg : State := { (running.modCluster 0 fun c => { c with regs := [g] }) with regFl := [(0, 4)] }
    let fetch : State := { running with fetches := [(0, pkt0.name, desc0)] }
    let u := { pkt0 with src := 5 }
    let m : Mirror := { prim := pkt0.name, out := pkt0.name, fmt := 8, tol := 0, a := some u, b := some { pkt0 with src := 6 } }
    (reg.regFl[0]? = some (0, 4) ∧ ((reg.clusterAt 0).regs.find? fun g => g.no = 4) = some g) ∧
    (fetch.fetches[0]? = some (0, pkt0.name, desc0) ∧ descHome desc0 = 1) ∧
    (({ running with writes := [{ pkt0 with desc := some desc0 }] } : State).writes[0]? = some { pkt0 with desc := some desc0 }) ∧
    (m.a = some u ∧ m.b.isSome = true ∧ mirrorDiff m u { pkt0 with src := 6 } = none) ∧
    (let late : State := { (running.modCluster 0 fun c => { c with cycle := 0x100000 }) with parts := [(0, { part0 with slices := [(0, 0)], mirrors := [{ m with b := none }] })] };
      (late.partAt 0).mirrors[0]? = some { m with b := none } ∧ m.reported = false ∧ late.rendSlice 0 m.prim = some (0, 0) ∧
        m.since + late.wafer.mirWait ≤ (late.clusterAt (((late.rendSlice 0 m.prim).map (·.1)).getD 0)).cycle) := by
  and_intros <;> decide +kernel

theorem meets_SubscriptionRegister :
    let g := { running.ownReg name0 0 7 none with no := 4 }
    let s : State := { running with parts := [(0, { part0 with slices := [(0, 0)] })] }
    s.pathOpen g = true ∧ (s.installReg g).isSome = true := by and_intros <;> decide +kernel

theorem meets_RemoteForward :
    let d := BitVec.ofNat 256 (2 ^ 255 + 2 * 2 ^ 253 + 7 * 2 ^ 64)
    let s : State := { running with wafer := { running.wafer with bolsar := [(7, BitVec.ofNat 64 (2 ^ 63 + 2 ^ 32 + 2 ^ 3))] } }
    descHome d = 2 ∧ descWafer d = 7 ∧ s.bolsarPort 0 7 (nameStem name0) = some 3 := by
  refine ⟨by decide +kernel, by decide +kernel, ?_⟩
  have h : ∀ n : Nat, ([3] : List Nat)[n % ([3] : List Nat).length]? = some 3 := fun n => by simp [Nat.mod_one]
  have k : ∀ s : State, bitOf (Table.get 0 s.wafer.bolsar 7) 32 = true → (7 : Nat) ≠ s.wafer.number →
      bitOf (Table.get 0 s.wafer.bolsar 7) 63 = true →
      (List.range 32).filter (fun i => bitOf (Table.get 0 s.wafer.bolsar 7) i) = [3] → s.bolsarPort 0 7 (nameStem name0) = some 3 := by
    intro s h0 hn h1 h2
    simp only [State.bolsarPort, State.portTo, h0, h1, h2, hn, h, decide_false, if_true]
    rfl
  exact k _ (by decide +kernel) (by decide +kernel) (by decide +kernel) (by decide +kernel)

/-! ### Registers of the device -/

theorem meets_PartitionRegisters :
    let cfg := BitVec.ofNat 64 (4096 * 2 ^ 32 + 256 * 2 ^ 16 + 2 ^ 12)
    let s : State := { running with parts := [(0, { part0 with
      holdNamed := true, loadBusy := true, load := { op := 1, tslot := 2, pa := 0x70000 }, keys := [(3, { state := 1, id := 9 }), (4, { state := 2, id := 8 })] })] }
    ((s.partAt 0).holdNamed = true ∧ s.namedQuiet 0 = true ∧ 4096 ≤ field cfg 32 32 ∧ 256 ≤ field cfg 16 16 ∧ field cfg 12 4 ≠ 0) ∧
    (field (0 : Word) 12 4 = 0 ∧ bitOf (0 : Word) 0 = false) ∧ (Table.get {} (s.partAt 0).keys 3).state = 1 ∧
    (Table.find (s.partAt 0).keys 4 = some { state := 2, id := 8 } ∧ s.keyBusy 8 = false) ∧ 2 ≤ field (2 : Word) 0 16 ∧
    ((running.partAt 0).loadBusy = false ∧ field (0 : Word) 56 7 = 0) ∧ ((s.partAt 0).loadBusy = true ∧ (s.partAt 0).load.op = 1) := by
  and_intros <;> decide +kernel

theorem meets_ManagementRegisters :
    let base : Nat := 0xFFE0000000000 + 5 * 0x400000
    running.portClear (some 0) = true ∧ (let b : Bar2 := { port := 0, addr := 64, write := true, data := [1], n := 1 };
      ({ running with wafer := { running.wafer with bar2 := [b] } } : State).portClear (some 0) = false) ∧
    running.inWindow 0 0 = true ∧ running.inWindow 0 4095 = true ∧ running.inWindow 0 4096 = false ∧
    (bitOf (0 : Word) 63 = false ∧ bitOf (0 : Word) 62 = false) ∧
    (let q := ({ running with parts := [(0, { part0 with hqs := [(2, { en := true, base := 0x80000 })] })] } : State).hqAt 0 2;
      q.en = true ∧ q.slice = false ∧ (field (16 : Word) 0 32 + 2 ^ 32 - q.head) % 2 ^ 32 ≤ q.cap ∧ q.count < 16) ∧
    (running.hqAt 0 9).en = false ∧
    ((running.hqAt 0 2).en = true ∧ (running.hqAt 0 2).slice = false ∧
      ((running.hqAt 0 2).tail + 2 ^ 32 - field (16 : Word) 0 32) % 2 ^ 32 ≤ (running.hqAt 0 2).cap) ∧
    ((running.partAt 0).formed = true ∧ running.portRec 0 = none) ∧
    (let s : State := { idle with parts := [(0, { part0 with recAddr := 0x2000 })] };
      (s.portRec 0).isSome = true ∧ s.runnerOf 0x2000 = none) ∧
    (running.windowCore 0 (base + 0x209308) 8 = some 5 ∧ running.windowCore 0 (base + 0x209320) 8 = some 5 ∧ (0x209308 : Nat) % 8 = 0 ∧
      (running.coreAt 5).busy = false ∧ running.windowHeld 5 = false ∧ running.windowCore 0 (0xFFE0000000000 + 0x209308) 8 = some 0 ∧
      (running.coreAt 0).busy = true ∧ running.windowCore 0 (base + 0x3FFFF8) 8 = none) ∧
    (let v := BitVec.ofNat 64 (100 * 2 ^ 32 + 32 * 2 ^ 8); 100 ≤ field v 32 32 ∧ field v 8 8 ≠ 0 ∧ field v 8 8 ≤ 32) ∧
    (40 ≤ field (40 : Word) 0 16 ∧ field (200 : Word) 0 16 ≤ 200 ∧ 200 < field (201 : Word) 0 16) ∧ (0x14 : Nat) % 8 ≠ 0 := by
  and_intros <;> decide +kernel

theorem meets_ErrorsAndReloads :
    let u := 3 * 2 ^ 20
    let r : Reload := { unit := 3, no := 0 }
    let s : State := { running with reloads := [r] }
    let q : State := { running with parts := [(0, { part0 with hqs := [(0, { en := true, slice := true, tail := 16, sbase := 0x90000, scap := 64 })] })] }
    ((running.coreAt 0).busy = true ∧ (BitVec.ofNat 64 (2 ^ 57 - 1)).toNat < 2 ^ 57) ∧ u / 2 ^ 20 ≠ 2 ∧
    (u / 2 ^ 20 ≤ 7 ∧ (running.partAt (running.regionPart 3 0)).formed = true ∧ running.reloading 3 0 = false ∧ running.msgOpen (running.regionPart 3 0) = true) ∧
    ((s.reloads.find? fun x => x.unit = u / 2 ^ 20 && x.no = u % 2 ^ 20) = some r ∧ r.fails = 0) ∧
    (({ s with reloads := [{ r with fails := 1 }] } : State).reloads.map (·.fails)) = [1] ∧ (running.partAt 7).formed = false ∧
    ((q.hqAt 0 0).en = true ∧ (q.hqAt 0 0).slice = true ∧ (q.hqAt 0 0).held = false ∧ (q.hqAt 0 0).toSpill = true ∧
      (q.hqAt 0 0).sbase ≠ 0) := by and_intros <;> decide +kernel

theorem meets_SiennaLeases :
    let s := fun (x : Core → Core) => { running with core := x { Core.reset with region := some (0, 1, 64) } }
    let prep := s fun c => { c with lease := .prepare }
    let unit := fun (ty no : Nat) (l : Lease) => ({ running with wafer := { running.wafer with units := [(unitKey ty no, { lease := l })] } } : State)
    State.reset.wafer.sienEn = true ∧ ({ Wafer.reset with sienEn := false }).sienEn = false ∧
    ((prep.coreAt 0).lease = .prepare ∧ (prep.coreAt 0).busy = false ∧ (prep.coreAt 0).region = some (0, 1, 64) ∧ (prep.spareFor 0).isSome = true) ∧
    (let full : State := { prep with others := (List.range 16).map fun i => (192 + i, { Core.reset with lease := .retired }) };
      full.spareFor 0 = none) ∧
    (let b := run fun c => { c with lease := .prepare, cycle := 4096 };
      b.leaseOf 0 0 = .prepare ∧ b.levelOf (b.coreAt 0).task = some level0 ∧ (b.coreAt 0).busy = true ∧
        (b.unitAt 0 0).since + level0.quantum ≤ (b.coreAt 0).cycle.toNat) ∧
    (unit 1 0 .prepare).leaseOf 1 0 = .prepare ∧ (unit 2 5 .prepare).leaseOf 2 5 = .prepare ∧ (unit 2 5 .retire).leaseOf 2 5 = .retire ∧
    ({ part0 with owned := [0] }).owns 5 = true ∧ (s fun c => { c with lease := .test }).leaseOf 0 0 = .test ∧
    running.serviceable 0 = true ∧ (1475 : Nat) < 1500 ∧ (1500 % 25 = 0 ∧ 1700 ≤ 1700) ∧
    (let c : Cluster := { Cluster.reset with stage := 5, plan := 1500, clock := 1500 }; 1500 = c.plan ∧ c.clock = 1500) := by
  and_intros <;> decide +kernel

/-- A link on lease, with a detour on either side that keeps clear of it, whose partition holds its circuits. -/
theorem meets_LinkDrained :
    let u := 2 ^ 14
    let up : Router := { link := 15, nbr := 15 }
    let east : Word := BitVec.ofNat 64 (3 * 2 ^ 61 + 257 * 2 ^ 45 + 129 * 2 ^ 36 + 2 ^ 27)
    let west : Word := BitVec.ofNat 64 (3 * 2 ^ 61 + 257 * 2 ^ 45 + 385 * 2 ^ 36 + 2 ^ 27)
    let s : State := { running with
      routers := [(0, { up with detour := [0, east, 0, 0] }), (1, { up with detour := [0, 0, 0, west] }), (128, up), (129, up)]
      parts := [(0, { part0 with holdCirc := true })]
      wafer := { running.wafer with units := [(unitKey 1 u, { lease := .prepare })] } }
    s.leaseOf 1 u = .prepare ∧ s.routerPart (linkRouter u) = 0 ∧ s.aroundOk 0 (linkRouter u) (linkPort u) = true ∧
      s.circQuiet 0 = true ∧ s.linkClear u = true := by and_intros <;> decide +kernel

theorem meets_BringUpAndPower :
    let q := fun (f : Cluster → Cluster) => ({ State.reset with clusters := [(0, f Cluster.reset)] } : State)
    let up : State := { q fun c => { c with stage := 1 } with
      routers := (clusterRouters 0).foldl (fun t r => Table.set t r { sent := 15 }) [] }
    (inMesh 0 1 = true ∧ (q fun c => { c with stage := 1 }).awake 0 = true ∧ inMesh 9215 0 = true) ∧
    (bitOf (up.routerAt 0).sent (3 - 1) = true ∧ up.awake (neighbour 0 1) = true ∧ (up.routerAt (neighbour 0 1)).failed = false) ∧
    (State.reset.wafer.stopped.contains 0 = false ∧ (State.reset.clusterAt 0).stage = 0 ∧ (up.clusterAt 0).stage = 1 ∧ up.greeted 0 = true) ∧
    ((q fun c => { c with stage := 2 }).clusterLost 0 = true) ∧
    (((q fun c => { c with stage := 3 }).clusterAt 0).stage = 3 ∧ (1 : Nat) ≠ 0) ∧
    ((State.reset.clusterAt 0).cap < 151 ∧ 142 * 100 < (State.reset.clusterAt 0).cap * 95) ∧
    ((0 : Nat) ∉ State.reset.wafer.stopped ∧ 16 ≤ State.reset.fieldPartition 0) ∧ 1 ∉ State.reset.wafer.portSeen ∧ 31 ∉ State.reset.wafer.linkKey ∧
    (let s : State := { State.reset with wafer := { Wafer.reset with linkKey := [31], bolsarOut := [(31, .name pkt0)] } };
      (s.wafer.bolsarOut.find? fun x => x.1 = 31) = some (31, .name pkt0) ∧ 31 ∈ s.wafer.linkKey) := by
  and_intros <;> decide +kernel

theorem meets_PartitionsAndKeys :
    let v : Word := 0x01205000
    let w := fun (f : Wafer → Wafer) => ({ running with wafer := f running.wafer } : State)
    let dis := w fun w => { w with formBusy := true, formCmd := 2, formVal := 0x02000000 }
    let key : List Byte := [1, 0, 0, 3] ++ List.replicate 84 0
    running.wafer.formBusy = false ∧ (dis.wafer.formBusy = true ∧ dis.wafer.formCmd = 2) ∧ dis.formReasons 0x02000000 false = 8 ∧
    ({ dis with parts := [(0, { part0 with launches := [] })] } : State).formReasons 0x02000000 false = 0 ∧
    running.formReasons v true ≠ 0 ∧
    ((w fun w => { w with spdm := [key] }).wafer.spdm[0]? = some key ∧ (State.reset.installCheck key).1 = 1) ∧
    (let b : Bar2 := { addr := 64, write := true, data := [1], n := 1 };
      (w fun w => { w with bar2 := [b] }).wafer.bar2[0]? = some b ∧ running.channelsUp 64 1 1 = true) := by
  and_intros <;> decide +kernel

/-- A key whose wrapped bytes unwrap (`Config.unwrap` is open) meets the hypothesis of the last clause of key installs. -/
theorem meets_KeyInstall (k : List Byte) (h : Config.unwrap (List.replicate 72 0) = some k) :
    (running.installCheck ([1, 0, 0, 3] ++ List.replicate 84 0)).1 = 0 := by
  have e : (([1, 0, 0, 3] ++ List.replicate 84 0 : List Byte).drop 16).take 72 = List.replicate 72 0 := by decide +kernel
  have c : (numAt ([1, 0, 0, 3] ++ List.replicate 84 0) 0 2 ≠ 1 || 15 < numAt ([1, 0, 0, 3] ++ List.replicate 84 0) 2 1 ||
      4096 ≤ numAt ([1, 0, 0, 3] ++ List.replicate 84 0) 8 2 || numAt ([1, 0, 0, 3] ++ List.replicate 84 0) 10 6 ≠ 0) = false := by
    decide +kernel
  unfold State.installCheck
  rw [e, h]
  simp only [c]
  rfl

/-- A formation of field (0, 0) with every check of Table 31·5 met: one of its clusters is serviceable, and the two fields
beside its stacks are up. -/
theorem meets_PartFormDone :
    let s : State := { State.reset with
      clusters := [(0, { Cluster.reset with stage := 4 })]
      routers := (clusterRouters 0).foldl (fun t r => Table.set t r { link := 15, nbr := 15 }) []
      wafer := { Wafer.reset with fieldUp := [0, 40], formBusy := true, formCmd := 1, formVal := 0x01000000 } }
    s.formReasons 0x01000000 true = 0 := by decide +kernel

end Sys2Proof.Tests
end

namespace Sys2Proof.Machine

/-! ## The home address of a tile (R60) -/

/-- R60 with each field at its bits in Table 5·3 (descriptor) and Table 5·1 (name). -/
theorem homeVa_eq_fields (d : BitVec 256) (n : Quad) :
    homeVa d n = field d 96 57 + ((field n 12 16 * field d 184 16 + field n 28 16) * field d 200 16 + field n 44 16)
      * 2 ^ (field d 249 4 + 6) := rfl

/-- Of the name, the address takes the coordinate triple alone; tenant, tensor, colour, generation and kind may differ. -/
theorem homeVa_congr {d : BitVec 256} {m n : Quad} (hk : nameK m = nameK n) (hj : nameJ m = nameJ n)
    (hi : nameI m = nameI n) : homeVa d m = homeVa d n := by
  simp only [homeVa, hk, hj, hi]

/-- Settles O13: the formula by the fields of the two tables, and the single home of a triple by `homeVa_congr`. -/
theorem homeAddress : Obligations.HomeAddress := by
  unfold Obligations.HomeAddress
  exact fun d _ _ => ⟨homeVa_eq_fields d _, homeVa_congr⟩

end Sys2Proof.Machine

namespace Sys2Proof.Machine

/-! ## Packed elements (R91, R139) -/

theorem elem_lt {k : Nat} (x : BitVec k) (w n : Nat) : elem x w n < 2 ^ w := Nat.mod_lt _ (Nat.two_pow_pos w)

theorem packElems_lt (w : Nat) (l : List Nat) : packElems w l < 2 ^ (w * l.length) := by
  induction l with
  | nil => simp [packElems]
  | cons a t ih =>
    have hlow : a % 2 ^ w < 2 ^ w := Nat.mod_lt _ (Nat.two_pow_pos w)
    calc packElems w (a :: t) < 2 ^ w * (packElems w t + 1) := by rw [packElems]; linarith
      _ ≤ 2 ^ w * 2 ^ (w * t.length) := Nat.mul_le_mul_left _ ih
      _ = 2 ^ (w * (a :: t).length) := by rw [← pow_add, List.length_cons]; ring_nf

/-- `elem` undoes `packElems`, up to the w bits that an element has. -/
theorem packElems_elem (w : Nat) {l : List Nat} {n : Nat} (h : n < l.length) :
    packElems w l / 2 ^ (w * n) % 2 ^ w = l[n] % 2 ^ w := by
  induction l generalizing n with
  | nil => exact absurd h (Nat.not_lt_zero n)
  | cons a t ih =>
    cases n with
    | zero => simp [packElems]
    | succ m =>
      have hskip : packElems w (a :: t) / 2 ^ w = packElems w t := by
        rw [packElems, Nat.add_mul_div_left _ _ (Nat.two_pow_pos w), Nat.div_eq_of_lt (Nat.mod_lt _ (Nat.two_pow_pos w)), zero_add]
      rw [Nat.mul_succ, Nat.add_comm, pow_add, ← Nat.div_div_eq_div_mul, hskip]
      exact ih (Nat.lt_of_succ_lt_succ h)

/-! ## Lanes of a vector register (Table 11·2, R139, R237) -/

/-- Table 11·2 leaves no bit of a register outside its lanes. -/
theorem Fmt.width_mul_lanes (t : Fmt) : t.width * t.lanes = 1024 := by cases t <;> rfl

/-- What a lane reads after `putAll`; a write that a later slot has overtaken does not show (R146). -/
theorem Core.putAll_lane {c : Core} {d : VReg} (h : c.overtaken .v (.v d) = false) (t : Fmt) (lat : Nat) (f : Nat → Nat)
    {n : Nat} (hn : n < t.lanes) : elem ((c.putAll t lat d f).live.v.get d) t.width n = f n % 2 ^ t.width := by
  have hfits : packElems t.width ((List.range t.lanes).map f) < 2 ^ Loc.bits (.v d) := by
    have hlt := packElems_lt t.width ((List.range t.lanes).map f)
    rwa [List.length_map, List.length_range, Fmt.width_mul_lanes] at hlt
  have hreg : ((c.putAll t lat d f).live.v.get d).toNat = packElems t.width ((List.range t.lanes).map f) := by
    unfold Core.putAll
    rw [Core.writeLoc_live h]
    exact (Regs.get_set_self ..).trans (Nat.mod_eq_of_lt hfits)
  rw [elem, field, hreg, packElems_elem _ (by simpa using hn), List.getElem_map, List.getElem_range]

/-- A mask has a bit for every lane, or pair of 4-bit elements, so m0 leaves none inactive (R139). -/
theorem laneOn_readM_zero (c : Core) (k : Slot) {t : Fmt} {n : Nat} (hn : n < t.lanes) : laneOn t (c.readM k 0) n = true := by
  have hones : c.readM k 0 = BitVec.allOnes 128 := rfl
  have hbit : (if t.width = 4 then n / 2 else n) < 128 := by
    cases t <;> simp [Fmt.lanes, Fmt.width] at hn ⊢ <;> omega
  simp only [laneOn, bitOf, hones, BitVec.getLsbD_allOnes, hbit, decide_true]

/-! ## VSEL (R246) -/

/-- What VSEL puts in lane n: mK chooses the source and masks nothing. -/
def Core.vselLane (c : Core) (f : VSel) (n : Nat) : Nat :=
  if laneOn f.t (c.readM .v f.km) n then elem (c.readV .v f.a) f.t.width n else elem (c.readV .v f.b) f.t.width n

theorem Core.vselLane_lt (c : Core) (f : VSel) (n : Nat) : c.vselLane f n < 2 ^ f.t.width := by
  unfold Core.vselLane
  split <;> exact elem_lt ..

theorem Core.vselLane_zero (c : Core) {f : VSel} (hk : f.km = 0) {n : Nat} (hn : n < f.t.lanes) :
    c.vselLane f n = elem (c.readV .v f.a) f.t.width n := by
  rw [Core.vselLane, hk, if_pos (laneOn_readM_zero c .v hn)]

theorem exec_vsel (f : VSel) (s : State) :
    exec (.vsel f) s = s.compute (.vsel f) fun c => c.putAll f.t 1 f.d (c.vselLane f) := rfl

theorem vsel_completes (f : VSel) (s : State) : Completes (.vsel f) s (s.core.putAll f.t 1 f.d (s.core.vselLane f)) :=
  fun h => (exec_vsel f s).trans (compute_ready h)

/-- Settles O14: the part writes `vselLane` over the whole register (`putAll_lane`), and under m0 every selector bit is set. -/
theorem vselLanes : Obligations.VselLanes := by
  unfold Obligations.VselLanes
  intro f s
  refine ⟨_, vsel_completes f s, fun hfree n hn => ?_⟩
  have hlane : elem ((s.core.putAll f.t 1 f.d (s.core.vselLane f)).live.v.get f.d) f.t.width n = s.core.vselLane f n :=
    (Core.putAll_lane hfree _ _ _ hn).trans (Nat.mod_eq_of_lt (s.core.vselLane_lt f n))
  exact ⟨hlane, fun hk => hlane.trans (s.core.vselLane_zero hk hn)⟩

end Sys2Proof.Machine

namespace Sys2Proof.Machine

/-! ## LC.CTX.COMMIT (R371) -/

/-- The order of R371: the rejection outranks the digest, and the digest the wiring. -/
theorem commitStatus_order (cl : Cluster) (x : FabSlot) (expect : List Byte) :
    commitStatus cl x expect =
      if x.rej.isSome = true then 2 else if sha512 x.msg ≠ expect then 1 else if wiringOk cl x.cells = false then 3 else 0 := by
  simp only [commitStatus, Bool.not_eq_true']

/-- The machine that a commit of x, the slot that rA names, leaves when it writes this status: 0 makes the slot READY, and
rD takes the status. -/
def State.committed (s : State) (f : EDAB) (x : FabSlot) (status : Nat) : State :=
  (if status = 0 then s.setSlot s.myCluster (s.core.readS .e f.a).toNat { x with st := .ready } else s).onCore
    fun c => c.writeS .e 1 f.d (BitVec.ofNat 64 status)

/-- COMMIT completes once no earlier command of the core is at the fabric, the slot is an owned OPEN one that nobody loads,
and the 64 bytes of the expected digest lie in the scratchpad, are settled and hold no uncorrectable word (R371, R384). -/
theorem lcCtxCommit_becomes {f : EDAB} {s : State} {x : FabSlot} (hidle : s.core.eng.lcs = [])
    (hslot : s.slotArg (s.core.readS .e f.a) [.open_] = some x) (hplace : scratchCheck (s.core.readS .e f.b) 64 = none)
    (hbusy : s.slotBusy (s.core.readS .e f.a).toNat false = false)
    (hsettled : s.core.behind s.stamp [(.loc (s.core.readS .e f.b).toNat, 64)] false = false)
    (hsound : badIn s.core.spadBad (s.core.readS .e f.b).toNat 64 = none) :
    Becomes (.lcCtxCommit f) s (s.committed f x
      (commitStatus (s.clusterAt s.myCluster) x (s.core.spadGet (s.core.readS .e f.b).toNat 64))) := by
  intro hready
  refine issue_done hready ?_
  simp only [hidle, hslot, hplace, hbusy, hsettled, hsound, List.isEmpty_nil, Bool.not_true, Bool.or_false, Bool.false_eq_true,
    if_false, State.committed]

end Sys2Proof.Machine

/-! The obligation's theorem takes its name in a namespace of its own: `Machine.commitStatus` is the model's function. -/

namespace Sys2Proof.Laws.ContextCommit

open Sys2Proof.Machine

/-- Settles O15: COMMIT completes as `committed`, whose status `commitStatus_order` writes out. -/
theorem commitStatus : Obligations.CommitStatus := by
  unfold Obligations.CommitStatus
  intro g s x r n cl expect status hidle hslot hplace hbusy hsettled hsound
  have hdone := lcCtxCommit_becomes hidle hslot hplace hbusy hsettled hsound
  rw [commitStatus_order] at hdone
  exact hdone

end Sys2Proof.Laws.ContextCommit

namespace Sys2Proof

/-! ## Bit fields of a packed word -/

theorem bitAt_of_mod {x lo : Nat} {l : Bool} (h : x / 2 ^ lo % 2 = l.toNat) : bitAt x lo = l := by
  cases l <;> simp_all [bitAt, bitsAt]

theorem fin_ofNat_of_mod {n : Nat} [NeZero n] {x : Nat} {i : Fin n} (h : x % n = i.val) : Fin.ofNat n x = i := Fin.ext h

theorem bitVec_ofNat_of_mod {n x : Nat} {v : BitVec n} (h : x % 2 ^ n = v.toNat) : BitVec.ofNat n x = v :=
  BitVec.eq_of_toNat_eq ((BitVec.toNat_ofNat x n).trans h)

/-! ## The head of a slot (Table 9·3) -/

theorem Guard.code_lt (g : Guard) : g.code < 32 := by
  have hneg := Bool.toNat_le g.neg
  have hp := g.p.isLt
  unfold Guard.code
  omega

@[simp] theorem guardOf_code (g : Guard) : guardOf g.code = g := by
  have hneg := Bool.toNat_le g.neg
  have hp := g.p.isLt
  simp only [guardOf, Guard.code]
  rw [bitAt_of_mod (l := g.neg) (by omega), fin_ofNat_of_mod (i := g.p) (by omega)]

theorem op_headWord48 {op body : Nat} (g : Guard) (ho : op < 256) (hb : body < 2 ^ 35) :
    bitsAt (headWord48 op g body) 40 8 = op := by
  have := g.code_lt
  simp only [bitsAt, headWord48]; omega

theorem guard_headWord48 {op body : Nat} (g : Guard) (hb : body < 2 ^ 35) :
    guardOf (bitsAt (headWord48 op g body) 35 5) = g := by
  have := g.code_lt
  have hcode : bitsAt (headWord48 op g body) 35 5 = g.code := by simp only [bitsAt, headWord48]; omega
  rw [hcode, guardOf_code]

theorem op_headWord64 {op body : Nat} (g : Guard) (ho : op < 256) (hb : body < 2 ^ 51) :
    bitsAt (headWord64 op g body) 56 8 = op := by
  have := g.code_lt
  simp only [bitsAt, headWord64]; omega

theorem guard_headWord64 {op body : Nat} (g : Guard) (hb : body < 2 ^ 51) :
    guardOf (bitsAt (headWord64 op g body) 51 5) = g := by
  have := g.code_lt
  have hcode : bitsAt (headWord64 op g body) 51 5 = g.code := by simp only [bitsAt, headWord64]; omega
  rw [hcode, guardOf_code]

/-! ## Body formats (Table 9·4): packing loses nothing, and the head does not disturb it -/

theorem packCR_lt (r : RawCR) : packCR r < 2 ^ 35 := by
  have := Bool.toNat_le r.l
  simp only [packCR]; omega

theorem packCP_lt (r : RawCP) : packCP r < 2 ^ 35 := by
  simp only [packCP]; omega

theorem packCJ_lt (r : RawCJ) : packCJ r < 2 ^ 35 := by
  simp only [packCJ]; omega

theorem packSR_lt (r : RawSR) : packSR r < 2 ^ 35 := by
  have := Bool.toNat_le r.l
  simp only [packSR]; omega

theorem packSI_lt (r : RawSI) : packSI r < 2 ^ 35 := by
  have := Bool.toNat_le r.l
  simp only [packSI]; omega

theorem packSM_lt (r : RawSM) : packSM r < 2 ^ 35 := by
  have := Bool.toNat_le r.l
  simp only [packSM]; omega

theorem packVR_lt (r : RawVR) : packVR r < 2 ^ 51 := by
  have := Bool.toNat_le r.l
  have := Bool.toNat_le r.mz
  simp only [packVR]; omega

theorem packMZ_lt (r : RawMZ) : packMZ r < 2 ^ 51 := by
  have := Bool.toNat_le r.l
  simp only [packMZ]; omega

theorem packER_lt (r : RawER) : packER r < 2 ^ 51 := by
  have := Bool.toNat_le r.l
  simp only [packER]; omega

@[simp] theorem unpackCR_pack (op : Nat) (g : Guard) (r : RawCR) : unpackCR (headWord48 op g (packCR r)) = r := by
  have hl := Bool.toNat_le r.l
  simp only [unpackCR, headWord48, packCR]
  exact (RawCR.mk.injEq ..).mpr ⟨fin_ofNat_of_mod (by omega), fin_ofNat_of_mod (by omega),
    fin_ofNat_of_mod (by omega), fin_ofNat_of_mod (by omega), bitVec_ofNat_of_mod (by omega),
    bitAt_of_mod (by omega), bitVec_ofNat_of_mod (by omega)⟩

@[simp] theorem unpackCP_pack (op : Nat) (g : Guard) (r : RawCP) : unpackCP (headWord48 op g (packCP r)) = r := by
  simp only [unpackCP, headWord48, packCP]
  exact (RawCP.mk.injEq ..).mpr ⟨fin_ofNat_of_mod (by omega), fin_ofNat_of_mod (by omega),
    fin_ofNat_of_mod (by omega), bitVec_ofNat_of_mod (by omega), bitVec_ofNat_of_mod (by omega)⟩

@[simp] theorem unpackCJ_pack (op : Nat) (g : Guard) (r : RawCJ) : unpackCJ (headWord48 op g (packCJ r)) = r := by
  simp only [unpackCJ, headWord48, packCJ]
  exact (RawCJ.mk.injEq ..).mpr ⟨bitVec_ofNat_of_mod (by omega), bitVec_ofNat_of_mod (by omega)⟩

@[simp] theorem unpackSR_pack (op : Nat) (g : Guard) (r : RawSR) : unpackSR (headWord48 op g (packSR r)) = r := by
  have hl := Bool.toNat_le r.l
  simp only [unpackSR, headWord48, packSR]
  exact (RawSR.mk.injEq ..).mpr ⟨fin_ofNat_of_mod (by omega), fin_ofNat_of_mod (by omega),
    fin_ofNat_of_mod (by omega), bitVec_ofNat_of_mod (by omega), bitAt_of_mod (by omega),
    bitVec_ofNat_of_mod (by omega)⟩

@[simp] theorem unpackSI_pack (op : Nat) (g : Guard) (r : RawSI) : unpackSI (headWord48 op g (packSI r)) = r := by
  have hl := Bool.toNat_le r.l
  simp only [unpackSI, headWord48, packSI]
  exact (RawSI.mk.injEq ..).mpr ⟨fin_ofNat_of_mod (by omega), fin_ofNat_of_mod (by omega),
    bitVec_ofNat_of_mod (by omega), bitAt_of_mod (by omega), bitVec_ofNat_of_mod (by omega)⟩

@[simp] theorem unpackSM_pack (op : Nat) (g : Guard) (r : RawSM) : unpackSM (headWord48 op g (packSM r)) = r := by
  have hl := Bool.toNat_le r.l
  simp only [unpackSM, headWord48, packSM]
  exact (RawSM.mk.injEq ..).mpr ⟨fin_ofNat_of_mod (by omega), fin_ofNat_of_mod (by omega),
    fin_ofNat_of_mod (by omega), bitVec_ofNat_of_mod (by omega), bitAt_of_mod (by omega),
    bitVec_ofNat_of_mod (by omega)⟩

@[simp] theorem unpackVR_pack (op : Nat) (g : Guard) (r : RawVR) : unpackVR (headWord64 op g (packVR r)) = r := by
  have hl := Bool.toNat_le r.l
  have hmz := Bool.toNat_le r.mz
  simp only [unpackVR, headWord64, packVR]
  exact (RawVR.mk.injEq ..).mpr ⟨fin_ofNat_of_mod (by omega), fin_ofNat_of_mod (by omega),
    fin_ofNat_of_mod (by omega), fin_ofNat_of_mod (by omega), fin_ofNat_of_mod (by omega), bitAt_of_mod (by omega),
    bitVec_ofNat_of_mod (by omega), bitVec_ofNat_of_mod (by omega), bitAt_of_mod (by omega),
    bitVec_ofNat_of_mod (by omega)⟩

@[simp] theorem unpackMZ_pack (op : Nat) (g : Guard) (r : RawMZ) : unpackMZ (headWord64 op g (packMZ r)) = r := by
  have hl := Bool.toNat_le r.l
  simp only [unpackMZ, headWord64, packMZ]
  exact (RawMZ.mk.injEq ..).mpr ⟨bitVec_ofNat_of_mod (by omega), fin_ofNat_of_mod (by omega),
    fin_ofNat_of_mod (by omega), fin_ofNat_of_mod (by omega), fin_ofNat_of_mod (by omega),
    fin_ofNat_of_mod (by omega), bitVec_ofNat_of_mod (by omega), bitAt_of_mod (by omega),
    bitVec_ofNat_of_mod (by omega)⟩

@[simp] theorem unpackER_pack (op : Nat) (g : Guard) (r : RawER) : unpackER (headWord64 op g (packER r)) = r := by
  have hl := Bool.toNat_le r.l
  simp only [unpackER, headWord64, packER]
  exact (RawER.mk.injEq ..).mpr ⟨bitVec_ofNat_of_mod (by omega), fin_ofNat_of_mod (by omega),
    fin_ofNat_of_mod (by omega), fin_ofNat_of_mod (by omega), fin_ofNat_of_mod (by omega),
    bitVec_ofNat_of_mod (by omega), bitAt_of_mod (by omega), bitVec_ofNat_of_mod (by omega)⟩

end Sys2Proof

namespace Sys2Proof

/-! ## Codes and small fields -/

theorem toNat_ofX8 (n : Nat) : (ofX8 n).toNat = n % 256 := BitVec.toNat_ofNat n 8

@[simp] theorem scopeOf_code (c : Scope) : scopeOf c.code = some c := by cases c <;> rfl
@[simp] theorem spaceOf_code (c : Space) : spaceOf c.code = some c := by cases c <;> rfl
@[simp] theorem fmtOf_code (c : Fmt) : fmtOf c.code = some c := by cases c <;> rfl
@[simp] theorem nameFieldOf_code (c : NameField) : nameFieldOf c.code = some c := by cases c <;> rfl
@[simp] theorem icondOf_code (c : ICond) : icondOf c.code = some c := by cases c <;> rfl
@[simp] theorem fcondOf_code (c : FCond) : fcondOf c.code = some c := by cases c <;> rfl
@[simp] theorem ldSizeOf_code (c : LdSize) : ldSizeOf c.code = some c := by cases c <;> rfl
@[simp] theorem stSizeOf_code (c : StSize) : stSizeOf c.code = some c := by cases c <;> rfl
@[simp] theorem shufOf_code (c : Shuf) : shufOf c.code = some c := by cases c <;> rfl
@[simp] theorem popOpOf_code (c : PopOp) : popOpOf c.code = some c := by cases c <;> rfl
@[simp] theorem scaleOf_code (c : Option ScaleFmt) : scaleOf (scaleCode c) = some c := by
  obtain _ | _ | _ := c <;> rfl

theorem Scope.code_lt (c : Scope) : c.code < 8 := by cases c <;> decide
theorem Space.code_lt (c : Space) : c.code < 3 := by cases c <;> decide
theorem Fmt.code_lt (c : Fmt) : c.code < 18 := by cases c <;> decide
theorem NameField.code_lt (c : NameField) : c.code < 8 := by cases c <;> decide
theorem ICond.code_lt (c : ICond) : c.code < 12 := by cases c <;> decide
theorem FCond.code_lt (c : FCond) : c.code < 8 := by cases c <;> decide
theorem LdSize.code_lt (c : LdSize) : c.code < 7 := by cases c <;> decide
theorem StSize.code_lt (c : StSize) : c.code < 4 := by cases c <;> decide
theorem Shuf.code_lt (c : Shuf) : c.code < 4 := by cases c <;> decide
theorem PopOp.code_lt (c : PopOp) : c.code < 3 := by cases c <;> decide

@[simp] theorem withCode_some {α : Type} (a : α) (k : α → Dec) : withCode (some a) k = k a := rfl
@[simp] theorem withLit_some (v : Half) (k : Half → Dec) : withLit (some v) k = k v := rfl

theorem withSrcB_put (b : SrcB) (r : RawSR) (h : r.l = false) (k : SrcB → Dec) :
    withSrcB (putSrcB b r) b.litOf k = k b := by
  cases b <;> simp [withSrcB, putSrcB, SrcB.litOf, withLit, h]
@[simp] theorem putSrcB_d (b : SrcB) (r : RawSR) : (putSrcB b r).d = r.d := by cases b <;> rfl
@[simp] theorem putSrcB_a (b : SrcB) (r : RawSR) : (putSrcB b r).a = r.a := by cases b <;> rfl
@[simp] theorem putSrcB_x (b : SrcB) (r : RawSR) : (putSrcB b r).x = r.x := by cases b <;> rfl

theorem withImm17_put (b : Imm17) (r : RawSI) (h : r.l = false) (k : Imm17 → Dec) :
    withImm17 (putImm17 b r) b.litOf k = k b := by
  cases b <;> simp [withImm17, putImm17, Imm17.litOf, withLit, h]
@[simp] theorem putImm17_d (b : Imm17) (r : RawSI) : (putImm17 b r).d = r.d := by cases b <;> rfl
@[simp] theorem putImm17_a (b : Imm17) (r : RawSI) : (putImm17 b r).a = r.a := by cases b <;> rfl
@[simp] theorem putImm17_x (b : Imm17) (r : RawSI) : (putImm17 b r).x = r.x := by cases b <;> rfl

theorem withOff_put (b : Off) (r : RawSM) (h : r.l = false) (k : Off → Dec) :
    withOff (putOff b r) b.litOf k = k b := by
  cases b <;> simp [withOff, putOff, Off.litOf, withLit, h]
@[simp] theorem putOff_d (b : Off) (r : RawSM) : (putOff b r).d = r.d := by cases b <;> rfl
@[simp] theorem putOff_a (b : Off) (r : RawSM) : (putOff b r).a = r.a := by cases b <;> rfl
@[simp] theorem putOff_b (b : Off) (r : RawSM) : (putOff b r).b = r.b := by cases b <;> rfl
@[simp] theorem putOff_x (b : Off) (r : RawSM) : (putOff b r).x = r.x := by cases b <;> rfl

theorem withVSrc_put (b : VSrc) (r : RawVR) (h : r.l = false) (k : VSrc → Dec) :
    withVSrc (putVSrc b r) b.litOf k = k b := by
  cases b <;> simp [withVSrc, putVSrc, VSrc.litOf, withLit, h]
@[simp] theorem putVSrc_d (b : VSrc) (r : RawVR) : (putVSrc b r).d = r.d := by cases b <;> rfl
@[simp] theorem putVSrc_a (b : VSrc) (r : RawVR) : (putVSrc b r).a = r.a := by cases b <;> rfl
@[simp] theorem putVSrc_c (b : VSrc) (r : RawVR) : (putVSrc b r).c = r.c := by cases b <;> rfl
@[simp] theorem putVSrc_km (b : VSrc) (r : RawVR) : (putVSrc b r).km = r.km := by cases b <;> rfl
@[simp] theorem putVSrc_mz (b : VSrc) (r : RawVR) : (putVSrc b r).mz = r.mz := by cases b <;> rfl
@[simp] theorem putVSrc_t (b : VSrc) (r : RawVR) : (putVSrc b r).t = r.t := by cases b <;> rfl
@[simp] theorem putVSrc_x (b : VSrc) (r : RawVR) : (putVSrc b r).x = r.x := by cases b <;> rfl

/-- The value operand fits in the CR format when X[6:0] keeps bit 7 free for it (R149). -/
theorem withVal_put {v : Val} {low : Nat} {r : RawCR} (hl : r.l = false) (h : low < 128) (k : Val → Dec) :
    withVal (putVal v low r) v.litOf k = k v := by
  cases v with
  | reg b =>
    have : bitAt (ofX8 low).toNat 7 = false := bitAt_of_mod (by rw [toNat_ofX8]; show _ = 0; omega)
    simp [withVal, putVal, hl, this]
  | lit v =>
    have : bitAt (ofX8 low).toNat 7 = false := bitAt_of_mod (by rw [toNat_ofX8]; show _ = 0; omega)
    simp [withVal, putVal, Val.litOf, this]
  | imm i =>
    have : bitAt (ofX8 (128 + low)).toNat 7 = true := bitAt_of_mod (by rw [toNat_ofX8]; show _ = 1; omega)
    simp [withVal, putVal, this]

theorem putVal_low {v : Val} {low : Nat} {r : RawCR} (h : low < 128) : xb (putVal v low r).x 0 7 = low := by
  cases v <;> simp [putVal, xb, bitsAt, toNat_ofX8] <;> omega

@[simp] theorem putVal_a (v : Val) (low : Nat) (r : RawCR) : (putVal v low r).a = r.a := by cases v <;> rfl
@[simp] theorem putVal_n (v : Val) (low : Nat) (r : RawCR) : (putVal v low r).n = r.n := by cases v <;> rfl

theorem withShAmt_put {n : ShAmt} {r : RawSR} (hl : r.l = false) (hx : r.x = 0) (k : ShAmt → Dec) :
    withShAmt (putShAmt n r) n.litOf k = k n := by
  cases n with
  | reg b => simp [withShAmt, putShAmt, hl, hx, bitAt, bitsAt]
  | lit v => simp [withShAmt, putShAmt, ShAmt.litOf, hx, bitAt, bitsAt]
  | imm i =>
    have hbit : bitAt (ofX8 (128 + i.toNat)).toNat 7 = true := bitAt_of_mod (by rw [toNat_ofX8]; show _ = 1; omega)
    have himm : BitVec.ofNat 6 (ofX8 (128 + i.toNat)).toNat = i := bitVec_ofNat_of_mod (by rw [toNat_ofX8]; omega)
    simp only [withShAmt, putShAmt, hbit, if_true, himm]
@[simp] theorem putShAmt_d (n : ShAmt) (r : RawSR) : (putShAmt n r).d = r.d := by cases n <;> rfl
@[simp] theorem putShAmt_a (n : ShAmt) (r : RawSR) : (putShAmt n r).a = r.a := by cases n <;> rfl

/-- The bits of a part fit in its slot. -/
def Enc.fits (e : Enc) : Prop := e.word < 2 ^ e.slot.size

/-- The word of an instruction fits in its slot, and its fields name that instruction. -/
def Instr.Reads (i : Instr) : Prop := ∀ e, i.encode = some e → e.fits ∧ readSlot e.slot e.lit e.word = .ok i

/-- A step of the device has no word. -/
theorem reads_device {i : Instr} (h : i.encode = none) : i.Reads := fun e he => by rw [h] at he; cases he

theorem reads_of {i : Instr} {e : Enc} (he : i.encode = some e) (hf : e.fits) (h : readSlot e.slot e.lit e.word = .ok i) :
    i.Reads := fun e' he' => by
  rw [he] at he'
  exact Option.some.inj he' ▸ ⟨hf, h⟩

theorem headWord48_lt {op body : Nat} (g : Guard) (ho : op < 256) (hb : body < 2 ^ 35) : headWord48 op g body < 2 ^ 48 := by
  have := g.code_lt
  simp only [headWord48]; omega

theorem headWord64_lt {op body : Nat} (g : Guard) (ho : op < 256) (hb : body < 2 ^ 51) : headWord64 op g body < 2 ^ 64 := by
  have := g.code_lt
  simp only [headWord64]; omega

theorem reads_encC {i : Instr} {op body : Nat} {g : Guard} {lit : Option Half} (hb : body < 2 ^ 35)
    (he : i.encode = some (encC op g body lit)) (ho : op < 256) (h : readC op g lit (headWord48 op g body) = .ok i) : i.Reads :=
  reads_of he (headWord48_lt g ho hb) (by
    simp only [encC, readSlot, op_headWord48 g ho hb, guard_headWord48 g hb, h])

theorem reads_encS {i : Instr} {k : Bank} {op body : Nat} {g : Guard} {lit : Option Half} (hb : body < 2 ^ 35)
    (he : i.encode = some (encS k op g body lit)) (ho : op < 256) (h : readS k op g lit (headWord48 op g body) = .ok i) :
    i.Reads := by
  cases k <;> exact reads_of he (headWord48_lt g ho hb) (by
    simp only [encS, Bank.slot, readSlot, op_headWord48 g ho hb, guard_headWord48 g hb, h])

theorem reads_encV {i : Instr} {op body : Nat} {g : Guard} {lit : Option Half} (hb : body < 2 ^ 51)
    (he : i.encode = some (encV op g body lit)) (ho : op < 256) (h : readV op g lit (headWord64 op g body) = .ok i) : i.Reads :=
  reads_of he (headWord64_lt g ho hb) (by
    simp only [encV, readSlot, op_headWord64 g ho hb, guard_headWord64 g hb, h])

theorem reads_encM {i : Instr} {op body : Nat} {g : Guard} (hb : body < 2 ^ 51)
    (he : i.encode = some (encW .m op g body)) (ho : op < 256) (h : readM op g (headWord64 op g body) = .ok i) : i.Reads :=
  reads_of he (headWord64_lt g ho hb) (by
    simp only [encW, readSlot, op_headWord64 g ho hb, guard_headWord64 g hb, h])

theorem reads_encE {i : Instr} {op body : Nat} {g : Guard} (hb : body < 2 ^ 51)
    (he : i.encode = some (encW .e op g body)) (ho : op < 256) (h : readE op g (headWord64 op g body) = .ok i) : i.Reads :=
  reads_of he (headWord64_lt g ho hb) (by
    simp only [encW, readSlot, op_headWord64 g ho hb, guard_headWord64 g hb, h])

end Sys2Proof

namespace Sys2Proof

/-! ## Registers in wider fields -/

theorem fin_of_byte {n : Nat} [NeZero n] (hn : n ∣ 256) (i : Fin n) : Fin.ofNat n (ofX8 i.val).toNat = i :=
  fin_ofNat_of_mod (by rw [toNat_ofX8, Nat.mod_mod_of_dvd _ hn, Nat.mod_eq_of_lt i.isLt])

@[simp] theorem fin8_of_byte (i : Fin 8) : Fin.ofNat 8 (ofX8 i.val).toNat = i := fin_of_byte (by decide) i
@[simp] theorem fin16_of_byte (i : Fin 16) : Fin.ofNat 16 (ofX8 i.val).toNat = i := fin_of_byte (by decide) i
@[simp] theorem fin64_of_byte (i : Fin 64) : Fin.ofNat 64 (ofX8 i.val).toNat = i := fin_of_byte (by decide) i

theorem fin_of_wider {n m : Nat} [NeZero n] [NeZero m] (h : n ≤ m) (i : Fin n) : Fin.ofNat n (Fin.ofNat m i.val).val = i :=
  fin_ofNat_of_mod (by
    rw [Fin.val_ofNat, Nat.mod_eq_of_lt (i.isLt.trans_le h), Nat.mod_eq_of_lt i.isLt])

@[simp] theorem preg_of_sreg (i : PReg) : Fin.ofNat 16 (Fin.ofNat 64 i.val).val = i := fin_of_wider (by decide) i
@[simp] theorem vreg_of_sreg (i : VReg) : Fin.ofNat 32 (Fin.ofNat 64 i.val).val = i := fin_of_wider (by decide) i
@[simp] theorem mreg_of_vreg (i : MReg) : Fin.ofNat 8 (Fin.ofNat 32 i.val).val = i := fin_of_wider (by decide) i

/-- A short field in the X of CR, SR, VR, MZ or ER. -/
@[simp] theorem bits_of_byte {n : Nat} (hn : n ≤ 8) (v : BitVec n) : BitVec.ofNat n (ofX8 v.toNat).toNat = v := by
  have h : v.toNat < 256 := v.isLt.trans_le (Nat.pow_le_pow_right (by decide) hn)
  exact bitVec_ofNat_of_mod (by rw [toNat_ofX8, Nat.mod_eq_of_lt h, Nat.mod_eq_of_lt v.isLt])

/-- A system register's number in X and IMM8 (R181). -/
@[simp] theorem sysReg_of_bytes (r : BitVec 16) :
    BitVec.ofNat 16 ((ofX8 (r.toNat / 256)).toNat * 256 + (ofX8 r.toNat).toNat) = r :=
  bitVec_ofNat_of_mod (by simp only [toNat_ofX8]; omega)

/-! ## Codes in the fields that hold them -/

@[simp] theorem scopeOf_byte (c : Scope) : scopeOf (ofX8 c.code).toNat = some c := by cases c <;> rfl
@[simp] theorem scopeOf_imm11 (c : Scope) : scopeOf (c.code % 2048) = some c := by cases c <;> rfl
@[simp] theorem icondOf_byte (c : ICond) : icondOf (ofX8 c.code).toNat = some c := by cases c <;> rfl
@[simp] theorem icondOf_x5 (c : ICond) : icondOf (c.code % 32) = some c := by cases c <;> rfl
@[simp] theorem fcondOf_byte (c : FCond) : fcondOf (ofX8 c.code).toNat = some c := by cases c <;> rfl
@[simp] theorem fmtOf_byte (c : Fmt) : fmtOf (ofX8 c.code).toNat = some c := by cases c <;> rfl
@[simp] theorem fmtOf_t5 (c : Fmt) : fmtOf (c.code % 32) = some c := by cases c <;> rfl
@[simp] theorem shufOf_byte (c : Shuf) : shufOf (ofX8 c.code).toNat = some c := by cases c <;> rfl

theorem NameField.code_ne {c : NameField} {n : Nat} (h : 8 ≤ n) : c.code ≠ n := by have := c.code_lt; omega

/-! ## Flags in the X field -/

@[simp] theorem flag_alone (a : Bool) : bitAt (ofX8 a.toNat).toNat 0 = a := by cases a <;> rfl
@[simp] theorem flags2_0 (a b : Bool) : bitAt (ofX8 (a.toNat + 2 * b.toNat)).toNat 0 = a := by cases a <;> cases b <;> rfl
@[simp] theorem flags2_1 (a b : Bool) : bitAt (ofX8 (a.toNat + 2 * b.toNat)).toNat 1 = b := by cases a <;> cases b <;> rfl

section
variable (a b c : Bool)

@[simp] theorem flags3_0 : bitAt (ofX8 (a.toNat + 2 * b.toNat + 4 * c.toNat)).toNat 0 = a := by
  cases a <;> cases b <;> cases c <;> rfl
@[simp] theorem flags3_1 : bitAt (ofX8 (a.toNat + 2 * b.toNat + 4 * c.toNat)).toNat 1 = b := by
  cases a <;> cases b <;> cases c <;> rfl
@[simp] theorem flags3_2 : bitAt (ofX8 (a.toNat + 2 * b.toNat + 4 * c.toNat)).toNat 2 = c := by
  cases a <;> cases b <;> cases c <;> rfl

end

/-! ## Several fields in one X or immediate -/

/-- A field at the foot of a byte. -/
theorem xb_low {n lo w : Nat} {a : Nat} (hn : n < 256) (h : n / 2 ^ lo % 2 ^ w = a) : xb (ofX8 n) lo w = a := by
  rw [xb, toNat_ofX8, Nat.mod_eq_of_lt hn]; exact h

/-- FCVT: the format in X[4:0], the direction in X[7] (R201). -/
@[simp] theorem fcvt_fmt (t : Fmt) (up : Bool) : fmtOf (xb (ofX8 (t.code + 128 * up.toNat)) 0 5) = some t := by
  cases t <;> cases up <;> rfl
@[simp] theorem fcvt_up (t : Fmt) (up : Bool) : bitAt (ofX8 (t.code + 128 * up.toNat)).toNat 7 = up := by
  cases t <;> cases up <;> rfl

/-- MOV from a stream register: X[7:3] = 16 (R167). -/
@[simp] theorem stream_mark (w : WReg) : xb (ofX8 (128 + w.val)) 3 5 = 16 := by
  have := w.isLt
  exact xb_low (by omega) (by omega)
@[simp] theorem stream_reg (w : WReg) : Fin.ofNat 8 (ofX8 (128 + w.val)).toNat = w :=
  fin_ofNat_of_mod (by have := w.isLt; rw [toNat_ofX8]; omega)

section
variable (pos w : BitVec 6) (s : Bool)

/-- The bit fields of R195 in IMM17. -/
@[simp] theorem bfi_pos : BitVec.ofNat 6 ((pos.toNat + 64 * w.toNat) % 131072) = pos := bitVec_ofNat_of_mod (by omega)
@[simp] theorem bfi_w : BitVec.ofNat 6 ((pos.toNat + 64 * w.toNat) % 131072 / 64) = w := bitVec_ofNat_of_mod (by omega)
@[simp] theorem bfx_pos : BitVec.ofNat 6 ((pos.toNat + 64 * w.toNat + 4096 * s.toNat) % 131072) = pos :=
  bitVec_ofNat_of_mod (by omega)
@[simp] theorem bfx_w : BitVec.ofNat 6 ((pos.toNat + 64 * w.toNat + 4096 * s.toNat) % 131072 / 64) = w :=
  bitVec_ofNat_of_mod (by omega)
@[simp] theorem bfx_sgn : bitAt ((pos.toNat + 64 * w.toNat + 4096 * s.toNat) % 131072) 12 = s :=
  bitAt_of_mod (by have := Bool.toNat_le s; omega)

end

/-- The memory instructions: the space in X[4:3] (R204). -/
@[simp] theorem x5_space (c : Space) {n : Nat} (h : n < 8) : spaceOf (xb5 (x5 (8 * c.code + n)) 3 2) = some c := by
  have hc := c.code_lt
  have : xb5 (x5 (8 * c.code + n)) 3 2 = c.code := by simp only [xb5, x5, bitsAt, BitVec.toNat_ofNat]; omega
  rw [this, spaceOf_code]
@[simp] theorem x5_space_alone (c : Space) : spaceOf (xb5 (x5 (8 * c.code)) 3 2) = some c := x5_space c (n := 0) (by decide)
@[simp] theorem x5_ldSize (c : Space) (z : LdSize) : ldSizeOf (xb5 (x5 (8 * c.code + z.code)) 0 3) = some z := by
  cases c <;> cases z <;> rfl
@[simp] theorem x5_stSize (c : Space) (z : StSize) : stSizeOf (xb5 (x5 (8 * c.code + z.code)) 0 3) = some z := by
  cases c <;> cases z <;> rfl
@[simp] theorem x5_mask (c : Space) (m : MReg) : Fin.ofNat 8 (x5 (8 * c.code + m.val)).toNat = m :=
  fin_ofNat_of_mod (by have := c.code_lt; simp only [x5, BitVec.toNat_ofNat]; omega)
@[simp] theorem x5_wide (c : Space) (b : Bool) : bitAt (x5 (8 * c.code + 4 * b.toNat)).toNat 2 = b := by
  cases c <;> cases b <;> rfl
@[simp] theorem imm11_mask (m : MReg) : Fin.ofNat 8 (256 * m.val % 2048 / 256) = m :=
  fin_ofNat_of_mod (by omega)
@[simp] theorem x5_atom_space (c : Space) (u w : Bool) :
    spaceOf (xb5 (x5 (8 * c.code + 4 * u.toNat + w.toNat)) 3 2) = some c := by cases c <;> cases u <;> cases w <;> rfl
@[simp] theorem x5_atom_uns (c : Space) (u w : Bool) : bitAt (x5 (8 * c.code + 4 * u.toNat + w.toNat)).toNat 2 = u := by
  cases c <;> cases u <;> cases w <;> rfl
@[simp] theorem x5_atom_w64 (c : Space) (u w : Bool) : bitAt (x5 (8 * c.code + 4 * u.toNat + w.toNat)).toNat 0 = w := by
  cases c <;> cases u <;> cases w <;> rfl
@[simp] theorem x5_nib (c : Space) (h : Bool) : bitAt (x5 (8 * c.code + h.toNat)).toNat 0 = h := by
  cases c <;> cases h <;> rfl
@[simp] theorem x5_pref (n : BitVec 3) : BitVec.ofNat 3 (x5 (16 + n.toNat)).toNat = n :=
  bitVec_ofNat_of_mod (by simp only [x5, BitVec.toNat_ofNat]; omega)

/-- A scalar register in X[7:2] of the V slot, with a code below it. -/
@[simp] theorem sreg_x (i : SReg) : Fin.ofNat 64 ((ofX8 (4 * i.val)).toNat / 4) = i :=
  fin_ofNat_of_mod (by rw [toNat_ofX8]; omega)
@[simp] theorem sreg_x_low (i : SReg) : xb (ofX8 (4 * i.val)) 0 2 = 0 := by
  have := i.isLt
  exact xb_low (by omega) (by omega)
@[simp] theorem popc_reg (o : PopOp) (i : SReg) : Fin.ofNat 64 ((ofX8 (o.code + 4 * i.val)).toNat / 4) = i :=
  fin_ofNat_of_mod (by have := o.code_lt; rw [toNat_ofX8]; omega)
@[simp] theorem popc_op (o : PopOp) (i : SReg) : popOpOf (xb (ofX8 (o.code + 4 * i.val)) 0 2) = some o := by
  have := o.code_lt
  have := i.isLt
  rw [xb_low (a := o.code) (by omega) (by omega), popOpOf_code]

/-- VSHL and VSHR: an immediate amount stands in IMM13, with X[0] set (R244). -/
@[simp] theorem imm13_amount (n : BitVec 6) : BitVec.ofNat 6 (n.toNat % 8192) = n := bitVec_ofNat_of_mod (by omega)

section
variable (j : BitVec 3) (f : BitVec 4) (asc : Bool)

/-- J, F and the direction of VCAS in IMM13 (R248). -/
@[simp] theorem cas_j : BitVec.ofNat 3 ((j.toNat + 8 * f.toNat + 128 * asc.toNat) % 8192) = j := bitVec_ofNat_of_mod (by omega)
@[simp] theorem cas_f : BitVec.ofNat 4 ((j.toNat + 8 * f.toNat + 128 * asc.toNat) % 8192 / 8) = f :=
  bitVec_ofNat_of_mod (by omega)
@[simp] theorem cas_asc : bitAt ((j.toNat + 8 * f.toNat + 128 * asc.toNat) % 8192) 7 = asc :=
  bitAt_of_mod (by have := Bool.toNat_le asc; omega)

end

section
variable (t : Fmt) (p : BitVec 3)

/-- The target and the part of a conversion in X (R255). -/
@[simp] theorem cvt_tgt : fmtOf (xb (ofX8 (t.code + 32 * p.toNat)) 0 5) = some t := by
  have := t.code_lt
  rw [xb_low (a := t.code) (by omega) (by omega), fmtOf_code]
@[simp] theorem cvt_part : BitVec.ofNat 3 ((ofX8 (t.code + 32 * p.toNat)).toNat / 32) = p :=
  bitVec_ofNat_of_mod (by have := t.code_lt; rw [toNat_ofX8]; omega)

end

section
variable (f : ScaleFmt) (d b : Bool)

/-- VSCL's flags in X (R256). -/
@[simp] theorem scl_sf : scaleOfBit (xb (ofX8 (f.bit + 2 * d.toNat + 4 * b.toNat)) 0 1) = f := by
  cases f <;> cases d <;> cases b <;> rfl
@[simp] theorem scl_div : bitAt (ofX8 (f.bit + 2 * d.toNat + 4 * b.toNat)).toNat 1 = d := by
  cases f <;> cases d <;> cases b <;> rfl
@[simp] theorem scl_blk16 : bitAt (ofX8 (f.bit + 2 * d.toNat + 4 * b.toNat)).toNat 2 = b := by
  cases f <;> cases d <;> cases b <;> rfl
@[simp] theorem scl_base (n : BitVec 7) : BitVec.ofNat 7 (n.toNat % 8192) = n := bitVec_ofNat_of_mod (by omega)

end

section
variable (n : BitVec 7) (s : Option ScaleFmt) (b : Bool)

theorem scaleCode_lt : scaleCode s < 3 := by obtain _ | _ | _ := s <;> decide

/-- The scale operand of VPACK and VUNPACK in IMM13 (R257). -/
@[simp] theorem pack_base : BitVec.ofNat 7 ((n.toNat + 128 * scaleCode s + 512 * b.toNat) % 8192) = n :=
  bitVec_ofNat_of_mod (by omega)
@[simp] theorem pack_scale : scaleOf (bitsAt ((n.toNat + 128 * scaleCode s + 512 * b.toNat) % 8192) 7 2) = some s := by
  have := scaleCode_lt s
  have := Bool.toNat_le b
  have hs : bitsAt ((n.toNat + 128 * scaleCode s + 512 * b.toNat) % 8192) 7 2 = scaleCode s := by
    simp only [bitsAt]; omega
  rw [hs, scaleOf_code]
@[simp] theorem pack_blk16 : bitAt ((n.toNat + 128 * scaleCode s + 512 * b.toNat) % 8192) 9 = b :=
  bitAt_of_mod (by have := scaleCode_lt s; have := Bool.toNat_le b; omega)

end

section
variable (k c : Bool) (g : BitVec 3)

/-- MMA.G: K2, CLR and the groups in X (Table 19·1). -/
@[simp] theorem mmaG_k2 : bitAt (ofX8 (k.toNat + 4 * c.toNat + 8 * g.toNat)).toNat 0 = k :=
  bitAt_of_mod (by have := Bool.toNat_le k; rw [toNat_ofX8]; omega)
@[simp] theorem mmaG_clr : bitAt (ofX8 (k.toNat + 4 * c.toNat + 8 * g.toNat)).toNat 2 = c :=
  bitAt_of_mod (by have := Bool.toNat_le k; have := Bool.toNat_le c; rw [toNat_ofX8]; omega)
@[simp] theorem mmaG_groups : BitVec.ofNat 3 ((ofX8 (k.toNat + 4 * c.toNat + 8 * g.toNat)).toNat / 8) = g :=
  bitVec_ofNat_of_mod (by have := Bool.toNat_le k; have := Bool.toNat_le c; rw [toNat_ofX8]; omega)

end

/-- CP: the two spaces in X (R279). -/
@[simp] theorem cp_dst (d s : Space) : spaceOf (xb (ofX8 (d.code + 4 * s.code)) 0 2) = some d := by cases d <;> cases s <;> rfl
@[simp] theorem cp_src (d s : Space) : spaceOf (xb (ofX8 (d.code + 4 * s.code)) 2 2) = some s := by cases d <;> cases s <;> rfl

@[simp] theorem sbind_window (n : BitVec 4) : BitVec.ofNat 4 (n.toNat % 32768) = n := bitVec_ofNat_of_mod (by omega)
@[simp] theorem lcSel_slot (n : BitVec 2) : BitVec.ofNat 2 (n.toNat % 32768) = n := bitVec_ofNat_of_mod (by omega)

/-- LC.TSLICE's format stands in two bits: only the three of R365 have a code. -/
theorem tslice_fmt {t : Fmt} (n : BitVec 3) (h : t = .i8 ∨ t = .e4m3 ∨ t = .f16) :
    tsliceFmtOf (xb (ofX8 (tsliceCode t + 4 * n.toNat)) 0 2) = some t := by
  have hlow : xb (ofX8 (tsliceCode t + 4 * n.toNat)) 0 2 = tsliceCode t := by
    have : tsliceCode t < 3 := by cases t <;> decide
    exact xb_low (by omega) (by omega)
  rw [hlow]
  rcases h with rfl | rfl | rfl <;> rfl

@[simp] theorem tslice_nt (t : Fmt) (n : BitVec 3) : BitVec.ofNat 3 ((ofX8 (tsliceCode t + 4 * n.toNat)).toNat / 4) = n := by
  have : tsliceCode t < 3 := by cases t <;> decide
  exact bitVec_ofNat_of_mod (by rw [toNat_ofX8]; omega)

/-- LC.UNSLICE's format, likewise (R366). -/
theorem unslice_fmt {t : Fmt} (n : BitVec 5) (h : t = .n8 ∨ t = .n16 ∨ t = .n32) :
    unsliceFmtOf (xb (ofX8 (unsliceCode t + 4 * n.toNat)) 0 2) = some t := by
  have hlow : xb (ofX8 (unsliceCode t + 4 * n.toNat)) 0 2 = unsliceCode t := by
    have : unsliceCode t < 3 := by cases t <;> decide
    exact xb_low (by omega) (by omega)
  rw [hlow]
  rcases h with rfl | rfl | rfl <;> rfl

@[simp] theorem unslice_w (t : Fmt) (n : BitVec 5) : BitVec.ofNat 5 ((ofX8 (unsliceCode t + 4 * n.toNat)).toNat / 4) = n := by
  have : unsliceCode t < 3 := by cases t <;> decide
  exact bitVec_ofNat_of_mod (by rw [toNat_ofX8]; omega)

end Sys2Proof

namespace Sys2Proof

theorem tslice_checked {f : ETslice} (hc : (Instr.lcTslice f).opCheck = none) : f.fmt = .i8 ∨ f.fmt = .e4m3 ∨ f.fmt = .f16 := by
  simpa [Instr.opCheck, wfIf, or_iff_not_imp_left] using hc

theorem unslice_checked {f : EUnslice} (hc : (Instr.lcUnslice f).opCheck = none) :
    f.elt = .n8 ∨ f.elt = .n16 ∨ f.elt = .n32 := by
  simp only [Instr.opCheck, wfIf, ite_eq_right_iff, reduceCtorEq, imp_false, Bool.or_eq_true, not_or] at hc
  simpa [or_iff_not_imp_left] using hc.1

/-- The fields of the word of every instruction that its own entry lets through name that instruction: format by format
(Table 9·4), the packed fields come back, and what the decoder branches on is what the encoder put there. -/
theorem Instr.reads_encode {i : Instr} (hc : i.opCheck = none) : i.Reads := by
  cases i
  case jmp f =>
    obtain ⟨g, a | v⟩ := f <;> exact reads_encC (packCR_lt _) rfl (by decide) (by simp only [readC, unpackCR_pack]; rfl)
  case br f | call f | loopEnd f =>
    exact reads_encC (packCJ_lt _) rfl (by decide) (by simp [readC, -Fin.ofNat_eq_cast])
  case pand f | por f | pxor f | pnot f | pmov f =>
    exact reads_encC (packCP_lt _) rfl (by decide) (by rw [readC, unpackCP_pack]; simp)
  case loopSet f =>
    exact reads_encC (packCR_lt _) rfl (by decide) (by rw [readC, unpackCR_pack, withVal_put rfl (by decide)]; simp)
  case nameSetField f | nameAdd f =>
    have hlow : f.f.code < 128 := f.f.code_lt.trans (by decide)
    exact reads_encC (packCR_lt _) rfl (by decide) (by
      rw [readC, unpackCR_pack, putVal_low hlow]
      simp [cr0, withVal_put, hlow, NameField.code_ne])
  case ret f | frameAlloc f | frameFree f | yield f | waitQ f | waitS f | halt f | trap f | subscribe f | unsub f | bind f
      | wtst f | pub f | pubC f | steer f | spawn f | spawnNb f | retn f | drain f | colourGet f | colourFree f
      | nameSetWhole f | nameSetCopy f | nameLd f | sysRd f | sysWr f | eret f | eretH f | tlbInv f | tlbInvAll f
      | dictLd f | dictInv f | qenq f | qdeq f | qenqNb f | qdeqNb f | cycleRd f | fmtSet f | fmtSetH f | fmtSetC f
      | fmtRd f =>
    exact reads_encC (packCR_lt _) rfl (by decide) (by
      simp +decide [readC, cr0, -Fin.ofNat_eq_cast, -BitVec.ofNat_toNat, -Fin.val_ofNat])
  case shl f | shr f | shrN f | rot f =>
    exact reads_encS (packSR_lt _) rfl (by decide) (by rw [readS, unpackSR_pack, withShAmt_put rfl rfl]; simp)
  case addi f | bfx f | bfi f | movi f | moviZ f | moviH f | cmpiCc f =>
    exact reads_encS (packSI_lt _) rfl (by decide) (by
      rw [readS]
      simp +decide [si0, withImm17_put, -Fin.ofNat_eq_cast, -Fin.val_ofNat])
  case add f | sub f | mul f | mulh f | mulhN f | div f | divN f | rem f | remN f | min f | minN f | max f | maxN f | and f
      | or f | xor f | andn f | clz f | ctz f | popc f | sext f | zext f | mov f | movStream f | sel f | cmpCc f | lea f
      | fadd f | fsub f | fmul f | ffma f | fmin f | fmax f | fcmpCc f | fcvt f =>
    exact reads_encS (packSR_lt _) rfl (by decide) (by
      rw [readS]
      simp +decide [sr0, withSrcB_put, -Fin.ofNat_eq_cast, -BitVec.ofNat_toNat, -Fin.val_ofNat])
  case ld f | st f =>
    have hz := f.sz.code_lt
    exact reads_encS (packSM_lt _) rfl (by decide) (by
      rw [readS]
      simp [sm0, withOff_put, x5_space f.sp (show f.sz.code < 8 by omega)])
  case ldvG f | stvS f =>
    have hw : 4 * f.wide.toNat < 8 := by have := Bool.toNat_le f.wide; omega
    exact reads_encS (packSM_lt _) rfl (by decide) (by
      rw [readS]
      simp [sm0, x5_space f.sp hw, -Fin.ofNat_eq_cast, -Fin.val_ofNat])
  case atomNib f =>
    have hw : f.hi.toNat < 8 := by have := Bool.toNat_le f.hi; omega
    exact reads_encS (packSM_lt _) rfl (by decide) (by
      rw [readS]
      simp [sm0, withOff_put, x5_space f.sp hw])
  case ldv f | stv f | ldFe f | stFe f | peekFe f | mark f | fence f | atomAdd f | atomMin f | atomMax f | atomAnd f | atomOr f
      | atomXor f | atomSwp f | atomCas f | atomFadd f | pref f =>
    exact reads_encS (packSM_lt _) rfl (by decide) (by
      rw [readS]
      simp [sm0, withOff_put, -Fin.ofNat_eq_cast, -BitVec.ofNat_toNat, -Fin.val_ofNat])
  case vshl f | vshr f =>
    obtain ⟨g, t, d, a, b | n, km, mz⟩ := f <;> exact reads_encV (packVR_lt _) rfl (by decide) (by
      rw [readV]
      simp +decide [vr0, putVAmt])
  case vadd f | vsub f | vmul f | vfma f | vmin f | vmax f | vabs f | vneg f | vand f | vor f | vxor f | vcmpCc f | vsel f
      | vcas f | vcasX f | vperm f | vperm2 f | vbcastScalar f | vbcastLane f | vbcastLiteral f | vshuf f | vredAdd f
      | vredMax f | vredMin f | vscanAdd f | vrcpE f | vrsqE f | vexp2 f | vlog2 f | vcvt f | vscl f | vpack f | vunpack f
      | vmovS f | vext f | viota f | mand f | mor f | mnot f | vpopc f =>
    exact reads_encV (packVR_lt _) rfl (by decide) (by
      rw [readV]
      simp +decide [vr0, withVSrc_put, -Fin.ofNat_eq_cast, -BitVec.ofNat_toNat, -Fin.val_ofNat])
  case mma f | mmaG f | zclr f | zld f | zst f | zcvt f | zadd f | wld f | mwait f =>
    exact reads_encM (packMZ_lt _) rfl (by decide) (by
      rw [readM]
      simp [mz0, -BitVec.ofNat_toNat])
  case lcSel f =>
    obtain ⟨g, a | n⟩ := f <;> exact reads_encE (packER_lt _) rfl (by decide) (by rw [readE]; simp +decide [er0])
  case lcTslice f =>
    exact reads_encE (packER_lt _) rfl (by decide) (by
      rw [readE]
      simp [er0, tslice_fmt f.nt (tslice_checked hc)])
  case lcUnslice f =>
    exact reads_encE (packER_lt _) rfl (by decide) (by
      rw [readE]
      simp [er0, unslice_fmt f.w (unslice_checked hc)])
  case cp f | cpName f | cpWin f | cpWait f | sbind f | scloseMarker f | scloseUnbind f | hashSha f | hashCrc f | hashWait f
      | lcCtxOpen f | lcCtxCommit f | lcCtxAbort f | lcCtxRel f | lcTbl f | lcRun f | lcPop f | lcWait f | lcStat f =>
    exact reads_encE (packER_lt _) rfl (by decide) (by simp +decide [readE, er0, -BitVec.ofNat_toNat])
  all_goals exact reads_device rfl

/-! ## A part alone in its bundle (Table 9·2) -/

section
variable {e : Enc} (hf : e.fits)
include hf

theorem bundleWord_bundleOf : bundleWord (bundleOf e) e.slot = e.word := by
  obtain ⟨k, w, l⟩ := e
  simp only [bundleWord, bundleOf, bitsAt, BitVec.toNat_ofNat]
  cases k <;> cases l <;> simp only [Enc.fits, Slot.size, Slot.lo, Slot.num] at hf ⊢ <;> omega

theorem bundleLit_bundleOf : bundleLit (bundleOf e) = e.lit := by
  obtain ⟨k, w, l⟩ := e
  simp only [bundleLit, bundleOf, BitVec.toNat_ofNat]
  cases l with
  | none =>
    rw [bitAt_of_mod (l := false)]
    · rfl
    · cases k <;> simp only [Enc.fits, Slot.size, Slot.lo, Slot.num, Bool.toNat_false] at hf ⊢ <;> omega
  | some v =>
    rw [bitAt_of_mod (l := true)]
    · refine congrArg some (bitVec_ofNat_of_mod ?_)
      cases k <;> simp only [Enc.fits, Slot.size, Slot.lo, Slot.num] at hf ⊢ <;> omega
    · cases k <;> simp only [Enc.fits, Slot.size, Slot.lo, Slot.num, Bool.toNat_true] at hf ⊢ <;> omega

end

/-- A part is encoded in the slot that it issues in (`Laws.SlotOfEncoding`). -/
theorem encode_slot (i : Instr) : i.encode.map (·.slot) = i.slot := by
  cases i with
  | jmp f => exact Laws.SlotOfEncoding.jmp f
  | lcSel f => exact Laws.SlotOfEncoding.lcSel f
  | _ => rfl

theorem opCheck_of_check {i : Instr} (h : i.check = none) (hu : i.uses ≠ none) : i.opCheck = none := by
  obtain ⟨u, hu⟩ := Option.ne_none_iff_exists'.1 hu
  unfold Instr.check at h
  rw [hu] at h
  cases hc : u.check <;> simp_all

/-- Settles O7: the word names the instruction (`reads_encode`), the encoder writes that very word, no check refuses it, and a
bundle keeps the word and the literal. -/
theorem encodeDecode : Obligations.EncodeDecode := by
  unfold Obligations.EncodeDecode
  intro i e hc he
  have hslot : i.uses.map (·.slot) = some e.slot := (encode_slot i).symm.trans (by rw [he]; rfl)
  have hop : i.opCheck = none := opCheck_of_check hc (by rintro h; simp [h] at hslot)
  obtain ⟨hfits, hread⟩ := Instr.reads_encode hop e he
  have hdec : decodeSlot e.slot e.lit e.word = .ok i := by simp [decodeSlot, hread, he, hc]
  exact ⟨hdec, by rw [bundlePart, bundleLit_bundleOf hfits, bundleWord_bundleOf hfits, hdec], hslot⟩

end Sys2Proof

namespace Sys2Proof.Machine

/-! ## Parts that only compute -/

/-- A part that only computes completes with what its function leaves. -/
theorem completes_compute {i : Instr} {s : State} {f : Core → Core} {c : Core} (hx : exec i s = s.compute i f)
    (hc : f s.core = c) : Completes i s c := fun h => hx.trans (hc ▸ compute_ready h)

/-! ## Word arithmetic as arithmetic of integers (R192, R193, Table 13·5) -/

theorem word_add (a b : Word) : a + b = BitVec.ofNat 64 (a.toNat + b.toNat) := BitVec.eq_of_toNat_eq (by simp)

theorem word_sub (a b : Word) : a - b = BitVec.ofInt 64 ((a.toNat : Int) - b.toNat) := by
  refine BitVec.eq_of_toInt_eq ?_
  rw [BitVec.toInt_ofInt, BitVec.toInt_sub, BitVec.toInt_eq_toNat_bmod, BitVec.toInt_eq_toNat_bmod]
  simp

theorem word_mul (a b : Word) : a * b = BitVec.ofNat 64 (a.toNat * b.toNat) := BitVec.eq_of_toNat_eq (by simp)

theorem divS_eq (a b : Word) : divS a b = if b = 0 then BitVec.allOnes 64 else BitVec.ofInt 64 (a.toInt.tdiv b.toInt) := by
  unfold divS
  split
  · rfl
  · exact BitVec.eq_of_toInt_eq (by rw [BitVec.toInt_sdiv, BitVec.toInt_ofInt])

theorem divU_eq (a b : Word) : divU a b = if b = 0 then BitVec.allOnes 64 else BitVec.ofNat 64 (a.toNat / b.toNat) := by
  unfold divU
  split
  · rfl
  · exact BitVec.eq_of_toNat_eq (by
      rw [BitVec.toNat_udiv, BitVec.toNat_ofNat, Nat.mod_eq_of_lt ((Nat.div_le_self _ _).trans_lt a.isLt)])

theorem remS_eq (a b : Word) : remS a b = if b = 0 then a else BitVec.ofInt 64 (a.toInt.tmod b.toInt) := by
  unfold remS
  split
  · rfl
  · rw [← BitVec.toInt_srem, BitVec.ofInt_toInt]

theorem remU_eq (a b : Word) : remU a b = if b = 0 then a else BitVec.ofNat 64 (a.toNat % b.toNat) := by
  unfold remU
  split
  · rfl
  · rw [← BitVec.toNat_umod, BitVec.ofNat_toNat, BitVec.setWidth_eq]

theorem minS_eq (a b : Word) : (if BitVec.slt b a then b else a) = if a.toInt ≤ b.toInt then a else b := by
  simp only [BitVec.slt, decide_eq_true_eq, ← not_le, ite_not]

theorem minU_eq (a b : Word) : (if BitVec.ult b a then b else a) = if a.toNat ≤ b.toNat then a else b := by
  simp only [BitVec.ult, decide_eq_true_eq, ← not_le, ite_not]

theorem maxS_eq (a b : Word) : (if BitVec.slt a b then b else a) = if b.toInt ≤ a.toInt then a else b := by
  simp only [BitVec.slt, decide_eq_true_eq, ← not_le, ite_not]

theorem maxU_eq (a b : Word) : (if BitVec.ult a b then b else a) = if b.toNat ≤ a.toNat then a else b := by
  simp only [BitVec.ult, decide_eq_true_eq, ← not_le, ite_not]

theorem word_shl (a : Word) (n : Nat) : a <<< n = BitVec.ofNat 64 (a.toNat * 2 ^ n) :=
  BitVec.eq_of_toNat_eq (by rw [BitVec.toNat_shiftLeft, Nat.shiftLeft_eq, BitVec.toNat_ofNat])

/-- Settles O17: each result of the model is the arithmetic of Table 13·5 by the word equation of its operation. -/
theorem integerArithmetic : Obligations.IntegerArithmetic := by
  unfold Obligations.IntegerArithmetic
  intro f g h s a b z put
  refine ⟨completes_compute rfl ?_, completes_compute (rfl : execAddi g s = _) rfl, completes_compute rfl ?_,
    completes_compute rfl ?_, completes_compute rfl rfl, completes_compute rfl rfl, completes_compute rfl ?_, completes_compute rfl ?_,
    completes_compute rfl ?_, completes_compute rfl ?_, completes_compute rfl ?_, completes_compute rfl ?_,
    completes_compute rfl ?_, completes_compute rfl ?_, completes_compute (rfl : execLea h s = _) ?_⟩
  · exact congrArg (put 1) (word_add a b)
  · exact congrArg (put 1) (word_sub a b)
  · exact congrArg (put 3) (word_mul a b)
  · exact congrArg (put 0) (divS_eq a b)
  · exact congrArg (put 0) (divU_eq a z)
  · exact congrArg (put 0) (remS_eq a b)
  · exact congrArg (put 0) (remU_eq a z)
  · exact congrArg (put 1) (minS_eq a b)
  · exact congrArg (put 1) (minU_eq a z)
  · exact congrArg (put 1) (maxS_eq a b)
  · exact congrArg (put 1) (maxU_eq a z)
  · exact congrArg (s.core.writeS h.k.slot 1 h.d) (congrArg _ (word_shl ..))

/-! ## Shifts and bit fields (R194, R195) -/

theorem shl_eq (a : Word) (n : Nat) : a <<< n = if n < 64 then BitVec.ofNat 64 (a.toNat * 2 ^ n) else 0 := by
  split
  · exact word_shl a n
  · exact BitVec.shiftLeft_eq_zero (by omega)

theorem sar_eq (a : Word) (n : Nat) : a.sshiftRight n = BitVec.ofInt 64 (a.toInt / 2 ^ n) := by
  have h : a.toInt / 2 ^ n = (a.sshiftRight n).toInt := by rw [BitVec.toInt_sshiftRight, Int.shiftRight_eq_div_pow]; norm_cast
  rw [h, BitVec.ofInt_toInt]

theorem shr_eq (a : Word) (n : Nat) : a >>> n = BitVec.ofNat 64 (a.toNat / 2 ^ n) :=
  BitVec.eq_of_toNat_eq (by
    rw [BitVec.toNat_ushiftRight, Nat.shiftRight_eq_div_pow, BitVec.toNat_ofNat,
      Nat.mod_eq_of_lt ((Nat.div_le_self _ _).trans_lt a.isLt)])

theorem rot_eq (a : Word) (n : Nat) : a.rotateLeft (n % 64) = a <<< (n % 64) ||| a >>> (64 - n % 64) := by
  rw [BitVec.rotateLeft_def, Nat.mod_mod]

/-- The low w bits of a number as a signed number (R195). -/
theorem sextTo_eq (w n : Nat) : sextTo w n =
    BitVec.ofInt 64 (if 2 ^ (w - 1) ≤ n % 2 ^ w then ((n % 2 ^ w : Nat) : Int) - 2 ^ w else (n % 2 ^ w : Nat)) := by
  simp only [sextTo, signed, ← not_le, ite_not, Nat.cast_pow, Nat.cast_ofNat]

theorem bfi_eq (d : Word) (v pos w : Nat) : setField d pos w v = BitVec.ofNat 64
    (d.toNat % 2 ^ pos + v % 2 ^ w * 2 ^ pos + d.toNat / 2 ^ (pos + w) * 2 ^ (pos + w)) := by
  unfold setField field
  congr 1
  have h : d.toNat =
      d.toNat % 2 ^ pos + d.toNat / 2 ^ pos % 2 ^ w * 2 ^ pos + d.toNat / 2 ^ (pos + w) * 2 ^ (pos + w) := by
    calc d.toNat = 2 ^ pos * (d.toNat / 2 ^ pos) + d.toNat % 2 ^ pos := (Nat.div_add_mod _ _).symm
      _ = 2 ^ pos * (2 ^ w * (d.toNat / 2 ^ pos / 2 ^ w) + d.toNat / 2 ^ pos % 2 ^ w) + d.toNat % 2 ^ pos := by
        rw [Nat.div_add_mod (d.toNat / 2 ^ pos), Nat.div_add_mod]
      _ = _ := by rw [Nat.div_div_eq_div_mul, ← pow_add]; ring
  omega

theorem moviH_eq (lit : Half) (d : Word) : lit.setWidth 64 <<< 32 ||| BitVec.ofNat 64 (field d 0 32) =
    BitVec.ofNat 64 (lit.toNat * 2 ^ 32 + d.toNat % 2 ^ 32) := by
  have hl : lit.toNat < 2 ^ 32 := lit.isLt
  have hd : d.toNat % 2 ^ 32 < 2 ^ 32 := Nat.mod_lt _ (by decide)
  have hlow : field d 0 32 = d.toNat % 2 ^ 32 := by rw [field, pow_zero, Nat.div_one]
  rw [hlow]
  generalize d.toNat % 2 ^ 32 = e at hd
  refine BitVec.eq_of_toNat_eq ?_
  rw [BitVec.toNat_or, BitVec.toNat_shiftLeft, BitVec.toNat_setWidth, BitVec.toNat_ofNat, BitVec.toNat_ofNat,
    Nat.mod_eq_of_lt (a := lit.toNat) (by omega), Nat.shiftLeft_eq, Nat.mod_eq_of_lt (a := lit.toNat * 2 ^ 32) (by omega),
    Nat.mod_eq_of_lt (a := e) (by omega), Nat.mod_eq_of_lt (by omega), Nat.mul_comm, Nat.two_pow_add_eq_or_of_lt hd]

/-- Settles O18: shifts, fields and moves by the word equation of each. -/
theorem integerLogicAndFields : Obligations.IntegerLogicAndFields := by
  unfold Obligations.IntegerLogicAndFields
  refine ⟨fun f g h s => ?_, fun f g h m l q s => ?_⟩
  · intro a z put x n shift y count
    refine ⟨completes_compute rfl rfl, completes_compute rfl rfl, completes_compute rfl rfl, completes_compute rfl rfl,
      completes_compute rfl ?_, completes_compute rfl ?_, completes_compute rfl ?_, completes_compute rfl ?_,
      completes_compute rfl rfl, completes_compute rfl rfl, completes_compute rfl rfl, completes_compute rfl rfl⟩
    · exact congrArg shift (shl_eq x n)
    · exact congrArg shift (sar_eq x n)
    · exact congrArg shift (shr_eq x n)
    · exact congrArg shift (rot_eq x n)
  · intro low sext a d x
    refine ⟨completes_compute (rfl : execBfx f s = _) ?_, fun _ => completes_compute (rfl : execBfi g s = _) ?_,
      completes_compute (rfl : execSext h s = _) ?_, completes_compute (rfl : execZext h s = _) ?_,
      completes_compute (rfl : execMovi m s = _) rfl, completes_compute (rfl : execMoviZ m s = _) rfl,
      completes_compute (rfl : execMoviH l s = _) ?_, completes_compute (rfl : execSel q s = _) rfl⟩
    · refine congrArg (s.core.writeS f.k.slot 1 f.d) ?_
      have hv : field a f.pos.toNat (f.w.toNat + 1) = low (a >>> f.pos.toNat) 0 (f.w.toNat + 1) := by
        simp only [field, low, pow_zero, Nat.div_one, BitVec.toNat_ushiftRight, Nat.shiftRight_eq_div_pow]
      have hmod : low (a >>> f.pos.toNat) 0 (f.w.toNat + 1) % 2 ^ (f.w.toNat + 1) = low (a >>> f.pos.toNat) 0 (f.w.toNat + 1) :=
        Nat.mod_mod _ _
      cases f.sgn with
      | false => rfl
      | true => exact (congrArg _ hv).trans ((sextTo_eq ..).trans (by rw [hmod]; rfl))
    · refine congrArg (s.core.writeS g.k.slot 1 g.d) ((bfi_eq d _ _ _).trans ?_)
      simp only [low, pow_zero, Nat.div_one, Nat.add_assoc]
    · refine congrArg (s.core.writeS h.k.slot 1 h.d) ((sextTo_eq ..).trans ?_)
      simp only [sext, low, x, pow_zero, Nat.div_one]
    · rfl
    · exact congrArg (s.core.writeS l.k.slot 1 l.d) (moviH_eq ..)

end Sys2Proof.Machine

namespace Sys2Proof.Machine

/-- A part whose body answers `.done` has left the machine as its body says. -/
theorem becomes_issue {i : Instr} {s t : State} {body : State → Res} (hx : exec i s = s.issue i body) (hb : body s = .done t) :
    Becomes i s t := fun h => hx.trans (issue_done h hb)

/-- A part whose body answers `.done` with nothing changed but the current core. -/
theorem completes_issue {i : Instr} {s : State} {c : Core} {body : State → Res} (hx : exec i s = s.issue i body)
    (hb : body s = .done { s with core := c }) : Completes i s c := fun h => hx.trans (issue_done h hb)

section
variable {i : Instr} {s : State} {body : State → Res} {k : Slot} (hx : exec i s = s.issue i body) (hk : i.slot = some k)
  (h : s.readyFor i = true)
include hx h

theorem exec_leave {t : State} (hb : body s = .leave t) : exec i s = .next t := hx.trans (issue_leave h hb)

include hk

theorem exec_wait (hb : body s = .wait) : exec i s = .next (s.waitPart k) := by
  obtain ⟨u, hu, rfl⟩ := Option.map_eq_some_iff.1 hk
  exact hx.trans (issue_wait hu h hb)

theorem exec_lock (hb : body s = .lock) : exec i s = .next (s.lockPart k) := by
  obtain ⟨u, hu, rfl⟩ := Option.map_eq_some_iff.1 hk
  exact hx.trans (issue_lock hu h hb)

theorem exec_bank (hb : body s = .bank) : exec i s = .next (s.interlock k) := by
  obtain ⟨u, hu, rfl⟩ := Option.map_eq_some_iff.1 hk
  rw [hx]
  simp only [State.issue, hu, issueAs_ready hu h, hb]

theorem exec_stay {t : State} (hb : body s = .stay t) : exec i s = .next (t.waitPart k) := by
  obtain ⟨u, hu, rfl⟩ := Option.map_eq_some_iff.1 hk
  exact hx.trans (issue_stay hu h hb)

theorem exec_fault {c : Nat} {a : Word} (hb : body s = .fault c a) : exec i s = .next (s.faultPart k c a) := by
  obtain ⟨u, hu, rfl⟩ := Option.map_eq_some_iff.1 hk
  exact hx.trans (issue_fault hu h hb)

theorem exec_faultIn {t : State} {c : Nat} {a : Word} (hc : c ≠ heldBack) (hb : body s = .faultIn t c a) :
    exec i s = .next (t.faultPart k c a) := by
  obtain ⟨u, hu, rfl⟩ := Option.map_eq_some_iff.1 hk
  rw [hx]
  simp only [State.issue, hu, issueAs_ready hu h, hb, if_neg hc]

end

/-! ## Compares (R197, R200) -/

/-- The order of words as integers, signed or not (Table 13·6). -/
theorem icond_eq (cc : ICond) (a b : Word) : icond cc a b = match cc with
    | .eq => decide (a = b)
    | .ne => decide (a ≠ b)
    | .lt => decide (a.toInt < b.toInt)
    | .le => decide (a.toInt ≤ b.toInt)
    | .gt => decide (b.toInt < a.toInt)
    | .ge => decide (b.toInt ≤ a.toInt)
    | .ltn => decide (a.toNat < b.toNat)
    | .len => decide (a.toNat ≤ b.toNat)
    | .gtn => decide (b.toNat < a.toNat)
    | .gen => decide (b.toNat ≤ a.toNat)
    | .tst => decide (a &&& b ≠ 0)
    | .ntst => decide (a &&& b = 0) := by
  cases cc
  case eq | ntst => exact Bool.beq_eq_decide_eq ..
  case ne | tst => simp only [icond, bne, Bool.beq_eq_decide_eq, decide_not, ne_eq]
  all_goals rfl

theorem icondZ_eq (cc : ICond) : icondZ cc = decide (cc ∈ [ICond.ltn, .len, .gtn, .gen, .tst, .ntst]) := by
  cases cc <;> rfl

theorem fcond_nan {cc : FCond} {x y : FV} (h : x = .nan ∨ y = .nan) : fcond cc x y = true ↔ cc = .ne ∨ cc = .un := by
  have hn : (x.isNan || y.isNan) = true := by rcases h with rfl | rfl <;> simp [FV.isNan]
  simp [fcond, hn]

/-- Settles O19: the integer conditions by `icond_eq`, a NaN operand by `fcond_nan`. -/
theorem compares : Obligations.Compares := by
  unfold Obligations.Compares
  intro f g h s cond x y
  have hcond : ∀ cc a b, icond cc a b = cond cc a b := icond_eq
  refine ⟨completes_compute (rfl : execCmpCc f s = _) ?_, completes_compute (rfl : execCmpiCc g s = _) ?_,
    completes_compute (rfl : execFcmpCc h s = _) rfl, fcond_nan⟩
  · simp only [hcond, icondZ_eq, decide_eq_true_eq]
  · simp only [hcond]

/-! ## FP32 (R199, R200) -/

theorem fmaF_nan_left (t : Fmt) (r : Rnd) (b : FV) (c : Option FV) : fmaF t r .nan b c = (nanBits t, 0) := by
  cases b <;> rfl

theorem fmaF_nan_right (t : Fmt) (r : Rnd) (a : FV) (c : Option FV) : fmaF t r a .nan c = (nanBits t, 0) := by
  cases a <;> rfl

/-- A NaN addend: no product of numbers with one is invalid. -/
theorem fmaF_nan_add (t : Fmt) (r : Rnd) (a : FV) : fmaF t r a oneFV (some .nan) = (nanBits t, 0) := by
  cases a <;> rfl

section
variable {t : Fmt} {a b : FV} (h : a = .nan ∨ b = .nan) (r : Rnd)
include h

theorem addF_nan : addF t r a b = (nanBits t, 0) := by
  rcases h with rfl | rfl
  · exact fmaF_nan_left ..
  · exact fmaF_nan_add ..

theorem subF_nan : subF t r a b = (nanBits t, 0) := by
  rcases h with rfl | rfl
  · exact fmaF_nan_left ..
  · exact fmaF_nan_add ..

theorem mulF_nan : mulF t r a b = (nanBits t, 0) := by
  rcases h with rfl | rfl
  · exact fmaF_nan_left ..
  · exact fmaF_nan_right ..

end

theorem isNan_or {a b : FV} (h : a = .nan ∨ b = .nan) : (a.isNan || b.isNan) = true := by
  rcases h with rfl | rfl <;> simp [FV.isNan]

/-- Settles O20: the parts by their bodies, and a NaN operand by the NaN laws of the fused product and of the order. -/
theorem fp32Arithmetic : Obligations.Fp32Arithmetic := by
  unfold Obligations.Fp32Arithmetic
  intro f g s k r a b d put
  refine ⟨completes_compute (rfl : execFadd f s = _) rfl, completes_compute (rfl : execFsub f s = _) rfl,
    completes_compute (rfl : execFmul f s = _) rfl, completes_compute (rfl : execFfma f s = _) rfl,
    completes_compute (rfl : execFmin f s = _) rfl, completes_compute (rfl : execFmax f s = _) rfl,
    completes_compute (rfl : execFcvt g s = _) rfl,
    fun h => ⟨addF_nan h r, mulF_nan h r, subF_nan h r, ?_, ?_⟩⟩
  · exact if_pos (isNan_or h)
  · exact if_pos (isNan_or h)

/-! ## Transfers of control (R156, R157) -/

/-- Settles O21: each transfer is `Core.jump` at its target with its penalty. -/
theorem controlTransfers : Obligations.ControlTransfers := by
  unfold Obligations.ControlTransfers
  intro f j c r l s pc at_ n
  refine ⟨completes_compute (rfl : execBr f s = _) rfl, completes_compute (rfl : execJmp j s = _) ?_,
    completes_compute (rfl : execCall c s = _) rfl, completes_compute (rfl : execRet r s = _) rfl,
    completes_compute (rfl : execLoopSet l s = _) rfl, completes_compute (rfl : execLoopEnd c s = _) rfl⟩
  cases j.t <;> rfl

/-! ## Predicates and fmt (R145, R180, R184–R186) -/

theorem fmtWrite_done {s : State} {v : Word} (hv : fmtLegal v = true) (hd : s.core.flagsDue s.core.elapsed = false)
    (f : Core → Core) : s.fmtWrite v f = .done (s.onCore f) := by
  simp [State.fmtWrite, hv, hd]

theorem fmtWrite_lock {s : State} {v : Word} (hv : fmtLegal v = true) (hd : s.core.flagsDue s.core.elapsed = true)
    (f : Core → Core) : s.fmtWrite v f = .lock := by
  simp [State.fmtWrite, hv, hd]

theorem fmtWrite_illegal {s : State} {v : Word} (hv : fmtLegal v = false) (f : Core → Core) :
    s.fmtWrite v f = .fault illegalOp 0 := by
  simp [State.fmtWrite, hv]

/-- The flags that FMT.SET writes are the six low bits of its value. -/
theorem withFlags_low (fmt v : Word) : withFlags fmt (v.setWidth 6) = setField fmt 0 6 (v.toNat % 64) := by
  rw [withFlags, BitVec.toNat_setWidth]

/-- Settles O24: FMT.SET answers by the test of R95 and the flags that are due, the others by their bodies. -/
theorem predicatesAndFmt : Obligations.PredicatesAndFmt := by
  unfold Obligations.PredicatesAndFmt
  intro f g r l m s a b x v w d due
  refine ⟨completes_compute (rfl : execPand f s = _) rfl, completes_compute (rfl : execPor f s = _) rfl,
    completes_compute (rfl : execPxor f s = _) rfl, completes_compute (rfl : execPnot g s = _) rfl,
    completes_compute (rfl : execPmov g s = _) rfl, completes_compute (rfl : execCycleRd r s = _) rfl,
    fun hdue => completes_issue (rfl : execFmtRd r s = _) ?_, fun hv hdue => completes_issue (rfl : execFmtSet r s = _) ?_,
    fun hv hdue h => exec_lock (rfl : execFmtSet r s = _) rfl h (fmtWrite_lock hv hdue _),
    fun hv h => exec_fault (i := .fmtSet r) (rfl : execFmtSet r s = _) rfl h (fmtWrite_illegal hv _),
    fun hv => completes_issue (rfl : execFmtSetH l s = _) (if_pos hv),
    fun hv hdue => completes_issue (rfl : execFmtSetC m s = _) (fmtWrite_done hv hdue _)⟩
  · exact (if_neg (by simp [hdue])).trans rfl
  · refine (fmtWrite_done hv hdue _).trans (congrArg (fun c => Res.done { s with core := c }) ?_)
    show s.core.setFmt v = _
    rw [Core.setFmt, withFlags_low]
    rfl

end Sys2Proof.Machine

namespace Sys2Proof.Machine

/-! ## Reset -/

@[simp] theorem State.coreAt_reset (w : Nat) : State.reset.coreAt w = if w = 0 then Core.reset else Core.fresh w := rfl

/-- Settles O1: every field is the one that `State.reset` writes down, for each core of cluster 0. -/
theorem resetState : Obligations.ResetState := by
  unfold Obligations.ResetState
  refine ⟨rfl, rfl, rfl, rfl, rfl, rfl, rfl, rfl, fun w _ => ?_, rfl, rfl, rfl, rfl, rfl, rfl, rfl, rfl, rfl, rfl, rfl, rfl, rfl,
    rfl, rfl⟩
  rw [State.coreAt_reset]
  split <;> rfl

/-- Settles O2: every store of the machine is empty. -/
theorem memWfReset : Obligations.MemWfReset := by
  unfold Obligations.MemWfReset
  decide

/-! ## What a step runs -/

@[simp] theorem State.focus_cur (s : State) : s.focus s.cur = s := if_pos rfl

theorem step_run {s : State} {w : Nat} {rest : List Turn} (h : s.agenda = .run w :: rest) :
    step s = runCore (({ s with agenda := rest } : State).focus w) := by
  simp only [step, stepFrom, h, takeTurn]

theorem step_event {s : State} {i : Instr} {rest : List Turn} (h : s.agenda = .event i :: rest) (hi : i.uses = none) :
    step s = exec i { s with agenda := rest } := by
  simp [step, stepFrom, h, takeTurn, hi]

theorem runCore_part {s : State} {n : Nat} {k : Slot} {i : Instr} (hb : s.core.busy = true) (hn : s.core.nextPart = some (n, k))
    (hi : bundlePart (s.core.focusOn n).lat.bits k = .ok i) : runCore s = exec i { s with core := s.core.focusOn n } := by
  simp [runCore, hb, hn, runPart, State.onCore, hi]

theorem runCore_idle {s : State} (hb : s.core.busy = false) (hl : s.core.lat.on = false) :
    runCore s = exec (.taskDispatch s.cur) s := by
  simp [runCore, hb, hl]

/-- What a busy core does when no part may issue. -/
theorem runCore_none {s : State} (hb : s.core.busy = true) (hn : s.core.nextPart = none) :
    runCore s =
      if s.front.core.lat.fault.isSome && s.front.settled && s.msgOpen s.core.task.part then .next s.front.takeNoted
      else if s.core.dispatchOpen then exec .bundleDispatch s
      else .next (passCore s s.cur 1) := by
  simp [runCore, hb, hn]

/-- Settles O4: one clause for each branch of `runCore`, and two for the turns of the agenda. -/
theorem stepRunsDecodedPart : Obligations.StepRunsDecodedPart := by
  unfold Obligations.StepRunsDecodedPart
  intro s rest t fault
  have hrun : s.agenda = .run s.cur :: rest → step s = runCore t := fun h =>
    (step_run h).trans (congrArg runCore (State.focus_cur t))
  refine ⟨fun n k i ha hb hn hi => (hrun ha).trans (runCore_part hb hn hi), fun ha hb hn => ?_,
    fun ha hb hl => (hrun ha).trans (runCore_idle hb hl), fun w ha => step_run ha, fun i ha hi => step_event ha hi⟩
  have hnone : step s = if fault = true then .next t.front.takeNoted
      else if t.core.dispatchOpen = true then exec .bundleDispatch t else .next (passCore t t.cur 1) :=
    (hrun ha).trans (runCore_none (s := t) hb hn)
  exact ⟨fun hf => hnone.trans (if_pos hf), fun hf hd => (hnone.trans (if_neg (ne_true_of_eq_false hf))).trans (if_pos hd),
    fun hf hd => (hnone.trans (if_neg (ne_true_of_eq_false hf))).trans (if_neg (ne_true_of_eq_false hd))⟩

/-! ## A placed bundle (log entry 10) -/

@[simp] theorem placeBundle_agenda (s : State) (b : BundleWord) : (placeBundle s b).agenda = .run s.cur :: s.agenda := rfl
@[simp] theorem placeBundle_cur (s : State) (b : BundleWord) : (placeBundle s b).cur = s.cur := rfl

/-- The placed bundle is all that is in flight, and has its turn: its first part issues next. -/
theorem placeBundle_nextPart {s : State} {b : BundleWord} {k : Slot} {ks : List Slot} (h : bundleSlots b = k :: ks) :
    (placeBundle s b).core.nextPart = some (0, k) := by
  simp [placeBundle, Core.nextPart, Core.flight, h, Core.mayIssue, Core.queueAt, Core.queuesAt]

@[simp] theorem placeBundle_focusOn (s : State) (b : BundleWord) : (placeBundle s b).core.focusOn 0 = (placeBundle s b).core := rfl

/-- The instruction that a table word is read as stands in the first valid slot. -/
theorem decodeTableWord_some {nbits w : Nat} {i : Instr} (h : decodeTableWord nbits w = some i) :
    ∃ k ks, bundleSlots (BitVec.ofNat 384 (w % 2 ^ nbits)) = k :: ks ∧
      bundlePart (BitVec.ofNat 384 (w % 2 ^ nbits)) k = .ok i := by
  unfold decodeTableWord firstPart at h
  split at h <;> cases h
  rename_i hfirst
  split at hfirst
  · cases hfirst
  · exact ⟨_, _, ‹_›, hfirst⟩

/-- Settles O5. -/
theorem placedWordRuns : Obligations.PlacedWordRuns := by
  unfold Obligations.PlacedWordRuns
  intro s nbits w i h
  obtain ⟨k, ks, hslots, hpart⟩ := decodeTableWord_some h
  refine ⟨?_, rfl, rfl⟩
  refine (step_run (placeBundle_agenda s _)).trans ?_
  refine (congrArg runCore (State.focus_cur ({ s.withFetchWord nbits w with agenda := s.agenda } : State))).trans ?_
  exact runCore_part (n := 0) (k := k) rfl (placeBundle_nextPart hslots) hpart

/-- Settles O6, word by word. -/
theorem decodeWords : Obligations.DecodeWords := by
  unfold Obligations.DecodeWords
  decide +kernel

end Sys2Proof.Machine

namespace Sys2Proof.Machine

/-! ## What a part that only computes leaves alone (R118, R137) -/

/-- A core without what a part that computes, and its issuing, may change. -/
def Core.still (c : Core) : Core :=
  { c with
    live := Regs.reset, old := [], lands := [], fmtQ := [], flagQ := [], older := [], lat := {}, younger := [], pace := []
    hist := [], nominal := 0, srnd := 1, scb := false, chainEn := false, tok := 0, regBad := [], task := { c.task with pc := 0 } }

/-- Two cores that agree in that much differ in nothing else. -/
theorem Core.still_rest {c d : Core} (h : d.still = c.still) : ({ d with
    live := c.live, old := c.old, lands := c.lands, fmtQ := c.fmtQ, flagQ := c.flagQ, older := c.older, lat := c.lat
    younger := c.younger, pace := c.pace, hist := c.hist, nominal := c.nominal, srnd := c.srnd, scb := c.scb
    chainEn := c.chainEn, tok := c.tok, regBad := c.regBad, task := { d.task with pc := c.task.pc } } : Core) = c := by
  have hc := congrArg (fun e : Core => ({ e with
    live := c.live, old := c.old, lands := c.lands, fmtQ := c.fmtQ, flagQ := c.flagQ, older := c.older, lat := c.lat
    younger := c.younger, pace := c.pace, hist := c.hist, nominal := c.nominal, srnd := c.srnd, scb := c.scb
    chainEn := c.chainEn, tok := c.tok, regBad := c.regBad, task := { e.task with pc := c.task.pc } } : Core)) h
  exact hc

theorem Core.still_elapsed {c d : Core} (h : d.still = c.still) : d.elapsed = c.elapsed := by
  have he := congrArg Core.elapsed h
  exact he

/-- Every bundle in flight, whether or not one is in focus. -/
def Core.bundles (c : Core) : List Latch := c.older ++ c.lat :: c.younger

/-- d is c but for the registers ws, flags that are raised, draws of CORE.SRND, a transfer and the notes of its bundles. -/
structure Core.OnlyWrites (ws : List RegRef) (raises draws : Bool) (c d : Core) : Prop where
  still : d.still = c.still
  get : ∀ l, (∀ r ∈ ws, c.locOf r ≠ some l) → d.live.get l = c.live.get l
  frame : d.live.frame = c.live.frame
  fmt : d.live.fmt = c.live.fmt
  fmtQ : d.fmtQ = c.fmtQ
  view : d.view = c.view
  sysw : (∀ b ∈ c.bundles, b.sysw = []) → ∀ b ∈ d.bundles, b.sysw = []
  scb : d.scb = c.scb
  chainEn : d.chainEn = c.chainEn
  tok : d.tok = c.tok
  srnd : draws = false → d.srnd = c.srnd
  flags : ∃ x, d.flagQ = c.flagQ ++ x ∧ (raises = false → x = []) ∧ ∀ y ∈ x, c.elapsed ≤ y.1

namespace Core.OnlyWrites
variable {ws : List RegRef} {raises draws : Bool} {c d : Core}

theorem refl (c : Core) : OnlyWrites ws raises draws c c :=
  ⟨rfl, fun _ _ => rfl, rfl, rfl, rfl, rfl, id, rfl, rfl, rfl, fun _ => rfl, [], (List.append_nil _).symm, fun _ => rfl, by simp⟩

theorem writeLoc (h : OnlyWrites ws raises draws c d) (k : Slot) (lat : Nat) {l : Loc} (v : Nat)
    (hl : ∃ r ∈ ws, d.locOf r = some l) : OnlyWrites ws raises draws c (d.writeLoc k lat l v) where
  still := h.still
  get m hm := by
    obtain ⟨r, hr, hrl⟩ := hl
    rw [Core.locOf_view h.view] at hrl
    rw [Core.writeLoc_get_ne, h.get m hm]
    rintro rfl
    exact hm r hr hrl
  frame := (Core.writeLoc_frame ..).1.trans h.frame
  fmt := (Core.writeLoc_frame ..).2.trans h.fmt
  fmtQ := h.fmtQ
  view := (congrArg d.lat.frame.getD (Core.writeLoc_frame ..).1).trans h.view
  sysw hs b hb := by
    have hd := h.sysw hs
    simp only [bundles, List.mem_append, List.mem_cons] at hb hd
    rcases hb with hb | rfl | hb
    · exact hd b (.inl hb)
    · exact hd d.lat (.inr (.inl rfl))
    · exact hd b (.inr (.inr hb))
  scb := h.scb
  chainEn := h.chainEn
  tok := h.tok
  srnd := h.srnd
  flags := h.flags

theorem writeOpt (h : OnlyWrites ws raises draws c d) (k : Slot) (lat : Nat) {o : Option Loc} (v : Nat)
    (ho : ∀ l, o = some l → ∃ r ∈ ws, d.locOf r = some l) : OnlyWrites ws raises draws c (d.writeOpt k lat o v) := by
  cases o with
  | none => exact h
  | some l => exact h.writeLoc k lat v (ho l rfl)

theorem writeS (h : OnlyWrites ws raises draws c d) (k : Slot) (lat : Nat) {i : SReg} (v : Word) (hi : .s i ∈ ws) :
    OnlyWrites ws raises draws c (d.writeS k lat i v) := h.writeOpt k lat _ fun _ hl => ⟨_, hi, hl⟩

theorem writeP (h : OnlyWrites ws raises draws c d) (k : Slot) (lat : Nat) {i : PReg} (v : Bool) (hi : .p i ∈ ws) :
    OnlyWrites ws raises draws c (d.writeP k lat i v) := h.writeOpt k lat _ fun _ hl => ⟨_, hi, hl⟩

theorem writeM (h : OnlyWrites ws raises draws c d) (k : Slot) (lat : Nat) {i : MReg} (v : Quad) (hi : .m i ∈ ws) :
    OnlyWrites ws raises draws c (d.writeM k lat i v) := h.writeOpt k lat _ fun _ hl => ⟨_, hi, hl⟩

theorem writeN (h : OnlyWrites ws raises draws c d) (lat : Nat) {i : NReg} (v : Quad) (hi : .n i ∈ ws) :
    OnlyWrites ws raises draws c (d.writeN lat i v) := h.writeLoc .c lat _ ⟨_, hi, rfl⟩

/-- A vector written whole. -/
theorem writeVec (h : OnlyWrites ws raises draws c d) (k : Slot) (lat : Nat) {i : VReg} (v : Nat) (hi : .v i ∈ ws) :
    OnlyWrites ws raises draws c (d.writeLoc k lat (.v i) v) := h.writeLoc k lat v ⟨_, hi, rfl⟩

theorem raise (h : OnlyWrites ws raises draws c d) (lat : Nat) {f : Flags} (hf : raises = false → f = 0) :
    OnlyWrites ws raises draws c (d.raise lat f) := by
  unfold Core.raise
  split
  next => exact h
  next hne =>
    obtain ⟨x, hx, hr, ht⟩ := h.flags
    refine ⟨h.still, h.get, h.frame, h.fmt, h.fmtQ, h.view, h.sysw, h.scb, h.chainEn, h.tok, h.srnd,
      x ++ [(d.elapsed + lat, f)], by simp [hx], fun he => absurd (hf he) hne, fun y hy => ?_⟩
    rcases List.mem_append.1 hy with hy | hy
    · exact ht y hy
    · rw [List.mem_singleton.1 hy, Core.still_elapsed h.still]
      exact Nat.le_add_right ..

theorem jump (h : OnlyWrites ws raises draws c d) (t : Half) (n : Nat) : OnlyWrites ws raises draws c (d.jump t n) where
  still := h.still
  get := h.get
  frame := h.frame
  fmt := h.fmt
  fmtQ := h.fmtQ
  view := h.view
  sysw hs b hb := by
    have hd := h.sysw hs
    simp only [bundles, List.mem_append, List.mem_cons] at hb hd
    rcases hb with hb | rfl | hb
    · exact hd b (.inl hb)
    · exact hd d.lat (.inr (.inl rfl))
    · exact hd b (.inr (.inr hb))
  scb := h.scb
  chainEn := h.chainEn
  tok := h.tok
  srnd := h.srnd
  flags := h.flags

theorem setSrnd (h : OnlyWrites ws raises true c d) (x : Word) : OnlyWrites ws raises true c (d.setSrnd x) where
  still := h.still
  get := h.get
  frame := h.frame
  fmt := h.fmt
  fmtQ := h.fmtQ
  view := h.view
  sysw hs b hb := by
    have hd := h.sysw hs
    simp only [bundles, Core.setSrnd, List.mem_append, List.mem_cons, List.mem_map] at hb hd
    rcases hb with ⟨b, hb, rfl⟩ | rfl | hb
    · exact hd b (.inl hb)
    · exact hd d.lat (.inr (.inl rfl))
    · exact hd b (.inr (.inr hb))
  scb := h.scb
  chainEn := h.chainEn
  tok := h.tok
  srnd := nofun
  flags := h.flags

theorem ite {p : Prop} [Decidable p] {e : Core} (h : OnlyWrites ws raises draws c d) (g : OnlyWrites ws raises draws c e) :
    OnlyWrites ws raises draws c (if p then d else e) := by
  split
  · exact h
  · exact g

end Core.OnlyWrites

/-! ## Vectors written under a mask -/

/-- Lanes that raise no flag leave none. -/
theorem lane_flags_zero {t : Fmt} {m : Quad} {mz : Bool} {old : Nat} {f : Nat → Nat × Flags} (hf : ∀ n, (f n).2 = 0) :
    (maskedLanes t m mz old f).foldl (fun (a : Flags) r => a ||| r.2) 0 = 0 := by
  have hz : ∀ r ∈ maskedLanes t m mz old f, r.2 = 0 := by
    simp only [maskedLanes, List.mem_map]
    rintro r ⟨n, -, rfl⟩
    split
    · exact hf n
    · rfl
  generalize maskedLanes t m mz old f = rs at hz
  induction rs with
  | nil => rfl
  | cons r rs ih =>
    simp only [List.mem_cons, forall_eq_or_imp] at hz
    rw [List.foldl_cons, hz.1]
    exact ih hz.2

namespace Core.OnlyWrites
variable {ws : List RegRef} {raises draws : Bool} {c d : Core}

theorem putV (h : OnlyWrites ws raises draws c d) (t : Fmt) (lat : Nat) {i : VReg} (m : MReg) (mz : Bool)
    {f : Nat → Nat × Flags} (hi : .v i ∈ ws) (hf : raises = false → ∀ n, (f n).2 = 0) :
    OnlyWrites ws raises draws c (d.putV t lat i m mz f) :=
  (h.writeVec .v lat _ hi).raise lat fun hr => lane_flags_zero (hf hr)

theorem putAll (h : OnlyWrites ws raises draws c d) (t : Fmt) (lat : Nat) {i : VReg} (f : Nat → Nat) (hi : .v i ∈ ws) :
    OnlyWrites ws raises draws c (d.putAll t lat i f) := h.writeVec .v lat _ hi

theorem convert (h : OnlyWrites ws true draws c d) (v : Conv) {i : VReg} (m : MReg) (mz : Bool) {sto : Bool}
    (conv : Word → Nat → Nat × Flags) (hi : .v i ∈ ws) (hs : draws = false → sto = false) :
    OnlyWrites ws true draws c (d.convert v i m mz sto conv) := by
  refine OnlyWrites.raise ?_ 4 nofun
  cases sto
  · exact h.writeVec .v 4 _ hi
  · cases draws
    · cases hs rfl
    · exact (h.setSrnd _).writeVec .v 4 _ hi

end Core.OnlyWrites

theorem absLane_flags (t : Fmt) (sat : Bool) (a : Nat) : (absLane t sat a).2 = 0 := by
  unfold absLane; split <;> rfl

theorem negLane_flags (t : Fmt) (sat : Bool) (a : Nat) : (negLane t sat a).2 = 0 := by
  unfold negLane; split <;> rfl

end Sys2Proof.Machine

namespace Sys2Proof.Machine

/-- What issuing adds to the effect of a part changes nothing that a part which computes leaves alone. -/
theorem Core.finish_still (c : Core) (k : Slot) : (c.finish k).still = c.still := by
  have hretire : ∀ d : Core, d.retire.still = d.still := fun d => by
    refine Eq.trans ?_ (Core.leaveFront_keeps Core.still (fun c w => ?_) (fun _ _ _ _ _ => rfl) d d.flight)
    · rfl
    · unfold Core.sysApply
      (repeat' split) <;> rfl
  unfold Core.finish
  simp only
  split
  · exact hretire _
  · rfl

theorem State.mend_core (s : State) (ws : List RegRef) :
    ∃ bad, (s.mend ws).core = { s.core with regBad := bad } := by
  unfold State.mend
  split
  · exact ⟨s.core.regBad, rfl⟩
  · exact ⟨_, rfl⟩

/-- A part that issues: the core as mended, and finished. -/
theorem State.issued_core {i : Instr} {u : Uses} (hu : i.uses = some u) (t : State) :
    ∃ bad, t.issued i = { t with core := ({ t.core with regBad := bad } : Core).finish u.slot } := by
  simp only [State.issued, hu, State.finish]
  unfold State.mend
  split
  · exact ⟨t.core.regBad, rfl⟩
  · exact ⟨_, rfl⟩

/-- What issuing itself changes (R118). -/
theorem State.issued_frame (i : Instr) (t : State) :
    ({ t.issued i with core := t.core } : State) = t ∧ (t.issued i).core.still = t.core.still ∧
    (∀ l, (t.issued i).core.live.get l = t.core.live.get l) ∧ (t.issued i).core.live.frame = t.core.live.frame := by
  cases hu : i.uses with
  | none => simp [State.issued, hu]
  | some u =>
    obtain ⟨bad, h⟩ := State.issued_core hu t
    rw [h]
    exact ⟨rfl, Core.finish_still _ _, fun l => Core.finish_get _ _ l, Core.finish_frame _ _⟩

/-! ## What finishing keeps when no SYS.WR is pending -/

/-- The registers of SYS.WR. -/
def Core.sysRegs (c : Core) : Bool × Bool × Half × Word := (c.scb, c.chainEn, c.tok, c.srnd)

theorem Core.leaveFront_sysRegs (bs : List Latch) (h : ∀ b ∈ bs, b.sysw = []) (c : Core) :
    (c.leaveFront bs).sysRegs = c.sysRegs := by
  induction bs generalizing c with
  | nil => rfl
  | cons b rest ih =>
    simp only [List.mem_cons, forall_eq_or_imp] at h
    unfold Core.leaveFront
    split
    · exact (ih h.2 _).trans (by rw [Core.applySys, h.1]; rfl)
    · rfl

/-- The bundles in flight are some of the bundles that the core holds. -/
theorem Core.flight_bundles (c : Core) : ∀ b ∈ c.flight, b ∈ c.bundles := by
  unfold Core.flight Core.bundles
  split <;> simp

theorem Core.finish_sysRegs {c : Core} (h : ∀ b ∈ c.bundles, b.sysw = []) (k : Slot) : (c.finish k).sysRegs = c.sysRegs := by
  unfold Core.finish
  simp only
  split
  · refine (Core.leaveFront_sysRegs _ (fun b hb => ?_) _ :)
    have hb := Core.flight_bundles _ b hb
    simp only [Core.bundles, List.mem_append, List.mem_cons] at hb h
    rcases hb with hb | rfl | hb
    · exact h b (.inl hb)
    · exact h c.lat (.inr (.inl rfl))
    · exact h b (.inr (.inr hb))
  · rfl

/-! ## fmt and its flags through retirement -/

theorem withConfig_flags (f q : Word) : field (withConfig f q) 0 6 = field f 0 6 := by
  simp only [withConfig, setField, field, BitVec.toNat_ofNat]
  omega

theorem Core.mature_flags (c : Core) (n : Nat) : field (c.mature n).live.fmt 0 6 = field c.live.fmt 0 6 :=
  foldl_keeps (fun f : Word => field f 0 6) _ (fun f q => by
    split
    · exact withConfig_flags ..
    · rfl) _ _

theorem Core.mature_none {c : Core} (h : c.fmtQ = []) (n : Nat) : (c.mature n).live.fmt = c.live.fmt ∧ (c.mature n).fmtQ = [] := by
  simp [Core.mature, Core.fmtAt, h]

/-- A property of the cores that mature and leave alike holds of the core that a part finishes. -/
theorem Core.finish_of_retire {P : Core → Prop} (c : Core) (k : Slot)
    (h : ∀ d : Core, d.live = c.live → d.fmtQ = c.fmtQ → d.flagQ = c.flagQ → P d ∧ P d.retire) : P (c.finish k) := by
  unfold Core.finish
  simp only
  split
  · refine (h _ ?_ ?_ ?_).2 <;> rfl
  · refine (h _ ?_ ?_ ?_).1 <;> rfl

/-- Leaving bundles change neither fmt nor what waits to show in it. -/
theorem Core.leaveFront_fmt (c : Core) (bs : List Latch) :
    (c.leaveFront bs).live = c.live ∧ (c.leaveFront bs).fmtQ = c.fmtQ ∧ (c.leaveFront bs).flagQ = c.flagQ :=
  ⟨Core.leaveFront_keeps Core.live (by intros; simp) (by intros; rfl) _ _,
    Core.leaveFront_keeps Core.fmtQ (by intros; simp) (by intros; rfl) _ _,
    Core.leaveFront_keeps Core.flagQ (by intros; simp) (by intros; rfl) _ _⟩

theorem Core.finish_flagQ (c : Core) (k : Slot) : (c.finish k).flagQ = c.flagQ :=
  Core.finish_of_retire (P := fun d => d.flagQ = c.flagQ) c k fun d _ _ hf => ⟨hf, (Core.leaveFront_fmt d _).2.2.trans hf⟩

theorem Core.finish_flags (c : Core) (k : Slot) : field (c.finish k).live.fmt 0 6 = field c.live.fmt 0 6 :=
  Core.finish_of_retire (P := fun d => field d.live.fmt 0 6 = field c.live.fmt 0 6) c k fun d hl _ _ =>
    ⟨by rw [hl], (Core.mature_flags _ _).trans (by rw [(Core.leaveFront_fmt d _).1, hl])⟩

theorem Core.finish_config {c : Core} (h : c.fmtQ = []) (k : Slot) :
    (c.finish k).live.fmt = c.live.fmt ∧ (c.finish k).fmtQ = [] :=
  Core.finish_of_retire (P := fun d => d.live.fmt = c.live.fmt ∧ d.fmtQ = []) c k fun d hl hq _ => by
    obtain ⟨hlive, hfmtQ, -⟩ := Core.leaveFront_fmt d d.flight
    obtain ⟨h1, h2⟩ := Core.mature_none (c := d.leaveFront d.flight) (by rw [hfmtQ, hq, h]) (d.leaveFront d.flight).horizon
    exact ⟨⟨by rw [hl], hq.trans h⟩, h1.trans (by rw [hlive, hl]), h2⟩

/-! ## The instructions that only compute -/

theorem exists_compute {i : Instr} {P : (Core → Core) → Prop} {f : Core → Core} (hx : ∀ s, exec i s = s.compute i f) (h : P f) :
    ∃ f : Core → Core, (∀ s, exec i s = s.compute i f) ∧ P f := ⟨f, hx, h⟩

/-- Every instruction that works on registers alone is a computation that writes its registers, FMT.RD apart. -/
theorem registerOnly_computes {i : Instr} {u : Uses} (hr : i.registerOnly = true) (hu : i.uses = some u)
    (hf : ∀ f, i ≠ .fmtRd f) :
    ∃ f : Core → Core, (∀ s, exec i s = s.compute i f) ∧ ∀ c, Core.OnlyWrites u.writes i.raises i.draws c (f c) := by
  cases i <;> simp only [Instr.registerOnly, Bool.false_eq_true] at hr <;> obtain rfl := Option.some.inj hu
  case fmtRd f => exact absurd rfl (hf f)
  all_goals refine exists_compute (fun s => by unfold exec; exact rfl) fun c => ?_
  case br f | jmp f | ret f =>
    exact (Core.OnlyWrites.refl c).jump _ _
  case call f =>
    exact ((Core.OnlyWrites.refl c).writeS _ _ _ (by simp)).jump _ _
  case loopEnd f =>
    exact .ite (((Core.OnlyWrites.refl c).writeS _ _ _ (by simp)).jump _ _)
      ((Core.OnlyWrites.refl c).writeS _ _ _ (by simp))
  case nameSetField f | nameSetWhole f | nameSetCopy f | nameAdd f =>
    exact (Core.OnlyWrites.refl c).writeN _ _ (by simp)
  case pand f | por f | pxor f | pnot f | pmov f | cmpCc f | cmpiCc f | fcmpCc f =>
    exact (Core.OnlyWrites.refl c).writeP _ _ _ (by simp)
  case loopSet f | cycleRd f | add f | addi f | sub f | mul f | mulh f | mulhN f | div f | divN f | rem f | remN f | min f | minN f
      | max f | maxN f | and f | or f | xor f | andn f | shl f | shr f | shrN f | rot f | clz f | ctz f | popc f | bfx f | bfi f
      | sext f | zext f | mov f | movi f | moviZ f | moviH f | sel f | lea f | vext f | vpopc f =>
    exact (Core.OnlyWrites.refl c).writeS _ _ _ (by simp)
  case fadd f | fsub f | fmul f | ffma f =>
    exact ((Core.OnlyWrites.refl c).writeS _ _ _ (by simp)).raise _ nofun
  case fmin f | fmax f =>
    exact ((Core.OnlyWrites.refl c).writeS _ _ _ (by simp)).raise _ fun _ => rfl
  case fcvt f =>
    refine Core.OnlyWrites.raise ?_ _ nofun
    refine Core.OnlyWrites.writeS (.ite ?_ (.refl c)) _ _ _ (by simp)
    exact (Core.OnlyWrites.refl c).setSrnd _
  case vadd f | vsub f | vmul f | vfma f | vscanAdd f | vrcpE f | vrsqE f | vexp2 f | vlog2 f | vscl f =>
    exact (Core.OnlyWrites.refl c).putV _ _ _ _ (by simp) nofun
  case vmin f | vmax f | vand f | vor f | vxor f | vshl f | vshr f | vcas f | viota f =>
    exact (Core.OnlyWrites.refl c).putV _ _ _ _ (by simp) fun _ _ => rfl
  case vabs f =>
    exact (Core.OnlyWrites.refl c).putV _ _ _ _ (by simp) fun _ _ => absLane_flags ..
  case vneg f =>
    exact (Core.OnlyWrites.refl c).putV _ _ _ _ (by simp) fun _ _ => negLane_flags ..
  case vcasX f =>
    exact ((Core.OnlyWrites.refl c).putV _ _ _ _ (by simp) fun _ _ => rfl).putV _ _ _ _ (by simp)
      fun _ _ => rfl
  case vcmpCc f | mand f | mor f | mnot f =>
    exact (Core.OnlyWrites.refl c).writeM _ _ _ (by simp)
  case vsel f | vperm f | vperm2 f | vbcastScalar f | vbcastLane f | vbcastLiteral f | vshuf f =>
    exact (Core.OnlyWrites.refl c).putAll _ _ _ (by simp)
  case vmovS f =>
    exact (Core.OnlyWrites.refl c).writeVec _ _ _ (by simp)
  case vredAdd f =>
    exact .ite (((Core.OnlyWrites.refl c).writeS _ _ _ (by simp)).raise _ nofun)
      ((Core.OnlyWrites.refl c).writeS _ _ _ (by simp))
  case vredMax f | vredMin f =>
    exact .ite ((Core.OnlyWrites.refl c).writeS _ _ _ (by simp))
      ((Core.OnlyWrites.refl c).writeS _ _ _ (by simp))
  case vcvt f | vpack f =>
    exact (Core.OnlyWrites.refl c).convert _ _ _ _ (by simp) nofun
  case vunpack f =>
    exact (Core.OnlyWrites.refl c).convert _ _ _ _ (by simp) fun _ => rfl

end Sys2Proof.Machine

namespace Sys2Proof.Machine

/-- The bounds of RegisterFrame on the core d that a part of the registers ws leaves of c. -/
structure Core.Framed (ws : List RegRef) (raises draws : Bool) (c d : Core) : Prop where
  still : d.still = c.still
  get : ∀ l, (∀ r ∈ ws, c.locOf r ≠ some l) → d.live.get l = c.live.get l
  frame : d.live.frame = c.live.frame
  sys : (∀ b ∈ c.bundles, b.sysw = []) → d.scb = c.scb ∧ d.chainEn = c.chainEn ∧ d.tok = c.tok ∧ (draws = false → d.srnd = c.srnd)
  config : c.fmtQ = [] → field d.live.fmt 6 58 = field c.live.fmt 6 58 ∧ d.fmtQ = []
  flags : field d.live.fmt 0 6 = field c.live.fmt 0 6
  raised : ∃ x, d.flagQ = c.flagQ ++ x ∧ (raises = false → x = []) ∧ ∀ y ∈ x, c.elapsed ≤ y.1

section
variable {ws : List RegRef} {raises draws : Bool} {c d : Core} (h : Core.OnlyWrites ws raises draws c d)
include h

theorem Core.OnlyWrites.framed : Core.Framed ws raises draws c d where
  still := h.still
  get := h.get
  frame := h.frame
  sys _ := ⟨h.scb, h.chainEn, h.tok, h.srnd⟩
  config hq := ⟨by rw [h.fmt], h.fmtQ.trans hq⟩
  flags := by rw [h.fmt]
  raised := h.flags

/-- Issuing stays within the bounds. -/
theorem Core.OnlyWrites.framed_finish (bad : List RegRef) (k : Slot) :
    Core.Framed ws raises draws c (({ d with regBad := bad } : Core).finish k) where
  still := (Core.finish_still ..).trans h.still
  get l hl := (Core.finish_get ..).trans (h.get l hl)
  frame := (Core.finish_frame ..).trans h.frame
  sys hs := by
    have hsys := Core.finish_sysRegs (c := { d with regBad := bad }) (h.sysw hs) k
    simp only [Core.sysRegs, Prod.mk.injEq] at hsys
    obtain ⟨hscb, hchain, htok, hsrnd⟩ := hsys
    exact ⟨hscb.trans h.scb, hchain.trans h.chainEn, htok.trans h.tok, fun hd => hsrnd.trans (h.srnd hd)⟩
  config hq := by
    obtain ⟨hfmt, hnone⟩ := Core.finish_config (c := { d with regBad := bad }) (h.fmtQ.trans hq) k
    exact ⟨by rw [hfmt, h.fmt], hnone⟩
  flags := (Core.finish_flags ..).trans (by rw [h.fmt])
  raised := by
    rw [Core.finish_flagQ]
    exact h.flags

end

/-- A part that waits for an interlock of its unit changes nothing but the progress of its bundle. -/
theorem Core.framed_lockPart (ws : List RegRef) (raises draws : Bool) (s : State) (k : Slot) :
    Core.Framed ws raises draws s.core (s.lockPart k).core where
  still := rfl
  get _ _ := rfl
  frame := rfl
  sys _ := ⟨rfl, rfl, rfl, fun _ => rfl⟩
  config hq := ⟨rfl, hq⟩
  flags := rfl
  raised := ⟨[], (List.append_nil _).symm, fun _ => rfl, by simp⟩

/-- A part that writes its registers alone leaves a machine within the bounds. -/
theorem framed_ran {i : Instr} {u : Uses} {s : State} {c : Core} (hu : i.uses = some u)
    (h : Core.OnlyWrites u.writes i.raises i.draws s.core c) :
    ({ s.ran i c with core := s.core } : State) = s ∧ Core.Framed u.writes i.raises i.draws s.core (s.ran i c).core := by
  obtain ⟨bad, hran⟩ := State.issued_core hu ({ s with core := c } : State)
  rw [State.ran, hran]
  exact ⟨rfl, h.framed_finish bad u.slot⟩

/-- The next state of an instruction that works on registers alone (R118, R137). -/
theorem registerOnly_framed {i : Instr} {u : Uses} {s : State} (hr : i.registerOnly = true) (hu : i.uses = some u)
    (hready : s.readyFor i = true) :
    ∃ t, exec i s = .next t ∧ ({ t with core := s.core } : State) = s ∧ Core.Framed u.writes i.raises i.draws s.core t.core := by
  by_cases hf : ∃ f, i = .fmtRd f
  · obtain ⟨f, rfl⟩ := hf
    obtain rfl := Option.some.inj hu
    by_cases hdue : s.core.flagsDue (s.core.elapsed + 1) = true
    · exact ⟨_, exec_lock (rfl : execFmtRd f s = _) rfl hready (if_pos hdue), rfl, Core.framed_lockPart ..⟩
    · exact ⟨_, issue_done (body := fun s => _) hready (if_neg hdue),
        framed_ran (i := .fmtRd f) rfl ((Core.OnlyWrites.refl _).writeS _ _ _ (by simp))⟩
  · obtain ⟨g, hx, hg⟩ := registerOnly_computes hr hu fun f h => hf ⟨f, h⟩
    exact ⟨_, (hx s).trans (compute_ready hready), framed_ran hu (hg s.core)⟩

/-- Settles O9: the instructions by `registerOnly_framed`, issuing by `issued_frame`. -/
theorem registerFrame : Obligations.RegisterFrame := by
  unfold Obligations.RegisterFrame
  refine ⟨fun i u s hr hu hready => ?_, fun i t => ?_⟩
  · obtain ⟨t, hx, hrest, hf⟩ := registerOnly_framed hr hu hready
    exact ⟨t, hx, hrest, Core.still_rest hf.still, hf.get, hf.frame, hf.sys, hf.config, hf.flags, hf.raised⟩
  · obtain ⟨hrest, hstill, hget, hframe⟩ := State.issued_frame i t
    exact ⟨hrest, Core.still_rest hstill, hget, hframe⟩

end Sys2Proof.Machine

namespace Sys2Proof.Machine

/-! ## What translation and DRAM accesses leave alone (R321–R327, R332–R335) -/

def Cluster.sansTlb (c : Cluster) : Cluster := { c with tlb := [] }

/-- A machine without DRAM, TLBs and the counter of free values. -/
def State.sansMem (s : State) : State :=
  { s with hbm := { bytes := [], empty := [], defer := [], poison := [], tags := [] }, freeCtr := 0, clusters := []
           core := { s.core with utlb := [] }, wafer := { s.wafer with fieldTlb := [] } }

/-- t is s but for DRAM, TLBs and the counter of free values. -/
structure State.Accessed (s t : State) : Prop where
  rest : t.sansMem = s.sansMem
  cluster : ∀ q, (t.clusterAt q).sansTlb = (s.clusterAt q).sansTlb

namespace State.Accessed
variable {s t u : State}

theorem refl (s : State) : s.Accessed s := ⟨rfl, fun _ => rfl⟩

theorem trans (h : s.Accessed t) (g : t.Accessed u) : s.Accessed u :=
  ⟨g.rest.trans h.rest, fun q => (g.cluster q).trans (h.cluster q)⟩

/-- Any part of the machine that the relation fixes. -/
theorem congr {α : Type} (h : s.Accessed t) (f : State → α) (hf : ∀ r : State, f r = f r.sansMem) : f t = f s := by
  rw [hf t, hf s, h.rest]

theorem core (h : s.Accessed t) : ({ t.core with utlb := s.core.utlb } : Core) = s.core :=
  h.congr (fun r => ({ r.core with utlb := s.core.utlb } : Core)) fun _ => rfl

theorem cur (h : s.Accessed t) : t.cur = s.cur := h.congr State.cur fun _ => rfl
theorem others (h : s.Accessed t) : t.others = s.others := h.congr State.others fun _ => rfl
theorem parts (h : s.Accessed t) : t.parts = s.parts := h.congr State.parts fun _ => rfl
theorem recs (h : s.Accessed t) : t.recs = s.recs := h.congr State.recs fun _ => rfl

theorem ite {p : Prop} [Decidable p] (h : s.Accessed t) (g : s.Accessed u) : s.Accessed (if p then t else u) := by
  split
  · exact h
  · exact g

theorem chosen (h : s.Accessed t) (n : Nat) : s.Accessed (t.chosen n) := by
  unfold State.chosen
  split
  · exact h
  · exact h.trans ⟨rfl, fun _ => rfl⟩

theorem readPa (h : s.Accessed t) (pa n gran key : Nat) : s.Accessed (t.readPa pa n gran key).1 := by
  unfold State.readPa
  simp only
  split
  · exact h
  · split
    · exact h
    · exact h.trans ⟨rfl, fun _ => rfl⟩

theorem writePa (h : s.Accessed t) (pa : Nat) (bs : List Byte) (gran key : Nat) : s.Accessed (t.writePa pa bs gran key) :=
  h.trans ⟨rfl, fun _ => rfl⟩

theorem readPte (h : s.Accessed t) (a : Nat) : s.Accessed (t.readPte a).1 := h.readPa ..

theorem walkFrom (va : Nat) : ∀ (level table : Nat) {t : State}, s.Accessed t → s.Accessed (t.walkFrom va level table).1
  | 0, table, t, h => by
    have hr := h.readPte (table + 8 * walkIndex va 0)
    unfold State.walkFrom
    simp only
    repeat' split
    exacts [h, hr, hr, hr, hr]
  | l + 1, table, t, h => by
    have hr := h.readPte (table + 8 * walkIndex va (l + 1))
    unfold State.walkFrom
    simp only
    repeat' split
    exacts [h, hr, hr, hr, hr, walkFrom va l _ hr]

/-- A fold of accesses. -/
theorem foldl {α β : Type} {f : State × β → α → State × β} (hf : ∀ acc a, s.Accessed acc.1 → s.Accessed (f acc a).1)
    (l : List α) {acc : State × β} (h : s.Accessed acc.1) : s.Accessed (l.foldl f acc).1 :=
  List.foldlRecOn l f (motive := fun acc => s.Accessed acc.1) h fun acc hacc a _ => hf acc a hacc

theorem readGroup (h : s.Accessed t) (a : Nat) : s.Accessed (t.readGroup a).1 := by
  refine foldl (fun acc i hacc => ?_) _ h
  exact hacc.readPte _

theorem leafEntry (h : s.Accessed t) (p tenant va : Nat) (l : Leaf) : s.Accessed (t.leafEntry p tenant va l).1 := by
  have hg : s.Accessed (if bitAt l.entry 4 then t.readGroup l.at_ else (t, [])).1 := by
    split
    · exact h.readGroup _
    · exact h
  unfold State.leafEntry
  simp only
  generalize (if bitAt l.entry 4 then t.readGroup l.at_ else (t, [])) = g at hg
  repeat' split
  all_goals exact hg

theorem setAD (h : s.Accessed t) (l : Leaf) (write : Bool) : s.Accessed (t.setAD l write) := ite h (h.writePa ..)

theorem walk (h : s.Accessed t) (p tenant va : Nat) (write : Bool) : s.Accessed (t.walk p tenant va write).1 := by
  unfold State.walk
  split
  · exact h
  · next root _ =>
    have hw := walkFrom va 4 root h
    simp only
    split
    · exact hw
    · next l _ =>
      have hl := hw.leafEntry p tenant va l
      split
      · exact hl
      · split
        · exact hl.setAD ..
        · exact hl.setAD ..

theorem setUtlb (h : s.Accessed t) (f : List TlbEntry → List TlbEntry) :
    s.Accessed (t.onCore fun c => { c with utlb := f c.utlb }) := h.trans ⟨rfl, fun _ => rfl⟩

theorem setTlb (h : s.Accessed t) (q : Nat) (f : List TlbEntry → List TlbEntry) :
    s.Accessed (t.modCluster q fun c => { c with tlb := f c.tlb }) := by
  refine h.trans ⟨rfl, fun r => ?_⟩
  unfold State.modCluster State.setCluster State.clusterAt
  by_cases hr : q = r
  · subst hr
    simp [Cluster.sansTlb]
  · simp [Table.get_set_ne _ _ hr]

theorem setFieldTlb (h : s.Accessed t) (f : Wafer → Table (List TlbEntry)) :
    s.Accessed (t.onWafer fun w => { w with fieldTlb := f w }) := h.trans ⟨rfl, fun _ => rfl⟩

theorem tlbFill (h : s.Accessed t) (e : TlbEntry) : s.Accessed (t.tlbFill e) := by
  unfold State.tlbFill
  extract_lets q n1 s1 n2 s2 last n3
  have h1 : s.Accessed s1 := (h.chosen n1).setUtlb _
  have h2 : s.Accessed s2 := (h1.chosen n2).setTlb q _
  exact (h2.chosen n3).setFieldTlb _

theorem translate (h : s.Accessed t) (p tenant va : Nat) (use : Use) : s.Accessed (t.translate p tenant va use).1 := by
  unfold State.translate
  simp only
  split
  · split
    · exact h
    · split
      · have hw := h.walk p tenant va true
        split
        · exact hw
        · split
          · exact hw
          · exact hw.tlbFill _
      · split
        · exact h
        · exact h.tlbFill _
  · have hw := h.walk p tenant va (use = .store)
    split
    · exact hw
    · split
      · exact hw
      · exact hw.tlbFill _

theorem readVa (h : s.Accessed t) (p tenant va n : Nat) (use : Use) : s.Accessed (t.readVa p tenant va n use).1 := by
  refine foldl (fun acc part hacc => ?_) _ h
  have ht := hacc.translate p tenant part.1 use
  simp only
  split
  · exact hacc
  · split
    · exact ht
    · split
      · exact ht
      · split
        · exact ht.readPa ..
        · exact ht.readPa ..

theorem writeVa (h : s.Accessed t) (p tenant va : Nat) (bs : List Byte) : s.Accessed (t.writeVa p tenant va bs).1 := by
  refine foldl (fun acc part hacc => ?_) _ h
  have ht := hacc.translate p tenant part.1 .store
  simp only
  split
  · exact ht
  · exact ht.writePa ..

end State.Accessed

end Sys2Proof.Machine

namespace Sys2Proof.Machine

/-! ## Interlocks and guards (R116, R120, R121, R124) -/

/-- Settles O8: every instruction of a slot issues through `issueAs`, whose tests stand in this order. -/
theorem guardsAndInterlocks : Obligations.GuardsAndInterlocks := by
  unfold Obligations.GuardsAndInterlocks
  intro i u s hu
  obtain ⟨body, hx⟩ := exec_issue hu
  have hissue : exec i s = .next (s.issueAs u body) := by simp only [hx, State.issue, hu]
  refine ⟨fun hsync => ?_, fun hsync hg => ?_, fun hsync hg ht => ?_, fun hsync hg ht hr => ?_, rfl⟩ <;>
    rw [hissue] <;> refine congrArg Host.Outcome.next ?_ <;> unfold State.issueAs
  · rw [if_pos hsync]
  · rw [if_neg (ne_true_of_eq_false hsync), if_pos hg]
  · rw [if_neg (ne_true_of_eq_false hsync), if_neg (ne_true_of_eq_false hg), if_pos (by simp [ht])]
  · rw [if_neg (ne_true_of_eq_false hsync), if_neg (ne_true_of_eq_false hg), if_neg (by simp [ht]), if_pos (by simpa using hr)]

/-! ## Vectors written under a mask (R139, R237) -/

/-- A vector register that is written whole reads what was written, unless a later slot has overtaken the write (R146). -/
theorem Core.writeVec_get {c : Core} {d : VReg} (h : c.overtaken .v (.v d) = false) (lat : Nat) {x : Nat} (hx : x < 2 ^ Loc.bits (.v d)) :
    ((c.writeLoc .v lat (.v d) x).live.v.get d).toNat = x := by
  rw [Core.writeLoc_live h]
  exact (Regs.get_set_self ..).trans (Nat.mod_eq_of_lt hx)

theorem maskedLanes_length (t : Fmt) (m : Quad) (mz : Bool) (old : Nat) (f : Nat → Nat × Flags) :
    (maskedLanes t m mz old f).length = t.lanes := by simp [maskedLanes]

/-- Lane n after a write under a mask. -/
theorem Core.putV_elem {c : Core} {d : VReg} (h : c.overtaken .v (.v d) = false) (t : Fmt) (lat : Nat) (m : MReg) (mz : Bool)
    (f : Nat → Nat × Flags) {n : Nat} (hn : n < t.lanes) :
    elem ((c.putV t lat d m mz f).live.v.get d) t.width n =
      (if laneOn t (c.readM .v m) n then (f n).1 else if mz then 0 else bitsAt (c.before (.v d)) (t.width * n) t.width) % 2 ^ t.width := by
  have hfits := packElems_lt t.width ((maskedLanes t (c.readM .v m) mz (c.before (.v d)) f).map (·.1))
  rw [List.length_map, maskedLanes_length, Fmt.width_mul_lanes] at hfits
  unfold Core.putV
  rw [Core.raise_live, elem, field, Core.writeVec_get h lat hfits, packElems_elem _ (by simpa [maskedLanes] using hn)]
  simp only [maskedLanes, List.map_map, List.getElem_map, List.getElem_range, Function.comp]
  split <;> rfl

/-- A lane of the register's 1024 bits. -/
theorem elem_ofNat {t : Fmt} {n : Nat} (hn : n < t.lanes) (x : Nat) :
    elem (BitVec.ofNat 1024 x) t.width n = bitsAt x (t.width * n) t.width := by
  have hle : t.width * n + t.width ≤ 1024 := by
    have := Nat.mul_le_mul_left t.width (Nat.succ_le_of_lt hn)
    rwa [Fmt.width_mul_lanes, Nat.mul_succ] at this
  obtain ⟨r, hr⟩ := Nat.exists_eq_add_of_le hle
  rw [elem, field, BitVec.toNat_ofNat, bitsAt, hr, Nat.add_assoc, pow_add, Nat.mod_mul_right_div_self, pow_add,
    Nat.mod_mul_right_mod]

/-- Settles O12: hard-wired names have no location, and a masked write by `putV_elem`. -/
theorem registerWrites : Obligations.RegisterWrites := by
  unfold Obligations.RegisterWrites
  refine ⟨fun c k lat v b m => ⟨rfl, rfl, rfl, rfl, rfl, rfl, rfl, rfl, rfl, rfl, fun i hi => ?_, fun i h0 h32 hi => ?_⟩,
    fun c t lat d m mz f hfree n hn => ?_⟩
  · exact ⟨by rw [Core.readS, hi]; rfl, by rw [Core.writeS, hi]; rfl⟩
  · have hhard : sHard i = false := by
      simp only [sHard, Bool.or_eq_false_iff, decide_eq_false_iff_not]
      exact ⟨fun h => h0 (Fin.ext h), fun h => h32 (Fin.ext h)⟩
    unfold sLoc
    rw [hhard, if_neg (by decide), if_pos (by simpa [or_comm] using hi)]
  · refine (Core.putV_elem hfree t lat m mz f hn).trans ((apply_ite (· % 2 ^ t.width) ..).trans ?_)
    refine congrArg (ite _ _) ((apply_ite (· % 2 ^ t.width) ..).trans (congr (congrArg (ite _) (Nat.zero_mod _)) ?_))
    rw [elem_ofNat hn, bitsAt, Nat.mod_mod]

end Sys2Proof.Machine

namespace Sys2Proof.Machine

/-! ## The write-back of a record (R26) -/

/-- The record that a write-back under f leaves: what f makes of it, with the streams as they leave their core and the place
at which a marked C part has dispatch go on. -/
def State.backRec (s : State) (f : Rec → Rec) : Rec :=
  let g := f { s.core.task with ctxv := true, held := s.core.w.toList.map Stream.offCore }
  { g with jump := if g.scm = 0 then none else s.core.lat.target }

theorem Core.settled_keeps (c : Core) (b : Latch) :
    ((c.applySys b).settleFmt).task = c.task ∧ ((c.applySys b).settleFmt).w = c.w ∧ ((c.applySys b).settleFmt).lat = c.lat := by
  simp only [Core.settleFmt_task, Core.settleFmt_w, Core.settleFmt_lat]
  exact ⟨Core.applySys_keeps Core.task (by simp) c b, Core.applySys_keeps Core.w (by simp) c b,
    Core.applySys_keeps Core.lat (by simp) c b⟩

theorem State.writeBack_rec (s : State) (replay : List Byte) (f : Rec → Rec) : (s.writeBack replay f).2 = s.backRec f := by
  obtain ⟨htask, hw, hlat⟩ := Core.settled_keeps s.core s.core.lat
  simp only [State.writeBack, State.backRec, htask, hw, hlat]

@[simp] theorem State.notePeaks_core (s : State) (p q : Nat) : (s.notePeaks p q).core = s.core := rfl
@[simp] theorem State.notePeaks_recs (s : State) (p q : Nat) : (s.notePeaks p q).recs = s.recs := rfl
@[simp] theorem State.notePeaks_parts (s : State) (p q : Nat) : (s.notePeaks p q).parts = s.parts := rfl

/-- A core that its task has left. -/
structure Core.Free (c : Core) : Prop where
  busy : c.busy = false
  lat : c.lat = {}

theorem State.writeBack_free (s : State) (replay : List Byte) (f : Rec → Rec) : (s.writeBack replay f).1.core.Free := ⟨rfl, rfl⟩

theorem State.writeBack_parts (s : State) (replay : List Byte) (f : Rec → Rec) : (s.writeBack replay f).1.parts = s.parts := by
  unfold State.writeBack
  extract_lets c g g' r s0 s1
  have hva : s1.parts = s0.parts := ((State.Accessed.refl s0).writeVa r.part r.tenant r.csa _).parts
  clear_value s1
  exact hva

theorem State.writeBack_recAt (s : State) (replay : List Byte) (f : Rec → Rec) :
    (s.writeBack replay f).1.recAt (s.backRec f).addr = some (s.backRec f) := by
  rw [← State.writeBack_rec s replay f]
  unfold State.writeBack
  extract_lets c g g' r s0 s1
  clear_value s1
  exact Table.find_set_self s1.recs r.addr r

/-! ## Messages and checkpoint holds (R381–R383) -/

theorem State.message_none {s : State} {p : Nat} (h : (s.partAt p).faultQ = 0) (m : Message) : s.message p m = s := by
  have hno : s.posts 0 = false := by simp [State.posts]
  simp only [State.message, State.post, State.postLater, h, hno, Bool.false_and, Bool.false_eq_true, if_false, Bool.not_false,
    if_true]

/-- A core asked to leave is the core it was, but for that. -/
theorem State.checkpointHold_core (s : State) (p launch cause : Nat) :
    (∃ pre, (s.checkpointHold p launch cause).core = { s.core with pre := pre }) ∧
      (s.checkpointHold p launch cause).recs = s.recs := by
  unfold State.checkpointHold
  refine List.foldlRecOn _ _ (motive := fun t : State => (∃ pre, t.core = { s.core with pre := pre }) ∧ t.recs = s.recs)
    ⟨⟨s.core.pre, rfl⟩, rfl⟩ fun t ht w _ => ?_
  obtain ⟨⟨pre, hcore⟩, hrecs⟩ := ht
  simp only
  split
  · refine ⟨?_, (State.setCore_recs ..).trans hrecs⟩
    unfold State.setCore State.coreAt
    split
    · exact ⟨.supervisor, by simp [hcore]⟩
    · exact ⟨pre, hcore⟩
  · exact ⟨⟨pre, hcore⟩, hrecs⟩

theorem State.checkpointHold_free {s : State} (h : s.core.Free) (p launch cause : Nat) :
    (s.checkpointHold p launch cause).core.Free := by
  obtain ⟨⟨pre, hcore⟩, -⟩ := s.checkpointHold_core p launch cause
  rw [hcore]
  exact ⟨h.busy, h.lat⟩

theorem State.checkpointHold_recAt (s : State) (p launch cause a : Nat) : (s.checkpointHold p launch cause).recAt a = s.recAt a := by
  unfold State.recAt
  rw [(s.checkpointHold_core p launch cause).2]

/-! ## Taking a precise fault (R376, R382) -/

/-- A fault taken where its message goes nowhere: the record is written back, and perhaps a checkpoint hold begins. -/
theorem State.takeFault_quiet {s : State} (hq : (s.partAt s.core.task.part).faultQ = 0) (pc : Half) (scm : Nat)
    (replay : List Byte) (cause : Nat) (arg : Word) :
    let flim := ((s.levelOf s.core.task).map (·.flim)).getD 0
    let past := decide (flim ≠ 0) && decide (flim < min 255 (s.core.task.fcnt + 1))
    let f : Rec → Rec := fun r => { r with st := 6, pc := pc, scm := scm, fcnt := min 255 (r.fcnt + 1), cause := if past then 0x31 else cause
                                           waitArg := if past then BitVec.ofNat 64 cause else arg }
    s.takeFault pc scm replay cause arg = if past then (s.writeBack replay f).1.checkpointHold s.core.task.part s.core.task.launch 0x31
      else (s.writeBack replay f).1 := by
  intro flim past f
  have hpart : ((s.writeBack replay f).1.partAt (s.writeBack replay f).2.part).faultQ = 0 := by
    rw [State.writeBack_rec, State.partAt, State.writeBack_parts]
    exact hq
  unfold State.takeFault
  simp only
  rw [State.message_none hpart]
  rw [State.writeBack_rec]
  rfl

/-- Settles O11: noting and letting pass by their definitions, taking a fault by `takeFault_quiet`. -/
theorem preciseFault : Obligations.PreciseFault := by
  unfold Obligations.PreciseFault
  refine ⟨fun s k cause arg => ⟨rfl, rfl, fun h => ?_, fun h => ?_⟩, fun c n b k => ⟨fun hf hs => ?_, fun a ha hf => ?_⟩,
    ?_⟩
  · simp [State.faultPart, h]
  · simp only [State.takeNoted, h]
    rfl
  · have hnone : b.fault.isNone = false := by rw [← Option.not_isSome, hf]; rfl
    simp [Core.mayIssue, hnone, hs]
  · have hnone : a.fault.isNone = false := by rw [← Option.not_isSome, hf]; rfl
    have hnot : a.letsPass k = false := by simp [Latch.letsPass, hnone]
    have hall : ((c.flight.take n).all fun a => a.letsPass k) = false := List.all_eq_false.2 ⟨a, ha, by simp [hnot]⟩
    simp [Core.mayIssue, hall]
  · intro s pc scm replay cause arg r flim past t hq
    have ht := State.takeFault_quiet hq pc scm replay cause arg
    extract_lets _ pb f at ht
    have hpast : past ↔ pb = true := by
      simp only [pb, Bool.and_eq_true, decide_eq_true_eq]
      rfl
    simp only [hpast]
    have hrec := State.writeBack_recAt s replay f
    have hfree : t.core.Free := by
      change t = _ at ht
      rw [ht]
      split
      · exact State.checkpointHold_free (State.writeBack_free s replay f) ..
      · exact State.writeBack_free s replay f
    have hat : t.recAt r.addr = (s.writeBack replay f).1.recAt r.addr := by
      change t = _ at ht
      rw [ht]
      split
      · exact State.checkpointHold_recAt ..
      · rfl
    exact ⟨hfree.busy, by rw [hfree.lat], hat.trans hrec⟩

end Sys2Proof.Machine

namespace Sys2Proof.Machine

/-! ## Dispatch (R108, R118, R129) -/

/-- Dispatch is open, and nothing keeps the task from it. -/
structure State.DispatchOpen (s : State) (l : Launch) : Prop where
  busy : s.core.busy = true
  opens : s.core.dispatchOpen = true
  quantum : s.quantumOut = false
  pre : s.core.pre = .none
  frozen : s.codeFrozen (clusterOf s.cur) = false
  stopped : s.clockStopped (clusterOf s.cur) = false
  launch : s.myLaunch = some l

theorem exec_dispatch {s : State} {l : Launch} (h : s.DispatchOpen l) : exec .bundleDispatch s = .next (s.dispatchBundle l) := by
  show execBundleDispatch s = _
  simp [execBundleDispatch, h.busy, h.opens, h.quantum, h.pre, h.frozen, h.stopped, h.launch]

/-- A fault at dispatch is taken once earlier bundles have completed. -/
theorem State.dispatchFault_taken {t : State} {e : Nat × Word} (hc : e.1 ≠ heldBack) (hf : t.core.flight = [])
    (hs : t.settled = true) : t.dispatchFault e = t.takeFault t.core.task.pc 0 noReplay e.1 e.2 := by
  simp [State.dispatchFault, hc, hf, hs]

theorem State.dispatchBundle_error {s t : State} {l : Launch} {e : Nat × Word} (h : s.fetchBundle l = (t, .error e)) :
    s.dispatchBundle l = t.dispatchFault e := by
  simp [State.dispatchBundle, h]

@[simp] theorem scmSlots_zero : scmSlots 0 = [] := by decide

section
variable {s t : State} {l : Launch} {b : BundleWord} {adv : Nat} (h : s.fetchBundle l = (t, .ok (b, adv)))
  (hscm : s.core.task.scm = 0) (hw : t.core.scbWaits b (bundleSlots b) = false)
include h hscm hw

theorem State.dispatchBundle_check {e : Nat × Word} (hc : t.core.dispatchCheck b (bundleSlots b) = some e) :
    s.dispatchBundle l = t.dispatchFault e := by
  simp [State.dispatchBundle, h, hscm, hw, hc]

theorem State.dispatchBundle_latch (hc : t.core.dispatchCheck b (bundleSlots b) = none) :
    s.dispatchBundle l = t.onCore fun c => c.latch b adv [] [] := by
  simp [State.dispatchBundle, h, hscm, hw, hc]

end

/-- A bundle that starts afresh has every valid part to issue. -/
theorem Core.newLatch_todo (c : Core) (b : BundleWord) (adv : Nat) (block : List Byte) :
    (c.newLatch b adv [] block).todo = bundleSlots b ∧ (c.newLatch b adv [] block).done = [] := by
  simp [Core.newLatch]

/-- With nothing in flight, a bundle of at least one part comes into focus. -/
theorem Core.push_idle {c : Core} {b : Latch} (hc : c.lat.on = false) (hb : b.todo ≠ []) :
    c.push b = { c with older := [], lat := b, younger := [] } := by
  simp [Core.push, hc, hb]

theorem Core.push_behind {c : Core} {b : Latch} (hc : c.lat.on = true) : c.push b = { c with younger := c.younger ++ [b] } := by
  simp [Core.push, hc]

/-! ## Retirement (R118, R119, R123) -/

section
variable {γ : Type} (g : Core → γ) (hs : ∀ c w, g (Core.sysApply c w) = g c)
  (hf : ∀ (c : Core) o l y h, g { c with older := o, lat := l, younger := y, hist := h } = g c)
  (hm : ∀ (c : Core) live q old, g { c with live := live, fmtQ := q, old := old } = g c)
include hs hf hm

/-- What neither SYS.WR, nor the bundles in flight, nor fmt and the old values are, retiring leaves alone. -/
theorem Core.retire_keeps_field (c : Core) : g c.retire = g c :=
  (hm (c.leaveFront c.flight) _ _ _).trans (Core.leaveFront_keeps g hs hf c c.flight)

theorem Core.finish_keeps_field (c : Core) (k : Slot) : g (c.finish k) = g { c with pace := c.paceAfter k } := by
  unfold Core.finish
  simp only
  split
  · exact (Core.retire_keeps_field g hs hf hm _).trans (hf { c with pace := c.paceAfter k } _ _ _ _)
  · exact hf { c with pace := c.paceAfter k } _ _ _ _

end

/-- A part that is not the last of the oldest bundle leaves its queue, and no bundle leaves. -/
theorem Core.finish_of_rest {c : Core} {k : Slot} (h : c.lat.todo.erase k ≠ [] ∨ c.older ≠ []) :
    c.finish k = { c with pace := c.paceAfter k, lat := { c.lat with todo := c.lat.todo.erase k, done := c.lat.done ++ [k], joined := true } } := by
  unfold Core.finish
  simp only
  rw [if_neg]
  rw [Bool.and_eq_true, decide_eq_true_eq, List.isEmpty_iff]
  exact fun hc => h.elim (· hc.1) (· hc.2)

/-- The last part of the oldest bundle: the bundles that are complete leave. -/
theorem Core.finish_last {c : Core} {k : Slot} (hon : c.lat.on = true) (htodo : c.lat.todo = [k]) (hold : c.older = []) :
    ∃ (a : Core) (b : Latch), a.hist = c.hist ∧ b.at_ = c.lat.at_ ∧
      (c.finish k).lat = (Core.leaveFront { a with hist := (b.at_ :: a.hist).take 16 } c.younger).lat ∧
      (c.finish k).older = (Core.leaveFront { a with hist := (b.at_ :: a.hist).take 16 } c.younger).older ∧
      (c.finish k).younger = (Core.leaveFront { a with hist := (b.at_ :: a.hist).take 16 } c.younger).younger ∧
      (c.finish k).hist = (Core.leaveFront { a with hist := (b.at_ :: a.hist).take 16 } c.younger).hist := by
  have hnil : c.lat.todo.erase k = [] := by simp [htodo]
  let b : Latch := { c.lat with todo := c.lat.todo.erase k, done := c.lat.done ++ [k], joined := true }
  let c1 : Core := { c with pace := c.paceAfter k, lat := b }
  have hfin : c.finish k = c1.retire := by
    unfold Core.finish
    simp only
    rw [if_pos]
    simp [hnil, hold]
  have hfl : c1.flight = b :: c.younger := by simp [Core.flight, c1, b, hon, hold]
  have hleave : c1.leaveFront c1.flight = Core.leaveFront { c1.applySys b with hist := (b.at_ :: c1.hist).take 16 } c.younger := by
    rw [hfl, Core.leaveFront, if_pos hnil]
  refine ⟨c1.applySys b, b, Core.applySys_keeps Core.hist (by simp) c1 b, rfl, ?_⟩
  rw [hfin]
  have hhist : (c1.applySys b).hist = c1.hist := Core.applySys_keeps Core.hist (by simp) c1 b
  rw [hhist, ← hleave]
  exact ⟨rfl, rfl, rfl, rfl⟩

/-- Settles O16: dispatch by the outcome of the fetch and the checks, retirement by the bundles that leave. -/
theorem bundleDispatchAndRetire : Obligations.BundleDispatchAndRetire := by
  unfold Obligations.BundleDispatchAndRetire
  refine ⟨fun s t l b adv e => ?_, fun c k b rest => ?_⟩
  · intro open_ faults
    have hopen : open_ → s.DispatchOpen l := fun ⟨h1, h2, h3, h4, h5, h6, h7⟩ => ⟨h1, h2, h3, h4, h5, h6, h7⟩
    refine ⟨fun ho hf hscm hw hc => (exec_dispatch (hopen ho)).trans (by rw [State.dispatchBundle_latch hf hscm hw hc]),
      fun ho hf hc hfl hs => (exec_dispatch (hopen ho)).trans (by rw [State.dispatchBundle_error hf, State.dispatchFault_taken hc hfl hs]),
      fun ho hf hscm hw hch hc hfl hs => (exec_dispatch (hopen ho)).trans
        (by rw [State.dispatchBundle_check hf hscm hw hch, State.dispatchFault_taken hc hfl hs]),
      fun c hoff hne => ?_, fun c hon => ?_⟩
    · obtain ⟨htodo, hdone⟩ := Core.newLatch_todo c b adv []
      intro d
      have hd : d = _ := Core.push_idle hoff (by rw [← htodo] at hne; exact hne)
      rw [hd]
      exact ⟨rfl, htodo, hdone, rfl, rfl, rfl, rfl, rfl, rfl, rfl, rfl⟩
    · intro d
      have hd : d = _ := Core.push_behind hon
      rw [hd]
      exact ⟨rfl, rfl, List.length_append, rfl⟩
  · intro t pace
    have hpace : c.paceAfter k = pace := by simp [Core.paceAfter, pace]
    refine ⟨(Core.finish_keeps_field Core.pace (by simp) (by intros; rfl) (by intros; rfl) c k).trans hpace,
      Core.finish_keeps_field Core.task (by simp) (by intros; rfl) (by intros; rfl) c k,
      Core.finish_keeps_field Core.nominal (by simp) (by intros; rfl) (by intros; rfl) c k,
      Core.finish_keeps_field Core.elapsed (by simp) (by intros; rfl) (by intros; rfl) c k,
      Core.finish_keeps_field Core.busy (by simp) (by intros; rfl) (by intros; rfl) c k,
      fun h => (Core.finish_of_rest h).trans (by rw [hpace]), fun hon htodo hold => ?_, fun d adv marked block => ⟨rfl, rfl, rfl, rfl⟩⟩
    obtain ⟨a, b', hah, hb, hlat, holder, hyoung, hhist⟩ := Core.finish_last hon htodo hold
    refine ⟨fun hy => ?_, fun hy hb' => ?_⟩
    · rw [hy] at hlat holder hyoung hhist
      exact ⟨congrArg Latch.on hlat, holder, hyoung, hhist.trans (by rw [← hah, ← hb]; rfl)⟩
    · rw [hy, Core.leaveFront, if_neg hb'] at hlat holder hyoung hhist
      exact ⟨hlat, holder, hyoung, hhist.trans (by rw [← hah, ← hb])⟩

end Sys2Proof.Machine

namespace Sys2Proof.Machine

/-! ## Frames (R143, R144, R158) -/

theorem State.allocSlot_free {s : State} {f : Frame} (h : s.core.slotNamed f.tag true s.core.older = false) :
    s.allocSlot f = .done (s.onCore fun c => c.newSlot f) := if_neg (ne_true_of_eq_false h)

theorem State.allocSlot_named {s : State} {f : Frame} (h : ¬s.core.slotNamed f.tag true s.core.older = false) :
    s.allocSlot f = .wait := if_pos (eq_true_of_ne_false h)

/-- A new frame shows in no bundle in flight: they go on under the frame that stood before. -/
theorem Core.setFrame_view (c : Core) (h : Frame) : (c.setFrame h).view = c.view := rfl

theorem clearSlot_get (pool : Vector Word 256) {slot : Nat} {n : Fin 256} (h : n.val / 16 = slot) :
    (clearSlot pool slot).get n = 0 := by
  simp [clearSlot, Vector.get_eq, h]

/-- Settles O22: the three branches of FRAME.ALLOC and the two of FRAME.FREE, and the release of a slot. -/
theorem frameSlots : Obligations.FrameSlots := by
  unfold Obligations.FrameSlots
  intro f g s fr free
  refine ⟨fun h0 hf => becomes_issue (rfl : execFrameAlloc f s = _) ((if_pos h0).trans (State.allocSlot_free hf)),
    fun h0 hn hheld hf => becomes_issue (rfl : execFrameAlloc f s = _) ?_,
    fun h0 hn h => exec_fault (i := .frameAlloc f) (rfl : execFrameAlloc f s = _) rfl h ((if_neg h0).trans (if_pos hn)),
    fun h0 hf h => exec_wait (i := .frameAlloc f) (rfl : execFrameAlloc f s = _) rfl h ((if_pos h0).trans (State.allocSlot_named hf)),
    fun hne => becomes_issue (rfl : execFrameFree g s = _) (if_neg hne), fun c h => ⟨rfl, rfl, rfl, rfl⟩,
    fun he h => exec_fault (i := .frameFree g) (rfl : execFrameFree g s = _) rfl h (if_pos he), fun w hr h1 => ?_,
    fun c h ht => ⟨rfl, fun n hn => clearSlot_get _ hn⟩⟩
  · exact (if_neg h0).trans ((if_neg (not_not.2 hn)).trans ((if_neg (Nat.sub_ne_zero_of_lt hheld)).trans (State.allocSlot_free hf)))
  · refine (if_pos hr).trans ?_
    rw [Frame.release, if_neg h1]

/-! ## Suspension (R159–R162) -/

theorem State.retryPending_core (s : State) (p : Nat) : (s.retryPending p).core = s.core :=
  foldl_keeps State.core _ (fun t e => by simp only; split <;> rfl) _ _

theorem State.uninstallReg_core (s : State) (g : Reg) : (s.uninstallReg g).core = s.core := by
  have hfold : ∀ l : List (Nat × Nat), (l.foldl (fun (acc : State × Bool) e =>
      let x := (acc.1.routerAt e.1).uninstall e.2
      (acc.1.setRouter e.1 x.1, acc.2 || x.2)) (s, false)).1.core = s.core := fun l => by
    refine foldl_keeps (fun acc : State × Bool => acc.1.core) _ (fun acc e => ?_) l (s, false)
    rfl
  unfold State.uninstallReg
  simp only
  split
  · exact (State.retryPending_core ..).trans (hfold _)
  · exact hfold _

theorem State.unregister_core (s : State) (g : Reg) : (s.unregister g).core = s.core := by
  unfold State.unregister
  simp only
  split
  · exact State.uninstallReg_core _ g
  · rfl

theorem State.unregisterAll_core (s : State) (gs : List Reg) : (s.unregisterAll gs).core = s.core :=
  foldl_keeps State.core _ State.unregister_core gs s

theorem State.modLaunch_core (s : State) (p l : Nat) (f : Launch → Launch) : (s.modLaunch p l f).core = s.core := rfl

theorem State.haltTask_idle (s : State) : s.haltTask.core.busy = false := by
  unfold State.haltTask State.freeSave State.dropHeldRegs
  simp only [State.dropRec_core, State.modLaunch_core, State.unregisterAll_core, State.onCore_core]
  rfl

/-- Without a doom, what leaves the core is what the suspension makes of the record. -/
theorem State.leaveWith_free {s : State} (h : s.core.doom = none) (replay : List Byte) (f : Rec → Rec) (after : State → Rec → State) :
    s.leaveWith replay f after = after (s.writeBack replay f).1 (s.writeBack replay f).2 := by
  unfold State.leaveWith
  rw [h]

/-- Settles O23: each instruction by the branch of its body. -/
theorem suspensionPoints : Obligations.SuspensionPoints := by
  unfold Obligations.SuspensionPoints
  intro f q w t s h next stays
  have hq : s.handleOk h = true → handlePart h = s.core.task.part → (!s.handleOk h || handlePart h ≠ s.core.task.part) = false := by
    intro h1 h2
    simp [h1, h2]
  refine ⟨fun hr hm => exec_leave (i := .yield f) (rfl : execYield f s = _) hr (if_pos hm), fun h1 h2 h3 => becomes_issue (rfl : execWaitQ q s = _) ?_,
    fun hr h1 h2 h3 hm hd => exec_leave (i := .waitQ q) (rfl : execWaitQ q s = _) hr ?_,
    fun d hsub hst hsat hb => becomes_issue (rfl : execWaitS w s = _) ?_,
    fun d hr hsub hst hsat hm hd => exec_leave (i := .waitS w) (rfl : execWaitS w s = _) hr ?_,
    fun hr ho ha he => ⟨exec_leave (i := .halt f) (rfl : execHalt f s = _) hr ?_, State.haltTask_idle s⟩,
    fun hr hm => exec_leave (i := .trap t) (rfl : execTrap t s = _) hr (if_pos hm)⟩
  · exact (if_neg (ne_true_of_eq_false (hq h1 h2))).trans (if_pos h3)
  · refine (if_neg (ne_true_of_eq_false (hq h1 h2))).trans ((if_neg (by rw [h3]; exact Nat.lt_irrefl 0)).trans ((if_pos hm).trans ?_))
    exact congrArg Res.leave (State.leaveWith_free hd ..)
  · simp only [hsub, hst, hsat, Bool.false_eq_true, if_false, if_true]
    exact if_neg (ne_true_of_eq_false hb)
  · simp only [hsub, hst, hsat, hm, Bool.false_eq_true, if_false, if_true]
    exact congrArg Res.leave (State.leaveWith_free hd ..)
  · refine if_pos ?_
    simp [State.mayHalt, State.last, ho, ha, he]

/-! ## Name registers (R163) -/

/-- NAME.LD's address passes the check of R151. -/
theorem scratchCheck_none {a : Word} {n : Nat} (ha : a.toNat < 2 ^ 21) (hn : a.toNat % n = 0) : scratchCheck a n = none := by
  have h0 : a.toNat / 2 ^ 21 = 0 := Nat.div_eq_of_lt ha
  simp only [scratchCheck, h0, hn, ne_eq, not_true_eq_false, if_false]

/-- Settles O25: the computations by their bodies, NAME.LD by its checks. -/
theorem nameRegisters : Obligations.NameRegisters := by
  unfold Obligations.NameRegisters
  intro f w m l s bits n v a
  have hbits : nameBits f.f = bits := by simp only [bits, nameBits]
  refine ⟨completes_compute (rfl : execNameSetField f s = _) (by rw [hbits]), completes_compute (rfl : execNameAdd f s = _) ?_,
    completes_compute (rfl : execNameSetWhole w s = _) rfl, completes_compute (rfl : execNameSetCopy m s = _) rfl,
    fun h16 hin hbad => becomes_issue (rfl : execNameLd l s = _) ?_⟩
  · simp only [hbits]
    rfl
  · have hcheck : scratchCheck (s.core.readS .c l.a) 16 = none := scratchCheck_none (by omega) h16
    simp only [hcheck]
    split
    · next w hw => cases hw.symm.trans hbad
    · rfl

end Sys2Proof.Machine

namespace Sys2Proof.Machine

/-! ## Subscriptions (R164, R165) -/

/-- A name in the tenant of its task keeps its kind and its reserved bits. -/
theorem nameKind_ownName (s : State) (n : Quad) : nameKind (s.ownName n) = nameKind n := by
  simp only [State.ownName, withTenant, nameKind, field, setField, BitVec.toNat_ofNat]
  omega

theorem nameRes_ownName (s : State) (n : Quad) : nameRes (s.ownName n) = nameRes n := by
  simp only [State.ownName, withTenant, nameRes, field, setField, BitVec.toNat_ofNat]
  omega

theorem isNone_of_isSome {α : Type} {o : Option α} (h : o.isSome = true) : o.isNone = false := by
  rw [← Option.not_isSome, h]
  rfl

/-- The registrations that UNSUB removes: those of the subscription that match the name. -/
def State.unsubRegs (s : State) (f : CNSub) : List Reg :=
  (s.subRegs f.k.val).filter fun g =>
    nameKind (s.core.readN f.n) = 0 && nameRes (s.core.readN f.n) = 0 && g.matches (s.ownName (s.core.readN f.n))

/-- The machine after UNSUB has removed what it found. -/
def State.unsubbed (s : State) (f : CNSub) : State :=
  (s.unregisterAll (s.unsubRegs f)).onCore fun c =>
    { c with task := { c.task.dropStaged f.k.val with sat := setSat c.task.sat f.k.val true } }

theorem exec_unsub (f : CNSub) (s : State) : exec (.unsub f) s = s.issue (.unsub f) fun s =>
    if (s.unsubRegs f).isEmpty && !s.core.task.stagedAs f.k.val (s.ownName (s.core.readN f.n)) then .done s
    else .done (s.unsubbed f) := by
  show execUnsub f s = _
  simp only [execUnsub, State.unsubbed, State.unsubRegs, nameKind_ownName, nameRes_ownName]
  rfl

/-- Settles O26: SUB and UNSUB by the tests of their bodies. -/
theorem subscriptions : Obligations.Subscriptions := by
  unfold Obligations.Subscriptions
  intro f s d n k s1 gone put
  have hgone : s.unsubRegs f = gone := rfl
  refine ⟨fun hkind hres hdesc hdecl hstrm hsize hroom => becomes_issue (rfl : execSubscribe f s = _) ?_,
    fun hbad hr => exec_fault (i := .subscribe f) (rfl : execSubscribe f s = _) rfl hr (if_pos (by simpa using hbad)),
    fun hg => becomes_issue (exec_unsub f s) (if_neg ?_),
    fun hnone hst => becomes_issue (exec_unsub f s) (if_pos ?_)⟩
  · have hn : (nameKind n ≠ 0 || nameRes n ≠ 0) = false := by simp [hkind, hres]
    have hd : (d.strm || d.lsize ≠ s.tsizeOf n) = false := by simp [hstrm, hsize]
    simp only [n, k, s1] at hn hdesc hdecl hd hroom
    simp only [hn, isNone_of_isSome hdesc, hdecl, hd, Nat.not_le.2 hroom, Bool.false_eq_true, if_false]
    rfl
  · rw [hgone, Bool.and_eq_true, List.isEmpty_iff, Bool.not_eq_true']
    exact fun ⟨h1, h2⟩ => hg.elim (fun h => h h1) (fun h => Bool.false_ne_true (h2.symm.trans h))
  · rw [hgone, hnone, hst]
    rfl

/-! ## Streams (R166, R167, R283, R284) -/

/-- Settles O27: each instruction by the state of its stream register, the generator by its two steps. -/
theorem streams : Obligations.Streams := by
  unfold Obligations.Streams
  refine ⟨fun f g h s t => ?_, fun f g h s => ?_⟩
  · intro n x y
    refine ⟨fun hkind hres hdesc hcw hst => becomes_issue (rfl : execBind f s = _) ?_,
      fun hst hkind hres hdesc hcw hr => exec_fault (i := .bind f) (rfl : execBind f s = _) rfl hr ?_,
      fun e rest hst hbuf => completes_issue (rfl : execMovStream g s = _) ?_,
      fun hst hr => exec_fault (i := .movStream g) (rfl : execMovStream g s = _) rfl hr ?_,
      fun hst hbuf => completes_issue (rfl : execWtst h s = _) ?_,
      fun hst hbuf hm => becomes_issue (rfl : execWtst h s = _) ?_,
      fun hst hr => exec_fault (i := .wtst h) (rfl : execWtst h s = _) rfl hr ?_⟩
    · have hn : (nameKind n ≠ 0 || nameRes n ≠ 0) = false := by simp [hkind, hres]
      simp only [n] at hn hdesc
      simp only [hn, hdesc, hcw, hst, Bool.false_eq_true, if_false, ne_eq, not_true_eq_false]
      rfl
    · have hn : (nameKind n ≠ 0 || nameRes n ≠ 0) = false := by simp [hkind, hres]
      simp only [n] at hn hdesc
      simp only [hn, hdesc, hcw, Bool.false_eq_true, if_false]
      exact if_pos hst
    · simp only [x] at hst hbuf ⊢
      simp only [hst, hbuf]
      rfl
    · simp only [x] at hst
      simp only
      split
      · next h1 _ => exact absurd h1 hst
      · next h1 _ _ => exact absurd h1 hst
      · rfl
    · obtain ⟨e, rest, hbuf⟩ := List.exists_cons_of_ne_nil hbuf
      simp only [y] at hst hbuf
      simp only [hst, hbuf]
      rfl
    · simp only [y] at hst hbuf hm ⊢
      simp only [hst, hbuf, hm]
    · simp only [y] at hst
      simp only
      split
      · next h1 _ => exact absurd h1 hst
      · next h1 _ _ => exact absurd h1 hst
      · next h1 _ _ => exact absurd h1 hst
      · rfl
  · intro r z a n
    refine ⟨fun hst ha hn hfit => becomes_issue (rfl : execSbind f s = _) ?_,
      fun hst hr => exec_fault (i := .sbind f) (rfl : execSbind f s = _) rfl hr (if_pos hst),
      fun m hm hkind hres hrsv hdesc hroom => becomes_issue (rfl : execScloseMarker g s = _) ?_,
      fun hst => becomes_issue (rfl : execScloseUnbind h s = _) (if_pos hst),
      fun hst => becomes_issue (rfl : execScloseUnbind h s = _) (if_neg hst),
      fun w i hask hclear => if_pos ?_, fun w i t bs hheld hline => ?_⟩
    · have hz : ((s.core.readS .e f.a).toNat % elemBytes f.fmt ≠ 0 || (s.core.readS .e f.b).toNat % elemBytes f.fmt ≠ 0) = false := by
        simp [show (s.core.readS .e f.a).toNat % elemBytes f.fmt = 0 from ha, show (s.core.readS .e f.b).toNat % elemBytes f.fmt = 0 from hn]
      have hin : s.rangeLeaves .vm (s.core.readS .e f.a).toNat (s.core.readS .e f.b).toNat = false := by
        rw [State.rangeLeaves]
        exact decide_eq_false (Nat.not_lt.2 hfit)
      have hempty : decide (s.core.readS .e f.b = 0) = decide (n = 0) := decide_eq_decide.2 (by rw [BitVec.toNat_eq]; rfl)
      simp only [hst, hz, hin, hempty, Bool.false_eq_true, if_false, ne_eq, not_true_eq_false]
      rfl
    · have hn : (nameKind m ≠ 2 || nameRes m ≠ 0 || reservedTensor (nameTensor m) || (s.myDesc m).isNone) = false := by
        simp [hkind, hres, hrsv, isNone_of_isSome hdesc]
      simp only [r] at hm
      simp only [hm, hn, hroom, Bool.false_eq_true, if_false, Bool.not_true]
    · simpa [hask] using hclear
    · show execStreamLineReturn w i s = _
      simp [execStreamLineReturn, hheld, hline]

end Sys2Proof.Machine

namespace Sys2Proof.Machine

/-! ## Publications leave their slots (R168–R175) -/

/-- A tile is published once its packet has room. -/
theorem State.pubTile_room {s : State} (h : s.resendRoom 1 = true) (n : Quad) (a : Word) (scope back : Nat) :
    s.pubTile n a scope back = .done (s.pubJob (some scope) [(a.toNat, 2 ^ (s.tsizeOf n + 6))]
      [{ name := s.ownName n, size := s.tsizeOf n, colourBack := back }] true) := by
  unfold State.pubTile
  rw [h]
  rfl

theorem copFmt_eq (cop : Nat) : copFmt cop = [Fmt.f32, .bf16, .i32].getD (cop % 3) .f32 := by
  have hlt : cop % 3 < 3 := Nat.mod_lt _ (by decide)
  unfold copFmt
  interval_cases cop % 3 <;> rfl

/-- A name of a kind that does not publish is refused first (R168, item 1). -/
theorem State.checkPub_kind (s : State) {kind r : Nat} {n : Quad} (h : nameKind n ≠ kind) (rest : List (Nat × Quad))
    (srcs : List (Word × Nat)) : s.checkPub kind ((r, n) :: rest) srcs = some (nameFault, BitVec.ofNat 64 r) := by
  simp [State.checkPub, badKind, h]

/-! ## The publication at the head of a core's list (R169, R171) -/

theorem modify_zero_id {α : Type} (f : α → α) (hf : ∀ a, f a = a) (l : List α) : l.modify 0 f = l := by
  cases l with
  | nil => rfl
  | cons a t => simp [hf]

/-- Bytes that no store has raced are captured as they stand. -/
theorem racedByte_same (ctr : Nat) {first bs : List Byte} {o : Nat} (h : bs = (first.drop o).take bs.length) :
    (bs.zipIdx.map fun b => racedByte ctr b.2 (first.getD (o + b.2) 0) b.1) = bs := by
  refine List.ext_getElem (by simp) fun i h1 h2 => ?_
  have hbyte : ((first.drop o).take bs.length)[i]? = some bs[i] := by
    rw [← h]
    exact List.getElem?_eq_getElem h2
  rw [List.getElem?_take_of_lt h2, List.getElem?_drop] at hbyte
  rw [List.getElem_map, List.getElem_zipIdx, List.getD_eq_getElem?_getD, Nat.zero_add, hbyte]
  exact if_pos rfl

section
variable {s : State} {p : PubJob} {rest : List PubJob} {a n : Nat} (hp : s.core.eng.pubs = p :: rest) (hs : p.srcs = [(a, n)])
include hp hs

/-- A publication that is not whole, and has not begun to be captured. -/
theorem State.pubStep_waits {sc : Nat} (ho : p.data.length < n) (hf : p.first = none) (hsc : p.scope = some sc)
    (h : s.performed s.cur p.no sc false = false) : s.pubStep = s := by
  simp [State.pubStep, hp, hs, hf, hsc, h, Nat.not_le.2 ho]

theorem State.pubStep_begins {sc : Nat} (ho : p.data.length < n) (hf : p.first = none) (hsc : p.scope = some sc)
    (h : s.performed s.cur p.no sc false = true) :
    s.pubStep = s.onEng fun e => { e with pubs := { p with first := some (s.core.spad.run a n) } :: rest } := by
  simp [State.pubStep, hp, hs, hf, hsc, h, Nat.not_le.2 ho, Core.spadGet]

theorem State.pubStep_captures {first : List Byte} (ho : p.data.length < n) (hf : p.first = some first)
    (hsame : s.core.spad.run (a + p.data.length) 64 = (first.drop p.data.length).take 64)
    (hbad : badIn s.core.spadBad (a + p.data.length) 64 = none) :
    s.pubStep = s.onEng fun e => { e with pubs := { p with data := p.data ++ s.core.spad.run (a + p.data.length) 64 } :: rest } := by
  have hlen := Mem.run_length (n := 64) s.core.spad (a + p.data.length)
  have hraced := racedByte_same s.freeCtr (first := first) (o := p.data.length) (by rw [hlen]; exact hsame)
  have hstep : s.pubStep = s.captureStep p first := by
    simp [State.pubStep, hp, hs, hf, Nat.not_le.2 ho]
  rw [hstep]
  unfold State.captureStep
  simp only [hs, capturePlace, if_pos ho, Core.spadGet, hraced, ← hsame, if_true, hbad]
  have hpkts : (p.pkts.modify 0 fun k => { k with etag := k.etag || false }) = p.pkts := modify_zero_id _ (fun k => by simp) _
  simpa [State.onEng, hp, hs] using hpkts

theorem State.pubStep_sends {first : List Byte} {k : Packet} (ho : n ≤ p.data.length) (hf : p.first = some first)
    (hk : p.pkts = [k]) :
    s.pubStep = (s.onEng fun e => { e with pubs := rest }).publish p.circ { k with data := p.data.take n } := by
  simp [State.pubStep, hp, hs, hf, ho, PubJob.filled, hk]

end

/-- Settles O28: the instructions by their checks, the head of the list by `pubStep`. -/
theorem publication : Obligations.Publication := by
  unfold Obligations.Publication
  refine ⟨fun f g h r d s => ?_, fun s w p rest a n o first k => ?_⟩
  · intro room job tile n m pick a b e x t outs
    refine ⟨fun hc hroom => becomes_issue (rfl : execPub f s = _) ?_,
      fun hk hr => exec_fault (i := .pub f) (rfl : execPub f s = _) rfl hr ?_,
      fun hc hfmt hx hroom => becomes_issue (rfl : execPubC g s = _) ?_,
      fun hc hroom => becomes_issue (rfl : execSteer h s = _) ?_,
      fun q hq hc hroom => becomes_issue (rfl : execRetn r s = _) ?_,
      fun hq hr => exec_fault (i := .retn r) (rfl : execRetn r s = _) rfl hr ?_,
      fun hroom => becomes_issue (rfl : execDrain d s = _) ?_⟩
    · simp only [n, a] at hc ⊢
      simp only [hc]
      exact State.pubTile_room hroom ..
    · simp only
      rw [State.checkPub_kind s (show nameKind (s.core.readN f.n) ≠ 0 from hk)]
    · rw [← copFmt_eq] at hfmt
      simp only [m, b] at hc hfmt ⊢
      simp only [hc, hfmt, Nat.not_le.2 hx, show s.resendRoom 1 = true from hroom, ne_eq, not_true_eq_false, if_false, Bool.not_true,
        Bool.false_eq_true]
      rfl
    · simp only [pick, e] at hc ⊢
      simp only [hc]
      exact State.pubTile_room hroom ..
    · simp only [x, t] at hc hq ⊢
      simp only [hq, hc]
      exact State.pubTile_room hroom ..
    · simp only [t] at hq
      simp only [hq]
    · simp only [outs, t] at hroom ⊢
      simp only [hroom, Bool.not_true, Bool.false_eq_true, if_false]
      rfl
  · intro c go
    refine ⟨fun hne => ?_, fun hp hs ho => ?_, rfl, fun hcirc => ?_⟩
    · show execEngineCommandDone w .queues s = _
      simp [execEngineCommandDone, hne]
    · subst ho
      exact ⟨fun sc ho hf hsc h => State.pubStep_waits hp hs ho hf hsc h, fun sc ho hf hsc h => State.pubStep_begins hp hs ho hf hsc h,
        fun ho hf hsame hbad => State.pubStep_captures hp hs ho hf hsame hbad, fun ho hf hk => State.pubStep_sends hp hs ho hf hk⟩
    · simp only [State.publish, hcirc, if_true]
      rfl

end Sys2Proof.Machine

namespace Sys2Proof.Machine

/-! ## System registers (R181–R183) -/

/-- Settles O30: SYS.RD and SYS.WR by the branches of their bodies. -/
theorem systemRegisters : Obligations.SystemRegisters := by
  unfold Obligations.SystemRegisters
  intro f g s n m v r
  refine ⟨fun hb hp => becomes_issue (rfl : execSysRd f s = _) ?_,
    fun w hb hp hw hq => becomes_issue (rfl : execSysRd f s = _) ?_,
    fun hp hn hr => exec_fault (i := .sysRd f) (rfl : execSysRd f s = _) rfl hr ?_,
    fun hp hm => completes_issue (rfl : execSysWr g s = _) ?_,
    fun hp h0 h1 h5 ha => becomes_issue (rfl : execSysWr g s = _) ?_,
    fun hp hm hr => exec_fault (i := .sysWr g) (rfl : execSysWr g s = _) rfl hr ?_,
    fun w hn => ?_⟩
  · have hopen : (!s.privileged && !openToRead f.reg.toNat) = false := by
      rcases hp with hp | hp
      · simp [hp]
      · simp [openToRead, show f.reg.toNat ≤ 5 from hp]
    exact (if_neg (not_not.2 hb)).trans (if_neg (by simp [hopen]))
  · simp only [hb, hp, hw, hq, ne_eq, not_false_eq_true, not_true_eq_false, if_true, if_false, Bool.not_true,
      Bool.false_eq_true]
    rfl
  · by_cases hb : f.b.val = 0
    · have h5 : 5 < f.reg.toNat := hn.resolve_right (fun h => h hb)
      exact (if_neg (not_not.2 hb)).trans (if_pos (by simp [hp, openToRead, h5]))
    · exact (if_pos hb).trans (if_pos (by simp [hp]))
  · have hopen : (!s.privileged && !openToWrite g.reg.toNat) = false := by
      rcases hp with hp | hp
      · simp [hp]
      · simp [openToWrite, show g.reg.toNat = 1 from hp]
    exact (if_neg (by simp [hopen])).trans (if_pos (by simpa [or_assoc] using hm))
  · exact (if_neg (by simp [hp])).trans ((if_neg (by simpa [or_assoc] using ⟨h0, h1, h5⟩)).trans (if_pos ha))
  · exact if_pos (by simpa [hp, openToWrite] using hm)
  · simp only [hn]
    rfl

/-! ## Privilege and return (R152, R187) -/

theorem eret_unprivileged {s : State} (hp : s.privileged = false) (a : Word) (head : Bool) :
    s.eret a head = .fault privFault 0x32 :=
  if_pos (by simp [hp])

theorem eret_returns {s : State} {a : Word} {r : Rec} (hp : s.privileged = true) (ha : s.recAt a.toNat = some r)
    (hpart : r.part = s.core.task.part) (hret : r.returns = true) (hres : r.resv = 0) (head : Bool) :
    s.eret a head = .done (s.returnRec r head) := by
  simp [State.eret, hp, ha, hpart, hret, hres]

theorem tlbInv_unprivileged {s : State} (hp : s.privileged = false) (op : Nat) (hit : TlbEntry → Bool) :
    s.tlbInv op hit = .fault privFault (BitVec.ofNat 64 op) :=
  if_pos (by simp [hp])

/-- Settles O31: the privilege check comes first; a FAULTED record returns. -/
theorem privilegeAndReturn : Obligations.PrivilegeAndReturn := by
  unfold Obligations.PrivilegeAndReturn
  intro f g h s a turned
  refine ⟨fun hp hr => exec_fault (i := .eret f) (rfl : execEret f s = _) rfl hr (eret_unprivileged hp _ _),
    fun hp hr => exec_fault (i := .eretH f) (rfl : execEretH f s = _) rfl hr (eret_unprivileged hp _ _),
    fun hp hr => exec_fault (i := .tlbInv f) (rfl : execTlbInv f s = _) rfl hr (tlbInv_unprivileged hp _ _),
    fun hp hr => exec_fault (i := .tlbInvAll g) (rfl : execTlbInvAll g s = _) rfl hr (tlbInv_unprivileged hp _ _),
    fun hp hr => exec_fault (i := .dictLd h) (rfl : execDictLd h s = _) rfl hr (if_pos (by simp [hp])),
    fun hp hr => exec_fault (i := .dictInv f) (rfl : execDictInv f s = _) rfl hr (if_pos (by simp [hp])),
    fun r hp ha hpart hret hres => ⟨?_, ?_, ?_⟩,
    fun hp ha hr => exec_fault (i := .eret f) (rfl : execEret f s = _) rfl hr ?_,
    fun r hret => ?_⟩
  · exact becomes_issue (i := .eret f) (rfl : execEret f s = _) (eret_returns hp ha hpart hret hres _)
  · exact becomes_issue (i := .eretH f) (rfl : execEretH f s = _) (eret_returns hp ha hpart hret hres _)
  · intro head
    rfl
  · simp only [State.eret, hp, show s.recAt (s.core.readS .c f.a).toNat = none from ha, Bool.not_true, Bool.false_eq_true,
      if_false]
    rfl
  · simp only [Rec.returns, Bool.and_eq_true, decide_eq_true_eq] at hret
    exact hret.1.1.1

/-! ## Translations and dictionaries (R188–R190, R328) -/

theorem tlbInv_drops {s : State} {hit : TlbEntry → Bool} (hp : s.privileged = true) (hout : s.ownStoresOut = true)
    (hquiet : s.tlbQuiet (s.tlbHits s.core.task.part hit) = true) (op : Nat) :
    s.tlbInv op hit = .done (s.tlbDrop s.core.task.part hit) := by
  simp [State.tlbInv, hp, hout, hquiet]

theorem mem_tlbDrop_utlb (s : State) (p : Nat) (hit : TlbEntry → Bool) (t : TlbEntry) :
    t ∈ (s.tlbDrop p hit).core.utlb ↔ t ∈ s.core.utlb ∧ (t.part = p → hit t = false) := by
  by_cases hpart : t.part = p <;> simp [State.tlbDrop, List.mem_filter, hpart]

/-- Settles O32: what TLB.INV keeps is a filter of each TLB, and DICT.LD and DICT.INV pass their checks. -/
theorem translationsAndDictionaries : Obligations.TranslationsAndDictionaries := by
  unfold Obligations.TranslationsAndDictionaries
  refine ⟨fun f g s => ?_, fun f g s => ?_⟩
  · intro va p covers
    refine ⟨fun hp hout hq => becomes_issue (rfl : execTlbInv f s = _) (tlbInv_drops hp hout hq _),
      fun hp hout hq => becomes_issue (rfl : execTlbInvAll g s = _) (tlbInv_drops hp hout hq _),
      fun t ht hpart hcov => ?_, fun t hpart => ?_⟩
    · have hmiss := ((mem_tlbDrop_utlb s p covers t).1 ht).2 hpart
      simp [covers, hcov] at hmiss
    · simp [mem_tlbDrop_utlb, hpart]
  · intro a b q n kernel c r gone entries
    refine ⟨fun bs hp hal h1 h2 hnew hroom hread => becomes_issue (rfl : execDictLd f s = _) ?_,
      fun hp hl => becomes_issue (rfl : execDictInv g s = _) ?_,
      fun hp hl hr => exec_fault (i := .dictInv g) (rfl : execDictInv g s = _) rfl hr ?_⟩
    · have hres : (field b 14 18 ≠ 0 || field b 48 16 ≠ 0) = false := by simp [h1, h2]
      have hany : (c.dicts.any fun d => d.kernel = kernel) = false := by simpa using hnew
      simp only [a, b, c, q, n, kernel, r] at hres hany hal hroom hread
      simp only [hp, hal, hres, hany, hread, Nat.not_lt.2 hroom, Bool.not_true, Bool.false_eq_true, if_false, ne_eq,
        not_true_eq_false]
      rfl
    · exact (if_neg (by simp [hp])).trans (if_neg (by simpa [q, gone] using hl))
    · exact (if_neg (by simp [hp])).trans (if_pos hl)

/-! ## Queues (R191, R308–R310) -/

theorem Core.spadGet_eq_run (c : Core) (a n : Nat) : c.spadGet a n = c.spad.run a n := rfl

theorem handleOk_of_queueCheck {s : State} {h a : Word} {enq : Bool} (hc : s.queueCheck h a enq = none) :
    s.handleOk h = true := by
  by_contra hbad
  simp [State.queueCheck, Bool.eq_false_iff.2 hbad] at hc

theorem queueCheck_bad {s : State} {h : Word} (hbad : s.handleOk h = false) (a : Word) (enq : Bool) :
    s.queueCheck h a enq = some (queueFault, h) :=
  if_pos (by simp [hbad])

/-- The predicate of a .NB form written; the plain form has none. -/
def State.putFlag (s : State) (p : Option PReg) (b : Bool) : State :=
  match p with
  | none => s
  | some p => s.onCore fun c => c.writeP .c 1 p b

theorem qenq_put {s : State} {h a : Word} (hc : s.queueCheck h a true = none)
    (hroom : (s.hqAt (handlePart h) (handleIdx h)).room = true) (hperf : s.performed s.cur s.stamp 4 false = true)
    (hring : s.ringUp (s.hqAt (handlePart h) (handleIdx h)) (s.hqAt (handlePart h) (handleIdx h)).toSpill
      (s.hqAt (handlePart h) (handleIdx h)).tail = true)
    (hspill : s.spillFaults (handlePart h) (handleIdx h) = false) (hbad : badIn s.core.spadBad a.toNat 64 = none)
    (p : Option PReg) :
    s.qenq h a p = .done ((s.hqPut (handlePart h) (handleIdx h) (s.core.spad.run a.toNat 64)).putFlag p true) := by
  simp only [State.qenq, hc, hroom, partScope, hperf, hring, hspill, hbad, Bool.not_true, Bool.or_self, Bool.false_eq_true,
    if_false]
  rfl

theorem qenq_full {s : State} {h a : Word} (hc : s.queueCheck h a true = none)
    (hroom : (s.hqAt (handlePart h) (handleIdx h)).room = false) (p : Option PReg) :
    s.qenq h a p = if p.isSome then .done (s.putFlag p false) else .wait := by
  simp only [State.qenq, hc, hroom, Bool.not_false, if_true]
  rfl

/-- The queue without its head entry, which a store of the task takes to the scratchpad. -/
def State.dequeued (x : State) (h a : Word) (e : List Byte) : State :=
  ((x.enqueue { kind := .store e false, slot := .c, parts := [(.loc a.toNat, 64)] }).hqPop (handlePart h)
    (handleIdx h)).drainPosts (handlePart h) (handleIdx h)

theorem qdeq_take {s x : State} {h a : Word} {e : List Byte} (hc : s.queueCheck h a false = none)
    (hcount : (s.hqAt (handlePart h) (handleIdx h)).count ≠ 0)
    (hring : s.ringUp (s.hqAt (handlePart h) (handleIdx h)) (decide (0 < (s.hqAt (handlePart h) (handleIdx h)).spilled))
      (if (s.hqAt (handlePart h) (handleIdx h)).slice then (s.hqAt (handlePart h) (handleIdx h)).firstSpilled
        else (s.hqAt (handlePart h) (handleIdx h)).head) = true)
    (hhead : s.hqHead (handlePart h) (handleIdx h) = (x, some e)) (p : Option PReg) :
    s.qdeq h a p = .done ((x.dequeued h a e).putFlag p true) := by
  simp only [State.qdeq, hc, hcount, hring, hhead, Bool.not_true, Bool.false_eq_true, if_false]
  rfl

theorem qdeq_empty {s : State} {h a : Word} (hc : s.queueCheck h a false = none)
    (hcount : (s.hqAt (handlePart h) (handleIdx h)).count = 0) (p : Option PReg) :
    s.qdeq h a p = if p.isSome then .done (s.putFlag p false) else .wait := by
  simp only [State.qdeq, hc, hcount, if_true]
  rfl

theorem hqHead_slice {s : State} {i j : Nat} (hs : (s.hqAt i j).slice = true)
    (hb : (s.hqAt i j).bads.headD false = false) :
    s.hqHead i j = (s, some ((s.hqAt i j).ents.headD (List.replicate 64 0))) := by
  simp only [State.hqHead, hs, hb, if_true, Bool.false_eq_true, if_false]

/-- Settles O33: each form by the outcome of the checks, the room and the head. -/
theorem queueInstructions : Obligations.QueueInstructions := by
  unfold Obligations.QueueInstructions
  intro f g s on q h a h2 a2 put may has taken
  refine ⟨fun hc ⟨hroom, hperf, hring, hspill, hbad⟩ => becomes_issue (i := .qenq f) (rfl : execQenq f s = _)
      (qenq_put hc hroom hperf hring hspill hbad none),
    fun hc hroom hr => exec_wait (i := .qenq f) (rfl : execQenq f s = _) rfl hr (qenq_full hc hroom none),
    fun hc ⟨hroom, hperf, hring, hspill, hbad⟩ => becomes_issue (rfl : execQenqNb g s = _)
      (qenq_put hc hroom hperf hring hspill hbad (some g.p)),
    fun hc hroom => completes_issue (rfl : execQenqNb g s = _) (qenq_full hc hroom (some g.p)),
    fun x e hc ⟨hcount, hring⟩ hhead => becomes_issue (i := .qdeq f) (rfl : execQdeq f s = _)
      (qdeq_take hc hcount hring hhead none),
    fun hc hcount hr => exec_wait (i := .qdeq f) (rfl : execQdeq f s = _) rfl hr (qdeq_empty hc hcount none),
    fun x e hc ⟨hcount, hring⟩ hhead => becomes_issue (rfl : execQdeqNb g s = _)
      (qdeq_take hc hcount hring hhead (some g.p)),
    fun hc hcount => completes_issue (rfl : execQdeqNb g s = _) (qdeq_empty hc hcount (some g.p)),
    fun i j hs hb => hqHead_slice hs hb,
    fun hbad hr => exec_fault (i := .qenq f) (rfl : execQenq f s = _) rfl hr ?_,
    fun hbad hr => exec_fault (i := .qdeq f) (rfl : execQdeq f s = _) rfl hr ?_⟩
  · exact by rw [State.qenq, queueCheck_bad hbad]
  · exact by rw [State.qdeq, queueCheck_bad hbad]

end Sys2Proof.Machine

namespace Sys2Proof.Machine

/-! ## The core at a window number after a write -/

theorem State.coreAt_setCore (s : State) (w x : Nat) (c : Core) :
    (s.setCore w c).coreAt x = if x = w then c else s.coreAt x := by
  unfold State.coreAt State.setCore
  by_cases hw : w = s.cur
  · by_cases hx : x = s.cur
    · simp [hw, hx]
    · simp [hw, hx]
  · by_cases hx : x = s.cur
    · simp [hw, hx, Ne.symm hw]
    · by_cases hxw : x = w
      · simp [hw, hxw]
      · simp [hw, hx, hxw, Table.get_set_ne _ _ (Ne.symm hxw)]

theorem State.coreAt_modCore (s : State) (w x : Nat) (f : Core → Core) :
    (s.modCore w f).coreAt x = if x = w then f (s.coreAt w) else s.coreAt x := s.coreAt_setCore w x _

theorem State.coreAt_chosen (s : State) (n w : Nat) : (s.chosen n).coreAt w = s.coreAt w := by
  unfold State.chosen
  split <;> rfl

theorem State.coreAt_modCluster (s : State) (q w : Nat) (f : Cluster → Cluster) :
    (s.modCluster q f).coreAt w = s.coreAt w := rfl

theorem State.clusterAt_modCluster_self (s : State) (q : Nat) (f : Cluster → Cluster) :
    (s.modCluster q f).clusterAt q = f (s.clusterAt q) := Table.get_set_self ..

theorem State.coreAt_cur (s : State) : s.coreAt s.cur = s.core := if_pos rfl

theorem State.modCore_self (s : State) (f : Core → Core) : s.modCore s.cur f = s.onCore f := by
  simp only [State.modCore, State.setCore, State.coreAt, if_true, State.onCore]

theorem State.chosen_hbm (s : State) (n : Nat) : (s.chosen n).hbm = s.hbm := by
  unfold State.chosen
  split <;> rfl

theorem State.chosen_clusters (s : State) (n : Nat) : (s.chosen n).clusters = s.clusters := by
  unfold State.chosen
  split <;> rfl

theorem State.memWf_spad {s : State} (h : s.memWf = true) (w : Nat) : (s.coreAt w).spad.wf = true := by
  simp only [State.memWf, Bool.and_eq_true] at h
  obtain ⟨⟨-, hcore⟩, hothers⟩ := h
  have hc : (s.coreAt w).memWf = true := by
    unfold State.coreAt
    split
    · exact hcore
    · exact Table.all_get (p := Core.memWf) hothers (rfl : (Core.fresh w).memWf = true) w
  exact (Bool.and_eq_true_iff.1 hc).1

/-! ## The checks of an address (R210) -/

theorem State.Accessed.stamp {s t : State} (h : s.Accessed t) : t.stamp = s.stamp := h.congr State.stamp fun _ => rfl

theorem State.Accessed.place (s : State) (sp : Space) (ea : Word) (n align : Nat) (u : Use) (need : FeNeed) :
    s.Accessed (s.place sp ea n align u need).1 := by
  unfold State.place
  split
  · exact .refl s
  · cases sp with
    | loc => exact .refl s
    | win =>
      simp only [State.spotOf]
      split <;> exact .refl s
    | vm =>
      have h := (State.Accessed.refl s).translate s.core.task.part s.core.task.tenant ea.toNat u
      simp only [State.spotOf, State.xlate]
      split
      · exact h
      · split <;> exact h

theorem place_loc (s : State) (ea : Word) (n align : Nat) (u : Use) (need : FeNeed) :
    s.place .loc ea n align u need = (s, if 2 ^ 21 ≤ ea.toNat then .error (accessFault, ea)
      else if ea.toNat % align ≠ 0 then .error (alignFault, ea) else .ok (.loc ea.toNat)) := by
  simp only [State.place, State.eaCheck, State.spotOf, decide_eq_true_eq]
  split_ifs <;> rfl

theorem place_loc_ok {s t : State} {ea : Word} {n align : Nat} {u : Use} {need : FeNeed} {p : Spot}
    (h : s.place .loc ea n align u need = (t, .ok p)) : t = s ∧ p = .loc ea.toNat := by
  rw [place_loc, Prod.mk.injEq] at h
  obtain ⟨rfl, h⟩ := h
  refine ⟨rfl, ?_⟩
  by_cases h1 : 2 ^ 21 ≤ ea.toNat
  · rw [if_pos h1] at h
    cases h
  · rw [if_neg h1] at h
    by_cases h2 : ea.toNat % align ≠ 0
    · rw [if_pos h2] at h
      cases h
    · rw [if_neg h2, Except.ok.injEq] at h
      exact h.symm

theorem place_loc_iff (s : State) (ea : Word) (n align : Nat) (u : Use) (need : FeNeed) :
    s.place .loc ea n align u need = (s, .ok (.loc ea.toNat)) ↔ ea.toNat < 2 ^ 21 ∧ ea.toNat % align = 0 := by
  rw [place_loc]
  split_ifs with h1 h2
  · exact iff_of_false (by simp) fun h => absurd h.1 (Nat.not_lt.2 h1)
  · simp [h2]
  · simp only [ne_eq, Decidable.not_not] at h2
    exact iff_of_true rfl ⟨Nat.not_le.1 h1, h2⟩

theorem place_vm_out {s : State} {ea : Word} (h : 2 ^ 57 ≤ ea.toNat) (n align : Nat) (u : Use) (need : FeNeed) :
    s.place .vm ea n align u need = (s, .error (accessFault, ea)) := by
  simp only [State.place, State.eaCheck, decide_eq_true h, if_true]

theorem place_vm_unaligned {s : State} {ea : Word} {align : Nat} (h : ea.toNat < 2 ^ 57) (ha : ea.toNat % align ≠ 0) (n : Nat)
    (u : Use) (need : FeNeed) : s.place .vm ea n align u need = (s, .error (alignFault, ea)) := by
  simp only [State.place, State.eaCheck, decide_eq_false (Nat.not_le.2 h), Bool.false_eq_true, if_false, if_pos ha]

theorem place_win_out {s : State} {ea : Word} (h : 2 ^ 29 ≤ ea.toNat) (n align : Nat) (u : Use) (need : FeNeed) :
    s.place .win ea n align u need = (s, .error (accessFault, ea)) := by
  simp only [State.place, State.eaCheck, decide_eq_true h, Bool.true_or, if_true]

/-! ## Loads (R210, R211) -/

theorem sextTo_ofNat {w : Nat} (hw : 0 < w) (n : Nat) : sextTo w n = BitVec.signExtend 64 (BitVec.ofNat w n) := by
  unfold sextTo signed BitVec.signExtend
  rw [BitVec.toInt_eq_toNat_cond, BitVec.toNat_ofNat]
  have hp : 2 ^ w = 2 * 2 ^ (w - 1) := by rw [← Nat.pow_succ', Nat.succ_eq_add_one, Nat.sub_add_cancel hw]
  have hiff : n % 2 ^ w < 2 ^ (w - 1) ↔ 2 * (n % 2 ^ w) < 2 ^ w := by omega
  simp only [hiff]

theorem ldExt_load (z : LdSize) (bs : List Byte) : ldExt z (ofBytes bs) % 2 ^ 64 = ((match z with
    | .i8 => BitVec.signExtend 64 (BitVec.ofNat 8 (ofBytes bs))
    | .i16 => BitVec.signExtend 64 (BitVec.ofNat 16 (ofBytes bs))
    | .i32 => BitVec.signExtend 64 (BitVec.ofNat 32 (ofBytes bs))
    | _ => BitVec.ofNat 64 (ofBytes bs)) : BitVec 64).toNat := by
  cases z <;> simp only [ldExt, sextTo_ofNat (by decide : 0 < 8), sextTo_ofNat (by decide : 0 < 16),
    sextTo_ofNat (by decide : 0 < 32), BitVec.toNat_ofNat, Nat.mod_eq_of_lt (BitVec.isLt _)]

/-- The value that LD gives its register, as the spec words it (R211). -/
def loadWord (z : LdSize) (bs : List Byte) : Word :=
  match z with
  | .i8 => BitVec.signExtend 64 (BitVec.ofNat 8 (ofBytes bs))
  | .i16 => BitVec.signExtend 64 (BitVec.ofNat 16 (ofBytes bs))
  | .i32 => BitVec.signExtend 64 (BitVec.ofNat 32 (ofBytes bs))
  | _ => BitVec.ofNat 64 (ofBytes bs)

theorem ldExt_mod (z : LdSize) (bs : List Byte) : ldExt z (ofBytes bs) % 2 ^ 64 = (loadWord z bs).toNat := by
  cases z <;> simp only [loadWord, ldExt, sextTo_ofNat (by decide : 0 < 8), sextTo_ofNat (by decide : 0 < 16),
    sextTo_ofNat (by decide : 0 < 32), BitVec.toNat_ofNat, Nat.mod_eq_of_lt (BitVec.isLt _)]

theorem ofNat_mod_word (v : Nat) : BitVec.ofNat 64 (v % 2 ^ 64) = BitVec.ofNat 64 v :=
  BitVec.eq_of_toNat_eq (by simp only [BitVec.toNat_ofNat, Nat.mod_mod])

/-- A scalar register takes a value modulo 2^64. -/
theorem Core.writeLoc_mod {fr : Frame} {i : SReg} {l : Loc} (h : sLoc fr i = some l) (c : Core) (k : Slot) (lat v : Nat) :
    c.writeLoc k lat l (v % 2 ^ 64) = c.writeLoc k lat l v := by
  have hset : ∀ r : Regs, r.set l (v % 2 ^ 64) = r.set l v := by
    intro r
    cases l with
    | s j => simp only [Regs.set, ofNat_mod_word]
    | f j => simp only [Regs.set, ofNat_mod_word]
    | _ =>
      simp only [sLoc] at h
      split_ifs at h <;> simp at h
  simp only [Core.writeLoc, hset]

/-- What LD leaves in its register when its bytes are at hand. -/
theorem Core.putAccess_load (c : Core) (fr : Frame) (i : SReg) (k : Slot) (lat : Nat) (z : LdSize) (bs : List Byte) :
    c.putAccess k lat (.load (sLoc fr i) z) bs = match sLoc fr i with
      | none => c
      | some l => c.writeLoc k lat l (loadWord z bs).toNat := by
  simp only [Core.putAccess, AccKind.dest]
  cases h : sLoc fr i with
  | none => rfl
  | some l => exact (Core.writeLoc_mod h c k lat _).symm.trans (congrArg _ (ldExt_mod z bs))

theorem localBytes_one (s : State) (o n : Nat) : s.localBytes [(.loc o, n)] = s.spadSeen o n := List.append_nil _

theorem badParts_one (c : Core) (o n : Nat) : c.badParts [(.loc o, n)] = badIn c.spadBad o n := by
  simp only [Core.badParts, List.findSome?_cons, List.findSome?_nil]
  cases badIn c.spadBad o n <;> rfl

theorem spadSeen_run {s : State} (h : s.core.pendingStores s.stamp = []) (o n : Nat) :
    s.spadSeen o n = s.core.spad.run o n := by
  simp only [State.spadSeen, Core.overlay, h, List.isEmpty_nil, if_true, Core.spadGet]

/-- A place that is no word of a full-empty page. -/
def Spot.plain : Spot → Bool
  | .vm _ _ _ _ fe _ => !fe
  | _ => true

section
variable {s t : State} {k : Slot} {lat n : Nat} {kind : AccKind} {sp : Space} {ea : Word} {use : Use} {need : FeNeed} {p : Spot}
  (hd : s.core.deferredAt k.num = none) (hp : s.place sp ea n n use need = (t, .ok p))
include hd hp

theorem loadOne_plain (hplain : p.plain = true) : s.loadOne k lat kind sp ea n use need = t.loadFrom k lat kind sp [(p, n)] := by
  simp only [State.loadOne, hd, hp]
  cases p with
  | vm va pa g key fe l => cases fe with
    | true => cases hplain
    | false => rfl
  | loc o => rfl
  | win w o => rfl

theorem loadOne_fe {va pa g key l : Nat} (hv : p = .vm va pa g key true l) :
    s.loadOne k lat kind sp ea n use need = t.feAccess { kind := kind, slot := k, parts := [(p, n)] } p n := by
  subst hv
  simp only [State.loadOne, hd, hp]

end

theorem loadFrom_bank {s : State} {parts : List (Spot × Nat)} (hb : s.core.badParts parts = none) {lat : Nat} (hl : lat ≠ 1)
    (k : Slot) (kind : AccKind) : s.loadFrom k lat kind .loc parts = if s.bankBusy parts then .bank
      else .done (s.onCore fun c => c.putAccess k lat kind (s.localBytes parts)) := by
  simp only [State.loadFrom, hb, hl, if_false]

theorem loadFrom_queue {s : State} {sp : Space} (hsp : sp ≠ .loc) (k : Slot) (lat : Nat) (kind : AccKind)
    (parts : List (Spot × Nat)) : s.loadFrom k lat kind sp parts = .done (s.queueAccess { kind := kind, slot := k, parts := parts }) := by
  cases sp with
  | loc => exact absurd rfl hsp
  | win => rfl
  | vm => rfl

theorem loadFrom_late {s : State} {parts : List (Spot × Nat)} {sp : Space} (hb : sp = .loc → s.core.badParts parts = none) (k : Slot)
    (kind : AccKind) : s.loadFrom k 1 kind sp parts = .done (s.queueAccess { kind := kind, slot := k, parts := parts }) := by
  by_cases hsp : sp = .loc
  · subst hsp
    simp only [State.loadFrom, hb rfl, if_true]
  · exact loadFrom_queue hsp k 1 kind parts

section
variable {t : State} {pa n g : Nat} {va key lat : Nat} {a : Access}
  (hbar : t.accessBarred [(.vm va pa g key true lat, n)] = false) (hch : t.channelsUp pa n g = true)
  (hst : t.storeHeld t.stamp .vm pa n = false)
include hbar hch hst

theorem feAccess_full {r : State} {bs : List Byte} (hfull : t.hbm.full pa = true) (hw : t.hbm.waiters pa = [])
    (hserve : t.feServe a.kind (.vm va pa g key true lat) n = (r, some bs)) :
    t.feAccess a (.vm va pa g key true lat) n = .done (r.onCore fun c => c.putAccess a.slot 1 a.kind bs) := by
  simp [State.feAccess, hbar, hch, hst, hfull, hw, hserve]

theorem feAccess_empty (hempty : t.hbm.full pa = false) :
    t.feAccess a (.vm va pa g key true lat) n = .stay (t.feWait a pa) := by
  simp [State.feAccess, hbar, hch, hst, hempty]

end

/-! ## Stores performed (R223, R226) -/

theorem performStore_loc (s : State) (w o : Nat) {a : Access} {bs : List Byte} (hp : a.parts = [(.loc o, bs.length)]) :
    s.performStore w a bs false = s.modCore w fun c => c.spadPut o bs := by
  simp only [State.performStore, hp, List.foldl_cons, List.foldl_nil, State.writeSpot, List.take_length]

theorem performStore_win (s : State) (w v o : Nat) {a : Access} {bs : List Byte} (hp : a.parts = [(.win v o, bs.length)]) :
    s.performStore w a bs false = s.modCore v fun c => c.spadPut o bs := by
  simp only [State.performStore, hp, List.foldl_cons, List.foldl_nil, State.writeSpot, List.take_length]

theorem entryBytes_one (p : Spot) (bs : List Byte) : entryBytes [(p, bs.length)] bs = bs.map some := by
  simp [entryBytes]

theorem performStore_vm (s : State) (w : Nat) {va pa g key lat : Nat} {a : Access} {bs : List Byte}
    (hp : a.parts = [(.vm va pa g key false lat, bs.length)]) :
    s.performStore w a bs false = s.modCluster (clusterOf w) fun c =>
      { c with stbuf := c.stbuf ++ [s.bufEntry w a.no pa g key lat (bs.map some)] } := by
  rw [← entryBytes_one (.vm va pa g key false lat) bs]
  simp only [State.performStore, hp]

theorem performStore_fe (s : State) (w : Nat) {va pa g key lat : Nat} {a : Access} {bs : List Byte}
    (hp : a.parts = [(.vm va pa g key true lat, bs.length)]) : s.performStore w a bs false = s.feStore pa bs g key := by
  simp only [State.performStore, hp]

theorem performAccess_store (s : State) (w : Nat) {a : Access} {bs : List Byte} {lanes : Bool} (hk : a.kind = .store bs lanes) :
    s.performAccess w a = (s.performStore w a bs lanes, .ok []) := by
  simp only [State.performAccess, hk]

theorem becomes_st {f : MSt} {s t : State} {p : Spot}
    (hp : s.place f.sp (s.core.ea f.k.slot f.a f.b f.off) (stBytes f.sz) (stBytes f.sz) .store .any = (t, .ok p)) :
    Becomes (.st f) s (t.enqueue { kind := .store (toBytes (stBytes f.sz) (s.core.readS f.k.slot f.d).toNat) false
                                   slot := f.k.slot, parts := [(p, stBytes f.sz)] }) := by
  refine becomes_issue (rfl : execSt f s = _) ?_
  simp only [hp, State.storeTo, List.isEmpty_cons, Bool.false_eq_true, if_false]

/-- Settles O34: a load by the place of its address, a store at issue and when it is performed, the first checks. -/
theorem loadsAndStores : Obligations.LoadsAndStores := by
  unfold Obligations.LoadsAndStores
  refine ⟨fun f s t p => ?_, ⟨fun f s t p hp => becomes_st hp, fun s w a p bs hk hparts => ⟨?_, ?_, ?_⟩⟩,
    fun s ea n align u need => ⟨place_loc_iff s ea n align u need, fun h => ?_, fun h ha => ?_, fun h => place_win_out h ..,
      fun h => place_vm_out h .., fun h ha => place_vm_unaligned h ha ..⟩⟩
  · intro k n d kind put hd hp
    have hput : ∀ (c : Core) (lat : Nat) (bs : List Byte), c.putAccess k lat kind bs = put c lat bs := fun c lat bs =>
      Core.putAccess_load c s.core.view f.d k lat f.sz bs
    refine ⟨fun o ho hsp hbad => ?_, fun hsp hne => becomes_issue (rfl : execLd f s = _) ?_,
      fun va pa g key lat r bs hv hbar hch hst hfull hw hread => becomes_issue (rfl : execLd f s = _) ?_⟩
    · rw [hsp] at hp
      obtain ⟨rfl, -⟩ := place_loc_ok hp
      have hbody : t.loadOne k 4 kind f.sp (t.core.ea k f.a f.b f.off) n .load .any = if t.bankBusy [(p, n)] then .bank
          else .done (t.onCore fun c => put c 4 (t.spadSeen o n)) := by
        rw [hsp, loadOne_plain hd hp (by rw [ho]; rfl), ho, loadFrom_bank (by rw [badParts_one]; exact hbad) (by decide)]
        simp only [localBytes_one, hput]
      exact ⟨fun hb => completes_issue (rfl : execLd f t = _) (hbody.trans (if_neg (by simp [hb]))),
        fun hb hr => exec_bank (i := .ld f) (rfl : execLd f t = _) rfl hr (hbody.trans (if_pos hb)),
        fun hpend => spadSeen_run hpend o n⟩
    · refine (loadOne_plain hd hp ?_).trans (loadFrom_queue hsp ..)
      cases p with
      | vm va pa g key fe lat => cases fe with
        | true => exact absurd rfl (hne va pa g key lat)
        | false => rfl
      | loc o => rfl
      | win w o => rfl
    · refine (loadOne_fe hd hp hv).trans ?_
      subst hv
      rw [feAccess_full (a := { kind := kind, slot := k, parts := [(.vm va pa g key true lat, n)] }) hbar hch hst hfull hw
        (r := r) (bs := bs) (by simp only [State.feServe, hread]; rfl)]
      exact congrArg Res.done (by simp only [State.onCore, hput])
  · intro o ho
    rw [performAccess_store s w hk, performStore_loc s w o (ho ▸ hparts)]
    rfl
  · intro va pa g key lat hv
    rw [performAccess_store s w hk, performStore_vm s w (hv ▸ hparts)]
    rfl
  · intro va pa g key lat hv
    rw [performAccess_store s w hk, performStore_fe s w (hv ▸ hparts)]
  · rw [place_loc, if_pos h]
  · rw [place_loc, if_neg (Nat.not_le.2 h), if_pos ha]

/-! ## The frame of a store -/

theorem State.chosen_memWf (s : State) (n : Nat) : (s.chosen n).memWf = s.memWf := by
  unfold State.chosen
  split <;> rfl

/-- An access that is served at once: the rim agent performs it. -/
theorem exec_rimAccessRequest {s : State} {w i : Nat} {a : Access}
    (hsel : (s.openAccesses w)[s.choice (s.openAccesses w).length]? = some (a, i)) (hheld : (s.coreAt w).held .queues = false)
    (htr : a.travels = false) (hhome : ∀ p ∈ a.parts, a.asksHome p.1 = true → s.portOf p.1.space = none) :
    exec (.rimAccessRequest w) s = .next ((s.chosen (s.openAccesses w).length).serveAccess w i a) := by
  have hport : (a.parts.findSome? fun p => if a.asksHome p.1 then s.portOf p.1.space else none) = none := by
    rw [List.findSome?_eq_none_iff]
    intro p hp
    by_cases ha : a.asksHome p.1 = true
    · rw [if_pos ha, hhome p hp ha]
    · rw [if_neg ha]
  show execRimAccessRequest w s = _
  simp only [execRimAccessRequest, hsel, hheld, htr, hport, Bool.false_eq_true, if_false]

theorem serveAccess_ok {s r : State} {w i : Nat} {a : Access} {bs : List Byte} (h : s.performAccess w a = (r, .ok bs)) :
    s.serveAccess w i a = r.modCore w fun c => c.served i a bs := by
  simp only [State.serveAccess, h]

theorem Core.served_spad (c : Core) (i : Nat) (a : Access) (bs : List Byte) : (c.served i a bs).spad = c.spad := rfl

/-- The scratchpads after a store to a bank has been performed. -/
theorem spad_stored {s : State} (h : s.memWf = true) (w v o i x b : Nat) (a : Access) (bs : List Byte) :
    (((s.modCore v fun c => c.spadPut o bs).modCore w fun c => c.served i a []).coreAt x).spad.byte b =
      if x = v ∧ o ≤ b ∧ b < o + bs.length then bs.getD (b - o) 0 else (s.coreAt x).spad.byte b := by
  have hspad : (((s.modCore v fun c => c.spadPut o bs).modCore w fun c => c.served i a []).coreAt x).spad =
      ((s.modCore v fun c => c.spadPut o bs).coreAt x).spad := by
    rw [State.coreAt_modCore]
    by_cases hx : x = w
    · rw [if_pos hx, Core.served_spad, hx]
    · rw [if_neg hx]
  rw [hspad, State.coreAt_modCore]
  by_cases hx : x = v
  · subst hx
    simp only [if_true, Core.spadPut_spad, Mem.byte_write (State.memWf_spad h x), true_and]
  · simp only [hx, if_false, false_and]

/-- Settles O10: a store entering its queue, and one performed there. -/
theorem storeFrame : Obligations.StoreFrame := by
  unfold Obligations.StoreFrame
  refine ⟨?_, ?_⟩
  · intro f s t p n bs u hp
    have hacc : s.Accessed t := by
      have := State.Accessed.place s f.sp (s.core.ea f.k.slot f.a f.b f.off) n n .store .any
      rwa [hp] at this
    exact ⟨becomes_st hp, hacc.congr (·.core.live) fun _ => rfl, hacc.congr (·.core.z) fun _ => rfl,
      hacc.congr (·.core.spad) fun _ => rfl, hacc.congr (·.core.wbuf) fun _ => rfl, hacc.congr (·.core.w) fun _ => rfl,
      rfl, rfl, rfl, rfl⟩
  · intro s w i a bs p hwf hsel hheld hk hparts htr hhome
    have hwf' : (s.chosen (s.openAccesses w).length).memWf = true := (State.chosen_memWf ..).trans hwf
    have hrun := exec_rimAccessRequest hsel hheld htr (by simpa [hparts] using hhome)
    refine ⟨_, hrun, fun o ho => ?_, fun v o hv => ?_, fun va pa g key lat hv => ?_⟩
    · rw [serveAccess_ok ((performAccess_store _ w hk).trans (by rw [performStore_loc _ w o (ho ▸ hparts)]))]
      refine ⟨by simp [State.chosen_hbm], by simp [State.chosen_clusters], fun x b => ?_⟩
      rw [spad_stored hwf', State.coreAt_chosen]
    · rw [serveAccess_ok ((performAccess_store _ w hk).trans (by rw [performStore_win _ w v o (hv ▸ hparts)]))]
      refine ⟨by simp [State.chosen_hbm], by simp [State.chosen_clusters], fun x b => ?_⟩
      rw [spad_stored hwf', State.coreAt_chosen]
    · rw [serveAccess_ok ((performAccess_store _ w hk).trans (by rw [performStore_vm _ w (hv ▸ hparts)]))]
      refine ⟨by simp [State.modCluster, State.chosen_hbm], fun x => ?_,
        (s.chosen (s.openAccesses w).length).bufEntry w a.no pa g key lat (bs.map some), ?_, rfl, rfl, rfl, rfl⟩
      · rw [State.coreAt_modCore]
        by_cases hx : x = w
        · rw [if_pos hx, Core.served_spad, hx, State.coreAt_modCluster, State.coreAt_chosen]
        · rw [if_neg hx, State.coreAt_modCluster, State.coreAt_chosen]
      · simp only [State.clusterAt, State.modCore_clusters, State.modCluster, State.setCluster_clusters, Table.get_set_self,
          State.chosen_clusters]

end Sys2Proof.Machine

namespace Sys2Proof.Machine

/-! ## Runs of admitted bytes (R212) -/

/-- The offsets that a mask admits, in ascending order. -/
def admitted (km : Quad) : List Nat := (List.range 128).filter (bitOf km)

/-- The offsets of some runs, in their order. -/
def runOffsets (l : List (Nat × Nat)) : List Nat := l.flatMap fun x => (List.range x.2).map (x.1 + ·)

/-- One offset added to runs of ascending offsets. -/
def addRun (km : Quad) (acc : List (Nat × Nat)) (i : Nat) : List (Nat × Nat) :=
  if !bitOf km i then acc
  else
    match acc.getLast? with
    | some (o, n) => if o + n = i then acc.dropLast ++ [(o, n + 1)] else acc ++ [(i, 1)]
    | none => [(i, 1)]

theorem runOffsets_append (l m : List (Nat × Nat)) : runOffsets (l ++ m) = runOffsets l ++ runOffsets m :=
  List.flatMap_append ..

theorem runOffsets_addRun (km : Quad) (acc : List (Nat × Nat)) (i : Nat) :
    runOffsets (addRun km acc i) = runOffsets acc ++ if bitOf km i then [i] else [] := by
  unfold addRun
  by_cases hb : bitOf km i = true
  · simp only [hb, Bool.not_true, Bool.false_eq_true, if_false, if_true]
    rcases List.eq_nil_or_concat acc with rfl | ⟨l, ⟨o, n⟩, rfl⟩
    · simp [runOffsets]
    · simp only [List.concat_eq_append, List.getLast?_append, List.getLast?_singleton, Option.some_or, List.dropLast_concat]
      by_cases ho : o + n = i
      · simp [ho, runOffsets, List.range_succ]
      · simp [ho, runOffsets]
  · simp [hb]

theorem runOffsets_foldl (km : Quad) (l : List Nat) (acc : List (Nat × Nat)) :
    runOffsets (l.foldl (addRun km) acc) = runOffsets acc ++ l.filter (bitOf km) := by
  induction l generalizing acc with
  | nil => simp
  | cons i l ih =>
    rw [List.foldl_cons, ih, runOffsets_addRun, List.append_assoc, List.filter_cons]
    by_cases hb : bitOf km i = true <;> simp [hb]

/-- The runs of a mask cover the offsets that it admits, in order. -/
theorem runOffsets_maskRuns (km : Quad) : runOffsets (maskRuns km) = admitted km := runOffsets_foldl km _ []

/-- Run-wise data that each offset determines is that data offset by offset. -/
theorem flatMap_maskRuns {α : Type} (km : Quad) (g : Nat → α) :
    ((maskRuns km).flatMap fun x => (List.range x.2).map fun i => g (x.1 + i)) = (admitted km).map g := by
  rw [← runOffsets_maskRuns, runOffsets, List.map_flatMap]
  simp only [List.map_map, Function.comp_def]

theorem toBytes_eq_range (n v : Nat) : toBytes n v = (List.range n).map fun i => BitVec.ofNat 8 (v / 2 ^ (8 * i)) := by
  induction n generalizing v with
  | zero => rfl
  | succ n ih =>
    rw [toBytes, ih, List.range_succ_eq_map, List.map_cons, List.map_map]
    simp only [Nat.mul_zero, Nat.pow_zero, Nat.div_one, List.cons.injEq, true_and]
    refine List.map_congr_left fun i _ => ?_
    simp only [Function.comp_apply, Nat.succ_eq_add_one, Nat.mul_add, Nat.mul_one, Nat.pow_add, Nat.div_div_eq_div_mul]
    rw [Nat.mul_comm (2 ^ (8 * i))]

theorem maskedBytes_eq (km : Quad) (v : Nat) :
    maskedBytes km v = (admitted km).map fun i => BitVec.ofNat 8 (v / 2 ^ (8 * i)) := by
  rw [← flatMap_maskRuns km fun i => BitVec.ofNat 8 (v / 2 ^ (8 * i)), maskedBytes]
  simp only [toBytes_eq_range, Nat.div_div_eq_div_mul, ← Nat.pow_add, ← Nat.mul_add]

/-! ## A masked vector from its bytes -/

/-- The spread of the data over some offsets. -/
theorem spread_foldl (km : Quad) (g : Nat → Byte) (l : List Nat) (acc rest : List Byte) :
    l.foldl (fun (acc : List Byte × List Byte) i =>
      if bitOf km i then (acc.1 ++ [acc.2.headD 0], acc.2.drop 1) else (acc.1 ++ [0], acc.2))
        (acc, (l.filter (bitOf km)).map g ++ rest) =
      (acc ++ l.map fun i => if bitOf km i then g i else 0, rest) := by
  induction l generalizing acc with
  | nil => simp
  | cons i l ih =>
    rw [List.foldl_cons, List.filter_cons, List.map_cons]
    by_cases hb : bitOf km i = true
    · simpa [hb] using ih (acc ++ [g i])
    · simp only [hb, Bool.false_eq_true, if_false, ih, List.append_assoc, List.singleton_append]

theorem spreadBytes_admitted (km : Quad) (g : Nat → Byte) :
    spreadBytes km ((admitted km).map g) = (List.range 128).map fun i => if bitOf km i then g i else 0 := by
  have h := spread_foldl km g (List.range 128) [] []
  rw [List.append_nil] at h
  simp only [spreadBytes, admitted, h, List.nil_append]

/-- What LDV merges into its register, byte by byte. -/
theorem mergeBytes_spread (km : Quad) (old : Nat) (g : Nat → Byte) :
    mergeBytes km old (spreadBytes km ((admitted km).map g)) = ofBytes ((List.range 128).map fun i =>
      if bitOf km i then g i else BitVec.ofNat 8 (old / 2 ^ (8 * i) % 256)) := by
  have hidx : ∀ (f : Nat → Byte), ((List.range 128).map f).zipIdx = (List.range 128).map fun i => (f i, i) := by
    intro f
    refine List.ext_getElem (by simp) fun i h1 h2 => ?_
    simp
  rw [mergeBytes, spreadBytes_admitted, hidx, List.map_map]
  congr 1
  refine List.map_congr_left fun i _ => ?_
  by_cases hb : bitOf km i = true
  · simp [hb]
  · simp [hb, bitsAt]

theorem maskRuns_zero {km : Quad} (h : km.toNat = 0) : maskRuns km = [] := by
  rw [show km = 0 from BitVec.eq_of_toNat_eq h]
  decide

theorem maskRuns_ne_nil {km : Quad} (h : km.toNat ≠ 0) : maskRuns km ≠ [] := by
  intro hnil
  have hadm : admitted km = [] := by rw [← runOffsets_maskRuns, hnil]; rfl
  refine h (congrArg BitVec.toNat (BitVec.eq_of_getLsbD_eq fun i hi => ?_ : km = 0))
  exact (Bool.eq_false_iff.2 (List.filter_eq_nil_iff.1 hadm i (List.mem_range.2 hi))).trans BitVec.getLsbD_zero.symm

/-! ## The banks of the own scratchpad as a part reads them (R227) -/

/-- A byte of the own scratchpad as a part of the task that issues now reads it. -/
def State.seenByte (s : State) (a : Nat) : Byte :=
  (storeByte (s.core.pendingStores s.stamp) .loc a).getD (s.core.spad.byte a)

theorem spadSeen_eq {s : State} (h : s.core.spad.wf = true) (a n : Nat) :
    s.spadSeen a n = (List.range n).map fun i => s.seenByte (a + i) := by
  simp only [State.spadSeen, Core.overlay, Core.spadGet, Mem.run_eq_read h, Mem.read, State.seenByte]
  by_cases hl : s.core.pendingStores s.stamp = []
  · simp [hl, storeByte]
  · rw [if_neg (by simpa using hl)]
    refine List.ext_getElem (by simp) fun i h1 h2 => ?_
    simp [Spot.space]

/-- The places of the runs of a mask in the own scratchpad. -/
def locRuns (ea : Nat) (l : List (Nat × Nat)) : List (Spot × Nat) := l.map fun x => (Spot.loc (ea + x.1), x.2)

theorem localBytes_runs {s : State} (h : s.core.spad.wf = true) (ea : Nat) (km : Quad) :
    s.localBytes (locRuns ea (maskRuns km)) = (admitted km).map fun i => s.seenByte (ea + i) := by
  rw [← flatMap_maskRuns km fun i => s.seenByte (ea + i)]
  simp only [State.localBytes, locRuns, List.flatMap_map, Spot.space, spadSeen_eq h, Nat.add_assoc]

theorem badParts_none {c : Core} (h : c.spadBad = []) (l : List (Spot × Nat)) : c.badParts l = none := by
  rw [Core.badParts, List.findSome?_eq_none_iff]
  intro p _
  rw [h]
  cases p.1 <;> rfl

/-! ## LDV and STV -/

theorem place_loc_aligned (s : State) {ea : Word} {align : Nat} (h : ea.toNat < 2 ^ 21) (ha : ea.toNat % align = 0) (n : Nat) (u : Use)
    (need : FeNeed) : s.place .loc ea n align u need = (s, .ok (.loc ea.toNat)) :=
  (place_loc_iff s ea n align u need).2 ⟨h, ha⟩

section
variable {s : State} {ea : Word} (hea : ea.toNat < 2 ^ 21) (hal : ea.toNat % 128 = 0)
include hea hal

theorem loadVector_none {km : Quad} (hkm : km.toNat = 0) (k : Slot) (d : VReg) : s.loadVector k d km .loc ea = .done s := by
  simp only [State.loadVector, place_loc_aligned s hea hal, maskRuns_zero hkm]
  rfl

theorem loadVector_loc {km : Quad} (hkm : km.toNat ≠ 0) (hbad : s.core.spadBad = []) (k : Slot) (d : VReg) :
    s.loadVector k d km .loc ea = if s.bankBusy (locRuns ea.toNat (maskRuns km)) then .bank
      else .done (s.onCore fun c => c.putAccess k 6 (.loadV d km) (s.localBytes (locRuns ea.toNat (maskRuns km)))) := by
  have hne : (locRuns ea.toNat (maskRuns km)).isEmpty = false := by
    simpa [locRuns] using maskRuns_ne_nil hkm
  rw [← loadFrom_bank (badParts_none hbad _) (by decide)]
  simp only [State.loadVector, place_loc_aligned s hea hal]
  exact if_neg (by simpa [locRuns] using hne)

end

/-- The machine with another content of the own scratchpad. -/
def State.withSpad (s : State) (m : Mem) (bad : List Nat) : State := { s with core := { s.core with spad := m, spadBad := bad } }

theorem writeSpot_withSpad (s : State) (m : Mem) (bad : List Nat) (no o : Nat) (bs : List Byte) :
    (s.withSpad m bad).writeSpot s.cur no (.loc o) bs = s.withSpad (m.write o bs) (badAfter bad o bs.length) :=
  (s.withSpad m bad).modCore_self fun c => c.spadPut o bs

/-- What STV leaves in its bank: the bytes of its runs. -/
theorem performRuns (s : State) (no ea : Nat) (g : Nat → Byte) (l : List (Nat × Nat)) :
    ∀ (m : Mem) (bad : List Nat) (rest : List Byte), m.wf = true → ∃ m' bad',
      (locRuns ea l).foldl (fun (acc : State × List Byte) p =>
          (acc.1.writeSpot s.cur no p.1 (acc.2.take p.2), acc.2.drop p.2))
        (s.withSpad m bad, (runOffsets l).map g ++ rest) = (s.withSpad m' bad', rest) ∧ m'.wf = true ∧
      ∀ x, m'.byte x = if ea ≤ x ∧ x - ea ∈ runOffsets l then g (x - ea) else m.byte x := by
  induction l with
  | nil => exact fun m bad rest hm => ⟨m, bad, rfl, hm, fun x => (if_neg (by simp [runOffsets])).symm⟩
  | cons r l ih =>
    intro m bad rest hm
    let bs := (List.range r.2).map fun i => g (r.1 + i)
    have hlen : bs.length = r.2 := by simp [bs]
    have hdata : (runOffsets (r :: l)).map g ++ rest = bs ++ ((runOffsets l).map g ++ rest) := by
      simp [runOffsets, bs, List.map_flatMap, Function.comp_def]
    obtain ⟨m', bad', hfold, hwf, hbyte⟩ := ih (m.write (ea + r.1) bs) (badAfter bad (ea + r.1) bs.length) rest (Mem.wf_write hm _ _)
    refine ⟨m', bad', ?_, hwf, fun x => ?_⟩
    · rw [hdata, ← hfold, locRuns, List.map_cons, List.foldl_cons]
      simp only [List.take_left' hlen, List.drop_left' hlen, writeSpot_withSpad]
      rfl
    · have hoff : x - ea ∈ runOffsets (r :: l) ↔ (r.1 ≤ x - ea ∧ x - ea < r.1 + r.2) ∨ x - ea ∈ runOffsets l := by
        simp only [runOffsets, List.flatMap_cons, List.mem_append, List.mem_map, List.mem_range]
        exact or_congr_left ⟨fun ⟨i, hi, h⟩ => by omega, fun ⟨h1, h2⟩ => ⟨x - ea - r.1, by omega, by omega⟩⟩
      rw [hbyte, Mem.byte_write hm, hlen]
      simp only [hoff]
      by_cases hx : ea ≤ x
      · by_cases h1 : x - ea ∈ runOffsets l
        · rw [if_pos ⟨hx, h1⟩, if_pos ⟨hx, .inr h1⟩]
        · rw [if_neg fun h => h1 h.2]
          by_cases h2 : r.1 ≤ x - ea ∧ x - ea < r.1 + r.2
          · rw [if_pos (by omega), if_pos ⟨hx, .inl h2⟩, List.getD_eq_getElem _ _ (by omega)]
            simp only [bs, List.getElem_map, List.getElem_range]
            congr 1
            omega
          · rw [if_neg (by omega), if_neg fun h => h.2.elim h2 h1]
      · rw [if_neg fun h => hx h.1, if_neg fun h => hx ((Nat.le_add_right ..).trans h.1), if_neg fun h => hx h.1]

theorem performStore_locRuns (s : State) (w ea : Nat) {a : Access} {l : List (Nat × Nat)} (hp : a.parts = locRuns ea l)
    (bs : List Byte) : s.performStore w a bs false = ((locRuns ea l).foldl (fun (acc : State × List Byte) p =>
      (acc.1.writeSpot w a.no p.1 (acc.2.take p.2), acc.2.drop p.2)) (s, bs)).1 := by
  unfold State.performStore
  rw [hp]
  cases l <;> rfl

theorem mem_admitted {km : Quad} {i : Nat} : i ∈ admitted km ↔ i < 128 ∧ bitOf km i = true := by
  rw [admitted, List.mem_filter, List.mem_range]

theorem ofNat_byte_mod (v : Nat) : BitVec.ofNat 8 (v % 256) = BitVec.ofNat 8 v :=
  BitVec.eq_of_toNat_eq (by simp only [BitVec.toNat_ofNat, Nat.reducePow, Nat.mod_mod])

theorem performAccess_masked {s : State} {km : Quad} {v ea : Nat} {a : Access} (hwf : s.core.spad.wf = true)
    (hk : a.kind = .store (maskedBytes km v) false) (hp : a.parts = locRuns ea (maskRuns km)) :
    ∃ m bad, s.performAccess s.cur a = ({ s with core := { s.core with spad := m, spadBad := bad } }, .ok []) ∧ ∀ x, m.byte x =
      if ea ≤ x ∧ x < ea + 128 ∧ bitOf km (x - ea) then BitVec.ofNat 8 (v / 2 ^ (8 * (x - ea)) % 256) else s.core.spad.byte x := by
  obtain ⟨m, bad, hfold, -, hbyte⟩ :=
    performRuns s a.no ea (fun i => BitVec.ofNat 8 (v / 2 ^ (8 * i))) (maskRuns km) s.core.spad s.core.spadBad [] hwf
  rw [runOffsets_maskRuns, ← maskedBytes_eq, List.append_nil] at hfold
  refine ⟨m, bad, ?_, fun x => ?_⟩
  · rw [performAccess_store s _ hk, performStore_locRuns s _ ea hp]
    exact congrArg (fun r : State × List Byte => (r.1, Except.ok [])) hfold
  · rw [hbyte x, runOffsets_maskRuns, ofNat_byte_mod]
    simp only [mem_admitted]
    refine if_congr ?_ rfl rfl
    exact ⟨fun ⟨h1, h2, h3⟩ => ⟨h1, by omega, h3⟩, fun ⟨h1, h2, h3⟩ => ⟨h1, by omega, h3⟩⟩

/-! ## Gathers and scatters (R213) -/

theorem placeLanes_loc {s : State} {f : MGat} (hsp : f.sp = .loc) (u : Use) (lanes : List Nat) (acc : List (Spot × Nat))
    (h : ∀ n ∈ lanes, (s.core.laneEa f n).toNat < 2 ^ 21 ∧ (s.core.laneEa f n).toNat % gatherWidth f.wide = 0) :
    lanes.foldl (fun (acc : State × Except (Nat × Word) (List (Spot × Nat))) n =>
      match acc.2 with
      | .error e => (acc.1, .error e)
      | .ok ps =>
        let w := gatherWidth f.wide
        let r := acc.1.place f.sp (acc.1.core.laneEa f n) w w u .forbidden
        match r.2 with
        | .error e => (r.1, .error e)
        | .ok p => (r.1, .ok (ps ++ [(p, w)]))) (s, .ok acc) =
      (s, .ok (acc ++ lanes.map fun n => (.loc (s.core.laneEa f n).toNat, gatherWidth f.wide))) := by
  induction lanes generalizing acc with
  | nil => simp
  | cons n l ih =>
    obtain ⟨h1, h2⟩ := h n List.mem_cons_self
    rw [List.foldl_cons]
    simp only [hsp, place_loc_aligned s h1 h2] at ih ⊢
    rw [ih _ fun m hm => h m (List.mem_cons_of_mem _ hm)]
    simp

theorem performAt_gather {s : State} {a : Access} {d : VReg} {wide : Bool} {lanes : List Nat} (hk : a.kind = .gather d wide lanes)
    (hbad : s.core.spadBad = []) (hpend : s.core.pendingStores a.no = []) (o n : Nat) :
    s.performAt s.cur a (.loc o) n = (s, .ok (s.core.spad.run o n)) := by
  simp only [State.performAt, hk, State.readSpot, State.coreAt_cur, hbad, badIn, List.find?_nil, Core.spadGet]
  simp only [Except.map, Core.overlay, hpend, List.isEmpty_nil, if_true]

theorem performGather {s : State} {a : Access} {d : VReg} {wide : Bool} {lanes : List Nat} (hk : a.kind = .gather d wide lanes)
    (hbad : s.core.spadBad = []) (hpend : s.core.pendingStores a.no = []) {w : Nat} {ea : Nat → Nat} (l : List Nat) (acc : List Byte) :
    (l.map fun n => (Spot.loc (ea n), w)).foldl (fun (acc : State × Except Nat (List Byte)) p =>
      match acc.2 with
      | .error _ => acc
      | .ok bs =>
        let r := acc.1.performAt s.cur a p.1 p.2
        (r.1, r.2.map (bs ++ ·))) (s, .ok acc) = (s, .ok (acc ++ l.flatMap fun n => s.core.spad.run (ea n) w)) := by
  induction l generalizing acc with
  | nil => simp
  | cons n l ih =>
    rw [List.map_cons, List.foldl_cons]
    simp only [performAt_gather hk hbad hpend, Except.map] at ih ⊢
    rw [ih, List.flatMap_cons, List.append_assoc]

/-- Settles O35: LDV and STV run by run, gathers and scatters lane by lane. -/
theorem vectorMemory : Obligations.VectorMemory := by
  unfold Obligations.VectorMemory
  refine ⟨⟨fun f s => ?_, fun s km v ea a hwf hk hp => performAccess_masked hwf hk hp⟩, fun f s t ps => ?_⟩
  · intro k ea km runs seen hsp hea hal hbad
    have hplace : s.place f.sp (s.core.ea f.k.slot f.a f.b f.off) 128 128 .store .forbidden = (s, .ok (.loc ea.toNat)) := by
      rw [hsp]
      exact place_loc_aligned s hea hal ..
    refine ⟨fun hkm hwf hbusy => completes_issue (rfl : execLdv f s = _) ?_, fun hkm =>
      ⟨completes_issue (rfl : execLdv f s = _) ?_, completes_issue (rfl : execStv f s = _) ?_⟩,
      fun hkm => becomes_issue (rfl : execStv f s = _) ?_⟩
    · rw [hsp, loadVector_loc hea hal hkm hbad, if_neg (Bool.eq_false_iff.1 (show s.bankBusy (locRuns ea.toNat (maskRuns km)) = false from hbusy)),
        localBytes_runs hwf]
      simp only [Core.putAccess, AccKind.dest, AccKind.value, mergeBytes_spread]
      rfl
    · rw [hsp, loadVector_none hea hal hkm]
    · simp only [hplace, show maskRuns (s.core.readM f.k.slot f.km) = [] from maskRuns_zero hkm]
      rfl
    · simp only [hplace]
      refine congrArg Res.done (if_neg ?_)
      simpa using maskRuns_ne_nil hkm
  · intro k w lanes ea kind
    refine ⟨fun hp hne hbad => becomes_issue (rfl : execLdvG f s = _) ?_, fun hp => becomes_issue (rfl : execLdvG f s = _) ?_,
      fun hp hne => becomes_issue (rfl : execStvS f s = _) ?_, fun hp => becomes_issue (rfl : execStvS f s = _) ?_,
      fun hsp hok => placeLanes_loc hsp .load lanes [] hok, fun a hk hparts hbad hpend => ?_⟩
    · simp only [show s.placeLanes f .load (gatherLanes f.wide (s.core.readM f.k.slot f.km)) = (t, .ok ps) from hp]
      exact (if_neg (by simpa using hne)).trans (loadFrom_late hbad ..)
    · simp only [show s.placeLanes f .load (gatherLanes f.wide (s.core.readM f.k.slot f.km)) = (t, .ok []) from hp]
      rfl
    · simp only [show s.placeLanes f .store (gatherLanes f.wide (s.core.readM f.k.slot f.km)) = (t, .ok ps) from hp]
      exact congrArg Res.done (if_neg (by simpa using hne))
    · simp only [show s.placeLanes f .store (gatherLanes f.wide (s.core.readM f.k.slot f.km)) = (t, .ok []) from hp]
      rfl
    · have hrun := performGather hk hbad hpend (w := w) (ea := fun n => (ea n).toNat) lanes []
      rw [← hparts, List.nil_append] at hrun
      simp only [State.performAccess, hk, kind]
      exact hrun

end Sys2Proof.Machine

namespace Sys2Proof.Machine

/-! ## Full-empty words (R214–R217) -/

theorem full_iff (h : Hbm) (pa : Nat) : h.full pa = true ↔ pa / 8 * 8 ∉ h.empty := by
  simp [Hbm.full, feWord]

theorem full_of_not_mem {h : Hbm} {pa : Nat} (hm : pa / 8 * 8 ∉ h.empty) : h.full pa = true := (full_iff h pa).2 hm

theorem full_of_mem {h : Hbm} {pa : Nat} (hm : pa / 8 * 8 ∈ h.empty) : h.full pa = false :=
  Bool.eq_false_iff.2 fun hf => (full_iff h pa).1 hf hm

/-- A part on a full-empty place in the open: no access ahead of it, its channel up, no engine that holds its bytes. -/
def State.feOpen (t : State) (p : Spot) (pa n g : Nat) : Prop :=
  t.accessBarred [(p, n)] = false ∧ t.channelsUp pa n g = true ∧ t.storeHeld t.stamp .vm pa n = false

theorem feServe_loadFe {t r : State} {d : Option Loc} {va pa n g key lat : Nat} {bs : List Byte}
    (hread : t.readPa pa n g key = (r, some bs)) :
    t.feServe (.loadFe d) (.vm va pa g key true lat) n = ({ r with hbm := r.hbm.setEmpty pa }, some bs) := by
  simp only [State.feServe, hread]

theorem feServe_atom {t r : State} {a : Atom} {d : Option Loc} {va pa n g key lat : Nat} {bs : List Byte}
    (hread : t.readPa pa n g key = (r, some bs)) :
    t.feServe (.atom a d) (.vm va pa g key true lat) n =
      (r.writePa pa (toBytes a.size (a.new (ofBytes bs))) g key, some bs) := by
  simp only [State.feServe, hread]

/-! ## Atomics (R218–R221) -/

section
variable {s t : State} {k : Slot} {a : Atom} {sp : Space} {ea : Word} {p : Spot} (hd : s.core.deferredAt k.num = none)
  (hp : s.place sp ea a.size a.size .store .any = (t, .ok p))
include hd hp

theorem atomic_queued (d : Option Loc) (hplain : ∀ va pa g key lat, p ≠ .vm va pa g key true lat)
    (hbad : sp = .loc → t.core.badParts [(p, a.size)] = none) :
    s.atomic k a d sp ea = .done (t.queueAccess { kind := .atom a d, slot := k, parts := [(p, a.size)] }) := by
  have hb : (if sp = .loc then t.core.badParts [(p, a.size)] else none) = none := by
    by_cases hsp : sp = .loc
    · rw [if_pos hsp, hbad hsp]
    · rw [if_neg hsp]
  cases p with
  | vm va pa g key fe lat => cases fe with
    | true => exact absurd rfl (hplain va pa g key lat)
    | false => simp only [State.atomic, hd, hp, hb]
  | loc o => simp only [State.atomic, hd, hp, hb]
  | win w o => simp only [State.atomic, hd, hp, hb]

theorem atomic_fe (d : Option Loc) {va pa g key lat : Nat} (hv : p = .vm va pa g key true lat)
    (hopen : t.feOpen p pa a.size g) (hfull : t.hbm.full pa = true) (hw : t.hbm.waiters pa = []) {r : State} {bs : List Byte}
    (hread : t.readPa pa a.size g key = (r, some bs)) :
    s.atomic k a d sp ea = .done ((r.writePa pa (toBytes a.size (a.new (ofBytes bs))) g key).onCore fun c =>
      c.putAccess k 1 (.atom a d) bs) := by
  subst hv
  obtain ⟨hbar, hch, hst⟩ := hopen
  have h := feAccess_full (a := { kind := .atom a d, slot := k, parts := [(.vm va pa g key true lat, a.size)] }) hbar hch hst hfull hw
    (feServe_atom hread)
  simp only [State.atomic, hd, hp]
  exact h

end

theorem performAt_atom_loc {t : State} {acc : Access} {a : Atom} {d : Option Loc} (hk : acc.kind = .atom a d) {o : Nat}
    (hbad : badIn t.core.spadBad o a.size = none) :
    t.performAt t.cur acc (.loc o) a.size = (t.onCore fun c => c.spadPut o (toBytes a.size (a.new (ofBytes (t.core.spad.run o a.size)))),
      .ok (t.core.spad.run o a.size)) := by
  simp only [State.performAt, hk, State.performAtom, State.readSpot, State.coreAt_cur, hbad, Core.spadGet, State.writeSpot,
    State.modCore_self]

theorem Core.putAccess_atom (c : Core) (k : Slot) (a : Atom) (d : Option Loc) (bs : List Byte) :
    c.putAccess k 1 (.atom a d) bs = match d with
      | none => c
      | some l => c.writeLoc k 1 l (a.result (ofBytes bs)) := by
  cases d <;> rfl

theorem width_bytes (z : Bool) : 8 * (if z then 8 else 4) = if z then 64 else 32 := by cases z <;> rfl

/-- The new contents of an integer atomic. -/
theorem atom_new_word (z u : Bool) (m x c : Nat) :
    let w := if z then 64 else 32
    let a := fun op => ({ op := op, size := if z then 8 else 4, uns := u, b := x, c := c } : Atom)
    m < 2 ^ w → (a .add).new m = (m + x) % 2 ^ w ∧ (a .swp).new m = x % 2 ^ w ∧
      (a .cas).new m = (if m = x % 2 ^ w then c % 2 ^ w else m) ∧ (u = true → (a .min).new m = min m (x % 2 ^ w)) := by
  intro w a _
  have hw : 8 * (if z then 8 else 4) = w := width_bytes z
  simp only [a, Atom.new, hw, Nat.add_mod_mod, true_and]
  exact fun hu => if_pos hu

/-- Settles O36: the full-empty instructions by the state of their word, the atomics by their place. -/
theorem fullEmptyAndAtomics : Obligations.FullEmptyAndAtomics := by
  unfold Obligations.FullEmptyAndAtomics
  refine ⟨fun f q s t va pa g key lat => ?_, fun f h q s t p => ?_⟩
  · intro k ea p d word peek
    refine ⟨fun hbar hch hst hp => ⟨fun r bs hd hm hw hread => becomes_issue (rfl : execLdFe f s = _) ?_,
      fun hd hm hr => exec_stay (i := .ldFe f) (rfl : execLdFe f s = _) rfl hr ?_,
      fun hm => becomes_issue (rfl : execStFe f s = _) ?_,
      fun hm hr => exec_faultIn (i := .stFe f) (rfl : execStFe f s = _) rfl hr (by decide) ?_⟩,
      fun hp => becomes_issue (rfl : execPeekFe q s = _) ?_, fun w no => ?_⟩
    · refine (loadOne_fe hd hp rfl).trans ((feAccess_full hbar hch hst (full_of_not_mem hm) hw (feServe_loadFe hread)).trans ?_)
      cases hd' : d <;> simp only [Core.putAccess, AccKind.dest, State.onCore, d] at hd' ⊢ <;> simp only [hd'] <;> rfl
    · exact (loadOne_fe hd hp rfl).trans (feAccess_empty hbar hch hst (full_of_mem hm))
    · simp only [show s.place .vm (s.core.ea f.k.slot f.a f.b f.off) 8 8 .store .required = (t, .ok p) from hp, p, hbar, hch, hst,
        full_of_mem hm]
      rfl
    · simp only [show s.place .vm (s.core.ea f.k.slot f.a f.b f.off) 8 8 .store .required = (t, .ok p) from hp, p, hbar, hch, hst,
        full_of_not_mem hm]
      rfl
    · simp only [show s.place .vm (s.core.ea q.k.slot q.a q.b q.off) 8 8 .load .required = (t, .ok p) from hp]
      rfl
    · simp only [State.performAccess, peek, p, List.foldl_cons, List.foldl_nil, State.performAt, Except.map, List.nil_append]
      by_cases hm : word ∈ t.hbm.empty
      · rw [if_pos hm, full_of_mem hm]
        rfl
      · rw [if_neg hm, full_of_not_mem hm]
        rfl
  · intro l free plain acc b int ready old float nib
    have hqueue : ∀ (i : Instr) (op : AtomOp) (c : Nat), exec i s = s.issue i (fun s => s.intAtomic f op) →
        s.core.atomOf f op = int op c → ready op → Becomes i s (t.queueAccess (acc f.k.slot f.d (int op c))) := by
      intro i op c hx ha ⟨⟨hd, hp⟩, hplain, hbad⟩
      refine becomes_issue hx ?_
      rw [State.intAtomic, ha]
      exact atomic_queued (a := int op c) hd hp l hplain hbad
    refine ⟨hqueue _ .add 0 rfl rfl, hqueue _ .min 0 rfl rfl, hqueue _ .max 0 rfl rfl, hqueue _ .and 0 rfl rfl,
      hqueue _ .or 0 rfl rfl, hqueue _ .xor 0 rfl rfl, hqueue _ .swp 0 rfl rfl, hqueue _ .cas old rfl rfl,
      fun ⟨hd, hp⟩ ⟨hplain, hbad⟩ => becomes_issue (rfl : execAtomFadd h s = _) (atomic_queued hd hp _ hplain hbad),
      fun ⟨hd, hp⟩ ⟨hplain, hbad⟩ => becomes_issue (rfl : execAtomNib q s = _) (atomic_queued hd hp _ hplain hbad),
      fun i op c va pa g key lat r bs hmem => ?_, fun k d a o no ho hbad => ?_, atom_new_word⟩
    · have hform : exec i s = s.issue i (fun s => s.intAtomic f op) ∧ s.core.atomOf f op = int op c := by
        simp only [List.mem_cons, Prod.mk.injEq, List.not_mem_nil, or_false] at hmem
        rcases hmem with ⟨rfl, rfl, rfl⟩ | ⟨rfl, rfl, rfl⟩ | ⟨rfl, rfl, rfl⟩ | ⟨rfl, rfl, rfl⟩ | ⟨rfl, rfl, rfl⟩ | ⟨rfl, rfl, rfl⟩ |
          ⟨rfl, rfl, rfl⟩ | ⟨rfl, rfl, rfl⟩ <;> exact ⟨rfl, rfl⟩
      intro a ⟨hd, hp⟩ hv hbar hch hst hfull hw hread u
      refine becomes_issue hform.1 ?_
      rw [State.intAtomic, hform.2]
      refine (atomic_fe hd hp l hv ⟨hbar, hch, hst⟩ hfull hw hread).trans ?_
      simp only [State.onCore, Core.putAccess_atom]
      rfl
    · subst ho
      simp only [State.performAccess, acc, List.foldl_cons, List.foldl_nil, Except.map, List.nil_append]
      rw [performAt_atom_loc rfl hbad]

end Sys2Proof.Machine

namespace Sys2Proof.Machine

/-! ## The accesses that may take a step (R226–R228, R338) -/

theorem State.focus_core (s : State) (w : Nat) : (s.focus w).core = s.coreAt w := by
  unfold State.focus State.coreAt
  split <;> rfl

theorem mem_openAccesses {s : State} {w i : Nat} {a : Access} (h : (a, i) ∈ s.openAccesses w) :
    (s.coreAt w).eng.acc[i]? = some a ∧ (a.kind.isMark = false → ∀ b ∈ (s.coreAt w).eng.acc.take i, a.after b = false) ∧
      ∀ scope fence, a.kind = .mark scope fence → (s.focus w).performed w a.no scope fence = true := by
  simp only [State.openAccesses, List.mem_filter, Bool.and_eq_true] at h
  obtain ⟨hmem, -, hkind⟩ := h
  rw [State.focus_core] at hmem hkind
  refine ⟨(List.mem_zipIdx_iff_getElem?.1 hmem), fun hmark b hb => ?_, fun scope fence hk => by rwa [hk] at hkind⟩
  cases hk : a.kind with
  | mark sc fe =>
    rw [hk] at hmark
    cases hmark
  | _ =>
    rw [hk] at hkind
    simp only [Bool.and_eq_true, Bool.not_eq_true', List.any_eq_false] at hkind
    exact Bool.eq_false_iff.2 (hkind.1.1 b hb)

theorem open_of_choice {s : State} {w n i : Nat} {a : Access} (h : (s.openAccesses w)[n]? = some (a, i)) :
    (a, i) ∈ s.openAccesses w := List.mem_of_getElem? h

theorem travels_of_empty {a : Access} (h : a.parts = []) : a.travels = false := by
  simp [Access.travels, Access.asks, h]

theorem exec_rimAccessArrival {s : State} {w i : Nat} {a : Access}
    (hsel : (s.openAccesses w)[s.choice (s.openAccesses w).length]? = some (a, i)) (hheld : (s.coreAt w).held .queues = false)
    (htr : a.travels = true) : exec (.rimAccessRequest w) s = .next ((s.chosen (s.openAccesses w).length).modCore w fun c =>
      c.modAccess i fun a => { a with came := some (s.arrival a) }) := by
  show execRimAccessRequest w s = _
  simp only [execRimAccessRequest, hsel, hheld, htr, Bool.false_eq_true, if_false, if_true]

/-! ## PREF (R222) -/

theorem tlbFill_hbm (s : State) (e : TlbEntry) : (s.tlbFill e).hbm = s.hbm := by
  unfold State.tlbFill
  extract_lets q n1 s1 n2 s2 last n3
  have h1 : s1.hbm = s.hbm := State.chosen_hbm s n1
  clear_value s1
  have h2 : s2.hbm = s.hbm := (State.chosen_hbm s1 n2).trans h1
  clear_value s2
  exact (State.chosen_hbm s2 n3).trans h2

theorem xlate_load_hbm {s : State} {va : Nat} {e : TlbEntry} (h : s.tlbFind s.core.task.part s.core.task.tenant va = some e) :
    (s.xlate va .load).1.hbm = s.hbm := by
  simp only [State.xlate, State.translate, h, useCheck]
  split
  · rfl
  · exact tlbFill_hbm s e

/-! ## Store buffers (R223) -/

theorem runs_whole {e : StBuf} {bs : List Byte} (h : e.data = bs.map some) (hne : bs ≠ []) : e.runs = [(e.pa, bs)] := by
  have hfold : ∀ l : List Byte, l ≠ [] → ((l.map some).zipIdx.foldl (fun (acc : List (Nat × List Byte)) x =>
      match x.1 with
      | none => acc
      | some b =>
        match acc.getLast? with
        | some (o, bs) => if o + bs.length = e.pa + x.2 then acc.dropLast ++ [(o, bs ++ [b])] else acc ++ [(e.pa + x.2, [b])]
        | none => [(e.pa + x.2, [b])]) []) = [(e.pa, l)] := by
    intro l
    induction l using List.reverseRecOn with
    | nil => exact fun h => absurd rfl h
    | append_singleton l b ih =>
      intro _
      rw [List.map_append, List.zipIdx_append, List.foldl_append]
      by_cases hl : l = []
      · subst hl
        rfl
      · rw [ih hl]
        simp
  rw [StBuf.runs, h]
  exact hfold bs hne

theorem takeEntry_whole {e : StBuf} {bs : List Byte} (h : e.data = bs.map some) (hne : bs ≠ []) (s : State) :
    s.takeEntry e = s.writePa e.pa bs e.gran e.key := by
  rw [State.takeEntry, runs_whole h hne]
  rfl

theorem not_any_overlaps {l : List StBuf} {e : StBuf}
    (h : ∀ x ∈ l, overlaps x.pa x.data.length e.pa e.data.length = false) :
    (l.any fun x => overlaps x.pa x.data.length e.pa e.data.length) = false :=
  List.any_eq_false.2 fun x hx => Bool.eq_false_iff.1 (h x hx)

/-- The address that PREF translates. -/
def prefBase (g : MPref) (s : State) : Nat :=
  (s.core.ea g.k.slot g.a g.b g.off).toNat / 2 ^ (g.ext.toNat + 6) * 2 ^ (g.ext.toNat + 6)

/-- PREF leaves the machine as it is, or as the translation of its address leaves it. -/
theorem exec_pref {g : MPref} {s : State} (hr : s.readyFor (.pref g) = true) :
    exec (.pref g) s = .next (s.issued (.pref g)) ∨
      exec (.pref g) s = .next ((s.xlate (prefBase g s) .load).1.issued (.pref g)) := by
  by_cases hea : 2 ^ 57 ≤ (s.core.ea g.k.slot g.a g.b g.off).toNat
  · exact .inl (becomes_issue (i := .pref g) (rfl : execPref g s = _) (if_pos hea) hr)
  · cases hx : (s.xlate (prefBase g s) .load).2 with
    | error f =>
      refine .inl (becomes_issue (i := .pref g) (rfl : execPref g s = _) ((if_neg hea).trans ?_) hr)
      simp only [prefBase] at hx
      simp only [hx]
    | ok t =>
      simp only [prefBase] at hx ⊢
      by_cases hch : (s.xlate (prefBase g s) .load).1.channelsUp (t.paOf (s.core.ea g.k.slot g.a g.b g.off).toNat) 1 t.gran = true
      · refine .inr (becomes_issue (i := .pref g) (rfl : execPref g s = _) ((if_neg hea).trans ?_) hr)
        simp only [hx]
        exact if_pos hch
      · refine .inl (becomes_issue (i := .pref g) (rfl : execPref g s = _) ((if_neg hea).trans ?_) hr)
        simp only [hx]
        exact if_neg hch

/-- Settles O37: markers, PREF, and the steps of an access and of a store-buffer entry. -/
theorem orderingAndVirtualAccess : Obligations.OrderingAndVirtualAccess := by
  unfold Obligations.OrderingAndVirtualAccess
  refine ⟨fun f g s => ⟨becomes_issue (rfl : execMark f s = _) rfl,
    fun hf => becomes_issue (rfl : execFence f s = _) (if_pos hf),
    fun hr hf => exec_wait (i := .fence f) (rfl : execFence f s = _) rfl hr (if_neg (by rw [hf]; decide)),
    fun w i a scope fence hsel hk hparts hheld => ⟨?_, ?_⟩, fun hr => ?_⟩, fun s w q i => ?_⟩
  · exact (mem_openAccesses (open_of_choice hsel)).2.2 scope fence hk
  · rw [exec_rimAccessRequest hsel hheld (travels_of_empty hparts) (by simp [hparts]),
      serveAccess_ok (bs := []) (r := s.chosen (s.openAccesses w).length) (by simp only [State.performAccess, hk])]
    simp only [Core.served, hk, AccKind.returns, Bool.false_eq_true, if_false]
  · have hacc : s.Accessed (s.xlate (prefBase g s) .load).1 := (State.Accessed.refl s).translate ..
    rcases exec_pref hr with h | h
    · exact ⟨s, h, .inl rfl, rfl, rfl, rfl, rfl, fun _ _ => rfl⟩
    · exact ⟨_, h, .inr rfl, hacc.congr (·.core.live) fun _ => rfl, hacc.congr (·.core.spad) fun _ => rfl,
        hacc.congr (·.core.eng) fun _ => rfl, hacc.others, fun e he => xlate_load_hbm he⟩
  · intro l answered
    refine ⟨fun a ha => ?_, fun a hsel hheld => ⟨exec_rimAccessArrival hsel hheld, fun r bs htr hhome hperf => ?_⟩,
      fun a ha hasked hdef => ?_, fun e he hfree => ?_⟩
    · obtain ⟨hget, hafter, -⟩ := mem_openAccesses ha
      exact ⟨hget, hafter⟩
    · rw [exec_rimAccessRequest hsel hheld htr hhome, serveAccess_ok hperf]
      rfl
    · refine ⟨{ (s.coreAt w).landAccess a a.data with
          eng := { ((s.coreAt w).landAccess a a.data).eng with acc := removeAt (s.coreAt w).eng.acc i } }, ?_, rfl, fun l hl => ?_⟩
      · show execAccessDataReturn w i s = _
        simp only [execAccessDataReturn, ha, hasked, hdef, Bool.not_false, Bool.and_self, if_true]
      · simp only [Core.landAccess, hl, Core.land]
    · have hany := not_any_overlaps hfree
      refine ⟨fun hcame => ?_, fun m bs hcame hdata hne hch hturn hport => ?_⟩
      · show execStoreBufferDrain q i s = _
        simp only [execStoreBufferDrain, he, hany, hcame, Option.isNone_none, Bool.false_eq_true, if_false, if_true]
      · show execStoreBufferDrain q i s = _
        simp only [execStoreBufferDrain, he, hany, hcame, Option.isNone_some, Option.getD_some, hch, hturn, hport, Bool.not_true,
          Bool.or_self, Bool.false_eq_true, if_false, takeEntry_whole hdata hne]

end Sys2Proof.Machine

namespace Sys2Proof.Machine

/-! ## Lane operations (R243–R245) -/

theorem isNan_iff (x : FV) : x.isNan = true ↔ x = .nan := by cases x <;> simp [FV.isNan]

theorem minLane_eq (t : Fmt) (a b : Nat) :
    minLane t a b = if t.isF then minF t a b else if intVal t a ≤ intVal t b then a else b := by
  simp only [minLane, ← not_le, ite_not]

theorem maxLane_eq (t : Fmt) (a b : Nat) :
    maxLane t a b = if t.isF then maxF t a b else if intVal t b ≤ intVal t a then a else b := by
  simp only [maxLane, ← not_le, ite_not]

theorem absLane_eq (t : Fmt) (sat : Bool) (a : Nat) : absLane t sat a =
    if t.isF then (if decodeF t a = .nan then nanBits t else a % 2 ^ (t.width - 1), 0) else intRes t sat (intVal t a).natAbs := by
  simp only [absLane, isNan_iff, signBit]

theorem negLane_eq (t : Fmt) (sat : Bool) (a : Nat) : negLane t sat a =
    if t.isF then (if decodeF t a = .nan then nanBits t else Nat.xor a (2 ^ (t.width - 1)), 0)
    else intRes t sat (-(intVal t a)) := by
  simp only [negLane, isNan_iff, signBit]

/-- An amount of w or more shifts everything out. -/
theorem shlLane_eq (t : Fmt) (a n : Nat) : shlLane t a n = a * 2 ^ n % 2 ^ t.width := by
  unfold shlLane
  split
  · next h => exact (Nat.mod_eq_zero_of_dvd (Dvd.dvd.mul_left (Nat.pow_dvd_pow 2 h) a)).symm
  · rfl

/-- Settles O38: each instruction is its lane operation under the mask. -/
theorem vectorArithmetic : Obligations.VectorArithmetic := by
  unfold Obligations.VectorArithmetic
  intro f g h u s r lane other int fl lat a b x
  have hother : ∀ t v n, s.core.laneB t v n = other t v n := fun t v n => by cases v <;> rfl
  have hput : ∀ (t : Fmt) (l : Nat) (d : VReg) (km : MReg) (mz : Bool) {p q : Nat → Nat × Flags}, (∀ n, p n = q n) →
      s.core.putV t l d km mz p = s.core.putV t l d km mz q := fun t l d km mz p q e => congrArg _ (funext e)
  refine ⟨completes_compute (rfl : execVadd f s = _) (hput _ _ _ _ _ fun n => ?_),
    completes_compute (rfl : execVsub f s = _) (hput _ _ _ _ _ fun n => ?_),
    completes_compute (rfl : execVmul f s = _) (hput _ _ _ _ _ fun n => ?_),
    completes_compute (rfl : execVfma g s = _) (hput _ _ _ _ _ fun n => ?_),
    completes_compute (rfl : execVmin h s = _) (hput _ _ _ _ _ fun n => ?_),
    completes_compute (rfl : execVmax h s = _) (hput _ _ _ _ _ fun n => ?_),
    completes_compute (rfl : execVabs u s = _) (hput _ _ _ _ _ fun n => absLane_eq ..),
    completes_compute (rfl : execVneg u s = _) (hput _ _ _ _ _ fun n => negLane_eq ..)⟩
  · simp only [hother]
    rfl
  · simp only [hother]
    rfl
  · simp only [hother]
    rfl
  · simp only [hother]
    rfl
  · simp only [hother, minLane_eq]
    rfl
  · simp only [hother, maxLane_eq]
    rfl

/-! ## Masks (R258, R259) -/

theorem bitOf_maskOf {m i : Nat} (hm : m ≤ 128) (p : Nat → Bool) (hi : i < 128) : bitOf (maskOf m p) i = (decide (i < m) && p i) := by
  let l := (List.range m).map fun i => (p i).toNat
  have hlen : l.length = m := by simp [l]
  have hlt : packElems 1 l < 2 ^ 128 := by
    refine (packElems_lt 1 l).trans_le (Nat.pow_le_pow_right (by decide) ?_)
    omega
  have hbit : bitOf (maskOf m p) i = decide (packElems 1 l / 2 ^ i % 2 = 1) := by
    simp only [bitOf, maskOf, BitVec.getLsbD_ofNat, hi, decide_true, Bool.true_and, Nat.testBit_eq_decide_div_mod_eq, l]
  rw [hbit]
  by_cases him : i < m
  · have helem := packElems_elem 1 (l := l) (n := i) (by omega)
    rw [Nat.one_mul, Nat.pow_one] at helem
    rw [helem]
    simp only [l, List.getElem_map, List.getElem_range, him, decide_true, Bool.true_and]
    cases p i <;> rfl
  · have hz : packElems 1 l / 2 ^ i = 0 := Nat.div_eq_of_lt
      ((packElems_lt 1 l).trans_le (Nat.pow_le_pow_right (by decide) (by omega)))
    simp [hz, him]

theorem maskBit_false (c : Core) (r : MReg) (n : Nat) : c.maskBit r false n = bitOf (c.readM .v r) n := Bool.bne_false _
theorem maskBit_true (c : Core) (r : MReg) (n : Nat) : c.maskBit r true n = !bitOf (c.readM .v r) n := Bool.bne_true _

/-- Settles O39: logic, shifts and compares lane by lane, masks bit by bit. -/
theorem vectorLogicAndMasks : Obligations.VectorLogicAndMasks := by
  unfold Obligations.VectorLogicAndMasks
  refine ⟨fun f g h q s => ?_, fun f g h s => ?_⟩
  · intro lane other a b x k m
    have hother : ∀ t v n, s.core.laneB t v n = other t v n := fun t v n => by cases v <;> rfl
    have hamt : ∀ n, s.core.laneAmt g.t g.n n = k n := fun n => by
      simp only [k]
      cases g.n <;> rfl
    have hput : ∀ (t : Fmt) (l : Nat) (d : VReg) (km : MReg) (mz : Bool) {p q : Nat → Nat × Flags}, (∀ n, p n = q n) →
        s.core.putV t l d km mz p = s.core.putV t l d km mz q := fun t l d km mz p q e => congrArg _ (funext e)
    refine ⟨completes_compute (rfl : execVand f s = _) (hput _ _ _ _ _ fun n => ?_),
      completes_compute (rfl : execVor f s = _) (hput _ _ _ _ _ fun n => ?_),
      completes_compute (rfl : execVxor f s = _) (hput _ _ _ _ _ fun n => ?_),
      completes_compute (rfl : execVshl g s = _) (hput _ _ _ _ _ fun n => ?_),
      completes_compute (rfl : execVshr g s = _) (hput _ _ _ _ _ fun n => ?_),
      completes_compute (rfl : execViota h s = _) rfl,
      completes_compute (rfl : execVcmpCc q s = _) (congrArg (fun p => s.core.writeM .v 2 q.d (maskOf q.t.lanes p)) (funext fun n => ?_))⟩
    · simp only [hother, invLane]
      rfl
    · simp only [hother, invLane]
      rfl
    · simp only [hother, invLane]
      rfl
    · simp only [hamt, shlLane_eq]
      rfl
    · simp only [hamt]
      rfl
    · simp only [hother, cmpLane]
      cases q.t.isF <;> cases icondOf q.cc.toNat <;> cases fcondOf q.cc.toNat <;> rfl
  · intro n a b k v
    refine ⟨completes_compute (rfl : execMand f s = _) rfl, completes_compute (rfl : execMor f s = _) rfl,
      completes_compute (rfl : execMnot g s = _) ?_, completes_compute (rfl : execVpopc h s = _) ?_,
      fun m p i hi hm => bitOf_maskOf hm p hi⟩
    · exact congrArg (fun p => s.core.writeM .v 1 g.d (maskOf (maskLanes g.t) p)) (funext fun i => maskBit_true s.core g.a i)
    · simp only [maskBit_false]
      rfl

/-! ## Reductions (R253) -/

theorem maxLane_float {t : Fmt} (h : t.isF = true) : maxLane t = maxF t := by
  funext a b
  exact if_pos h

theorem minLane_float {t : Fmt} (h : t.isF = true) : minLane t = minF t := by
  funext a b
  exact if_pos h

theorem apply_extreme (c : Core) (f : VRed) (float : Nat) (int : Int) (op opF : Nat → Nat → Nat) (h : f.t.isF = true → op = opF) :
    c.extreme f float int op = c.writeS .v 6 f.s
      (if f.t.isF then BitVec.ofNat 64 ((c.activeLanes f.t f.a f.km).foldl opF float)
      else BitVec.ofInt 64 (intVal f.t ((c.activeLanes f.t f.a f.km).foldl op (wrapInt f.t.width int)))) := by
  unfold Core.extreme
  by_cases hf : f.t.isF = true
  · simp only [hf, if_true, h hf]
  · simp only [hf, Bool.false_eq_true, if_false]

/-- The empty sum is +0 in every format and under every rounding. -/
theorem floatSum_nil_round (t : Fmt) (r : Rnd) : (floatSum t []).round t r = (0, 0) := by
  simp [floatSum, Sum.round, Sum.value, Sum.zeroNeg, roundTo, withSign]

/-- Settles O41: a reduction of the active lanes, an estimate lane by lane. -/
theorem reductionsAndEstimates : Obligations.ReductionsAndEstimates := by
  unfold Obligations.ReductionsAndEstimates
  intro f g s xs sum x upTo
  exact ⟨completes_compute (rfl : execVredAdd f s = _) rfl,
    completes_compute (rfl : execVredMax f s = _) (apply_extreme _ _ _ _ _ _ maxLane_float),
    completes_compute (rfl : execVredMin f s = _) (apply_extreme _ _ _ _ _ _ minLane_float),
    completes_compute (rfl : execVscanAdd g s = _) rfl, completes_compute (rfl : execVrcpE g s = _) rfl,
    completes_compute (rfl : execVrsqE g s = _) rfl, completes_compute (rfl : execVexp2 g s = _) rfl,
    completes_compute (rfl : execVlog2 g s = _) rfl, rfl, floatSum_nil_round f.t _⟩

end Sys2Proof.Machine

namespace Sys2Proof.Machine

/-! ## The M slot at issue (R262–R275) -/

theorem mIssue_ok {s : State} {l : List Rng} (h : rngFault l = none) (m : MOp) :
    s.mIssue l m = s.mPush { m with track := rngTracks l } := by
  simp only [State.mIssue, h]

theorem rngFault_one {a n al : Nat} (h : a + n ≤ 2 ^ 21) (ha : a % al = 0) : rngFault [{ a := a, n := n, al := al }] = none := by
  have hl : Rng.leaves { a := a, n := n, al := al } = false := decide_eq_false (Nat.not_lt.2 h)
  simp [rngFault, hl, ha]

theorem rngFault_unaligned {a n al : Nat} (h : a + n ≤ 2 ^ 21) (ha : a % al ≠ 0) :
    rngFault [{ a := a, n := n, al := al }] = some (alignFault, BitVec.ofNat 64 a) := by
  have hl : Rng.leaves { a := a, n := n, al := al } = false := decide_eq_false (Nat.not_lt.2 h)
  simp [rngFault, hl, ha]

/-- Settles O43: the checks of each instruction of the M slot pass, and the engine takes it. -/
theorem matrixIssue : Obligations.MatrixIssue := by
  unfold Obligations.MatrixIssue
  intro f g w d t c v a q s p fmt r joins rs gs z
  refine ⟨fun hm hl hr => becomes_issue (rfl : execMma f s = _) ?_,
    fun hm hr => exec_fault (i := .mma f) (rfl : execMma f s = _) rfl hr ?_,
    fun hm hr hl => becomes_issue (rfl : execMmaG g s = _) ?_, fun hw hl => becomes_issue (rfl : execWld w s = _) ?_,
    fun hin hal => becomes_issue (rfl : execZld d s = _) ((mIssue_ok (rngFault_one hin hal) _).trans rfl),
    fun hin hal hr => exec_fault (i := .zld d) (rfl : execZld d s = _) rfl hr ?_,
    fun hin hal => becomes_issue (rfl : execZst t s = _) ?_,
    becomes_issue (rfl : execZclr c s = _) rfl, becomes_issue (rfl : execZadd a s = _) rfl,
    fun hsto => becomes_issue (rfl : execZcvt v s = _) ?_,
    fun hq => becomes_issue (rfl : execMwait q s = _) (if_pos (by rw [hq]; rfl))⟩
  · simp only [fmt] at hm
    simp only [hm, hl, Bool.false_eq_true, if_false]
    exact (mIssue_ok hr _).trans rfl
  · simp only [fmt] at hm
    simp only [hm]
    rfl
  · simp only [fmt] at hm
    simp only [gs, r] at hr
    simp only [hm, hr, hl, Bool.false_eq_true, if_false]
    rfl
  · simp only [r] at hw
    simp only [hw, hl, Bool.false_eq_true, if_false]
    rfl
  · simp only [State.mIssue, rngFault_unaligned (show (s.core.readS .m d.a).toNat + 4096 ≤ 2 ^ 21 from hin) hal,
      BitVec.ofNat_toNat, BitVec.setWidth_eq]
  · simp only [rngFault_one (show (s.core.readS .m t.a).toNat + zstBytes t ≤ 2 ^ 21 from hin) hal]
    rfl
  · have hs : (fmtSto fmt && stoTarget v.tgt) = false := by
      rcases hsto with h | h <;> simp [h]
    simp only [fmt] at hs
    simp only [hs, Bool.false_eq_true, if_false]
    rfl

/-! ## Runs of any store -/

theorem Mem.byte_eq_above (m : Mem) (a : Nat) : m.byte a = (Mem.above a m).byte a := by
  induction m with
  | nil => rfl
  | cons c t ih =>
    obtain ⟨k, v⟩ := c
    by_cases hk : k < a
    · simp only [Mem.byte, Mem.above, if_pos hk, if_neg (Nat.ne_of_lt hk), if_neg (Nat.not_lt.2 hk.le), ih]
    · simp only [Mem.above, if_neg hk]

theorem Mem.above_above {a b : Nat} (h : a ≤ b) (m : Mem) : Mem.above b (Mem.above a m) = Mem.above b m := by
  induction m with
  | nil => rfl
  | cons c t ih =>
    obtain ⟨k, v⟩ := c
    by_cases hk : k < a
    · simp only [Mem.above, if_pos hk, if_pos (hk.trans_le h), ih]
    · simp only [Mem.above, if_neg hk]

theorem Mem.above_head {a k : Nat} {v : Byte} {m t : Mem} (h : Mem.above a m = (k, v) :: t) : ¬k < a := by
  induction m with
  | nil => cases h
  | cons c l ih =>
    by_cases hc : c.1 < a
    · exact ih ((if_pos hc).symm.trans h)
    · obtain ⟨hck, -⟩ := List.cons.inj ((if_neg hc).symm.trans h)
      exact fun hk => hc ((congrArg Prod.fst hck).trans_lt hk)

/-- A run reads byte by byte, whatever the form of the store. -/
theorem Mem.run_eq (n : Nat) : ∀ (m l : Mem) (a : Nat), Mem.above a l = Mem.above a m →
    l.run a n = (List.range n).map fun i => m.byte (a + i) := by
  induction n with
  | zero => exact fun _ _ _ _ => rfl
  | succ n ih =>
    intro m l a hl
    have hnext : ∀ t : Mem, Mem.above (a + 1) t = Mem.above (a + 1) m →
        t.run (a + 1) n = (List.range n).map fun i => m.byte (a + (i + 1)) := by
      intro t ht
      rw [ih m t (a + 1) ht]
      simp only [Nat.add_assoc, Nat.add_comm 1]
    have hab := Mem.above_above (Nat.le_succ a) m
    rw [List.range_succ_eq_map, List.map_cons, List.map_map, show m.byte (a + 0) = _ from Mem.byte_eq_above m a]
    unfold Mem.run
    rw [hl]
    cases hm : Mem.above a m with
    | nil => exact congrArg _ (hnext [] (by rw [← hab, hm]))
    | cons c t =>
      obtain ⟨k, v⟩ := c
      rw [hm] at hab
      have hk := Mem.above_head hm
      by_cases hka : k = a
      · simp only [if_pos hka, Mem.byte]
        exact congrArg _ (hnext t (by rw [← hab, Mem.above, if_pos (by omega)]))
      · simp only [if_neg hka, Mem.byte, if_pos (show a < k by omega)]
        exact congrArg _ (hnext _ hab)

/-! ## Tiles -/

theorem setZ_get (c : Core) (z i : ZReg) (v : BitVec 32768) : (c.setZ z v).z.get i = if i = z then v else c.z.get i := by
  by_cases h : i = z
  · subst h
    simp [Core.setZ, Vector.get_eq_getElem]
  · have hne : z.val ≠ i.val := fun e => h (Fin.ext e.symm)
    simp [Core.setZ, Vector.get_eq_getElem, h, hne]

theorem setZ_eng (c : Core) (z : ZReg) (v : BitVec 32768) : (c.setZ z v).eng = c.eng := rfl

/-- The tiles of a mask zeroed. -/
theorem clear_get (p : Nat → Bool) (l : List ZReg) (c : Core) (i : ZReg) :
    (l.foldl (fun c i => if p i.val then c.setZ i 0 else c) c).z.get i = if i ∈ l ∧ p i.val then 0 else c.z.get i := by
  induction l generalizing c with
  | nil => simp
  | cons j l ih =>
    rw [List.foldl_cons, ih]
    by_cases hp : p i.val = true
    · by_cases hl : i ∈ l
      · simp [hp, hl]
      · by_cases hij : i = j
        · subst hij
          simp [hp, setZ_get]
        · by_cases hj : p j.val = true <;> simp [hp, hl, hij, hj, setZ_get]
    · by_cases hj : p j.val = true
      · have hij : i ≠ j := fun e => hp (e ▸ hj)
        simp [hp, hj, hij, setZ_get]
      · simp [hp, hj]

theorem clear_eng (p : Nat → Bool) (l : List ZReg) (c : Core) :
    (l.foldl (fun c i => if p i.val then c.setZ i 0 else c) c).eng = c.eng := by
  refine foldl_keeps Core.eng _ (fun c i => ?_) l c
  split
  · rfl
  · rfl

theorem elem_tile {l : List Nat} (hl : l.length = 1024) {n : Nat} (hn : n < 1024) :
    elem (BitVec.ofNat 32768 (packElems 32 l)) 32 n = l[n] % 2 ^ 32 := by
  have hlt : packElems 32 l < 2 ^ 32768 := by
    have := packElems_lt 32 l
    rwa [hl] at this
  rw [elem, field, BitVec.toNat_ofNat, Nat.mod_eq_of_lt hlt, packElems_elem]

/-! ## The matrix engine's steps (R264) -/

section
variable {c : Core} {m : MOp} {rest : List MOp} (hq : c.eng.mq = m :: rest) (hran : m.ran = false)
  (hsrc : c.sourcesIn m = true)
include hq hran hsrc

theorem matrixStep_head (hw : m.wldPending = none) (hends : m.ends ≤ c.elapsed) :
    c.matrixStep = Core.afterRun (c.runOp m) 0 := by
  have hnext : c.nextM = some (0, m) := by
    simp [Core.nextM, hq, hran, hw, hends, hsrc]
  simp only [Core.matrixStep, hnext]

theorem wldStep_head {p : Nat × Nat} (hw : m.wldPending = some p) : c.wldStep = Core.afterRun (c.runOp m) 0 := by
  have hnext : c.nextWld = some (0, m) := by
    simp [Core.nextWld, hq, hran, hw, hsrc]
  simp only [Core.wldStep, hnext]

end

/-- The queue after its head has run without a stop. -/
theorem afterRun_mq {r : Core} {m : MOp} {rest : List MOp} (hq : r.eng.mq = m :: rest) (n : Nat) :
    (Core.afterRun (r, n, none) 0).eng.mq = match m.landing with
      | none => rest
      | some _ => { m with ran := true, track := [] } :: rest := by
  simp only [Core.afterRun, hq, List.getElem?_cons_zero, Option.bind_some]
  cases m.landing <;> rfl

/-- An instruction whose tile write lands later stays in the queue, its ranges tracked no longer. -/
theorem afterRun_stays {k : Core} {m : MOp} {rest : List MOp} (hq : k.eng.mq = m :: rest) {l : Nat} (hl : m.landing = some l)
    (fl : Flags) : (Core.afterRun (k.raiseNow fl, 0, none) 0).eng.mq = { m with ran := true, track := [] } :: rest := by
  rw [afterRun_mq (m := m) (rest := rest) (by rw [Core.raiseNow_eng, hq]), hl]

theorem afterRun_leaves {r : Core} {m : MOp} {rest : List MOp} (hq : r.eng.mq = m :: rest) (hl : m.landing = none) :
    (Core.afterRun (r, 0, none) 0).eng.mq = rest := by
  rw [afterRun_mq hq, hl]

theorem afterRun_z (r : MRes) (i : Nat) : (Core.afterRun r i).z = r.1.z := rfl
theorem afterRun_spad (r : MRes) (i : Nat) : (Core.afterRun r i).spad = r.1.spad := rfl
theorem afterRun_wbuf (r : MRes) (i : Nat) : (Core.afterRun r i).wbuf = r.1.wbuf := rfl
theorem afterRun_shadow (r : MRes) (i : Nat) : (Core.afterRun r i).eng.shadow = r.1.eng.shadow := rfl

/-- An element of the sum of two tiles. -/
theorem zaddTile_elem (c : Core) (m : MOp) (f : MZadd) {n : Nat} (hn : n < 1024) :
    elem (BitVec.ofNat 32768 (c.zaddTile m f).1) 32 n =
      if fmtAcc m.fmt then (elem (c.z.get f.z) 32 n + elem (c.z.get f.z2) 32 n) % 2 ^ 32
      else (addF .f32 (fmtRndDet m.fmt) (decodeF .f32 (elem (c.z.get f.z) 32 n))
        (decodeF .f32 (elem (c.z.get f.z2) 32 n))).1 % 2 ^ 32 := by
  simp only [Core.zaddTile]
  rw [elem_tile (by simp) hn]
  simp only [List.getElem_map, List.getElem_range]
  split
  · exact Nat.mod_mod ..
  · rfl

/-- What a raw WLD has written after some units. -/
theorem wldFrom_raw (m : MOp) (left : Nat) : ∀ (c : Core) (j : Nat), c.spadBad = [] → c.wbuf.wf = true →
    ∃ t : Core, c.wldFrom m false left j = (t, 0, none) ∧ t.eng = c.eng ∧ t.spad = c.spad ∧ ∀ x, t.wbuf.byte x =
      if m.a + 64 * j ≤ x ∧ x < m.a + 64 * (j + left) then c.spad.byte (m.b + (x - m.a)) else c.wbuf.byte x := by
  induction left with
  | zero => exact fun c j _ _ => ⟨_, rfl, Core.raiseNow_eng .., Core.raiseNow_spad .., fun x => by
      rw [Core.raiseNow_wbuf, if_neg (by omega)]⟩
  | succ left ih =>
    intro c j hbad hwf
    let bs := c.spad.run (m.b + 64 * j) 64
    have hlen : bs.length = 64 := Mem.run_length ..
    have hunit : c.wldUnit m false j = .ok bs := by
      simp only [Core.wldUnit, hbad, badIn, List.find?_nil, Bool.false_eq_true, if_false]
      rfl
    obtain ⟨t, ht, heng, hspad, hbyte⟩ := ih (c.wbufPut (m.a + 64 * j) bs) (j + 1) hbad (Mem.wf_write hwf _ _)
    refine ⟨t, ?_, heng, hspad, fun x => ?_⟩
    · simp only [Core.wldFrom, hunit, Bool.false_eq_true, if_false]
      exact ht
    · rw [hbyte x]
      show _ = _
      have hb : (c.wbufPut (m.a + 64 * j) bs).wbuf.byte x =
          if m.a + 64 * j ≤ x ∧ x < m.a + 64 * j + bs.length then bs.getD (x - (m.a + 64 * j)) 0 else c.wbuf.byte x :=
        Mem.byte_write hwf ..
      rw [hb, hlen]
      by_cases h1 : m.a + 64 * (j + 1) ≤ x ∧ x < m.a + 64 * (j + 1 + left)
      · rw [if_pos h1, if_pos (by omega)]
        rfl
      · rw [if_neg h1]
        by_cases h2 : m.a + 64 * j ≤ x ∧ x < m.a + 64 * j + 64
        · rw [if_pos h2, if_pos (by omega), List.getD_eq_getElem _ _ (by omega)]
          simp only [bs, Mem.run_eq 64 c.spad c.spad _ rfl, List.getElem_map, List.getElem_range]
          congr 1
          omega
        · rw [if_neg h2, if_neg (by omega)]

theorem runWld_raw {c : Core} {m : MOp} (hbad : c.spadBad = []) (hwf : c.wbuf.wf = true) (hdone : m.done = 0) (hc : m.c % 64 = 0) :
    ∃ t : Core, c.runWld m false = (t, 0, none) ∧ t.eng = c.eng ∧ t.spad = c.spad ∧ ∀ x, t.wbuf.byte x =
      if m.a ≤ x ∧ x < m.a + m.c then c.spad.byte (m.b + (x - m.a)) else c.wbuf.byte x := by
  obtain ⟨t, ht, heng, hspad, hbyte⟩ := wldFrom_raw m (m.c / 64) c 0 hbad hwf
  refine ⟨t, ?_, heng, hspad, fun x => ?_⟩
  · simp only [Core.runWld, hdone, Bool.false_eq_true, if_false]
    exact ht
  · have hsize : 64 * (0 + m.c / 64) = m.c := by omega
    rw [hbyte x, hsize]
    rfl

/-- Settles O44: the head of the queue runs, and what it wrote. -/
theorem matrixEngineSteps : Obligations.MatrixEngineSteps := by
  unfold Obligations.MatrixEngineSteps
  intro s w m rest c stays hq hran hheld hsrc
  refine ⟨fun hw hends => ?_, fun f hf => ?_⟩
  · intro t
    have hstep : t = Core.afterRun (c.runOp m) 0 := matrixStep_head hq hran hsrc hw hends
    refine ⟨if_neg (by rw [show (s.coreAt w).held .matrix = false from hheld]; decide), fun f hf => ?_, fun f hf hbad => ?_,
      fun f hf => ?_, fun f hf => ?_, fun f hf => ?_⟩
    · have hrun : c.runOp m = (((List.finRange 8).foldl (fun c i => if f.mask.getLsbD i.val then c.setZ i 0 else c) c).raiseNow 0, 0, none) := by
        simp only [Core.runOp, Core.runM, hf]
        rfl
      have hmq : (((List.finRange 8).foldl (fun c i => if f.mask.getLsbD i.val then c.setZ i 0 else c) c)).eng.mq = m :: rest := by
        rw [clear_eng (f.mask.getLsbD ·), hq]
      rw [hstep, hrun]
      refine ⟨afterRun_stays hmq (by rw [MOp.landing, hf]) 0, fun i => ?_⟩
      rw [afterRun_z]
      simp only [Core.raiseNow_z, clear_get (f.mask.getLsbD ·), List.mem_finRange, true_and]
    · have hrun : c.runOp m = ((c.setZ f.z (BitVec.ofNat 32768 (c.spadNum m.a 4096))).raiseNow 0, 0, none) := by
        simp only [Core.runOp, Core.runM, hf, hbad]
        rfl
      rw [hstep, hrun]
      refine ⟨afterRun_stays (k := c.setZ f.z _) hq (by rw [MOp.landing, hf]) 0, fun i => ?_⟩
      rw [afterRun_z]
      simp only [Core.raiseNow_z, setZ_get]
      rfl
    · have hrun : c.runOp m = ((c.shadow (shadowLines .matrix .loc m.no m.a (toBytes (zstBytes f) (c.z.get f.z).toNat))).raiseNow 0, 0, none) := by
        simp only [Core.runOp, Core.runM, hf]
        rfl
      rw [hstep, hrun]
      refine ⟨afterRun_leaves ?_ (by rw [MOp.landing, hf]), ?_, ?_⟩
      · rw [Core.raiseNow_eng]
        exact hq
      · rw [afterRun_z]
        exact Core.raiseNow_z ..
      · rw [afterRun_shadow, Core.raiseNow_eng]
        rfl
    · have hrun : c.runOp m = ((c.setZ f.z (BitVec.ofNat 32768 (c.zaddTile m f).1)).raiseNow (c.zaddTile m f).2, 0, none) := by
        simp only [Core.runOp, Core.runM, hf]
        rfl
      rw [hstep, hrun]
      refine ⟨afterRun_stays (k := c.setZ f.z _) hq (by rw [MOp.landing, hf]) _, fun n hn => ?_⟩
      rw [afterRun_z]
      simp only [Core.raiseNow_z, setZ_get, if_true]
      exact zaddTile_elem c m f hn
    · have hrun : c.runOp m = ((c.setZ f.z (BitVec.ofNat 32768 (c.zcvtTile m f).1)).raiseNow (c.zcvtTile m f).2, 0, none) := by
        simp only [Core.runOp, Core.runM, hf]
        rfl
      rw [hstep, hrun]
      refine ⟨afterRun_stays (k := c.setZ f.z _) hq (by rw [MOp.landing, hf]) _, ?_⟩
      rw [afterRun_z]
      simp only [Core.raiseNow_z, setZ_get, if_true]
  · intro t
    have hpend : m.wldPending = some (m.a + (if f.cw8 then 32 else 64) * m.done,
        (if f.cw8 then 32 * m.c else m.c) - (if f.cw8 then 32 else 64) * m.done) := by
      simp only [MOp.wldPending, hf]
    have hstep : t = Core.afterRun (c.runOp m) 0 := wldStep_head hq hran hsrc hpend
    refine ⟨if_neg (by rw [show (s.coreAt w).held .matrix = false from hheld]; decide), fun hraw hbad hwf hdone hc => ?_⟩
    obtain ⟨u, hu, heng, hspad, hbyte⟩ := runWld_raw hbad hwf hdone hc
    have hrun : c.runOp m = (u, 0, none) := by
      simp only [Core.runOp, hf, hraw]
      exact hu
    rw [hstep, hrun]
    exact ⟨afterRun_leaves ((congrArg Engines.mq heng).trans hq) (by rw [MOp.landing, hf]), hspad, hbyte⟩

end Sys2Proof.Machine

namespace Sys2Proof.Machine

/-! ## Copy commands (R278–R282) -/

theorem cpPush_room {s : State} (h : s.core.eng.cps.length < 4) (c : CpCmd) :
    s.cpPush c = .done { s.onEng (fun e => { e with cps := e.cps ++ [{ c with no := s.stamp }] }) with stamp := s.stamp + 1 } :=
  if_neg (Nat.not_le.2 h)

theorem hashPush_room {s : State} (h : s.core.eng.hashes.length < 2) (d : Option Loc) (x : HashCmd) :
    s.hashPush d x = .done { s.onCore (fun c => let k := c.await .e 1 d
                                               { k with eng := { k.eng with hashes := k.eng.hashes ++ [(s.stamp, x)] } })
                             with stamp := s.stamp + 1 } :=
  if_neg (Nat.not_le.2 h)

theorem lcIssue_room {s : State} {l : List (Nat × Nat)} (h : s.core.eng.lcs.length < 4)
    (hr : rngFault (l.map fun r => { a := r.1, n := r.2 }) = none) (c : LcCmd) :
    s.lcIssue l c = .done { s.onEng (fun e => { e with lcs := e.lcs ++ [(s.stamp, c)] }) with stamp := s.stamp + 1 } := by
  simp only [State.lcIssue, hr]
  exact if_neg (Nat.not_le.2 h)

theorem word_ne_zero {w : Word} (h : 0 < w.toNat) : w ≠ 0 := by
  rintro rfl
  exact absurd h (by decide)

theorem scratchCheck_ok {a : Word} {align : Nat} (h : a.toNat < 2 ^ 21) (ha : a.toNat % align = 0) : scratchCheck a align = none := by
  simp only [scratchCheck, Nat.div_eq_of_lt h, ha, ne_eq, not_true_eq_false, if_false]

/-- No line of an engine stands in the shadow. -/
theorem shadow_clear {l : List Shadow} {g : Eng} (h : ∀ x ∈ l, x.eng ≠ g) : (l.all fun x => x.eng ≠ g) = true :=
  List.all_eq_true.2 fun x hx => decide_eq_true (h x hx)

/-- Settles O46: the checks of each command pass, and its engine takes it. -/
theorem copyAndHashCommands : Obligations.CopyAndHashCommands := by
  unfold Obligations.CopyAndHashCommands
  refine ⟨fun f g h q s => ?_, fun f g q s => ?_⟩
  · intro r n joins count
    refine ⟨fun hpos hle hd ha hov hn hdal haal hroom => becomes_issue (rfl : execCp f s = _) ?_,
      fun hz => becomes_issue (rfl : execCp f s = _) ?_,
      fun hbig hr => exec_fault (i := .cp f) (rfl : execCp f s = _) rfl hr (if_pos hbig),
      fun m d hm hd hdst hroom => becomes_issue (rfl : execCpName g s = _) ?_,
      fun hpos hle hd16 hc1 hc2 hrc ha hreach hn hal hroom => becomes_issue (rfl : execCpWin h s = _) ?_,
      fun hq hsh => becomes_issue (rfl : execCpWait q s = _) (if_pos (by rw [hq, shadow_clear hsh]; rfl))⟩
    · have hover : (f.dst = .loc && f.src = .loc && overlaps (r f.d).toNat n (r f.a).toNat n) = false := by
        rcases hov with h | h | h <;> simp [h]
      have hal : (n % 64 ≠ 0 || (r f.d).toNat % 64 ≠ 0) = false := by simp [hn, hdal]
      refine (if_neg (Nat.not_lt.2 hle)).trans ((if_neg (word_ne_zero hpos)).trans ((if_neg (Bool.eq_false_iff.1 hd)).trans
        ((if_neg (Bool.eq_false_iff.1 ha)).trans ((if_neg (Bool.eq_false_iff.1 hover)).trans
        ((if_neg (Bool.eq_false_iff.1 hal)).trans ((if_neg (not_not.2 haal)).trans (cpPush_room hroom _)))))))
    · have hw : s.core.readS .e f.b = 0 := BitVec.eq_of_toNat_eq hz
      exact (if_neg (by rw [hw]; decide)).trans (if_pos hw)
    · simp only [r] at hm hdst
      simp only [hm, hd, hdst]
      exact cpPush_room hroom _
    · have hlim : ((r h.d).toNat / 65536 ≠ 0 || count = 0 || 192 < count || 192 < (r h.d).toNat % 256 + count) = false := by
        simp only [Nat.div_eq_of_lt hd16, Bool.or_eq_false_iff, decide_eq_false_iff_not]
        omega
      have hall : ((List.range count).any fun i => !s.rankReaches ((r h.d).toNat % 256 + i) (r h.a).toNat (r h.b).toNat) = false := by
        rw [List.any_eq_false]
        intro i hi
        rw [hreach i (List.mem_range.1 hi)]
        decide
      have hal2 : ((r h.b).toNat % 64 ≠ 0 || (r h.a).toNat % 64 ≠ 0) = false := by simp [hn, hal]
      exact (if_neg (Nat.not_lt.2 hle)).trans ((if_neg (Bool.eq_false_iff.1 hlim)).trans ((if_neg (word_ne_zero hpos)).trans
        ((if_neg (Bool.eq_false_iff.1 ha)).trans ((if_neg (Bool.eq_false_iff.1 hall)).trans
        ((if_neg (Bool.eq_false_iff.1 hal2)).trans (cpPush_room hroom _))))))
  · intro r d joins
    refine ⟨fun ha hd hdal hfin hroom => becomes_issue (rfl : execHashSha f s = _) ?_,
      fun ha hroom => becomes_issue (rfl : execHashCrc g s = _) ?_,
      fun ha hr => exec_fault (i := .hashCrc g) (rfl : execHashCrc g s = _) rfl hr (if_pos ha),
      fun hq hsh => becomes_issue (rfl : execHashWait q s = _) (if_pos (by rw [hq, shadow_clear hsh]; rfl))⟩
    · have hpart : (!f.final && decide ((r f.b).toNat % 128 ≠ 0)) = false := by
        rcases hfin with h | h <;> simp [h]
      refine (if_neg (Nat.not_lt.2 ha)).trans ?_
      simp only [r] at hd hdal hpart
      simp only [scratchCheck_ok hd hdal, hpart, Bool.false_eq_true, if_false]
      exact hashPush_room hroom none _
    · exact (if_neg (Nat.not_lt.2 ha)).trans (hashPush_room hroom d _)

/-! ## Celadon commands (R344, R349, R359–R373) -/

theorem emptySlot_frees {s : State} {a : Word} {sts : List SlotSt} {x : FabSlot} (hidle : s.core.eng.lcs = [])
    (hx : s.slotArg a sts = some x) (hbusy : s.slotBusy a.toNat true = false) :
    s.emptySlot a sts = .done (s.setSlot s.myCluster a.toNat {}) := by
  simp [State.emptySlot, hidle, hx, hbusy]

theorem commitStatus_rejected (cl : Cluster) (x : FabSlot) (expect : List Byte) :
    commitStatus cl x expect = 2 ↔ x.rej.isSome = true := by
  unfold commitStatus
  split_ifs with h1 h2 h3 <;> simp [h1]

theorem idle_not_waiting {s : State} (h : s.core.eng.lcs = []) : ¬(!s.core.eng.lcs.isEmpty) = true := by simp [h]

/-- Settles O48: a slot command by the state of its slot, the others by their operands. -/
theorem celadonInstructions : Obligations.CeladonInstructions := by
  unfold Obligations.CeladonInstructions
  refine ⟨fun f g h q k z s x => ?_, fun f g h u s => ?_⟩
  · intro r me idle free status put
    refine ⟨fun hi hfree => becomes_issue (rfl : execLcCtxOpen f s = _) ((if_neg (idle_not_waiting hi)).trans ?_),
      fun n hi hfree => becomes_issue (rfl : execLcCtxOpen f s = _) ((if_neg (idle_not_waiting hi)).trans ?_),
      fun hi hx hchk hbusy hbeh hbad => becomes_issue (rfl : execLcCtxCommit g s = _) ((if_neg (idle_not_waiting hi)).trans ?_),
      fun hi hx hr => exec_fault (i := .lcCtxCommit g) (rfl : execLcCtxCommit g s = _) rfl hr ((if_neg (idle_not_waiting hi)).trans ?_),
      fun hi hx hbusy => becomes_issue (rfl : execLcCtxAbort h s = _) (emptySlot_frees hi hx hbusy),
      fun hi hx hbusy => becomes_issue (rfl : execLcCtxRel h s = _) (emptySlot_frees hi hx hbusy),
      fun hi => completes_issue (rfl : execLcStat q s = _) (if_neg (idle_not_waiting hi)),
      fun n hk => completes_issue (rfl : execLcSel k s = _) ?_, fun a hk ha => completes_issue (rfl : execLcSel k s = _) ?_,
      fun hi hsh => becomes_issue (rfl : execLcWait z s = _) (if_pos (by rw [show s.core.eng.lcs = [] from hi, shadow_clear hsh]; rfl)),
      commitStatus_rejected _ x []⟩
    · simp only [free, me] at hfree
      simp only [hfree]
      rfl
    · simp only [free, me] at hfree
      simp only [hfree]
      rfl
    · simp only [r] at hx hchk hbusy hbeh hbad
      simp only [hx, hchk, hbusy, hbeh, hbad, Bool.or_self, Bool.false_eq_true, if_false]
      rfl
    · simp only [r] at hx
      simp only [hx]
      rfl
    · simp only [hk]
      rfl
    · simp only [hk]
      exact if_neg (Nat.not_le.2 ha)
  · intro r joins d a b nb outs nin slot n x y tslice unslice pop
    refine ⟨fun h1 h16 hslot hroom hrng => becomes_issue (rfl : execLcTbl f s = _) ?_,
      fun hn hr => exec_fault (i := .lcTbl f) (rfl : execLcTbl f s = _) rfl hr (if_pos ?_),
      fun hen hslot hb1 hb2 hb3 ho1 ho2 hi1 hi2 hsum hroom hrng => becomes_issue (rfl : execLcRun g s = _) ?_,
      fun hx1 hx2 hsz hroom hrng => becomes_issue (rfl : execLcTslice h s = _) ?_,
      fun hy1 hy2 hsz hroom hrng => becomes_issue (rfl : execLcUnslice u s = _) ?_,
      fun hb1 hb2 hb3 hsz hroom hrng => becomes_issue (rfl : execLcPop g s = _) ?_⟩
    · have hn : (s.core.readS .e f.b = 0 || 16 < (s.core.readS .e f.b).toNat) = false := by
        rw [Bool.or_eq_false_iff]
        exact ⟨decide_eq_false (word_ne_zero h1), decide_eq_false (Nat.not_lt.2 h16)⟩
      exact (if_neg (Bool.eq_false_iff.1 hn)).trans ((if_neg (Bool.eq_false_iff.1 (isNone_of_isSome hslot))).trans
        (lcIssue_room hroom hrng _))
    · rw [Bool.or_eq_true]
      exact hn.imp (fun h => decide_eq_true (BitVec.eq_of_toNat_eq h)) decide_eq_true
    · have hen' : (!bitOf s.core.lcs 2 || (s.slotArg (BitVec.ofNat 64 slot) [.ready, .poisoned]).isNone) = false := by
        rw [hen, isNone_of_isSome hslot]
        rfl
      have hlim : (field b 45 3 ≠ 0 || field b 28 4 ≠ 0 || field b 11 5 ≠ 0 || outs = 0 || 4096 < outs || nin = 0 || 1024 < nin ||
          4096 < field b 16 12 + outs) = false := by
        simp only [hb1, hb2, hb3, Bool.or_eq_false_iff, decide_eq_false_iff_not]
        omega
      exact (if_neg (Bool.eq_false_iff.1 hen')).trans ((if_neg (Bool.eq_false_iff.1 hlim)).trans (lcIssue_room hroom hrng _))
    · have hlim : (field x 10 22 ≠ 0 || field x 48 16 ≠ 0 || 1024 < (field x 0 10 + 1) * (h.nt.toNat + 1)) = false := by
        simp [hx1, hx2, hsz]
      have hcmd : LcCmd.tslice (sliceCode h.fmt) (h.nt.toNat + 1) (64 * h.thr.toNat) (r h.d).toNat (r h.a).toNat (field x 0 10 + 1)
          (field x 32 16 + 1) = tslice := rfl
      refine (if_neg (Bool.eq_false_iff.1 hlim)).trans ?_
      rw [← hcmd] at hrng ⊢
      exact lcIssue_room hroom hrng _
    · have hlim : (field y 12 20 ≠ 0 || field y 48 16 ≠ 0 || 4096 < (field y 0 12 + 1) * (u.w.toNat + 1)) = false := by
        simp [hy1, hy2, hsz]
      have hcmd : LcCmd.unslice (unsliceBytes u.elt) (u.w.toNat + 1) (r u.d).toNat (r u.a).toNat (field y 0 12 + 1)
          (field y 32 16 + 1) = unslice := rfl
      refine (if_neg (Bool.eq_false_iff.1 hlim)).trans ?_
      rw [← hcmd] at hrng ⊢
      exact lcIssue_room hroom hrng _
    · have hlim : (field b 12 4 ≠ 0 || field b 28 4 ≠ 0 || field b 48 16 ≠ 0 || 4096 < (field b 0 12 + 1) * (field b 16 12 + 1)) = false := by
        simp [hb1, hb2, hb3, hsz]
      exact (if_neg (Bool.eq_false_iff.1 hlim)).trans (lcIssue_room hroom hrng _)

end Sys2Proof.Machine

namespace Sys2Proof.Machine

/-! ## Loading a task (R26) -/

theorem spadPut_any {α : Type} (g : Core → α) (hg : ∀ c a bs, g (c.spadPut a bs) = g c) (t : Tmpl) (l : List Landing) (c : Core) :
    g (l.foldl (fun c l => match t.subs[l.k]? with
      | some d => if l.full then c.spadPut (64 * d.land) l.visible else c
      | none => c) c) = g c := by
  refine foldl_keeps g _ (fun c l => ?_) l c
  split
  · split
    · exact hg ..
    · rfl
  · rfl

theorem moveAll_busy (c : Core) (t : Tmpl) : (c.moveAll t).busy = c.busy := spadPut_any Core.busy (fun _ _ _ => rfl) t c.task.live c
theorem moveAll_st (c : Core) (t : Tmpl) : (c.moveAll t).task.st = c.task.st := rfl
theorem moveAll_addr (c : Core) (t : Tmpl) : (c.moveAll t).task.addr = c.task.addr := rfl

/-- The record of a task as its core holds it. -/
def State.seated (s : State) (r : Rec) : Rec := { r with st := 2, prio := s.levelPrio r }

/-- A first dispatch. -/
theorem dispatch_first {s : State} {r : Rec} {t : Tmpl} (hc : r.ctxv = false) (ht : s.tmplOf (s.seated r) = some t) :
    ∃ c : Core, (s.dispatch r).core = ((c.seat (s.seated r)).firstLoad (s.seated r)).moveAll t := by
  unfold State.dispatch
  extract_lets r1 s1
  split
  · next h => exact absurd (ht.symm.trans h) (Option.some_ne_none t)
  · next t' h =>
    obtain rfl : t' = t := Option.some.inj (h.symm.trans ht)
    have hv : r1.ctxv = false := hc
    simp only [hv, Bool.not_false, if_true]
    exact ⟨s1.core, rfl⟩

theorem seat_seated (c : Core) (r : Rec) (t : Tmpl) : (((c.seat r).firstLoad r).moveAll t).busy = true ∧
    (((c.seat r).firstLoad r).moveAll t).task.st = r.st ∧ (((c.seat r).firstLoad r).moveAll t).task.addr = r.addr :=
  ⟨moveAll_busy .., rfl, rfl⟩

/-! ## Leaving the core (R128) -/

theorem suspendIf_leaves {f : State} (leave : State → State) (hbusy : f.front.core.busy = true) (hb : f.front.atBoundary = true)
    (hans : f.front.feAnswered = false) (hcomp : f.front.completing = false) (hset : f.front.withdrawFe.settled = true) :
    f.suspendIf leave = leave f.front.withdrawFe.withdrawClose := by
  simp [State.suspendIf, hbusy, hb, hans, hcomp, hset]

/-! ## Firing (R25, R33) -/

/-- What is first in order fires when its level has a save area and its cluster a record. -/
theorem fire_ready {s : State} {q : Nat} {e : Entry} {l : Launch} {v : Level} {t : Tmpl} {x : LInst} {area no share : Nat}
    (hl : s.launchOf e.part e.launch = some l) (hv : l.levelEntry (l.tmplLevel e.tmpl) = some v) (ht : l.tmpls[e.tmpl]? = some t)
    (hx : (s.partAt e.part).linst e.launch e.level e.linst = some x)
    (ha : v.freeAreas[s.choice v.freeAreas.length]? = some area)
    (hno : (s.chosen v.freeAreas.length).freeRec q 65536 ((s.chosen v.freeAreas.length).choice 65536) = some no)
    (hend : l.ended = false) (hhold : l.hold = none) (hsat : e.sat = 0xFF) (hord : s.firstInOrder l e = true)
    (hshare : s.shareOf q (firedRec q (recAddress q no) area l t v x e) = some share) :
    s.fire q e = ((((s.chosen v.freeAreas.length).chosen 65536).dropEntry q e).modLaunch e.part e.launch fun k =>
      { k with levels := k.levels.modify (l.tmplLevel e.tmpl - 1) fun v => { v with used := area :: v.used } }).ready
        { firedRec q (recAddress q no) area l t v x e with share := share } 1 false := by
  have hgo : (l.ended || l.hold.isSome || e.sat ≠ 0xFF || !s.firstInOrder l e) = false := by simp [hend, hhold, hsat, hord]
  unfold State.fire
  simp only [hl, hv, ht, hx, ha, hno, hshare]
  exact if_neg (Bool.eq_false_iff.1 hgo)

/-- Settles O50: dispatch, the two suspensions, withdrawal, firing and aging by the branches of their events. -/
theorem taskSchedulingAndFiring : Obligations.TaskSchedulingAndFiring := by
  unfold Obligations.TaskSchedulingAndFiring
  refine ⟨fun s w r => ?_, fun s q i a e r => ?_⟩
  · intro f h g u leaves left
    refine ⟨fun hidle hopen hpick => ?_, fun t hc ht => ?_, fun hbusy => ?_,
      fun hq hy ⟨hbusy, hb, hans, hcomp, hset⟩ hfr hne => ?_, fun hpre ⟨hbusy, hb, hans, hcomp, hset⟩ hne => ?_,
      fun hbusy hq => ?_, rfl, fun t ht hdef => ?_⟩
    · show execTaskDispatch w s = _
      simp only [execTaskDispatch, hidle, hopen, hpick, Bool.not_true, Bool.or_self, Bool.false_eq_true, if_false]
    · obtain ⟨c, hcore⟩ := dispatch_first hc ht
      rw [hcore]
      exact seat_seated c (s.seated r) t
    · exact if_pos (by simp [hbusy])
    · have hsusp := suspendIf_leaves (f := f) (fun s => if s.frameWaits then s.suspendHere 3 4 false else s.suspendHere 5 1 false)
        hbusy hb hans hcomp hset
      have hgo : ¬(!f.quantumOut || f.front.yielding) = true := by simp [hq, show f.front.yielding = false from hy]
      have hu : f.suspendIf (fun s => if s.frameWaits then s.suspendHere 3 4 false else s.suspendHere 5 1 false) =
          u.suspendHere 5 1 false := hsusp.trans (if_neg (Bool.eq_false_iff.1 hfr))
      refine (if_neg hgo).trans (congrArg Host.Outcome.next ?_)
      rw [show s.focus w = f from rfl, hu]
      exact if_neg hne
    · have hsusp := suspendIf_leaves (f := f) (fun s => s.suspendHere 6 7 true) hbusy hb hans hcomp hset
      have hnone : ¬f.core.pre = .none := by rw [hpre]; decide
      have hgo : ¬(f.core.pre = .none && !s.schedulerWants w) = true := by simp [hnone]
      refine (if_neg hgo).trans (congrArg Host.Outcome.next ?_)
      simp only [show s.focus w = f from rfl, if_neg hnone, hsusp]
      exact if_neg hne
    · exact if_pos (by simp [show (s.focus w).core.busy = true from hbusy, show (s.focus w).quantumOut = true from hq])
    · have hkeep := (List.mem_filter.1 ht).2
      rw [hdef] at hkeep
      simpa using hkeep
  · intro c
    refine ⟨fun he => ?_, fun he => ?_, fun l v t x area no share hl hv ht hx ha hno hend hhold hsat hord hshare =>
      fire_ready hl hv ht hx ha hno hend hhold hsat hord hshare, fun hr hmem hage hprio => ?_, fun hr hprio => ?_⟩
    · show execInstanceFire q i s = _
      simp only [execInstanceFire, show (s.clusterAt q).mstore[i]? = some e from he]
    · show execInstanceFire q i s = _
      simp only [execInstanceFire, show (s.clusterAt q).mstore[i]? = none from he]
    · show execAgingPromotion q a s = _
      simp only [execAgingPromotion, hr]
      refine if_pos ?_
      rw [List.contains_iff_mem.2 hmem, decide_eq_true hprio, decide_eq_true (show r.since + Config.agingCycles ≤ _ from hage)]
      rfl
    · show execAgingPromotion q a s = _
      simp only [execAgingPromotion, hr]
      exact if_neg (by simp [Nat.not_lt.2 hprio])

end Sys2Proof.Machine

namespace Sys2Proof.Machine

/-! ## Deliveries at their scheduler (R72–R75, R83, R318) -/

/-- The scheduler without the delivery that it looks at. -/
def State.taken (s : State) (q i n : Nat) : State :=
  (s.chosen n).modCluster q fun c => { c with inbox := removeAt c.inbox i }

section
variable {s : State} {q i : Nat} {x : Packet × Endpoint}
  (hsel : (s.deliverable q false)[s.choice (s.deliverable q false).length]? = some (x, i))
include hsel

theorem exec_delivery_copy (hc : x.1.copies.isSome = true) :
    exec (.delivery q) s = .next ((s.taken q i (s.deliverable q false).length).takeCopy q i x) := by
  show execDelivery q s = _
  simp only [execDelivery, hsel, hc, if_true]
  rfl

theorem exec_delivery_again (hc : x.1.copies = none)
    (hin : ((s.taken q i (s.deliverable q false).length).clusterAt q).inHand x.1 = true) :
    exec (.delivery q) s = .next (s.taken q i (s.deliverable q false).length) := by
  simp only [State.taken] at hin
  show execDelivery q s = _
  simp only [execDelivery, hsel, hc, Option.isSome_none, Bool.false_eq_true, if_false, hin, if_true, State.taken]

variable (hc : x.1.copies = none) (hin : ((s.taken q i (s.deliverable q false).length).clusterAt q).inHand x.1 = false)
include hc hin

theorem exec_delivery_done {t : State} (ht : (s.taken q i (s.deliverable q false).length).takeDelivery q x = .done t) :
    exec (.delivery q) s = .next t := by
  simp only [State.taken] at hin ht
  show execDelivery q s = _
  simp only [execDelivery, hsel, hc, Option.isSome_none, Bool.false_eq_true, if_false, hin, ht]

theorem exec_delivery_split {pkt : Packet} (ht : (s.taken q i (s.deliverable q false).length).takeDelivery q x = .split pkt) :
    exec (.delivery q) s = .next ((s.taken q i (s.deliverable q false).length).takeCopy q i (pkt, x.2)) := by
  simp only [State.taken] at hin ht
  show execDelivery q s = _
  simp only [execDelivery, hsel, hc, Option.isSome_none, Bool.false_eq_true, if_false, hin, ht, State.taken]

end

theorem chosen_one (s : State) : s.chosen 1 = s := rfl
theorem choice_one (s : State) : s.choice 1 = 0 := rfl

/-- The copy of the only registration. -/
theorem takeCopy_last {s t : State} {q i : Nat} {x : Packet × Endpoint} {g : Reg} (hg : (s.clusterAt q).copiesOf x.1 = [g])
    (hstale : s.staleColour x.1 = false) (hheld : s.behindHeld q (s.clusterAt q).heldIn (copyFor x g).1 = false)
    (ht : s.arriveReg q g x.1.plain = some t) : s.takeCopy q i x = t.accept q x := by
  unfold State.takeCopy
  simp only [hg, hstale, Bool.false_eq_true, if_false, List.length_singleton, choice_one, List.getElem?_cons_zero, chosen_one,
    hheld, ht]
  simp

/-- Settles O52: what a scheduler does with a delivery, and with a marker. -/
theorem deliveriesAndMarkers : Obligations.DeliveriesAndMarkers := by
  unfold Obligations.DeliveriesAndMarkers
  refine ⟨fun s t q i x => ?_, fun s t u q i x rest e l => ?_⟩
  · intro c l m without s1 first
    refine ⟨fun hsel hc => exec_delivery_copy hsel hc, fun ⟨hsel, hc⟩ hin => exec_delivery_again hsel hc hin,
      fun ⟨hsel, hc⟩ hin ht => exec_delivery_done hsel hc hin ht, fun pkt ⟨hsel, hc⟩ hin hsplit => exec_delivery_split hsel hc hin hsplit,
      fun g hg hstale hheld ht => takeCopy_last hg hstale hheld ht, rfl,
      fun hsel => ?_, fun f hf hdue => ?_, fun f hf hdue => ?_, fun hstale => if_pos hstale, fun g hg => ?_⟩
    · simp only [m] at hsel
      show execNegativeAck q s = _
      simp only [execNegativeAck, hsel]
      rfl
    · show execFilterExpiry q i s = _
      simp only [execFilterExpiry, show (s.clusterAt q).filter[i]? = some f from hf]
      exact if_pos hdue
    · show execFilterExpiry q i s = _
      simp only [execFilterExpiry, show (s.clusterAt q).filter[i]? = some f from hf]
      exact if_neg (Nat.not_le.2 hdue)
    · have htest := (List.mem_filter.1 hg).2
      simp only [Bool.and_eq_true, Bool.not_eq_true', List.contains_eq_mem, decide_eq_false_iff_not] at htest
      exact ⟨htest.1.2, htest.2⟩
  · intro c s1 s2
    refine ⟨fun hm ht => ?_, fun hm hu => ?_, fun he htask => ?_, fun he htask hsat hl => ?_⟩
    · show execDrainMarkerArrival q s = _
      simp only [execDrainMarkerArrival, show (s.clusterAt q).markers = x :: rest from hm, List.zipIdx_cons, List.findSome?_cons, ht,
        Option.getD_some]
    · have hs : (s.modCluster q fun c => { c with markers := removeAt c.markers 0 }) = s1 := by
        simp only [State.modCluster, s1, show (s.clusterAt q).markers = x :: rest from hm, removeAt]
      simp only [State.markOne, hs, hu]
      rfl
    · show execDrainForward q i s = _
      simp only [execDrainForward, show (s.clusterAt q).drainQ[i]? = some e from he, htask, Bool.true_or, if_true]
    · have hopen : (s.hasTask e || (s.entryOf q e).elim false fun x => x.sat = 0xFF) = false := by
        rw [htask, Bool.false_or]
        cases he : s.entryOf q e with
        | none => rfl
        | some x => exact decide_eq_false (hsat x he)
      show execDrainForward q i s = _
      simp only [execDrainForward, show (s.clusterAt q).drainQ[i]? = some e from he, hl]
      exact if_neg (Bool.eq_false_iff.1 hopen)

end Sys2Proof.Machine

namespace Sys2Proof.Machine

/-! ## Routers (R57–R60, R304–R307, R409, R410) -/

/-- Settles O53: each event of the mesh and of the transport by its branches. -/
theorem routersAndTransport : Obligations.RoutersAndTransport := by
  unfold Obligations.RoutersAndTransport
  refine ⟨fun s r p i out slot d circ f a hops x fs ks => ?_, fun s t q i j k a x pkt rest cs => ?_⟩
  · intro l field_ u on
    refine ⟨fun hsel => ?_, fun hl => ?_, fun hfl hat hfrom hready hslot => ?_, fun hready hheld => ?_, fun hstop hfull => ?_,
      fun hfull => if_neg (Bool.eq_false_iff.1 hfull), fun ⟨hidx, hget, hrel, hroute, hstop⟩ hhop => ?_,
      fun ⟨hidx, hget, hrel, hroute, hstop⟩ hhop => ?_⟩
    · simp only [l] at hsel
      show execRouterForward r s = _
      simp only [execRouterForward, hsel, l]
    · simp only [l] at hl
      show execRouterForward r s = _
      simp only [execRouterForward, hl, List.getElem?_nil]
    · show execCircuitFlit r p s = _
      simp only [execCircuitFlit, hfl, List.findSome?_cons, hat, hfrom, hready, decide_true, Bool.and_self, if_true, hslot]
      rfl
    · simp only [slotMove, hready, hheld, Bool.false_eq_true, if_false, u]
    · simp only [State.circuitHop, hstop, hfull, Bool.false_eq_true, if_false]
    · show execAddressedRoute r s = _
      simp only [execAddressedRoute, hidx, hget, hrel, Bool.false_eq_true, if_false, State.moveAddressed, hroute, hhop, hstop]
    · show execAddressedRoute r s = _
      simp only [execAddressedRoute, hidx, hget, hrel, Bool.false_eq_true, if_false, State.moveAddressed, hroute, hhop, hstop]
  · intro c acked
    refine ⟨fun ha hat hj hx hheld => ?_, fun ha hat hj => ?_, fun r b goal ha hat hgoal hstale => ?_, fun hk hheld hdue => ?_,
      fun hk hdue => ?_, fun hp ht => ?_, fun r hr hgone hdue hopen => ?_, fun hc htag => ?_, fun y hc htag hbd hy hbad hcs => ?_,
      fun y hy hpub hkept hdue => ?_⟩
    · show execAcknowledgement i s = _
      simp only [execAcknowledgement, ha, hat, State.ackDirect, hj, hx, hheld, State.settleKept, Bool.false_eq_true, if_false, acked]
    · show execAcknowledgement i s = _
      simp only [execAcknowledgement, ha, hat, State.ackDirect, hj, acked]
    · show execAcknowledgement i s = _
      simp only [execAcknowledgement, ha, hat, hgoal, hstale, Bool.false_eq_true, if_false]
    · show execResendTimeout i s = _
      simp only [execResendTimeout, hk, hheld, Nat.not_lt.2 hdue, decide_false, Bool.or_self, Bool.false_eq_true, if_false]
    · show execResendTimeout i s = _
      simp only [execResendTimeout, hk, hdue, decide_true, Bool.or_true, if_true]
    · show execRendezvousRetain q s = _
      simp only [execRendezvousRetain, show (s.clusterAt q).pubs = (k, pkt) :: rest from hp, ht]
    · show execRetainExpiry q i s = _
      simp only [execRetainExpiry, show (s.clusterAt q).retained[i]? = some r from hr, hgone, hopen]
      exact if_neg (by simpa using hdue)
    · show execContributionArrival q s = _
      simp only [execContributionArrival, show (s.clusterAt q).contribs = pkt :: cs from hc, htag, Bool.true_or, if_true]
    · have hcomb : ((s.modCluster q fun c => { c with contribs := cs }).clusterAt q).combineOf pkt.part pkt.name = some y := by
        rw [State.clusterAt_modCluster_self]
        exact hy
      show execContributionArrival q s = _
      simp only [execContributionArrival, show (s.clusterAt q).contribs = pkt :: cs from hc, htag, hbd, Bool.or_self,
        Bool.false_eq_true, if_false, hcomb, hbad, Bool.false_and, Option.isNone_eq_false_iff.2 hcs]
    · show execCombineBitmapExpiry q i s = _
      simp only [execCombineBitmapExpiry, show (s.clusterAt q).combines[i]? = some y from hy, hpub, hkept]
      exact if_pos (by simpa using hdue)

end Sys2Proof.Machine

namespace Sys2Proof.Machine

/-! ## Bit fields of a word -/

/-- A number with one bit field replaced, as the parts above, at and below the field. -/
theorem replaced_eq (x v lo w : Nat) :
    x - x / 2 ^ lo % 2 ^ w * 2 ^ lo + v % 2 ^ w * 2 ^ lo = 2 ^ lo * (2 ^ w * (x / 2 ^ lo / 2 ^ w) + v % 2 ^ w) + x % 2 ^ lo := by
  have hx := Nat.div_add_mod x (2 ^ lo)
  have hf := Nat.div_add_mod (x / 2 ^ lo) (2 ^ w)
  have hall : x = 2 ^ lo * (2 ^ w * (x / 2 ^ lo / 2 ^ w)) + x / 2 ^ lo % 2 ^ w * 2 ^ lo + x % 2 ^ lo := by
    conv_lhs => rw [← hx, ← hf]
    ring
  have hsub : x - x / 2 ^ lo % 2 ^ w * 2 ^ lo = 2 ^ lo * (2 ^ w * (x / 2 ^ lo / 2 ^ w)) + x % 2 ^ lo := by omega
  rw [hsub]; ring

/-- The bits of a number with one bit field replaced. -/
theorem testBit_replaced (x v lo w i : Nat) :
    (x - x / 2 ^ lo % 2 ^ w * 2 ^ lo + v % 2 ^ w * 2 ^ lo).testBit i =
      if lo ≤ i ∧ i < lo + w then v.testBit (i - lo) else x.testBit i := by
  rw [replaced_eq, Nat.testBit_two_pow_mul_add _ (Nat.mod_lt x (Nat.two_pow_pos lo)),
    Nat.testBit_two_pow_mul_add _ (Nat.mod_lt v (Nat.two_pow_pos w))]
  simp only [Nat.testBit_mod_two_pow, Nat.testBit_div_two_pow]
  by_cases hlo : i < lo
  · simp [hlo, Nat.not_le.2 hlo]
  · by_cases hw : i - lo < w
    · simp [hlo, hw, Nat.not_lt.1 hlo, show i < lo + w by omega]
    · simp [hlo, hw, show ¬ i < lo + w by omega, show i - lo - w + w + lo = i by omega]

/-- A bit of a word whose field is replaced. -/
theorem bitOf_setField {n i : Nat} (x : BitVec n) (lo w v : Nat) (hi : i < n) :
    bitOf (setField x lo w v) i = if lo ≤ i ∧ i < lo + w then v.testBit (i - lo) else bitOf x i := by
  simp only [bitOf, setField, field, BitVec.getLsbD_ofNat, decide_eq_true hi, Bool.true_and, testBit_replaced]
  rfl

/-- The bits of a field are those of its word. -/
theorem testBit_field {n : Nat} (x : BitVec n) (lo w i : Nat) : (field x lo w).testBit i = (decide (i < w) && bitOf x (lo + i)) := by
  simp only [field, Nat.testBit_mod_two_pow, Nat.testBit_div_two_pow, bitOf, BitVec.getLsbD, Nat.add_comm lo]

/-- A field apart from the one replaced keeps its value. -/
theorem field_setField_apart {n lo w v lo' w' : Nat} (x : BitVec n) (hin : lo' + w' ≤ n) (h : lo' + w' ≤ lo ∨ lo + w ≤ lo') :
    field (setField x lo w v) lo' w' = field x lo' w' := by
  apply Nat.eq_of_testBit_eq
  intro i
  rw [testBit_field, testBit_field]
  by_cases hi : i < w'
  · rw [bitOf_setField x lo w v (by omega), if_neg (by omega)]
  · simp [hi]

/-- The field replaced holds its new value. -/
theorem field_setField_same {n lo w v : Nat} (x : BitVec n) (hin : lo + w ≤ n) (hv : v < 2 ^ w) :
    field (setField x lo w v) lo w = v := by
  apply Nat.eq_of_testBit_eq
  intro i
  rw [testBit_field]
  by_cases hi : i < w
  · rw [bitOf_setField x lo w v (by omega), if_pos (by omega), decide_eq_true hi, Nat.add_sub_cancel_left, Bool.true_and]
  · rw [decide_eq_false hi, Bool.false_and,
      Nat.testBit_lt_two_pow (hv.trans_le (Nat.pow_le_pow_right (by decide) (Nat.not_lt.1 hi)))]

theorem testBit_toNat_zero (b : Bool) : b.toNat.testBit 0 = b := by cases b <;> rfl

/-! ## The partition's registers (R85, R312, R313, R320) -/

/-- The low bits of PART.HOLD are the three holds. -/
theorem holdWord_bits (s : State) (p : Nat) : bitOf (s.holdWord p) 0 = (s.partAt p).holdNamed ∧
    bitOf (s.holdWord p) 1 = (s.partAt p).holdCirc ∧ bitOf (s.holdWord p) 2 = (s.partAt p).holdStr := by
  have bits : ∀ a b c d e f : Bool,
      let w : Word := BitVec.ofNat 64 (a.toNat + b.toNat * 2 + c.toNat * 4 + d.toNat * 2 ^ 8 + e.toNat * 2 ^ 9 + f.toNat * 2 ^ 10)
      bitOf w 0 = a ∧ bitOf w 1 = b ∧ bitOf w 2 = c := by decide
  exact bits ..

/-- A root whose valid bit is written clear is clear. -/
theorem rootFields_clear {v : Word} (h : bitOf v 0 = false) : bitOf (rootFields v) 0 = false := by
  have hlow : field v 0 1 = 0 := by
    have hb := testBit_field v 0 1 0
    rw [Nat.zero_add, h, Bool.and_false, Nat.testBit_zero, decide_eq_false_iff_not] at hb
    have : field v 0 1 < 2 := Nat.mod_lt _ (by decide)
    omega
  rw [rootFields, hlow, bitOf, BitVec.getLsbD_ofNat, Nat.add_zero, Nat.testBit_mul_two_pow]
  rfl

/-- PART.LOAD written with operation k of Table 21·14, while no load is in progress. -/
theorem writeLoad_starts {s : State} {p k : Nat} {v : Word} (hk : k < 16) (hk0 : k ≠ 0) (hbusy : (s.partAt p).loadBusy = false)
    (hres : field v 56 7 = 0) : s.writeLoad p (setField v 44 4 k) = s.setPart p { s.partAt p with
      loadBusy := true, load := { op := k, tslot := field v 40 4, pa := field v 0 40 * 4096 } } := by
  simp only [State.writeLoad, State.modPart, hbusy, Bool.false_eq_true, if_false, field_setField_same v (show 44 + 4 ≤ 64 by decide) hk,
    field_setField_apart v (show 56 + 7 ≤ 64 by decide) (.inr (show 44 + 4 ≤ 56 by decide)),
    field_setField_apart v (show 40 + 4 ≤ 64 by decide) (.inl (show 40 + 4 ≤ 44 by decide)),
    field_setField_apart v (show 0 + 40 ≤ 64 by decide) (.inl (show 0 + 40 ≤ 44 by decide)),
    hres, ne_eq, not_true_eq_false, decide_false, Bool.false_and, hk0, not_false_eq_true, decide_true]

/-- Settles O55: each register by its fields, PART.HOLD and PART.LOAD by the bits that their words hold. -/
theorem partitionRegisters : Obligations.PartitionRegisters := by
  unfold Obligations.PartitionRegisters
  intro s t p i q r v on x w kept
  obtain ⟨h0, h1, h2⟩ := holdWord_bits s p
  have hold : ∀ k n, k < 3 → ∀ j, j < 3 → bitOf (setField w k 1 n) j = if j = k then n.testBit 0 else bitOf w j := by
    intro k n hk j hj
    rw [bitOf_setField w k 1 n (by omega)]
    by_cases hjk : j = k
    · subst hjk; simp
    · rw [if_neg (by omega), if_neg hjk]
  have written : ∀ k, k < 3 → s.writeHold p (setField w k 1 on.toNat) = s.modPart p fun y => { y with
      holdNamed := if 0 = k then on else x.holdNamed, holdCirc := if 1 = k then on else x.holdCirc
      holdStr := if 2 = k then on else x.holdStr } := by
    intro k hk
    simp only [State.writeHold, hold k _ hk 0 (by decide), hold k _ hk 1 (by decide), hold k _ hk 2 (by decide), testBit_toNat_zero,
      w, h0, h1, h2, x]
  refine ⟨congrArg _ (written 0 (by decide)), congrArg _ (written 1 (by decide)), congrArg _ (written 2 (by decide)), h0, h1, h2,
    fun hheld hquiet hret htime hlim => ?_, fun hlim => ?_, fun hv => ?_, rfl, rfl, fun hst => ?_, fun k hk hst hkb => ?_, rfl,
    fun hv => ?_, rfl, fun hb hres => ⟨?_, ?_, ?_⟩, fun hb => ?_, fun hb hop hld => ?_⟩
  · show Host.Outcome.next (s.writeNetCfg p v) = _
    rw [State.writeNetCfg, show (s.partAt p).holdNamed = true from hheld, hquiet]
    exact congrArg _ (if_neg (by simp; omega))
  · show Host.Outcome.next (s.writeNetCfg p v) = _
    rw [State.writeNetCfg, hlim]
    exact congrArg _ (if_pos (by simp))
  · show Host.Outcome.next (s.writeRoot p (i % 16) v) = _
    rw [State.writeRoot, rootFields_clear hv]
    rfl
  · show Host.Outcome.next (s.modPart p fun y => y.selectKey v true) = _
    simp only [State.modPart, Part.selectKey, show (Table.get {} (s.partAt p).keys (field v 0 8)).state = 1 from hst, x]
    rfl
  · show execKeySlotEmpty p i s = _
    simp only [execKeySlotEmpty, show Table.find (s.partAt p).keys i = some k from hk, hst, hkb]
    rfl
  · show Host.Outcome.next (s.writeStage q v) = _
    exact congrArg _ (if_neg (by omega))
  · exact congrArg _ (writeLoad_starts (by decide) (by decide) hb hres)
  · exact congrArg _ (writeLoad_starts (by decide) (by decide) hb hres)
  · exact congrArg _ (writeLoad_starts (by decide) (by decide) hb hres)
  · show Host.Outcome.next (s.writeLoad p _) = _
    simp only [State.writeLoad, State.modPart, show (s.partAt p).loadBusy = true from hb, if_true, x]
  · show execPartLoadDone p s = _
    simp only [execPartLoadDone, show (s.partAt p).loadBusy = true from hb, show (s.partAt p).load.op = 1 from hop,
      show s.loadDescs p (s.partAt p).load = (t, r) from hld]
    rfl

end Sys2Proof.Machine

namespace Sys2Proof.Machine

/-! ## Queues of the management window (R308–R310, R427, R440) -/

/-- A queue is taken out of service: what R308 asks of an enabled one is not asked. -/
theorem writeHqCfg_disables {s : State} {p i : Nat} {v : Word} (hw : s.inWindow p i = true) (hen : bitOf v 63 = false)
    (hsl : bitOf v 62 = false) : s.writeHqCfg p i v = (s.setHq p i { s.hqAt p i with
      en := false, slice := false, logn := field v 58 4, base := field v 6 51 * 2 ^ 6
      held := (s.hqAt p i).held && !bitOf v 57 }).drainAll p i := by
  simp only [State.writeHqCfg, hw, hen, hsl, Bool.not_true, Bool.false_and, Bool.or_self, Bool.false_eq_true, if_false]

/-- The doorbell of a queue in memory shows it the entries behind its tail. -/
theorem writeHqTail_accepts {s : State} {p i : Nat} {v : Word} (hw : s.inWindow p i = true) (hen : (s.hqAt p i).en = true)
    (hsl : (s.hqAt p i).slice = false) (hcap : (field v 0 32 + 2 ^ 32 - (s.hqAt p i).head) % 2 ^ 32 ≤ (s.hqAt p i).cap)
    (hmore : (s.hqAt p i).count < (field v 0 32 + 2 ^ 32 - (s.hqAt p i).head) % 2 ^ 32) :
    s.writeHqTail p i v = (s.setHq p i { s.hqAt p i with tail := field v 0 32 }).queueTurned p i ((s.hqAt p i).count = 0) := by
  simp only [State.writeHqTail, hw, hen, hsl, Bool.not_true, Bool.false_eq_true, if_false, Bool.false_or]
  rw [if_neg (by simp; omega), if_neg (by omega)]
  rfl

/-- A queue that is not enabled counts the write that it ignores. -/
theorem writeHqTail_ignores {s : State} {p i : Nat} {v : Word} (hw : s.inWindow p i = true) (hen : (s.hqAt p i).en = false) :
    s.writeHqTail p i v = s.ignoreHq p i := by
  simp only [State.writeHqTail, hw, hen, Bool.not_true, Bool.not_false, Bool.true_or, Bool.false_eq_true, if_false, if_true]

theorem writeHqHead_ignores {s : State} {p i : Nat} {v : Word} (hw : s.inWindow p i = true) (hen : (s.hqAt p i).en = false) :
    s.writeHqHead p i v = s.ignoreHq p i := by
  simp only [State.writeHqHead, hw, hen, Bool.not_true, Bool.not_false, Bool.true_or, Bool.false_eq_true, if_false, if_true]

/-- HEAD of a queue in memory moves; a queue with entries left turns non-empty as after any entry. -/
theorem writeHqHead_moves {s : State} {p i : Nat} {v : Word} (hw : s.inWindow p i = true) (hen : (s.hqAt p i).en = true)
    (hsl : (s.hqAt p i).slice = false) (hcap : ((s.hqAt p i).tail + 2 ^ 32 - field v 0 32) % 2 ^ 32 ≤ (s.hqAt p i).cap) :
    s.writeHqHead p i v =
      if ((s.hqAt p i).tail + 2 ^ 32 - field v 0 32) % 2 ^ 32 = 0
      then (s.setHq p i { s.hqAt p i with head := field v 0 32 }).drainAll p i
      else ((s.setHq p i { s.hqAt p i with head := field v 0 32 }).drainAll p i).queueTurned p i ((s.hqAt p i).count = 0) := by
  simp only [State.writeHqHead, State.moveHead, hw, hen, hsl, Bool.not_true, Bool.not_false, Bool.false_eq_true, if_false, if_true,
    Bool.false_or, decide_eq_true_eq]
  exact if_neg (by omega)

/-! ## The record port (R22–R24, R441) -/

/-- The states that Table 3·2 does not give. -/
theorem refused_iff {x : Rec} : (x.resv ≠ 0 || !stateKnown x.st) = true ↔ x.resv ≠ 0 ∨ x.st = 0 ∨ 8 < x.st := by
  simp only [stateKnown, Bool.or_eq_true, decide_eq_true_eq, Bool.not_eq_true', Bool.and_eq_false_iff, decide_eq_false_iff_not]
  exact or_congr_right (or_congr (by omega) (by omega))

/-- A doubleword written to a record that no core runs. -/
theorem writeRec_waiting {s : State} {p i : Nat} {v : Word} {r : Rec} (hr : s.portRec p = some r) (hrun : s.runnerOf r.addr = none) :
    s.writeRec p i v = (if i % 8 = 7 then s.zeroNrep (r.put (i % 8) v) else s).putRec (r.put (i % 8) v) := by
  simp only [State.writeRec, hr, show s.runnerOf (r.put (i % 8) v).addr = none from hrun]

/-- A doubleword written to a record that core k runs: refused, or taken by the task there. -/
theorem writeRec_running {s : State} {p i k : Nat} {v : Word} {r : Rec} (hr : s.portRec p = some r)
    (hrun : s.runnerOf r.addr = some k) :
    s.writeRec p i v = s.modCore k fun c =>
      if (r.put (i % 8) v).resv ≠ 0 ∨ (r.put (i % 8) v).st = 0 ∨ 8 < (r.put (i % 8) v).st then
        { c with doom := some (recordFault, 0), pre := .supervisor }
      else { c with task := { c.task with st := (r.put (i % 8) v).st, prio := (r.put (i % 8) v).prio, pc := (r.put (i % 8) v).pc,
                                          scm := (r.put (i % 8) v).scm, jump := (r.put (i % 8) v).jump } } := by
  simp only [State.writeRec, hr, show s.runnerOf (r.put (i % 8) v).addr = some k from hrun]
  by_cases hbad : (r.put (i % 8) v).resv ≠ 0 ∨ (r.put (i % 8) v).st = 0 ∨ 8 < (r.put (i % 8) v).st
  · exact (if_pos (refused_iff.2 hbad)).trans (congrArg _ (funext fun c => (if_pos hbad).symm))
  · exact (if_neg (mt refused_iff.1 hbad)).trans (congrArg _ (funext fun c => (if_neg hbad).symm))

/-! ## Core windows (R147, R148) -/

/-- No core of the partition has the window. -/
theorem coreWindowWrite_noCore {s : State} {p a : Nat} {v : Word} (ha : windowOffset a % 8 = 0) (hc : s.windowCore p a 8 = none) :
    execCoreWindowWrite p a v s = .next (s.windowFault p a) := by
  simp only [execCoreWindowWrite, ha, hc, ne_eq, not_true_eq_false, if_false]

/-- The window of core c takes, refuses or holds a doubleword. -/
theorem coreWindowWrite_core {s : State} {p a c : Nat} {v : Word} (ha : windowOffset a % 8 = 0) (hc : s.windowCore p a 8 = some c) :
    execCoreWindowWrite p a v s =
      if windowOffset a = efaultOffset then .next (s.writeEfault c v)
      else if (s.coreAt c).busy then .next (s.windowFault p a)
      else if s.windowHeld c then .next s
      else .next (s.modCore c fun c => c.windowPut (windowOffset a) v) := by
  simp only [execCoreWindowWrite, ha, hc, ne_eq, not_true_eq_false, if_false]

/-- Settles O56: each register by the branch that its write takes. -/
theorem managementRegisters : Obligations.ManagementRegisters := by
  unfold Obligations.ManagementRegisters
  intro s p i w a v port q n left mine clear off
  refine ⟨fun hw hen hsl => congrArg _ (writeHqCfg_disables hw hen hsl), fun hclear hw hen hsl hcap hmore => ?_,
    fun hclear hw hen => ?_, fun hbusy => ⟨if_neg (Bool.eq_false_iff.1 hbusy), if_neg (Bool.eq_false_iff.1 hbusy)⟩,
    fun hw hen => congrArg _ (writeHqHead_ignores hw hen), fun hw hen hsl hcap => congrArg _ (writeHqHead_moves hw hen hsl hcap),
    fun hw => ?_, fun hw => ?_, fun hformed => if_pos hformed, fun hnone => ?_,
    fun r hr hrun => ?_, fun r k hr hrun => ?_,
    fun ha hc => ?_, fun c ha hc => ⟨fun hoff => ?_, fun hoff hbusy => ?_, fun hoff hbusy hheld => ?_⟩,
    rfl, rfl, rfl, fun c => ⟨rfl, rfl⟩, fun hint hq0 hq32 => ?_, fun hlo hhi => ?_, fun hhi => ?_, fun hclear => ?_, fun ha => ?_⟩
  · exact (if_pos hclear).trans (congrArg _ (writeHqTail_accepts hw hen hsl hcap hmore))
  · exact (if_pos hclear).trans (congrArg _ (writeHqTail_ignores hw hen))
  · exact congrArg _ (if_neg (by simpa using hw))
  · exact congrArg _ (if_pos (by simp [hw]))
  · show Host.Outcome.next (s.writeRec p i v) = _
    simp only [State.writeRec, hnone]
  · show Host.Outcome.next (s.writeRec p i v) = _
    rw [writeRec_waiting hr hrun]
  · show Host.Outcome.next (s.writeRec p i v) = _
    rw [writeRec_running hr hrun]
  · show execCoreWindowWrite p a v s = _
    exact coreWindowWrite_noCore ha hc
  · show execCoreWindowWrite p a v s = _
    rw [coreWindowWrite_core ha hc]
    exact if_pos hoff
  · show execCoreWindowWrite p a v s = _
    rw [coreWindowWrite_core ha hc]
    exact (if_neg hoff).trans (if_pos hbusy)
  · show execCoreWindowWrite p a v s = _
    rw [coreWindowWrite_core ha hc]
    exact (if_neg hoff).trans ((if_neg (Bool.eq_false_iff.1 hbusy)).trans (if_neg (Bool.eq_false_iff.1 hheld)))
  · exact congrArg _ (if_neg (by simp; omega))
  · exact congrArg _ (if_neg (by simp; omega))
  · exact congrArg _ (if_pos (by simp [hhi]))
  · exact if_pos hclear
  · show (if s.portClear port then Host.Outcome.next (s.writeMgmt a v) else .next s) = _
    rw [State.writeMgmt, if_pos ha, ite_self]

end Sys2Proof.Machine

namespace Sys2Proof.Machine

/-! ## Scores of units (R392) -/

/-- A unit's record after a change of it. -/
theorem State.unitAt_modUnit_self (s : State) (ty no : Nat) (f : UnitState → UnitState) :
    (s.modUnit ty no f).unitAt ty no = f (s.unitAt ty no) := Table.get_set_self ..

/-- A charge adds to the score, up to its limit. -/
theorem State.score_charge (s : State) (ty no n : Nat) :
    ((s.charge ty no n).unitAt ty no).score = min 0xFFFF ((s.unitAt ty no).score + n) := by
  rw [State.charge, State.unitAt_modUnit_self]

/-- A corrected error adds 1 to its unit's score. -/
theorem correctedError_score {s : State} {u : Nat} (hu : u / 2 ^ 20 ≠ 2) : ∃ t : State, exec (.correctedError u) s = .next t ∧
    (t.unitAt (u / 2 ^ 20) (u % 2 ^ 20)).score = min 0xFFFF ((s.unitAt (u / 2 ^ 20) (u % 2 ^ 20)).score + 1) := by
  refine ⟨_, rfl, ?_⟩
  rw [State.unitAt_modUnit_self, if_neg hu, State.score_charge]

/-! ## Reloads of configuration memory (R387, R388) -/

/-- The reload of a region ends: with its digest right and room for the message, with its first failure, or with the second. -/
theorem configReloadDone_found {s : State} {u : Nat} {ok : Bool} {r : Reload}
    (hr : (s.reloads.find? fun x => x.unit = u / 2 ^ 20 && x.no = u % 2 ^ 20) = some r) :
    execConfigReloadDone u ok s =
      let p := s.regionPart (u / 2 ^ 20) (u % 2 ^ 20)
      let rest : State := { s with reloads := s.reloads.erase r }
      if ok && !s.msgOpen p then .next s
      else if ok then
        .next (((rest.reloaded (u / 2 ^ 20) (u % 2 ^ 20)).modCluster (s.regionCluster (u / 2 ^ 20) (u % 2 ^ 20)) fun c =>
          { c with cfgErr := c.cfgErr + 1 }).message p { type := 4, aux := u })
      else if r.fails = 0 then .next { s with reloads := s.reloads.map fun x => if x = r then { x with fails := 1 } else x }
      else .next (rest.fatal p) := by
  simp only [execConfigReloadDone, hr]

/-- Settles O57: each event by the branch that its hypotheses choose. -/
theorem errorsAndReloads : Obligations.ErrorsAndReloads := by
  unfold Obligations.ErrorsAndReloads
  intro s w u p i v b r h rest owner one
  refine ⟨fun hbusy hv => ?_, correctedError_score, fun hu hformed hrel => ?_, fun hone hopen => ?_, fun hone hfails => ?_,
    fun hone hfails => ?_, rfl, fun hformed => ?_, fun hen hsp hheld hbase => ?_⟩
  · exact if_pos (by rw [hbusy, decide_eq_true hv]; rfl)
  · exact if_neg (by
      have hformed : (s.partAt (s.regionPart (u / 2 ^ 20) (u % 2 ^ 20))).formed = true := hformed
      simp only [hformed, hrel]
      simpa using hu)
  · have hopen : s.msgOpen (s.regionPart (u / 2 ^ 20) (u % 2 ^ 20)) = true := hopen
    exact (configReloadDone_found hone).trans ((if_neg (by rw [hopen]; decide)).trans (if_pos rfl))
  · exact (configReloadDone_found hone).trans ((if_neg Bool.false_ne_true).trans ((if_neg Bool.false_ne_true).trans (if_pos hfails)))
  · exact (configReloadDone_found hone).trans ((if_neg Bool.false_ne_true).trans ((if_neg Bool.false_ne_true).trans (if_neg hfails)))
  · show Host.Outcome.next (s.fatal p) = _
    exact congrArg _ (if_pos (by simp [hformed]))
  · exact if_pos (by
      have hheld : (s.hqAt p i).held = false := hheld
      simp only [show (s.hqAt p i).en = true from hen, show (s.hqAt p i).toSpill = true from hsp, hheld]
      simpa using hbase)

end Sys2Proof.Machine

namespace Sys2Proof.Machine

/-! ## Leases (R393–R400) -/

/-- A core that has left its task in PREPARE, and holds a region, goes on to TEST with a spare, or its lease ends. -/
theorem leaseSave_region {s : State} {w : Nat} {g : Nat × Nat × Nat} (hl : (s.coreAt w).lease = .prepare)
    (hb : (s.coreAt w).busy = false) (hg : (s.coreAt w).region = some g) :
    execLeaseSave w s = (s.spareFor w).elim (.next (s.abandonLease 0 w)) fun x =>
      .next ((s.modCore x fun d => d.spadPut 0 ((s.coreAt w).spadGet 0 g.2.2)).modCore w fun c => { c with lease := .test, spare := x }) := by
  simp only [execLeaseSave, hl, hb, hg, ne_eq, not_true_eq_false, decide_false, Bool.or_self, Bool.false_eq_true, if_false]
  cases s.spareFor w <;> rfl

/-- The test of a core ends by its result. -/
theorem leaseTestDone_core {s : State} {u : Nat} (hu : u / 2 ^ 20 = 0) (hl : s.leaseOf 0 (u % 2 ^ 20) = .test) (result : TestResult) :
    execLeaseTestDone u result s =
      if result = .fail then .next ((s.testScored 0 (u % 2 ^ 20) result).retireCore (u % 2 ^ 20) 1)
      else .next ((s.testScored 0 (u % 2 ^ 20) result).corePassed (u % 2 ^ 20)) := by
  simp only [execLeaseTestDone, hu, hl]
  cases result <;> rfl

/-- Settles O58: each event by the branch that its hypotheses choose. -/
theorem siennaLeases : Obligations.SiennaLeases := by
  unfold Obligations.SiennaLeases
  intro s w u x p n q g l c halved link k
  refine ⟨fun hen => ?_, fun hen => ?_, fun hl hb hg hx => ?_, fun hl hb hg hx => ?_, fun hu hl hlev hb hq => ?_,
    fun hl har hcq hlc => ?_, fun hl => if_pos hl, fun hl hown => ?_, fun hu hl => ⟨?_, ?_, ?_⟩, fun hu hserv => ?_,
    fun hserv hn => ?_, fun hserv hn h25 hlo hhi hclk => ?_⟩
  · exact if_pos (by simp [hen])
  · exact if_neg (by simp [hen])
  · exact (leaseSave_region hl hb hg).trans (by rw [hx]; rfl)
  · exact (leaseSave_region hl hb hg).trans (by rw [hx]; rfl)
  · show execLeaseAbandon u s = _
    simp only [execLeaseAbandon, hu, hl, hlev, hb, hq]
    rfl
  · exact if_neg (by
      have har : s.aroundOk (s.routerPart (linkRouter (u % 2 ^ 20))) (linkRouter (u % 2 ^ 20)) (linkPort (u % 2 ^ 20)) = true := har
      have hcq : s.circQuiet (s.routerPart (linkRouter (u % 2 ^ 20))) = true := hcq
      rw [hl, har, hcq, hlc]; decide)
  · exact if_pos (by rw [hl, hown]; decide)
  · exact leaseTestDone_core hu hl .pass
  · exact leaseTestDone_core hu hl .marginal
  · exact leaseTestDone_core hu hl .fail
  · show execOperatorCommand u s = _
    simp only [execOperatorCommand, hu, hserv, if_true]
  · show execMarginPlanChange q n s = _
    simp only [execMarginPlanChange]
    exact (if_neg (by simp [hserv]; omega)).trans (if_pos hn)
  · show execMarginPlanChange q n s = _
    obtain rfl : n = (s.clusterAt q).plan := hn
    simp only [execMarginPlanChange]
    refine (if_neg (by simp [hserv]; omega)).trans ((if_neg (by omega)).trans ((if_neg (by simp [h25])).trans ?_))
    rw [if_pos True.intro, show (s.clusterAt q).clock = (s.clusterAt q).plan from hclk, ite_self]

end Sys2Proof.Machine

namespace Sys2Proof.Machine

/-! ## Greeting (R412) -/

/-- A router after another, or itself, is changed. -/
theorem State.routerAt_modRouter (s : State) (r r' : Nat) (f : Router → Router) :
    (s.modRouter r f).routerAt r' = if r = r' then f (s.routerAt r) else s.routerAt r' := by
  by_cases h : r = r'
  · subst h; rw [if_pos rfl]; exact Table.get_set_self ..
  · rw [if_neg h]; exact Table.get_set_ne _ _ h _

/-- A change of a router's link bits keeps what it has heard of its neighbours. -/
theorem State.nbr_setLink (s : State) (u : Nat) (up : Bool) (r : Nat) : ((s.setLink u up).routerAt r).nbr = (s.routerAt r).nbr := by
  simp only [State.setLink, State.routerAt_modRouter]
  by_cases hfar : linkFar u = r <;> by_cases hnear : linkRouter u = r <;> simp_all [Router.setLink]

/-- The bit of a direction that has passed is set. -/
theorem bitOf_or_dirBit {d : Nat} (hd : d < 4) (x : BitVec 4) : bitOf (x ||| dirBit d) (3 - d) = true := by
  have hbit : ∀ d < 4, (dirBit d).getLsbD (3 - d) = true := by decide
  rw [bitOf, BitVec.getLsbD_or, hbit d hd, Bool.or_true]

/-- A burst that comes whole, to a router without a failure, passes its direction. -/
theorem greetingAnswer_passes {s : State} {r d : Nat} (hd : d < 4) (hmesh : inMesh r d = true)
    (hsent : bitOf (s.routerAt r).sent (3 - d) = true) (hawake : s.awake (neighbour r d) = true)
    (hfine : (s.routerAt (neighbour r d)).failed = false) :
    ∃ t : State, exec (.greetingAnswer r d 64) s = .next t ∧ bitOf (t.routerAt r).nbr (3 - d) = true := by
  let s1 := s.modRouter r fun x => { x with heard := x.heard ||| dirBit d, nbr := x.nbr ||| dirBit d }
  have hs1 : bitOf (s1.routerAt r).nbr (3 - d) = true := by
    rw [State.routerAt_modRouter, if_pos rfl]
    exact bitOf_or_dirBit hd _
  have hexec : exec (.greetingAnswer r d 64) s =
      if bitOf (s1.routerAt (neighbour r d)).heard (3 - oppPort d) && (s1.unitAt 1 (linkUnit r d)).lease ≠ .test &&
        (s1.unitAt 1 (linkUnit r d)).lease ≠ .retired then .next (s1.setLink (linkUnit r d) true) else .next s1 := by
    show execGreetingAnswer r d 64 s = _
    simp only [execGreetingAnswer, decide_eq_true hd, hmesh, hsent, hawake, hfine, Bool.false_eq_true, if_false]
    rfl
  rw [hexec]
  split
  · exact ⟨_, rfl, by rw [State.nbr_setLink]; exact hs1⟩
  · exact ⟨_, rfl, hs1⟩

/-! ## Bring-up (R413, R433) -/

/-- A cluster of a field that runs is not kept from its next stage. -/
theorem stage_open {s : State} {q : Nat} (hq : q < 192) (hrun : s.wafer.stopped.contains (fieldOf q) = false) :
    (s.wafer.stopped.contains (fieldOf q) || decide (192 ≤ q)) = false := by
  rw [hrun, decide_eq_false (Nat.not_le.2 hq)]; rfl

/-! ## Frames of Bolsar (R430, R432) -/

/-- A frame at the head of a port that has its key goes out, or is retried. -/
theorem bolsarFlit_keyed {s : State} {i : Nat} {ok : Bool} {x : Nat × Frame4} (hx : (s.wafer.bolsarOut.find? fun x => x.1 = i) = some x)
    (hi : i ∈ s.wafer.linkKey) : execBolsarFlit i ok s =
      if ok then .next ((s.onWafer fun w => { w with bolsarOut := w.bolsarOut.erase x }).homeFrame x.2) else .next (s.charge 3 i 1) := by
  simp only [execBolsarFlit, hx, List.contains_iff_mem.2 hi, Bool.not_true, Bool.false_eq_true, if_false]

/-- Settles O59: each event by the branch that its hypotheses choose. -/
theorem bringUpAndPower : Obligations.BringUpAndPower := by
  unfold Obligations.BringUpAndPower
  intro s r d q f n i x c stage port
  refine ⟨fun hd hr hmesh hawake => ?_, fun hn => ?_, greetingAnswer_passes, fun hq hrun => ⟨fun hst => ?_, fun hst hgr => ?_,
    fun hst hlost => ?_, fun hst hn => ?_, fun hst => ?_⟩, rfl, fun hcap => ?_, fun hcap hhot => ?_, rfl, fun hhot hst => ?_,
    fun hf hp => ?_, fun hi hseen => ?_, fun hi hkey => ?_, fun hx hi => ⟨?_, fun m hm => ?_, ?_⟩⟩
  · exact if_pos (by simp [hd, hr, hmesh, hawake])
  · exact if_pos (by simp [hn])
  · show execClusterStageAdvance q n s = _
    simp only [execClusterStageAdvance, stage_open hq hrun, show (s.clusterAt q).stage = 0 from hst]
    rfl
  · show execClusterStageAdvance q n s = _
    simp only [execClusterStageAdvance, stage_open hq hrun, show (s.clusterAt q).stage = 1 from hst, hgr]
    rfl
  · show execClusterStageAdvance q n s = _
    simp only [execClusterStageAdvance, stage_open hq hrun, show (s.clusterAt q).stage = 2 from hst, hlost]
    rfl
  · show execClusterStageAdvance q n s = _
    simp only [execClusterStageAdvance, stage_open hq hrun, show (s.clusterAt q).stage = 3 from hst]
    exact if_pos hn
  · show execClusterStageAdvance q 0 s = _
    simp only [execClusterStageAdvance, stage_open hq hrun, show (s.clusterAt q).stage = 3 from hst]
    rfl
  · show execPowerCapStep q n s = _
    simp only [execPowerCapStep, State.modCluster, if_pos (show (s.clusterAt q).cap < n from hcap)]
    rfl
  · show execPowerCapStep q n s = _
    have hcap : n * 100 < (s.clusterAt q).cap * 95 := hcap
    have hceil : max (s.clusterAt q).ceiling 1000 = 1000 := by
      rw [Cluster.ceiling, show (s.clusterAt q).hot = true from hhot]; rfl
    simp only [execPowerCapStep, State.modCluster, if_neg (show ¬ (s.clusterAt q).cap < n by omega), if_pos hcap, hceil]
    rfl
  · show execThermalRelease q s = _
    simp only [execThermalRelease, State.modCluster, if_pos (show (s.clusterAt q).hot = true from hhot),
      if_pos (show (s.clusterAt q).stage = 5 from hst)]
    rfl
  · show execThermalStop f s = _
    simp only [execThermalStop, List.contains_iff_mem, if_neg hf, if_neg (Nat.not_lt.2 hp)]
  · exact if_pos (by simp [hi, hseen])
  · exact if_pos (by simp [hi, hkey])
  · exact bolsarFlit_keyed hx hi
  · exact (bolsarFlit_keyed hx hi).trans (by rw [if_pos rfl, hm]; rfl)
  · exact bolsarFlit_keyed hx hi

end Sys2Proof.Machine

namespace Sys2Proof.Machine

/-! ## PART.FORM (R416, R423) -/

/-- A command in PART.FORM ends with the reason found, and with none has its effect. -/
theorem partFormDone_busy {s : State} (h : s.wafer.formBusy = true) :
    execPartFormDone s =
      let why := s.formReasons s.wafer.formVal (decide (s.wafer.formCmd = 1))
      let s1 := s.onWafer fun w => { w with formBusy := false, formReason := why }
      if why ≠ 0 then .next s1
      else if decide (s.wafer.formCmd = 1) then .next (s1.formPart (formOf s.wafer.formVal))
      else .next (s1.clearPart (formOf s.wafer.formVal).pid false) := by
  simp only [execPartFormDone, h, Bool.not_true, Bool.false_eq_true, if_false]

/-- PART.FORM written while no command is in progress starts operation 1 or 2. -/
theorem writeForm_starts {s : State} {v : Word} {k : Nat} (h : s.wafer.formBusy = false) (hk : k = 1 ∨ k = 2) :
    s.writeForm (setField v 24 2 k) =
      s.onWafer fun w => { w with formVal := setField v 24 2 k, formCmd := k, formBusy := true } := by
  have hop : field (setField v 24 2 k) 24 2 = k := field_setField_same v (by decide) (by omega)
  have hbusy : (decide (k = 1) || decide (k = 2)) = true := by simpa using hk
  simp only [State.writeForm, h, hop, hbusy, Bool.false_eq_true, if_false]

/-! ## Keys (R419, R420) -/

/-- A key-install message is answered, and installs its key when no check refuses it. -/
theorem keyInstall_message {s : State} {i : Nat} {m : List Byte} (hm : s.wafer.spdm[i]? = some m) :
    execKeyInstall i s =
      let s1 := s.onWafer fun w => { w with spdm := removeAt w.spdm i, answers := w.answers ++ [(s.installCheck m).1] }
      let k : KeySlot := ⟨1, numAt m 8 2, numAt m 4 4, (s.installCheck m).2, s.wafer.keyCtr + 1⟩
      if (s.installCheck m).1 ≠ 0 then .next s1
      else .next ((s1.modPart (numAt m 2 1) fun x => { x with keys := Table.set x.keys (numAt m 3 1) k }).onWafer fun w =>
        { w with keyCtr := w.keyCtr + 1 }) := by
  simp only [execKeyInstall, hm]

/-! ## BAR2 (R426, R428) -/

/-- A write through BAR2 that no write of its port stands before is performed. -/
theorem bar2Access_writes {s : State} {i : Nat} {b : Bar2} (hb : s.wafer.bar2[i]? = some b)
    (hup : s.channelsUp (s.wafer.number * 2 ^ 41 + b.addr % 2 ^ 41) (min b.n (2 ^ 41 - b.addr % 2 ^ 41)) 1 = true)
    (hw : b.write = true) (hfirst : ∀ x ∈ s.wafer.bar2.take i, x.write = true → x.port ≠ b.port) :
    execBar2Access i s = .next ((s.onWafer fun w => { w with bar2 := removeAt w.bar2 i }).storeRaw
      (s.wafer.number * 2 ^ 41 + b.addr % 2 ^ 41) (b.data.take (min b.n (2 ^ 41 - b.addr % 2 ^ 41)))) := by
  have hno : ((s.wafer.bar2.take i).any fun x => x.write && x.port = b.port) = false := by
    rw [List.any_eq_false]
    intro x hx hboth
    rw [Bool.and_eq_true, decide_eq_true_eq] at hboth
    exact hfirst x hx hboth.1 hboth.2
  simp only [execBar2Access, hb, hup, hw, hno, Bool.not_true, Bool.and_false, Bool.or_self, Bool.false_eq_true, if_false, if_true]

/-- Settles O60: each command, message and access by its checks. -/
theorem partitionsAndKeys : Obligations.PartitionsAndKeys := by
  unfold Obligations.PartitionsAndKeys
  intro s i v m b w ended answered slot a n
  refine ⟨fun hbusy => ⟨congrArg _ (writeForm_starts hbusy (.inl rfl)), congrArg _ (writeForm_starts hbusy (.inr rfl))⟩,
    fun hbusy => ⟨congrArg _ (if_pos hbusy), congrArg _ (if_pos hbusy)⟩, fun hbusy hcmd hwhy => ?_, fun hbusy hcmd hwhy => ?_,
    fun why hbusy hcmd hwhy hne => ?_, fun hm hbad => ?_, fun hm hgood => ?_, rfl, fun hb hup hw hfirst => bar2Access_writes hb hup hw hfirst⟩
  · refine (partFormDone_busy hbusy).trans ?_
    simp only [show s.wafer.formCmd = 1 from hcmd, decide_true, show s.formReasons s.wafer.formVal true = 0 from hwhy]
    rfl
  · refine (partFormDone_busy hbusy).trans ?_
    have hform : decide (s.wafer.formCmd = 1) = false := by rw [show s.wafer.formCmd = 2 from hcmd]; rfl
    simp only [hform, show s.formReasons s.wafer.formVal false = 0 from hwhy]
    rfl
  · refine (partFormDone_busy hbusy).trans ?_
    simp only [show s.wafer.formCmd = 1 from hcmd, decide_true, show s.formReasons s.wafer.formVal true = why from hwhy]
    exact if_pos hne
  · exact (keyInstall_message hm).trans (if_pos hbad)
  · refine (keyInstall_message hm).trans ?_
    simp only [hgood, answered, slot, w]
    rfl

end Sys2Proof.Machine

namespace Sys2Proof.Machine

/-! ## The canonical form as a predicate (log entry 4)

What keeps the canonical form is proved once for each function of the model that answers a state or a core: the lemma
`State.Canon.f` says so of `State.f`, and a proof is the composition that the function's own body is. -/

/-- Both byte stores of a core are in canonical form. -/
structure Core.Canon (c : Core) : Prop where
  spad : c.spad.wf = true
  wbuf : c.wbuf.wf = true

/-- Every byte store of the machine is in canonical form. -/
structure State.Canon (s : State) : Prop where
  bytes : s.hbm.bytes.wf = true
  core : s.core.Canon
  others : (s.others.all fun e => e.2.memWf) = true

/-- The body of a part leaves every byte store in canonical form. -/
inductive Res.Canon : Res → Prop
  | done {s : State} (h : s.Canon) : Res.Canon (.done s)
  | stay {s : State} (h : s.Canon) : Res.Canon (.stay s)
  | faultIn {s : State} {cause : Nat} {arg : Word} (h : s.Canon) : Res.Canon (.faultIn s cause arg)
  | leave {s : State} (h : s.Canon) : Res.Canon (.leave s)
  | wait : Res.Canon .wait
  | lock : Res.Canon .lock
  | bank : Res.Canon .bank
  | fault {cause : Nat} {arg : Word} : Res.Canon (.fault cause arg)

/-- The state that a step answers, if any, has every byte store in canonical form. -/
inductive CanonNext : Host.Outcome State Fault Refusal → Prop
  | next {s : State} (h : s.Canon) : CanonNext (.next s)
  | fault {f : Fault} : CanonNext (.fault f)
  | refused {r : Refusal} : CanonNext (.refused r)

theorem Core.memWf_iff (c : Core) : c.memWf = true ↔ c.Canon := by
  rw [Core.memWf, Bool.and_eq_true]
  exact ⟨fun ⟨hs, hw⟩ => ⟨hs, hw⟩, fun h => ⟨h.spad, h.wbuf⟩⟩

theorem State.memWf_iff (s : State) : s.memWf = true ↔ s.Canon := by
  rw [State.memWf, Bool.and_eq_true, Bool.and_eq_true, Core.memWf_iff]
  exact ⟨fun ⟨⟨hb, hc⟩, ho⟩ => ⟨hb, hc, ho⟩, fun h => ⟨⟨h.bytes, h.core⟩, h.others⟩⟩

/-! ## Choices and repetitions -/

section
variable {p : Prop} [Decidable p]

theorem State.Canon.ite {s t : State} (h : s.Canon) (g : t.Canon) : State.Canon (if p then s else t) := by split <;> assumption
theorem Core.Canon.ite {c d : Core} (h : c.Canon) (g : d.Canon) : Core.Canon (if p then c else d) := by split <;> assumption
theorem Res.Canon.ite {r q : Res} (h : r.Canon) (g : q.Canon) : Res.Canon (if p then r else q) := by split <;> assumption
theorem CanonNext.ite {o q : Host.Outcome State Fault Refusal} (h : CanonNext o) (g : CanonNext q) : CanonNext (if p then o else q) := by
  split <;> assumption
theorem State.Canon.ite_fst {α : Type} {x y : State × α} (h : x.1.Canon) (g : y.1.Canon) : State.Canon (if p then x else y).1 := by
  split <;> assumption
theorem mem_ite {α : Type} {P : α → Prop} {x y : Option α} (h : ∀ t ∈ x, P t) (g : ∀ t ∈ y, P t) : ∀ t ∈ (if p then x else y), P t := by
  split <;> assumption
theorem Mem.wf_ite {m n : Mem} (h : m.wf = true) (g : n.wf = true) : Mem.wf (if p then m else n) = true := by split <;> assumption

end

theorem mem_none {α : Type} {P : α → Prop} : ∀ t ∈ (none : Option α), P t := nofun
theorem mem_some {α : Type} {P : α → Prop} {x : α} (h : P x) : ∀ t ∈ some x, P t := fun _ ht => Option.some.inj ht ▸ h

theorem mem_map {α β : Type} {P : β → Prop} {f : α → β} {o : Option α} (hf : ∀ a, P (f a)) : ∀ t ∈ o.map f, P t :=
  fun t ht => by obtain ⟨a, _, rfl⟩ := Option.map_eq_some_iff.1 ht; exact hf a
theorem mem_map_of {α β : Type} {P : β → Prop} {Q : α → Prop} {f : α → β} {o : Option α} (h : ∀ a ∈ o, Q a) (hf : ∀ a, Q a → P (f a)) :
    ∀ t ∈ o.map f, P t :=
  fun t ht => by obtain ⟨a, ha, rfl⟩ := Option.map_eq_some_iff.1 ht; exact hf a (h a ha)
theorem mem_bind {α β : Type} {P : β → Prop} {f : α → Option β} {o : Option α} (hf : ∀ a, ∀ t ∈ f a, P t) : ∀ t ∈ o.bind f, P t :=
  fun t ht => by obtain ⟨a, _, ha⟩ := Option.bind_eq_some_iff.1 ht; exact hf a t ha
theorem mem_bind_of {α β : Type} {P : β → Prop} {Q : α → Prop} {f : α → Option β} {o : Option α} (h : ∀ a ∈ o, Q a)
    (hf : ∀ a, Q a → ∀ t ∈ f a, P t) : ∀ t ∈ o.bind f, P t :=
  fun t ht => by obtain ⟨a, ha, hta⟩ := Option.bind_eq_some_iff.1 ht; exact hf a (h a ha) t hta
theorem mem_findSome {α β : Type} {P : β → Prop} {f : α → Option β} {l : List α} (hf : ∀ a, ∀ t ∈ f a, P t) :
    ∀ t ∈ l.findSome? f, P t :=
  fun t ht => by obtain ⟨a, _, ha⟩ := List.exists_of_findSome?_eq_some ht; exact hf a t ha
theorem mem_foldl {α β : Type} {P : β → Prop} {f : Option β → α → Option β} {o : Option β} {l : List α} (h : ∀ t ∈ o, P t)
    (hf : ∀ o, (∀ t ∈ o, P t) → ∀ a, ∀ t ∈ f o a, P t) : ∀ t ∈ l.foldl f o, P t :=
  List.foldlRecOn l f (motive := fun o => ∀ t ∈ o, P t) h fun o ho a _ => hf o ho a

theorem State.Canon.pair {α : Type} {s : State} {a : α} (h : s.Canon) : (s, a).1.Canon := h
theorem State.Canon.next {s : State} (h : s.Canon) : CanonNext (.next s) := CanonNext.next h

theorem State.Canon.foldl {α : Type} {f : State → α → State} {s : State} {l : List α} (h : s.Canon)
    (hf : ∀ t, t.Canon → ∀ a, (f t a).Canon) : (l.foldl f s).Canon :=
  List.foldlRecOn l f h fun t ht a _ => hf t ht a

theorem State.Canon.foldl_fst {α β : Type} {f : State × β → α → State × β} {x : State × β} {l : List α} (h : x.1.Canon)
    (hf : ∀ y, y.1.Canon → ∀ a, (f y a).1.Canon) : (l.foldl f x).1.Canon :=
  List.foldlRecOn l f (motive := fun y => y.1.Canon) h fun t ht a _ => hf t ht a

theorem Core.Canon.foldl {α : Type} {f : Core → α → Core} {c : Core} {l : List α} (h : c.Canon)
    (hf : ∀ d, d.Canon → ∀ a, (f d a).Canon) : (l.foldl f c).Canon :=
  List.foldlRecOn l f h fun d hd a _ => hf d hd a

theorem State.Canon.elim {α : Type} {o : Option α} {s : State} {f : α → State} (h : s.Canon) (hf : ∀ a, (f a).Canon) :
    (o.elim s f).Canon := by cases o <;> simp_all

theorem State.Canon.getD {o : Option State} {s : State} (ho : ∀ t ∈ o, t.Canon) (h : s.Canon) : (o.getD s).Canon := by
  cases o with
  | none => exact h
  | some t => exact ho t rfl

/-! ## Cores (R147, log entry 1) -/

theorem reset_canon : Core.reset.Canon := ⟨rfl, rfl⟩
theorem fresh_canon {w : Nat} : (Core.fresh w).Canon := ⟨rfl, rfl⟩

theorem State.Canon.coreAt {s : State} {w : Nat} (h : s.Canon) : (s.coreAt w).Canon :=
  .ite h.core ((Core.memWf_iff _).1 (Table.all_get h.others rfl w))

theorem State.Canon.setCore {s : State} {w : Nat} {c : Core} (h : s.Canon) (hc : c.Canon) : (s.setCore w c).Canon :=
  .ite ⟨h.bytes, hc, h.others⟩ ⟨h.bytes, h.core, Table.all_set h.others w ((Core.memWf_iff c).2 hc)⟩

theorem State.Canon.focus {s : State} {w : Nat} (h : s.Canon) : (s.focus w).Canon :=
  .ite h ⟨h.bytes, (Core.memWf_iff _).1 (Table.all_get h.others rfl w),
    Table.all_drop (Table.all_set h.others s.cur ((Core.memWf_iff _).2 h.core)) w⟩

/-- A change of every other core by one that keeps the canonical form. -/
theorem others_map {t : Table Core} {g : Nat × Core → Nat × Core} (h : (t.all fun e => e.2.memWf) = true)
    (hg : ∀ e, e.2.Canon → (g e).2.Canon) : ((t.map g).all fun e => e.2.memWf) = true := by
  rw [List.all_eq_true] at h ⊢
  intro e he
  obtain ⟨d, hd, rfl⟩ := List.mem_map.1 he
  exact (Core.memWf_iff _).2 (hg _ ((Core.memWf_iff _).1 (h d hd)))

/-! ## DRAM (R334) -/

theorem Mem.wf_dramPut {m : Mem} {gran pa : Nat} {bs : List Byte} (h : m.wf = true) : (m.dramPut gran pa bs).wf = true := by
  unfold Mem.dramPut
  split
  · exact List.foldlRecOn _ _ (motive := fun m : Mem => m.wf = true) h fun m hm p _ => Mem.wf_write hm ..
  · exact Mem.wf_write h ..

end Sys2Proof.Machine

namespace Sys2Proof.Machine

/-! ## The functions of `Machine/Base` keep the canonical form -/

theorem State.Canon.modCore {s w f} (h : State.Canon s) (hf : ∀ t, Core.Canon t → Core.Canon (f t)) :
    State.Canon (State.modCore s w f) :=
  h.setCore (hf _ h.coreAt)
theorem State.Canon.setCluster {s q c} (h : State.Canon s) : State.Canon (State.setCluster s q c) :=
  ⟨h.bytes, h.core, h.others⟩
theorem State.Canon.modCluster {s q f} (h : State.Canon s) : State.Canon (State.modCluster s q f) := h.setCluster
theorem State.Canon.setRouter {s r x} (h : State.Canon s) : State.Canon (State.setRouter s r x) :=
  ⟨h.bytes, h.core, h.others⟩
theorem State.Canon.modRouter {s r f} (h : State.Canon s) : State.Canon (State.modRouter s r f) := h.setRouter
theorem State.Canon.setPart {s p x} (h : State.Canon s) : State.Canon (State.setPart s p x) :=
  ⟨h.bytes, h.core, h.others⟩
theorem State.Canon.modPart {s p f} (h : State.Canon s) : State.Canon (State.modPart s p f) := h.setPart
theorem State.Canon.onCore {s f} (h : State.Canon s) (hf : ∀ t, Core.Canon t → Core.Canon (f t)) :
    State.Canon (State.onCore s f) :=
  ⟨h.bytes, hf _ h.core, h.others⟩
theorem State.Canon.onEng {s f} (h : State.Canon s) : State.Canon (State.onEng s f) := by
  unfold State.onEng
  refine ⟨h.bytes, ?_, h.others⟩
  extract_lets +onlyGivenNames x
  have hx : Core.Canon x := h.core
  exact ⟨hx.spad, hx.wbuf⟩
theorem State.Canon.onWafer {s f} (h : State.Canon s) : State.Canon (State.onWafer s f) := ⟨h.bytes, h.core, h.others⟩
theorem State.Canon.modLaunch {s p l f} (h : State.Canon s) : State.Canon (State.modLaunch s p l f) := h.modPart
theorem Core.Canon.touch {c k l} (hc : Core.Canon c) : Core.Canon (Core.touch c k l) := ⟨hc.spad, hc.wbuf⟩
theorem Core.Canon.writeLoc {c k lat l v} (hc : Core.Canon c) : Core.Canon (Core.writeLoc c k lat l v) :=
  ⟨hc.spad, hc.wbuf⟩
theorem Core.Canon.writeOpt {c k lat l v} (hc : Core.Canon c) : Core.Canon (Core.writeOpt c k lat l v) := by
  unfold Core.writeOpt
  split
  · exact hc
  · exact hc.writeLoc
theorem Core.Canon.writeS {c k lat i v} (hc : Core.Canon c) : Core.Canon (Core.writeS c k lat i v) := hc.writeOpt
theorem Core.Canon.writeP {c k lat i v} (hc : Core.Canon c) : Core.Canon (Core.writeP c k lat i v) := hc.writeOpt
theorem Core.Canon.writeV {c k lat i v} (hc : Core.Canon c) : Core.Canon (Core.writeV c k lat i v) := hc.writeLoc
theorem Core.Canon.writeM {c k lat i v} (hc : Core.Canon c) : Core.Canon (Core.writeM c k lat i v) := hc.writeOpt
theorem Core.Canon.writeN {c lat i v} (hc : Core.Canon c) : Core.Canon (Core.writeN c lat i v) := hc.writeLoc
theorem Core.Canon.await {c k lat l} (hc : Core.Canon c) : Core.Canon (Core.await c k lat l) := by
  unfold Core.await
  split
  · exact hc
  · refine .ite hc.touch ?_
    extract_lets +onlyGivenNames x
    have hx : Core.Canon x := hc.touch
    exact ⟨hx.spad, hx.wbuf⟩
theorem Core.Canon.land {c l v} (hc : Core.Canon c) : Core.Canon (Core.land c l v) := by
  unfold Core.land
  split
  · exact hc
  · exact ⟨hc.spad, hc.wbuf⟩

/-! ## The functions of `Machine/Flags` keep the canonical form -/

theorem Core.Canon.mature {c n} (hc : Core.Canon c) : Core.Canon (Core.mature c n) := ⟨hc.spad, hc.wbuf⟩
theorem Core.Canon.landFlags {c e} (hc : Core.Canon c) : Core.Canon (Core.landFlags c e) := ⟨hc.spad, hc.wbuf⟩
theorem Core.Canon.settleFmt {c} (hc : Core.Canon c) : Core.Canon (Core.settleFmt c) := ⟨hc.spad, hc.wbuf⟩
theorem Core.Canon.raise {c lat f} (hc : Core.Canon c) : Core.Canon (Core.raise c lat f) := .ite hc ⟨hc.spad, hc.wbuf⟩
theorem Core.Canon.raiseNow {c f} (hc : Core.Canon c) : Core.Canon (Core.raiseNow c f) := hc.raise
theorem Core.Canon.setSrnd {c x} (hc : Core.Canon c) : Core.Canon (Core.setSrnd c x) := ⟨hc.spad, hc.wbuf⟩

/-! ## The functions of `Machine/Dram` keep the canonical form -/

theorem State.Canon.chosen {s n} (h : State.Canon s) : State.Canon (State.chosen s n) :=
  .ite h ⟨h.bytes, h.core, h.others⟩
theorem State.Canon.readPa {s pa n gran key} (h : State.Canon s) : State.Canon (State.readPa s pa n gran key).1 :=
  .ite_fst h (.ite_fst h (State.Canon.pair ⟨h.bytes, h.core, h.others⟩))
theorem State.Canon.writePa {s pa bs gran key} (h : State.Canon s) : State.Canon (State.writePa s pa bs gran key) :=
  ⟨Mem.wf_ite (Mem.wf_dramPut h.bytes)
    (List.foldlRecOn _ _ (motive := fun m : Mem => m.wf = true) h.bytes fun _ hm _ _ => Mem.wf_dramPut hm), h.core,
        h.others⟩
theorem State.Canon.readG64 {s pa n} (h : State.Canon s) : State.Canon (State.readG64 s pa n).1 := h.readPa
theorem State.Canon.writeG64 {s pa bs} (h : State.Canon s) : State.Canon (State.writeG64 s pa bs) := h.writePa

/-! ## The functions of `Machine/Xlat` keep the canonical form -/

theorem State.Canon.readPte {s a} (h : State.Canon s) : State.Canon (State.readPte s a).1 := by
  unfold State.readPte
  extract_lets +onlyGivenNames r
  have hr : State.Canon r.1 := h.readG64
  exact hr
theorem State.Canon.walkFrom {s va level table} (h : State.Canon s) :
    State.Canon (State.walkFrom s va level table).1 := by
  induction level generalizing s table with
  | zero =>
    unfold State.walkFrom
    refine .ite_fst h ?_
    split
    · exact h.readPte
    · exact .ite_fst h.readPte (.ite_fst h.readPte h.readPte)
  | succ l ih =>
    unfold State.walkFrom
    refine .ite_fst h ?_
    split
    · exact h.readPte
    · exact .ite_fst h.readPte (.ite_fst h.readPte (.ite_fst h.readPte (ih h.readPte)))
theorem State.Canon.readGroup {s a} (h : State.Canon s) : State.Canon (State.readGroup s a).1 := by
  unfold State.readGroup
  refine h.foldl_fst (fun acc hacc i => ?_)
  extract_lets +onlyGivenNames r
  have hr : State.Canon r.1 := hacc.readPte
  exact hr
theorem State.Canon.leafEntry {s p tenant va l} (h : State.Canon s) :
    State.Canon (State.leafEntry s p tenant va l).1 := by
  unfold State.leafEntry
  extract_lets +onlyGivenNames e cont g es bad
  have hg : State.Canon g.1 := .ite_fst h.readGroup h
  exact .ite_fst hg (.ite_fst hg (.ite_fst hg (.ite_fst hg (.ite_fst hg hg))))
theorem State.Canon.setAD {s l write} (h : State.Canon s) : State.Canon (State.setAD s l write) := .ite h h.writeG64
theorem State.Canon.walk {s p tenant va write} (h : State.Canon s) :
    State.Canon (State.walk s p tenant va write).1 := by
  unfold State.walk
  split
  · exact h
  · extract_lets +onlyGivenNames r
    have hr : State.Canon r.1 := h.walkFrom
    split
    · exact hr
    · extract_lets +onlyGivenNames q
      have hq : State.Canon q.1 := hr.leafEntry
      split
      · exact hq
      · exact .ite_fst hq.setAD.pair hq.setAD.pair
theorem State.Canon.tlbFill {s t} (h : State.Canon s) : State.Canon (State.tlbFill s t) := by
  unfold State.tlbFill
  extract_lets +onlyGivenNames q n1 s1 n2 s2 last n3
  have hs1 : State.Canon s1 := h.chosen.onCore (fun c hc => ⟨hc.spad, hc.wbuf⟩)
  have hs2 : State.Canon s2 := hs1.chosen.modCluster
  exact hs2.chosen.onWafer
theorem State.Canon.translate {s p tenant va u} (h : State.Canon s) :
    State.Canon (State.translate s p tenant va u).1 := by
  unfold State.translate
  extract_lets +onlyGivenNames write finish
  have hfinish : ∀ t, State.Canon t → ∀ u, State.Canon ((finish t) u).1 := by
    unfold finish
    intro s1 hs1 t
    split
    · exact hs1
    · exact hs1.tlbFill.pair
  split
  · refine .ite_fst h ?_
    refine .ite_fst ?_ (hfinish _ h _)
    extract_lets +onlyGivenNames r
    have hr : State.Canon r.1 := h.walk
    split
    · exact hr
    · exact hfinish _ hr _
  · extract_lets +onlyGivenNames r
    have hr : State.Canon r.1 := h.walk
    split
    · exact hr
    · exact hfinish _ hr _
theorem State.Canon.xlate {s va u} (h : State.Canon s) : State.Canon (State.xlate s va u).1 := h.translate
theorem State.Canon.readVa {s p tenant va n u} (h : State.Canon s) :
    State.Canon (State.readVa s p tenant va n u).1 := by
  unfold State.readVa
  refine h.foldl_fst (fun acc hacc part => ?_)
  split
  · exact hacc
  · extract_lets +onlyGivenNames r
    have hr : State.Canon r.1 := hacc.translate
    split
    · exact hr
    · extract_lets +onlyGivenNames pa q
      have hq : State.Canon q.1 := hr.readPa
      refine .ite_fst hr ?_
      split
      · exact hq
      · exact hq
theorem State.Canon.writeVa {s p tenant va bs} (h : State.Canon s) :
    State.Canon (State.writeVa s p tenant va bs).1 := by
  unfold State.writeVa
  refine h.foldl_fst (fun acc hacc part => ?_)
  extract_lets +onlyGivenNames r
  have hr : State.Canon r.1 := hacc.translate
  split
  · exact hr
  · exact hr.writePa.pair

/-! ## The functions of `Machine/Queues` keep the canonical form -/

theorem State.Canon.setRec {s r} (h : State.Canon s) : State.Canon (State.setRec s r) := ⟨h.bytes, h.core, h.others⟩
theorem State.Canon.dropRec {s a} (h : State.Canon s) : State.Canon (State.dropRec s a) := ⟨h.bytes, h.core, h.others⟩
theorem State.Canon.queueUp {s r st head} (h : State.Canon s) : State.Canon (State.queueUp s r st head) :=
  h.setRec.setCluster
theorem State.Canon.ready {s r st head} (h : State.Canon s) : State.Canon (State.ready s r st head) := h.queueUp
theorem State.Canon.setHq {s p i q} (h : State.Canon s) : State.Canon (State.setHq s p i q) := h.modPart
theorem State.Canon.wakeQueue {s p i} (h : State.Canon s) : State.Canon (State.wakeQueue s p i) :=
  h.foldl (fun _ hs1 _ => hs1.ready)
theorem State.Canon.queueTurned {s p i wasEmpty} (h : State.Canon s) :
    State.Canon (State.queueTurned s p i wasEmpty) := by
  unfold State.queueTurned
  refine .ite h ?_
  extract_lets +onlyGivenNames q s0 s1
  have hs0 : State.Canon s0 := h.setHq
  have hs1 : State.Canon s1 := .ite (.ite hs0.onWafer hs0) h
  exact hs1.wakeQueue
theorem State.Canon.hqPut {s p i e} (h : State.Canon s) : State.Canon (State.hqPut s p i e) :=
  State.Canon.queueTurned (.ite h.setHq.writeG64 (.ite h.setHq h.setHq.writeG64))
theorem State.Canon.unspill {s p i a} (h : State.Canon s) : State.Canon (State.unspill s p i a) := by
  induction a generalizing s with
  | zero => exact h
  | succ n ih => exact .ite h (ih (State.Canon.setHq h.readG64))
theorem State.Canon.hqHead {s p i} (h : State.Canon s) : State.Canon (State.hqHead s p i).1 := .ite_fst h h.readG64
theorem State.Canon.hqPop {s p i} (h : State.Canon s) : State.Canon (State.hqPop s p i) := h.setHq.unspill
theorem State.Canon.postLater {s h1 e} (h : State.Canon s) : State.Canon (State.postLater s h1 e) :=
  .ite h (.ite h.hqPut h.modPart)
theorem State.Canon.spillHold {s p i} (h : State.Canon s) : State.Canon (State.spillHold s p i) := h.setHq.postLater
theorem State.Canon.post {s h1 e} (h : State.Canon s) : State.Canon (State.post s h1 e) :=
  State.Canon.postLater (.ite h.spillHold h)
theorem State.Canon.drainPosts {s p i} (h : State.Canon s) : State.Canon (State.drainPosts s p i) := by
  unfold State.drainPosts
  split
  · exact h
  · refine .ite h ?_
    refine .ite h.spillHold ?_
    extract_lets +onlyGivenNames s1
    have hs1 : State.Canon s1 := h.modPart
    exact .ite hs1.hqPut hs1
theorem State.Canon.message {s p m} (h : State.Canon s) : State.Canon (State.message s p m) := h.post
theorem State.Canon.complete {s cq type reason rgn launch tag} (h : State.Canon s) :
    State.Canon (State.complete s cq type reason rgn launch tag) :=
  h.post

/-! ## The functions of `Machine/Domains` keep the canonical form -/

theorem State.Canon.notePeaks {s p q} (h : State.Canon s) : State.Canon (State.notePeaks s p q) := by
  unfold State.notePeaks
  exact h.modCluster

/-! ## The functions of `Machine/Net` keep the canonical form -/

theorem State.Canon.seal {s p e pkt} (h : State.Canon s) : State.Canon (State.seal s p e pkt).1 :=
  State.Canon.pair ⟨h.bytes, h.core, h.others⟩
theorem State.Canon.launchUp {s e pkt} (h : State.Canon s) : State.Canon (State.launchUp s e pkt) :=
  ⟨h.bytes, h.core, h.others⟩
theorem State.Canon.keepUp {s e pkt} (h : State.Canon s) : State.Canon (State.keepUp s e pkt) := by
  unfold State.keepUp
  extract_lets +onlyGivenNames s1
  have hs1 : State.Canon s1 := h.launchUp
  exact ⟨hs1.bytes, hs1.core, hs1.others⟩
theorem State.Canon.inject {s p e pkt} (h : State.Canon s) : State.Canon (State.inject s p e pkt) := by
  unfold State.inject
  extract_lets +onlyGivenNames r
  have hr : State.Canon r.1 := h.seal
  exact hr.keepUp
theorem State.Canon.launchDown {s e q pkt} (h : State.Canon s) : State.Canon (State.launchDown s e q pkt) :=
  ⟨h.bytes, h.core, h.others⟩
theorem State.Canon.serve {s e q pkt} (h : State.Canon s) : State.Canon (State.serve s e q pkt) := by
  unfold State.serve
  extract_lets +onlyGivenNames s1
  have hs1 : State.Canon s1 := h.launchDown
  exact ⟨hs1.bytes, hs1.core, hs1.others⟩
theorem State.Canon.answer {s p e q n kind reason} (h : State.Canon s) :
    State.Canon (State.answer s p e q n kind reason) := by
  unfold State.answer
  extract_lets +onlyGivenNames r
  have hr : State.Canon r.1 := h.seal
  exact hr.serve
theorem State.Canon.errorNotice {s p e n reason} (h : State.Canon s) :
    State.Canon (State.errorNotice s p e n reason) :=
  h.inject
theorem State.Canon.errorNotices {s p e n reason a} (h : State.Canon s) :
    State.Canon (State.errorNotices s p e n reason a) := by
  induction a generalizing s with
  | zero => exact h
  | succ n ih => exact ih h.errorNotice
theorem State.Canon.modReg {s q no f} (h : State.Canon s) : State.Canon (State.modReg s q no f) := h.modCluster
theorem State.Canon.installAt {s g e} (h : State.Canon s) : ∀ t ∈ State.installAt s g e, State.Canon t :=
  mem_map (fun _ => h.setRouter.modReg)
theorem State.Canon.installReg {s g} (h : State.Canon s) : ∀ t ∈ State.installReg s g, State.Canon t :=
  mem_foldl (mem_some h) (fun _ hacc _ => mem_bind_of hacc (fun _ hs1 => hs1.installAt))
theorem State.Canon.retryPending {s p} (h : State.Canon s) : State.Canon (State.retryPending s p) := by
  unfold State.retryPending
  refine h.foldl (fun s1 hs1 e => ?_)
  extract_lets +onlyGivenNames ps
  refine .ite hs1 ?_
  extract_lets +onlyGivenNames x
  have hx : State.Canon x := hs1.modCluster
  exact ⟨hx.bytes, hx.core, hx.others⟩
theorem State.Canon.uninstallReg {s g} (h : State.Canon s) : State.Canon (State.uninstallReg s g) := by
  unfold State.uninstallReg
  extract_lets +onlyGivenNames r
  have hr : State.Canon r.1 := h.foldl_fst (fun acc hacc e => hacc.setRouter.pair)
  exact .ite hr.retryPending hr
theorem State.Canon.register {s g} (h : State.Canon s) : State.Canon (State.register s g) := by
  unfold State.register
  extract_lets +onlyGivenNames g1 x s1
  have hx : State.Canon x := h.modCluster
  have hs1 : State.Canon s1 := ⟨hx.bytes, hx.core, hx.others⟩
  exact .ite hs1.notePeaks hs1
theorem State.Canon.unregister {s g} (h : State.Canon s) : State.Canon (State.unregister s g) := by
  unfold State.unregister
  extract_lets +onlyGivenNames x s1
  have hx : State.Canon x := h.modCluster
  have hs1 : State.Canon s1 := ⟨hx.bytes, hx.core, hx.others⟩
  exact .ite hs1.uninstallReg hs1
theorem State.Canon.unregisterAll {s gs} (h : State.Canon s) : State.Canon (State.unregisterAll s gs) :=
  h.foldl (fun _ hs1 _ => hs1.unregister)

/-! ## The functions of `Machine/Ops` keep the canonical form -/

theorem Core.Canon.focusOn {c n} (hc : Core.Canon c) : Core.Canon (Core.focusOn c n) := by
  unfold Core.focusOn
  split
  · exact hc
  · exact ⟨hc.spad, hc.wbuf⟩
theorem State.Canon.front {s} (h : State.Canon s) : State.Canon (State.front s) := h.onCore (fun _ hc => hc.focusOn)
theorem Core.Canon.sysApply {c w} (hc : Core.Canon c) : Core.Canon (Core.sysApply c w) :=
  .ite ⟨hc.spad, hc.wbuf⟩ (.ite ⟨hc.spad, hc.wbuf⟩ (.ite ⟨hc.spad, hc.wbuf⟩ hc))
theorem Core.Canon.applySys {c b} (hc : Core.Canon c) : Core.Canon (Core.applySys c b) :=
  hc.foldl (fun _ hc1 _ => hc1.sysApply)
theorem Core.Canon.leaveFront {c a} (hc : Core.Canon c) : Core.Canon (Core.leaveFront c a) := by
  induction a generalizing c with
  | nil => exact ⟨hc.spad, hc.wbuf⟩
  | cons b rest ih => exact .ite (ih ⟨hc.applySys.spad, hc.applySys.wbuf⟩) ⟨hc.spad, hc.wbuf⟩
theorem Core.Canon.retire {c} (hc : Core.Canon c) : Core.Canon (Core.retire c) := by
  unfold Core.retire
  extract_lets +onlyGivenNames d e
  have hd : Core.Canon d := hc.leaveFront
  have he : Core.Canon e := hd.mature
  exact ⟨he.spad, he.wbuf⟩
theorem Core.Canon.finish {c k} (hc : Core.Canon c) : Core.Canon (Core.finish c k) := by
  unfold Core.finish
  extract_lets +onlyGivenNames x c1
  have hc1 : Core.Canon c1 := ⟨hc.spad, hc.wbuf⟩
  exact .ite hc1.retire hc1
theorem State.Canon.finish {s k} (h : State.Canon s) : State.Canon (State.finish s k) :=
  ⟨h.bytes, h.core.finish, h.others⟩
theorem State.Canon.hold {s k inPlace} (h : State.Canon s) : State.Canon (State.hold s k inPlace) := by
  unfold State.hold
  refine ⟨h.bytes, ?_, h.others⟩
  extract_lets +onlyGivenNames x
  have hx : Core.Canon x := h.core
  exact ⟨hx.spad, hx.wbuf⟩
theorem State.Canon.waitPart {s k} (h : State.Canon s) : State.Canon (State.waitPart s k) := h.hold
theorem State.Canon.interlock {s k} (h : State.Canon s) : State.Canon (State.interlock s k) := h.hold
theorem State.Canon.lockPart {s k} (h : State.Canon s) : State.Canon (State.lockPart s k) :=
  h.hold.onCore (fun _ hc => ⟨hc.spad, hc.wbuf⟩)
theorem State.Canon.syncWait {s} (h : State.Canon s) : State.Canon (State.syncWait s) := by
  unfold State.syncWait
  refine ⟨h.bytes, ?_, h.others⟩
  extract_lets +onlyGivenNames x
  have hx : Core.Canon x := h.core
  exact ⟨hx.spad, hx.wbuf⟩
theorem Core.Canon.pass {c n} (hc : Core.Canon c) : Core.Canon (Core.pass c n) := by
  unfold Core.pass
  extract_lets +onlyGivenNames x
  have hx : Core.Canon x := hc.landFlags
  exact ⟨hx.spad, hx.wbuf⟩
theorem Core.Canon.idle {c} (hc : Core.Canon c) : Core.Canon (Core.idle c) := ⟨hc.spad, hc.wbuf⟩
theorem State.Canon.writeBack {s replay f} (h : State.Canon s) : State.Canon (State.writeBack s replay f).1 := by
  unfold State.writeBack
  extract_lets +onlyGivenNames c x g r s0 s1
  have hc : Core.Canon c := h.core.applySys.settleFmt
  have hs0 : State.Canon s0 := ⟨h.bytes, hc, h.others⟩
  have hs1 : State.Canon s1 := hs0.writeVa
  clear_value s1
  have hidle : State.Canon { s1 with core := s1.core.idle } := ⟨hs1.bytes, hs1.core.idle, hs1.others⟩
  exact hidle.setRec.notePeaks
theorem State.Canon.leaveWith {s replay f after} (h : State.Canon s) (hafter : ∀ t, State.Canon t → ∀ u, State.Canon
    ((after t) u)) :
    State.Canon (State.leaveWith s replay f after) := by
  unfold State.leaveWith
  split
  · exact h.writeBack
  · extract_lets +onlyGivenNames w
    have hw : State.Canon w.1 := h.writeBack
    exact hafter _ hw _
theorem State.Canon.checkpointHold {s p launch cause} (h : State.Canon s) :
    State.Canon (State.checkpointHold s p launch cause) := by
  unfold State.checkpointHold
  extract_lets +onlyGivenNames s1
  have hs1 : State.Canon s1 := h.modLaunch
  refine hs1.foldl (fun s2 hs2 w => ?_)
  extract_lets +onlyGivenNames c
  have hc : Core.Canon c := hs2.coreAt
  exact .ite (hs2.setCore ⟨hc.spad, hc.wbuf⟩) hs2
theorem State.Canon.takeFault {s pc scm replay cause arg} (h : State.Canon s) :
    State.Canon (State.takeFault s pc scm replay cause arg) := by
  unfold State.takeFault
  extract_lets +onlyGivenNames flim past w s1
  have hw : State.Canon w.1 := h.writeBack
  have hs1 : State.Canon s1 := hw.message
  exact .ite hs1.checkpointHold hs1
theorem State.Canon.faultPart {s k cause arg} (h : State.Canon s) : State.Canon (State.faultPart s k cause arg) := by
  unfold State.faultPart
  refine ⟨h.bytes, ?_, h.others⟩
  extract_lets +onlyGivenNames x
  have hx : Core.Canon x := h.core
  exact ⟨hx.spad, hx.wbuf⟩
theorem State.Canon.takeNoted {s} (h : State.Canon s) : State.Canon (State.takeNoted s) := by
  unfold State.takeNoted
  split
  · exact h
  · exact h.takeFault
theorem State.Canon.registerDataFault {s k r} (h : State.Canon s) : State.Canon (State.registerDataFault s k r) := by
  unfold State.registerDataFault
  extract_lets +onlyGivenNames s1
  have hs1 : State.Canon s1 := State.Canon.waitPart (h.onCore (fun c hc => ⟨hc.spad, hc.wbuf⟩))
  exact hs1.checkpointHold
theorem State.Canon.mend {s ws} (h : State.Canon s) : State.Canon (State.mend s ws) := by
  unfold State.mend
  refine .ite h ?_
  refine ⟨h.bytes, ?_, h.others⟩
  extract_lets +onlyGivenNames x
  have hx : Core.Canon x := h.core
  exact ⟨hx.spad, hx.wbuf⟩
theorem State.Canon.issueAs {s u body} (h : State.Canon s) (hbody : ∀ t, State.Canon t → Res.Canon (body t)) :
    State.Canon (State.issueAs s u body) := by
  unfold State.issueAs
  refine .ite h.syncWait (.ite h.interlock (.ite h.finish (.ite h.interlock ?_)))
  split
  · exact h.registerDataFault
  · have hb := hbody s h
    generalize body s = r at hb
    cases hb with
    | done ht => exact ht.mend.finish
    | wait => exact h.waitPart
    | lock => exact h.lockPart
    | bank => exact h.interlock
    | stay ht => exact ht.waitPart
    | fault => exact h.faultPart
    | faultIn ht => exact .ite ht.waitPart ht.faultPart
    | leave ht => exact ht
theorem State.Canon.issue {s i body} (h : State.Canon s) (hbody : ∀ t, State.Canon t → Res.Canon (body t)) :
    CanonNext (State.issue s i body) := by
  unfold State.issue
  split
  · exact h.next
  · exact (h.issueAs hbody).next
theorem State.Canon.compute {s i f} (h : State.Canon s) (hf : ∀ t, Core.Canon t → Core.Canon (f t)) :
    CanonNext (State.compute s i f) :=
  h.issue (fun _ hs1 => .done ⟨hs1.bytes, hf _ hs1.core, hs1.others⟩)
theorem State.Canon.suspendReady {s cause pc scm replay st head} (h : State.Canon s) :
    State.Canon (State.suspendReady s cause pc scm replay st head) :=
  h.leaveWith (fun _ hs1 _ => hs1.ready)
theorem State.Canon.suspendHere {s cause st head} (h : State.Canon s) :
    State.Canon (State.suspendHere s cause st head) :=
  h.suspendReady
theorem Core.Canon.reload {c r image} (hc : Core.Canon c) : Core.Canon (Core.reload c r image) := by
  unfold Core.reload
  exact ⟨hc.spad, hc.wbuf⟩
theorem State.Canon.returnRec {s r head} (h : State.Canon s) : State.Canon (State.returnRec s r head) := h.queueUp

/-! ## The functions of `Machine/Operands` keep the canonical form -/

theorem Core.Canon.spadPut {c a bs} (hc : Core.Canon c) : Core.Canon (Core.spadPut c a bs) :=
  ⟨Mem.wf_write hc.spad .., hc.wbuf⟩

/-! ## The functions of `Machine/Tracks` keep the canonical form -/

theorem State.Canon.spotOf {s sp ea u need} (h : State.Canon s) : State.Canon (State.spotOf s sp ea u need).1 := by
  unfold State.spotOf
  split
  · exact h
  · split
    · exact h
    · exact h
  · extract_lets +onlyGivenNames r
    have hr : State.Canon r.1 := h.xlate
    split
    · exact hr
    · exact .ite_fst hr hr
theorem State.Canon.place {s sp ea n align u need} (h : State.Canon s) :
    State.Canon (State.place s sp ea n align u need).1 := by
  unfold State.place
  split
  · exact h
  · exact h.spotOf
theorem State.Canon.readVm {s w pa n gran key} (h : State.Canon s) :
    State.Canon (State.readVm s w pa n gran key).1 := by
  unfold State.readVm
  extract_lets +onlyGivenNames q b
  refine .ite_fst h.readPa ?_
  extract_lets +onlyGivenNames s1
  have hs1 : State.Canon s1 := h.modCluster
  refine .ite_fst hs1 ?_
  extract_lets +onlyGivenNames r
  have hr : State.Canon r.1 := hs1.readPa
  exact hr
theorem State.Canon.readSpot {s w p n} (h : State.Canon s) : State.Canon (State.readSpot s w p n).1 := by
  unfold State.readSpot
  split
  · split
    · exact h
    · exact h
  · split
    · exact h
    · exact h
  · extract_lets +onlyGivenNames r
    have hr : State.Canon r.1 := h.readVm
    split
    · exact hr
    · exact hr
theorem State.Canon.writeSpot {s w no p bs} (h : State.Canon s) : State.Canon (State.writeSpot s w no p bs) := by
  unfold State.writeSpot
  split
  · exact h.modCore (fun c hc => hc.spadPut)
  · exact h.modCore (fun c hc => hc.spadPut)
  · exact h.modCluster
theorem State.Canon.enqueue {s a} (h : State.Canon s) : State.Canon (State.enqueue s a) := by
  unfold State.enqueue
  extract_lets +onlyGivenNames x
  have hx : State.Canon x := h.onEng
  exact ⟨hx.bytes, hx.core, hx.others⟩

/-! ## The functions of `Machine/Control` keep the canonical form -/

theorem Core.Canon.jump {c t penalty} (hc : Core.Canon c) : Core.Canon (Core.jump c t penalty) := ⟨hc.spad, hc.wbuf⟩
theorem execBr_canon {f s} (h : State.Canon s) : CanonNext (execBr f s) := h.compute (fun _ hc => hc.jump)
theorem execJmp_canon {f s} (h : State.Canon s) : CanonNext (execJmp f s) := h.compute (fun _ hc => hc.jump)
theorem execCall_canon {f s} (h : State.Canon s) : CanonNext (execCall f s) := h.compute (fun _ hc => hc.writeS.jump)
theorem execRet_canon {f s} (h : State.Canon s) : CanonNext (execRet f s) := h.compute (fun _ hc => hc.jump)
theorem execLoopSet_canon {f s} (h : State.Canon s) : CanonNext (execLoopSet f s) := h.compute (fun _ hc => hc.writeS)
theorem execLoopEnd_canon {f s} (h : State.Canon s) : CanonNext (execLoopEnd f s) :=
  h.compute (fun _ hc => .ite hc.writeS.jump hc.writeS)
theorem Core.Canon.setFrame {c f} (hc : Core.Canon c) : Core.Canon (Core.setFrame c f) := ⟨hc.spad, hc.wbuf⟩
theorem Core.Canon.newSlot {c f} (hc : Core.Canon c) : Core.Canon (Core.newSlot c f) := by
  unfold Core.newSlot
  extract_lets +onlyGivenNames d
  have hd : Core.Canon d := hc.setFrame
  exact ⟨hd.spad, hd.wbuf⟩
theorem State.Canon.allocSlot {s f} (h : State.Canon s) : Res.Canon (State.allocSlot s f) :=
  .ite .wait (.done (h.onCore (fun _ hc => hc.newSlot)))
theorem execFrameAlloc_canon {f s} (h : State.Canon s) : CanonNext (execFrameAlloc f s) :=
  h.issue (fun _ hs1 => .ite hs1.allocSlot (.ite .fault (.ite .wait hs1.allocSlot)))
theorem execFrameFree_canon {f s} (h : State.Canon s) : CanonNext (execFrameFree f s) :=
  h.issue (fun _ hs1 => .ite .fault (.done (hs1.onCore (fun _ hc => hc.setFrame))))
theorem execFrameSlotRelease_canon {core s} (h : State.Canon s) : CanonNext (execFrameSlotRelease core s) := by
  unfold execFrameSlotRelease
  extract_lets +onlyGivenNames c
  have hc : Core.Canon c := h.coreAt
  exact .ite (State.Canon.next (h.setCore ⟨hc.spad, hc.wbuf⟩)) h.next
theorem State.Canon.yieldNow {s} (h : State.Canon s) : State.Canon (State.yieldNow s) := h.suspendReady
theorem execYield_canon {f s} (h : State.Canon s) : CanonNext (execYield f s) :=
  h.issue (fun _ hs1 => .ite (.leave hs1.yieldNow) .wait)
theorem State.Canon.suspendWaiting {s arg onQueue} (h : State.Canon s) :
    State.Canon (State.suspendWaiting s arg onQueue) :=
  h.leaveWith (fun _ hs1 _ => hs1)
theorem execWaitQ_canon {f s} (h : State.Canon s) : CanonNext (execWaitQ f s) :=
  h.issue (fun _ hs1 => .ite .fault (.ite (.done hs1) (.ite (.leave hs1.suspendWaiting) .wait)))
theorem Core.Canon.moveLanding {c k off} (hc : Core.Canon c) : Core.Canon (Core.moveLanding c k off) := by
  unfold Core.moveLanding
  split
  · exact hc
  · extract_lets +onlyGivenNames c1
    have hc1 : Core.Canon c1 := hc.spadPut
    exact ⟨hc1.spad, hc1.wbuf⟩
theorem execWaitS_canon {f s} (h : State.Canon s) : CanonNext (execWaitS f s) := by
  unfold execWaitS
  refine h.issue (fun s1 hs1 => ?_)
  split
  · exact .fault
  · exact .ite .fault (.ite (.ite .wait (.done (hs1.onCore (fun c hc => hc.moveLanding)))) (.ite (.leave
      hs1.suspendWaiting) .wait))
theorem State.Canon.freeSave {s r} (h : State.Canon s) : State.Canon (State.freeSave s r) := h.modLaunch
theorem State.Canon.dropHeldRegs {s r} (h : State.Canon s) : State.Canon (State.dropHeldRegs s r) := h.unregisterAll
theorem State.Canon.haltTask {s} (h : State.Canon s) : State.Canon (State.haltTask s) := by
  unfold State.haltTask
  extract_lets +onlyGivenNames r
  refine State.Canon.dropRec ?_
  refine State.Canon.freeSave ?_
  refine State.Canon.dropHeldRegs ?_
  refine h.onCore (fun c hc => ?_)
  extract_lets +onlyGivenNames d x
  have hd : Core.Canon d := hc.applySys.settleFmt
  have hx : Core.Canon x := hd.idle
  exact ⟨hx.spad, hx.wbuf⟩
theorem execHalt_canon {f s} (h : State.Canon s) : CanonNext (execHalt f s) :=
  h.issue (fun _ hs1 => .ite (.leave hs1.haltTask) .wait)
theorem execTrap_canon {f s} (h : State.Canon s) : CanonNext (execTrap f s) :=
  h.issue (fun _ hs1 => .ite (.leave hs1.takeFault) .wait)
theorem execPand_canon {f s} (h : State.Canon s) : CanonNext (execPand f s) := h.compute (fun _ hc => hc.writeP)
theorem execPor_canon {f s} (h : State.Canon s) : CanonNext (execPor f s) := h.compute (fun _ hc => hc.writeP)
theorem execPxor_canon {f s} (h : State.Canon s) : CanonNext (execPxor f s) := h.compute (fun _ hc => hc.writeP)
theorem execPnot_canon {f s} (h : State.Canon s) : CanonNext (execPnot f s) := h.compute (fun _ hc => hc.writeP)
theorem execPmov_canon {f s} (h : State.Canon s) : CanonNext (execPmov f s) := h.compute (fun _ hc => hc.writeP)
theorem execCycleRd_canon {f s} (h : State.Canon s) : CanonNext (execCycleRd f s) := h.compute (fun _ hc => hc.writeS)
theorem Core.Canon.setFmt {c v} (hc : Core.Canon c) : Core.Canon (Core.setFmt c v) := by
  unfold Core.setFmt
  extract_lets +onlyGivenNames x
  have hx : Core.Canon x := hc.landFlags
  exact ⟨hx.spad, hx.wbuf⟩
theorem State.Canon.fmtWrite {s v f} (h : State.Canon s) (hf : ∀ t, Core.Canon t → Core.Canon (f t)) :
    Res.Canon (State.fmtWrite s v f) :=
  .ite .fault (.ite .lock (.done (h.onCore hf)))
theorem State.Canon.fmtSet {s v} (h : State.Canon s) : Res.Canon (State.fmtSet s v) :=
  h.fmtWrite (fun _ hc => hc.setFmt)
theorem execFmtSet_canon {f s} (h : State.Canon s) : CanonNext (execFmtSet f s) := h.issue (fun _ hs1 => hs1.fmtSet)
theorem execFmtSetH_canon {f s} (h : State.Canon s) : CanonNext (execFmtSetH f s) :=
  h.issue (fun _ hs1 => .ite (.done (hs1.onCore (fun _ hc => ⟨hc.spad, hc.wbuf⟩))) .fault)
theorem execFmtSetC_canon {f s} (h : State.Canon s) : CanonNext (execFmtSetC f s) := by
  unfold execFmtSetC
  refine h.issue (fun s1 hs1 => ?_)
  refine hs1.fmtWrite (fun c hc => ?_)
  extract_lets +onlyGivenNames d
  have hd : Core.Canon d := hc.landFlags
  exact ⟨hd.spad, hd.wbuf⟩
theorem execFmtRd_canon {f s} (h : State.Canon s) : CanonNext (execFmtRd f s) :=
  h.issue (fun _ hs1 => .ite .lock (.done (hs1.onCore (fun _ hc => hc.writeS))))

/-! ## The functions of `Machine/Memory` keep the canonical form -/

theorem Core.Canon.putAccess {c k lat a bs} (hc : Core.Canon c) : Core.Canon (Core.putAccess c k lat a bs) := by
  unfold Core.putAccess
  split
  · exact hc
  · exact hc.writeLoc
theorem Core.Canon.landAccess {c a bs} (hc : Core.Canon c) : Core.Canon (Core.landAccess c a bs) := by
  unfold Core.landAccess
  split
  · exact hc
  · exact hc.land
theorem State.Canon.queueAccess {s a} (h : State.Canon s) : State.Canon (State.queueAccess s a) :=
  State.Canon.enqueue (h.onCore (fun _ hc => hc.await))
theorem Core.Canon.answer {c slot bs} (hc : Core.Canon c) : Core.Canon (Core.answer c slot bs) := ⟨hc.spad, hc.wbuf⟩
theorem State.Canon.feServe {s k p n} (h : State.Canon s) : State.Canon (State.feServe s k p n).1 := by
  unfold State.feServe
  split
  · extract_lets +onlyGivenNames r
    have hr : State.Canon r.1 := h.readPa
    split
    · exact hr
    · split
      · refine ?_
        extract_lets +onlyGivenNames x
        have hx : State.Canon x := hr
        exact ⟨hr.bytes, hx.core, hx.others⟩
      · exact hr.writePa.pair
      · exact hr
  · exact h
theorem State.Canon.feDrain {s pa a} (h : State.Canon s) : State.Canon (State.feDrain s pa a) := by
  induction a generalizing s with
  | nil => exact ⟨h.bytes, h.core, h.others⟩
  | cons x rest ih =>
    unfold State.feDrain
    refine .ite ⟨h.bytes, h.core, h.others⟩ ?_
    split
    · exact ih h
    · exact ih (State.Canon.modCore h.feServe fun c hc => hc.answer)
theorem State.Canon.feStore {s pa bs gran key} (h : State.Canon s) :
    State.Canon (State.feStore s pa bs gran key) := by
  unfold State.feStore
  extract_lets +onlyGivenNames was s1 s2
  have hs1 : State.Canon s1 := h.writePa
  have hs2 : State.Canon s2 := ⟨hs1.bytes, hs1.core, hs1.others⟩
  exact .ite hs2 hs2.feDrain
theorem State.Canon.feWait {s a pa} (h : State.Canon s) : State.Canon (State.feWait s a pa) := by
  unfold State.feWait
  extract_lets +onlyGivenNames x
  have hx : State.Canon x := h.enqueue
  exact ⟨h.bytes, hx.core, hx.others⟩
theorem State.Canon.popAccess {s a} (h : State.Canon s) : State.Canon (State.popAccess s a) := h.onEng
theorem State.Canon.takeAnswer {s a} (h : State.Canon s) : Res.Canon (State.takeAnswer s a) :=
  .ite (.done (State.Canon.popAccess (h.onCore (fun _ hc => hc.putAccess)))) (.ite (.done
    h.popAccess.queueAccess) .wait)
theorem State.Canon.feAccess {s a p n} (h : State.Canon s) : Res.Canon (State.feAccess s a p n) := by
  unfold State.feAccess
  split
  · refine .ite (.stay h) ?_
    refine .ite (.stay h.feWait) ?_
    extract_lets +onlyGivenNames r
    have hr : State.Canon r.1 := h.feServe
    split
    · exact .done hr.queueAccess
    · exact .done (hr.onCore (fun c hc => hc.putAccess))
  · exact .stay h
theorem State.Canon.loadFrom {s k lat kind sp parts} (h : State.Canon s) :
    Res.Canon (State.loadFrom s k lat kind sp parts) := by
  unfold State.loadFrom
  extract_lets +onlyGivenNames a
  split
  · split
    · exact .faultIn h
    · exact .ite (.done h.queueAccess) (.ite .bank (.done (h.onCore (fun c hc => hc.putAccess))))
  · exact .done h.queueAccess
theorem State.Canon.loadOne {s k lat kind sp ea n use need} (h : State.Canon s) :
    Res.Canon (State.loadOne s k lat kind sp ea n use need) := by
  unfold State.loadOne
  split
  · exact h.takeAnswer
  · extract_lets +onlyGivenNames r
    have hr : State.Canon r.1 := h.place
    split
    · exact .faultIn hr
    · split
      · exact hr.feAccess
      · exact hr.loadFrom
theorem execLd_canon {f s} (h : State.Canon s) : CanonNext (execLd f s) := h.issue (fun _ hs1 => hs1.loadOne)
theorem State.Canon.loadVector {s k d km sp ea} (h : State.Canon s) :
    Res.Canon (State.loadVector s k d km sp ea) := by
  unfold State.loadVector
  extract_lets +onlyGivenNames r
  have hr : State.Canon r.1 := h.place
  split
  · exact .faultIn hr
  · exact .ite (.done hr) hr.loadFrom
theorem execLdv_canon {f s} (h : State.Canon s) : CanonNext (execLdv f s) := h.issue (fun _ hs1 => hs1.loadVector)
theorem State.Canon.placeLanes {s f u lanes} (h : State.Canon s) : State.Canon (State.placeLanes s f u lanes).1 := by
  unfold State.placeLanes
  refine h.foldl_fst (fun acc hacc n => ?_)
  split
  · exact hacc
  · extract_lets +onlyGivenNames w r
    have hr : State.Canon r.1 := hacc.place
    split
    · exact hr
    · exact hr
theorem execLdvG_canon {f s} (h : State.Canon s) : CanonNext (execLdvG f s) := by
  unfold execLdvG
  refine h.issue (fun s1 hs1 => ?_)
  extract_lets +onlyGivenNames lanes r
  have hr : State.Canon r.1 := hs1.placeLanes
  split
  · exact .faultIn hr
  · exact .ite (.done hr) hr.loadFrom
theorem State.Canon.storeTo {s k parts bs lanes} (h : State.Canon s) :
    State.Canon (State.storeTo s k parts bs lanes) :=
  .ite h h.enqueue
theorem execSt_canon {f s} (h : State.Canon s) : CanonNext (execSt f s) := by
  unfold execSt
  refine h.issue (fun s1 hs1 => ?_)
  extract_lets +onlyGivenNames n r
  have hr : State.Canon r.1 := hs1.place
  split
  · exact .faultIn hr
  · exact .done hr.storeTo
theorem execStv_canon {f s} (h : State.Canon s) : CanonNext (execStv f s) := by
  unfold execStv
  refine h.issue (fun s1 hs1 => ?_)
  extract_lets +onlyGivenNames r
  have hr : State.Canon r.1 := hs1.place
  split
  · exact .faultIn hr
  · exact .done hr.storeTo
theorem execStvS_canon {f s} (h : State.Canon s) : CanonNext (execStvS f s) := by
  unfold execStvS
  refine h.issue (fun s1 hs1 => ?_)
  extract_lets +onlyGivenNames lanes r
  have hr : State.Canon r.1 := hs1.placeLanes
  split
  · exact .faultIn hr
  · exact .done hr.storeTo
theorem execLdFe_canon {f s} (h : State.Canon s) : CanonNext (execLdFe f s) := h.issue (fun _ hs1 => hs1.loadOne)
theorem execStFe_canon {f s} (h : State.Canon s) : CanonNext (execStFe f s) := by
  unfold execStFe
  refine h.issue (fun s1 hs1 => ?_)
  extract_lets +onlyGivenNames ea r
  have hr : State.Canon r.1 := hs1.place
  split
  · exact .faultIn hr
  · split
    · exact .ite (.stay hr) (.ite (.faultIn hr) (.done hr.feStore))
    · exact .stay hr
theorem execPeekFe_canon {f s} (h : State.Canon s) : CanonNext (execPeekFe f s) := by
  unfold execPeekFe
  refine h.issue (fun s1 hs1 => ?_)
  extract_lets +onlyGivenNames r
  have hr : State.Canon r.1 := hs1.place
  split
  · exact .faultIn hr
  · exact .done hr.queueAccess
theorem State.Canon.atomic {s k a d sp ea} (h : State.Canon s) : Res.Canon (State.atomic s k a d sp ea) := by
  unfold State.atomic
  split
  · exact h.takeAnswer
  · extract_lets +onlyGivenNames r
    have hr : State.Canon r.1 := h.place
    split
    · exact .faultIn hr
    · extract_lets +onlyGivenNames acc
      split
      · exact hr.feAccess
      · split
        · exact .faultIn hr
        · exact .done hr.queueAccess
theorem State.Canon.intAtomic {s f op} (h : State.Canon s) : Res.Canon (State.intAtomic s f op) := h.atomic
theorem execAtomAdd_canon {f s} (h : State.Canon s) : CanonNext (execAtomAdd f s) :=
  h.issue (fun _ hs1 => hs1.intAtomic)
theorem execAtomMin_canon {f s} (h : State.Canon s) : CanonNext (execAtomMin f s) :=
  h.issue (fun _ hs1 => hs1.intAtomic)
theorem execAtomMax_canon {f s} (h : State.Canon s) : CanonNext (execAtomMax f s) :=
  h.issue (fun _ hs1 => hs1.intAtomic)
theorem execAtomAnd_canon {f s} (h : State.Canon s) : CanonNext (execAtomAnd f s) :=
  h.issue (fun _ hs1 => hs1.intAtomic)
theorem execAtomOr_canon {f s} (h : State.Canon s) : CanonNext (execAtomOr f s) :=
  h.issue (fun _ hs1 => hs1.intAtomic)
theorem execAtomXor_canon {f s} (h : State.Canon s) : CanonNext (execAtomXor f s) :=
  h.issue (fun _ hs1 => hs1.intAtomic)
theorem execAtomSwp_canon {f s} (h : State.Canon s) : CanonNext (execAtomSwp f s) :=
  h.issue (fun _ hs1 => hs1.intAtomic)
theorem execAtomCas_canon {f s} (h : State.Canon s) : CanonNext (execAtomCas f s) :=
  h.issue (fun _ hs1 => hs1.intAtomic)
theorem execAtomFadd_canon {f s} (h : State.Canon s) : CanonNext (execAtomFadd f s) :=
  h.issue (fun _ hs1 => hs1.atomic)
theorem execAtomNib_canon {f s} (h : State.Canon s) : CanonNext (execAtomNib f s) :=
  h.issue (fun _ hs1 => hs1.atomic)
theorem State.Canon.mark {s k scope fence} (h : State.Canon s) : State.Canon (State.mark s k scope fence) := h.enqueue
theorem execMark_canon {f s} (h : State.Canon s) : CanonNext (execMark f s) := h.issue (fun _ hs1 => .done hs1.mark)
theorem execFence_canon {f s} (h : State.Canon s) : CanonNext (execFence f s) :=
  h.issue (fun _ hs1 => .ite (.done hs1.mark) .wait)
theorem execPref_canon {f s} (h : State.Canon s) : CanonNext (execPref f s) := by
  unfold execPref
  refine h.issue (fun s1 hs1 => ?_)
  extract_lets +onlyGivenNames ea
  refine .ite (.done hs1) ?_
  extract_lets +onlyGivenNames r
  have hr : State.Canon r.1 := hs1.xlate
  split
  · exact .done hs1
  · exact .ite (.done hr) (.done hs1)
theorem State.Canon.takeEntry {s e} (h : State.Canon s) : State.Canon (State.takeEntry s e) :=
  h.foldl (fun _ hs1 _ => hs1.writePa)
theorem State.Canon.drainOver {s q pa n} (h : State.Canon s) : State.Canon (State.drainOver s q pa n) :=
  h.modCluster.foldl (fun _ hs1 _ => hs1.takeEntry)
theorem State.Canon.performAtom {s w t p} (h : State.Canon s) : State.Canon (State.performAtom s w t p).1 := by
  unfold State.performAtom
  split
  · extract_lets +onlyGivenNames r
    have hr : State.Canon r.1 := h.drainOver.readPa
    split
    · exact hr
    · exact hr.writePa.pair
  · extract_lets +onlyGivenNames r
    have hr : State.Canon r.1 := h.readSpot
    split
    · exact hr
    · exact hr.writeSpot.pair
theorem State.Canon.performAt {s w a p n} (h : State.Canon s) : State.Canon (State.performAt s w a p n).1 := by
  unfold State.performAt
  split
  · exact h
  · extract_lets +onlyGivenNames r
    have hr : State.Canon r.1 := h.feServe
    exact hr
  · exact h.performAtom
  · extract_lets +onlyGivenNames r
    have hr : State.Canon r.1 := h.readSpot
    exact hr
theorem State.Canon.performStore {s w a bs lanes} (h : State.Canon s) :
    State.Canon (State.performStore s w a bs lanes) := by
  unfold State.performStore
  split
  · exact h.feStore
  · exact h.modCluster
  · exact h.foldl_fst (fun acc hacc p => hacc.writeSpot.pair)
theorem State.Canon.performAccess {s w a} (h : State.Canon s) : State.Canon (State.performAccess s w a).1 := by
  unfold State.performAccess
  split
  · exact h
  · exact h.performStore.pair
  · refine h.foldl_fst (fun acc hacc p => ?_)
    split
    · exact hacc
    · extract_lets +onlyGivenNames r
      have hr : State.Canon r.1 := hacc.performAt
      exact hr
theorem Core.Canon.served {c i a bs} (hc : Core.Canon c) : Core.Canon (Core.served c i a bs) := ⟨hc.spad, hc.wbuf⟩
theorem State.Canon.serveAccess {s w i a} (h : State.Canon s) : State.Canon (State.serveAccess s w i a) := by
  unfold State.serveAccess
  extract_lets +onlyGivenNames r
  have hr : State.Canon r.1 := h.performAccess
  split
  · exact h
  · exact hr.modCore (fun c hc => hc.served)
theorem Core.Canon.modAccess {c i f} (hc : Core.Canon c) : Core.Canon (Core.modAccess c i f) := ⟨hc.spad, hc.wbuf⟩
theorem State.Canon.sendAbroad {s w i a port} (h : State.Canon s) : State.Canon (State.sendAbroad s w i a port) :=
  State.Canon.onWafer (h.modCore (fun _ hc => hc.modAccess))
theorem State.Canon.homeFrame {s a} (h : State.Canon s) : State.Canon (State.homeFrame s a) := by
  unfold State.homeFrame
  split
  · exact h.onWafer
  · exact h.takeEntry
  · split
    · exact State.Canon.serveAccess (h.modCore (fun c hc => hc.modAccess))
    · exact h
theorem execRimAccessRequest_canon {core s} (h : State.Canon s) : CanonNext (execRimAccessRequest core s) := by
  unfold execRimAccessRequest
  extract_lets +onlyGivenNames l
  split
  · exact h.next
  · refine .ite h.next ?_
    extract_lets +onlyGivenNames t
    have ht : State.Canon t := h.chosen
    refine .ite (State.Canon.next (ht.modCore (fun c hc => hc.modAccess))) ?_
    split
    · exact ht.sendAbroad.next
    · exact ht.serveAccess.next
theorem execAccessDataReturn_canon {core idx s} (h : State.Canon s) :
    CanonNext (execAccessDataReturn core idx s) := by
  unfold execAccessDataReturn
  extract_lets +onlyGivenNames c
  have hc : Core.Canon c := h.coreAt
  split
  · exact h.next
  · refine .ite ?_ h.next
    refine State.Canon.next ?_
    refine h.setCore ?_
    extract_lets +onlyGivenNames x
    have hx : Core.Canon x := hc.landAccess
    exact ⟨hx.spad, hx.wbuf⟩
theorem execStoreBufferDrain_canon {cluster idx s} (h : State.Canon s) :
    CanonNext (execStoreBufferDrain cluster idx s) := by
  unfold execStoreBufferDrain
  extract_lets +onlyGivenNames b
  split
  · exact h.next
  · refine .ite h.next ?_
    refine .ite h.modCluster.next ?_
    refine .ite h.next ?_
    extract_lets +onlyGivenNames t
    have ht : State.Canon t := h.modCluster
    split
    · exact ht.onWafer.next
    · exact ht.takeEntry.next

/-! ## The functions of `Machine/Names` keep the canonical form -/

theorem execNameSetField_canon {f s} (h : State.Canon s) : CanonNext (execNameSetField f s) :=
  h.compute (fun _ hc => hc.writeN)
theorem execNameAdd_canon {f s} (h : State.Canon s) : CanonNext (execNameAdd f s) := h.compute (fun _ hc => hc.writeN)
theorem execNameSetWhole_canon {f s} (h : State.Canon s) : CanonNext (execNameSetWhole f s) :=
  h.compute (fun _ hc => hc.writeN)
theorem execNameSetCopy_canon {f s} (h : State.Canon s) : CanonNext (execNameSetCopy f s) :=
  h.compute (fun _ hc => hc.writeN)
theorem execNameLd_canon {f s} (h : State.Canon s) : CanonNext (execNameLd f s) := by
  unfold execNameLd
  refine h.issue (fun s1 hs1 => ?_)
  extract_lets +onlyGivenNames a
  split
  · exact .fault
  · split
    · exact .fault
    · exact .done hs1.queueAccess
theorem execSubscribe_canon {f s} (h : State.Canon s) : CanonNext (execSubscribe f s) := by
  unfold execSubscribe
  refine h.issue (fun s1 hs1 => ?_)
  extract_lets +onlyGivenNames n k bad
  refine .ite .fault ?_
  refine .ite .fault ?_
  split
  · exact .fault
  · refine .ite .fault ?_
    extract_lets +onlyGivenNames s11
    have hs11 : State.Canon s11 := hs1.unregisterAll
    exact .ite .wait (.done (hs11.register.onCore (fun c hc => ⟨hc.spad, hc.wbuf⟩)))
theorem execUnsub_canon {f s} (h : State.Canon s) : CanonNext (execUnsub f s) :=
  h.issue (fun _ hs1 => .ite (.done hs1) (.done (hs1.unregisterAll.onCore (fun _ hc => ⟨hc.spad, hc.wbuf⟩))))
theorem Core.Canon.setW {c i x} (hc : Core.Canon c) : Core.Canon (Core.setW c i x) := ⟨hc.spad, hc.wbuf⟩
theorem execBind_canon {f s} (h : State.Canon s) : CanonNext (execBind f s) := by
  unfold execBind
  refine h.issue (fun s1 hs1 => ?_)
  extract_lets +onlyGivenNames n bad
  refine .ite .fault ?_
  split
  · exact .fault
  · exact .ite .fault (.ite .fault (.done (hs1.register.onCore (fun c hc => hc.setW))))
theorem execWtst_canon {f s} (h : State.Canon s) : CanonNext (execWtst f s) := by
  unfold execWtst
  refine h.issue (fun s1 hs1 => ?_)
  extract_lets +onlyGivenNames x
  split
  · exact .done (hs1.onCore (fun c hc => hc.writeP))
  · exact .done (hs1.unregisterAll.onCore (fun c hc => hc.setW.writeP))
  · exact .wait
  · exact .fault
theorem execMovStream_canon {f s} (h : State.Canon s) : CanonNext (execMovStream f s) := by
  unfold execMovStream
  refine h.issue (fun s1 hs1 => ?_)
  extract_lets +onlyGivenNames x
  split
  · exact .done (hs1.onCore (fun c hc => hc.setW.writeS))
  · exact .wait
  · exact .fault
theorem State.Canon.pubJob {s scope srcs pkts circ} (h : State.Canon s) :
    State.Canon (State.pubJob s scope srcs pkts circ) := by
  unfold State.pubJob
  extract_lets +onlyGivenNames x
  have hx : State.Canon x := h.onEng
  exact ⟨hx.bytes, hx.core, hx.others⟩
theorem State.Canon.injectCircuit {s c pkt} (h : State.Canon s) : State.Canon (State.injectCircuit s c pkt) :=
  ⟨h.bytes, h.core, h.others⟩
theorem State.Canon.publish {s circ pkt} (h : State.Canon s) : State.Canon (State.publish s circ pkt) := by
  unfold State.publish
  extract_lets +onlyGivenNames p e
  split
  · extract_lets +onlyGivenNames r
    have hr : State.Canon r.1 := h.seal
    exact State.Canon.injectCircuit (.ite hr.keepUp hr)
  · exact h.inject
theorem State.Canon.pubTile {s n a scope back} (h : State.Canon s) : Res.Canon (State.pubTile s n a scope back) :=
  .ite .wait (.done h.pubJob)
theorem State.Canon.captureStep {s p first} (h : State.Canon s) : State.Canon (State.captureStep s p first) := by
  unfold State.captureStep
  extract_lets +onlyGivenNames o x now bs tag x1
  have hx1 : State.Canon x1 := h.onEng
  exact ⟨hx1.bytes, hx1.core, hx1.others⟩
theorem State.Canon.pubStep {s} (h : State.Canon s) : State.Canon (State.pubStep s) := by
  unfold State.pubStep
  split
  · exact h
  · refine .ite (h.onEng.foldl (fun s1 hs1 k => hs1.publish)) ?_
    split
    · exact h.captureStep
    · exact .ite h.onEng h
theorem execPub_canon {f s} (h : State.Canon s) : CanonNext (execPub f s) := by
  unfold execPub
  refine h.issue (fun s1 hs1 => ?_)
  extract_lets +onlyGivenNames n a
  split
  · exact .fault
  · exact hs1.pubTile
theorem execPubC_canon {f s} (h : State.Canon s) : CanonNext (execPubC f s) := by
  unfold execPubC
  refine h.issue (fun s1 hs1 => ?_)
  extract_lets +onlyGivenNames n a x bad
  split
  · exact .fault
  · exact .ite .fault (.ite .fault (.ite .wait (.done hs1.pubJob)))
theorem execSteer_canon {f s} (h : State.Canon s) : CanonNext (execSteer f s) := by
  unfold execSteer
  refine h.issue (fun s1 hs1 => ?_)
  extract_lets +onlyGivenNames pick n n2 a m
  split
  · exact .fault
  · exact hs1.pubTile
theorem execRetn_canon {f s} (h : State.Canon s) : CanonNext (execRetn f s) := by
  unfold execRetn
  refine h.issue (fun s1 hs1 => ?_)
  extract_lets +onlyGivenNames a
  split
  · exact .fault
  · split
    · exact .fault
    · exact hs1.pubTile
theorem execDrain_canon {f s} (h : State.Canon s) : CanonNext (execDrain f s) :=
  h.issue (fun _ hs1 => .ite .wait (.done hs1.pubJob))
theorem State.Canon.popSpill {s h1 a} (h : State.Canon s) : State.Canon (State.popSpill s h1 a) := by
  induction a generalizing s with
  | zero => exact h
  | succ n ih => exact .ite h (ih h.hqPop)
theorem State.Canon.dropColour {s p tenant colour} (h : State.Canon s) :
    State.Canon (State.dropColour s p tenant colour) :=
  State.Canon.foldl ⟨h.bytes, h.core, h.others⟩ (fun _ ht _ => .ite ht.popSpill ht)
theorem State.Canon.saveScalar {s r d v} (h : State.Canon s) : State.Canon (State.saveScalar s r d v) := by
  obtain ⟨q, hq⟩ : ∃ q, q = s.readVa r.part r.tenant (r.csa + 0x9310) 8 .load := ⟨_, rfl⟩
  have hqc : q.1.Canon := hq ▸ h.readVa
  unfold State.saveScalar
  rw [← hq]
  dsimp only
  split
  · exact hqc
  · exact hqc.writeVa
theorem State.Canon.publishArgs {s p e c w} (h : State.Canon s) : State.Canon (State.publishArgs s p e c w) :=
  h.foldl (fun _ hs1 _ => hs1.inject)
theorem State.Canon.giveColour {s p c a} (h : State.Canon s) : State.Canon (State.giveColour s p c a) := by
  unfold State.giveColour
  extract_lets +onlyGivenNames s1
  have hs1 : State.Canon s1 := h.modPart
  split
  · exact hs1
  · split
    · exact hs1
    · exact hs1.modPart.publishArgs.saveScalar.ready
theorem State.Canon.returnColour {s p tenant c} (h : State.Canon s) :
    State.Canon (State.returnColour s p tenant c) := by
  unfold State.returnColour
  extract_lets +onlyGivenNames s1
  have hs1 : State.Canon s1 := h.dropColour.modPart
  split
  · exact hs1
  · exact hs1.giveColour
theorem State.Canon.blockSpawn {s f} (h : State.Canon s) : State.Canon (State.blockSpawn s f) :=
  h.leaveWith (fun _ ht _ => ht.modPart)
theorem State.Canon.spawn {s f block} (h : State.Canon s) : Res.Canon (State.spawn s f block) := by
  unfold State.spawn
  extract_lets +onlyGivenNames as
  split
  · exact .fault
  · split
    · exact .ite .wait (.done (h.modPart.pubJob.onCore (fun k hk => hk.writeS)))
    · exact .ite (.done (h.onCore (fun k hk => hk.writeS))) (.ite (.leave h.blockSpawn) .wait)
theorem execSpawn_canon {f s} (h : State.Canon s) : CanonNext (execSpawn f s) := h.issue (fun _ hs1 => hs1.spawn)
theorem execSpawnNb_canon {f s} (h : State.Canon s) : CanonNext (execSpawnNb f s) := h.issue (fun _ hs1 => hs1.spawn)
theorem execColourGet_canon {f s} (h : State.Canon s) : CanonNext (execColourGet f s) := by
  unfold execColourGet
  refine h.issue (fun s1 hs1 => ?_)
  split
  · exact .done (hs1.onCore (fun k hk => hk.writeS))
  · exact .done (hs1.modPart.onCore (fun k hk => hk.writeS))
theorem execColourFree_canon {f s} (h : State.Canon s) : CanonNext (execColourFree f s) :=
  h.issue (fun _ hs1 => .ite .fault (.done hs1.returnColour))

/-! ## The functions of `Machine/Match` keep the canonical form -/

theorem State.Canon.modRec {s a f} (h : State.Canon s) : State.Canon (State.modRec s a f) := by
  unfold State.modRec
  split
  · exact h.setRec
  · split
    · exact h.modCore (fun c hc => ⟨hc.spad, hc.wbuf⟩)
    · exact h
theorem State.Canon.countSink {s e} (h : State.Canon s) : State.Canon (State.countSink s e) := h.modLaunch
theorem State.Canon.regionDrained {s p q launch second} (h : State.Canon s) :
    State.Canon (State.regionDrained s p q launch second) := by
  unfold State.regionDrained
  split
  · exact h
  · exact .ite h h.modLaunch.inject.complete
theorem State.Canon.putEntry {s q e} (h : State.Canon s) : State.Canon (State.putEntry s q e) := by
  unfold State.putEntry
  extract_lets +onlyGivenNames c s1
  have hs1 : State.Canon s1 := by
    unfold s1
    split
    · exact h.setCluster
    · exact h.setCluster.countSink
  exact hs1.notePeaks
theorem State.Canon.modStream {s a w f} (h : State.Canon s) : State.Canon (State.modStream s a w f) := by
  unfold State.modStream
  split
  · exact h.setRec
  · split
    · exact h.modCore (fun c hc => hc.setW)
    · exact h
theorem State.Canon.feedTask {s a w bs} (h : State.Canon s) : ∀ t ∈ State.feedTask s a w bs, State.Canon t := by
  unfold State.feedTask
  split
  · exact mem_some h.modStream
  · exact mem_ite (mem_some h.modStream.notePeaks) mem_none
theorem State.Canon.arriveAt {s q e g d pkt} (h : State.Canon s) :
    ∀ t ∈ State.arriveAt s q e g d pkt, State.Canon t :=
  mem_ite (mem_some h) (mem_ite (mem_ite mem_none (mem_some h.putEntry)) (mem_ite mem_none (mem_some h.putEntry)))
theorem State.Canon.spillTry {s q p} (h : State.Canon s) : State.Canon (State.spillTry s q p) := by
  unfold State.spillTry
  split
  · exact h
  · exact .ite h.spillHold h
theorem State.Canon.spill {s q g pkt} (h : State.Canon s) : ∀ t ∈ State.spill s q g pkt, State.Canon t := by
  unfold State.spill
  split
  · exact mem_none
  · exact mem_ite mem_none (mem_some (State.Canon.modCluster (State.Canon.hqPut ⟨h.bytes, h.core, h.others⟩)))
theorem State.Canon.arrive {s q replay g pkt} (h : State.Canon s) :
    ∀ t ∈ State.arrive s q replay g pkt, State.Canon t := by
  unfold State.arrive
  split
  · exact mem_some h
  · split
    · exact mem_some h
    · extract_lets +onlyGivenNames e
      refine mem_ite (mem_some h) ?_
      split
      · exact h.feedTask
      · split
        · exact h.arriveAt
        · exact h.arriveAt
        · exact h.spill
        · exact mem_none
theorem State.Canon.dropEntry {s q e} (h : State.Canon s) : State.Canon (State.dropEntry s q e) := h.modCluster
theorem State.Canon.releaseEntry {s q e} (h : State.Canon s) : State.Canon (State.releaseEntry s q e) :=
  h.dropEntry.modCluster
theorem State.Canon.heldArrive {s g pkt} (h : State.Canon s) : ∀ t ∈ State.heldArrive s g pkt, State.Canon t := by
  unfold State.heldArrive
  split
  · exact mem_some h
  · refine mem_ite mem_none ?_
    extract_lets +onlyGivenNames ls s1
    have hs1 : State.Canon s1 := h.modRec.notePeaks.unregister
    split
    · exact mem_some (.ite hs1.ready hs1)
    · exact mem_some hs1
theorem State.Canon.bindArrive {s g w pkt} (h : State.Canon s) : ∀ t ∈ State.bindArrive s g w pkt, State.Canon t := by
  unfold State.bindArrive
  split
  · exact mem_some h
  · exact h.feedTask
theorem State.Canon.markSeen {s q g pkt} (h : State.Canon s) : State.Canon (State.markSeen s q g pkt) := h.modCluster
theorem State.Canon.lostNotice {s q} (h : State.Canon s) : State.Canon (State.lostNotice s q) := h.modCluster
theorem State.Canon.notice {s q g pkt} (h : State.Canon s) : State.Canon (State.notice s q g pkt) :=
  .ite h.lostNotice (.ite h.lostNotice (.ite h.spillHold.lostNotice h.hqPut))
theorem State.Canon.arriveReg {s q g pkt} (h : State.Canon s) : ∀ t ∈ State.arriveReg s q g pkt, State.Canon t := by
  unfold State.arriveReg
  split
  · exact h.arrive
  · exact h.heldArrive
  · exact mem_map_of h.bindArrive (fun t ht => ht.markSeen)
  · exact mem_some h.modStream.markSeen
  · refine mem_some ?_
    split
    · exact h
    · split
      · exact h
      · extract_lets +onlyGivenNames e
        refine .ite h ?_
        split
        · exact h.modStream
        · split
          · exact h
          · exact h.putEntry
  · exact mem_some h
theorem State.Canon.ackDelivery {s q x} (h : State.Canon s) : State.Canon (State.ackDelivery s q x) :=
  .ite h ⟨h.bytes, h.core, h.others⟩
theorem State.Canon.filterPair {s q pkt} (h : State.Canon s) : State.Canon (State.filterPair s q pkt) := h.modCluster
theorem State.Canon.accept {s q x} (h : State.Canon s) : State.Canon (State.accept s q x) :=
  .ite h (State.Canon.ackDelivery (.ite h.filterPair h))
theorem State.Canon.takeCopy {s q i x} (h : State.Canon s) : State.Canon (State.takeCopy s q i x) := by
  unfold State.takeCopy
  dsimp only
  refine .ite h.modCluster.accept ?_
  split
  · exact h.accept
  · refine .ite (.ite h.chosen.spillTry.modCluster h.chosen.spillTry.modCluster.modCluster) ?_
    split
    · exact .ite h.chosen.spillTry.modCluster h.chosen.spillTry.modCluster.modCluster
    · rename_i t1 ht1
      exact State.Canon.accept (.ite (h.chosen.arriveReg t1 ht1) (h.chosen.arriveReg t1 ht1).modCluster)
/-- What taking a delivery answers keeps the canonical form. -/
inductive Taken.Canon : Taken → Prop
  | done {s : State} (h : s.Canon) : Taken.Canon (.done s)
  | drop {s : State} (h : s.Canon) : Taken.Canon (.drop s)
  | split {pkt : Packet} : Taken.Canon (.split pkt)
theorem Taken.Canon.ite {p : Prop} [Decidable p] {r q : Taken} (h : r.Canon) (g : q.Canon) :
    Taken.Canon (if p then r else q) := by
  split <;> assumption
theorem State.Canon.takeDelivery {s q x} (h : State.Canon s) : Taken.Canon (State.takeDelivery s q x) := by
  unfold State.takeDelivery
  extract_lets c pkt gs byPattern notes full
  have hn : State.Canon (notes.foldl (fun s g => s.notice q g pkt) s) := h.foldl fun t ht g => ht.notice
  clear_value notes byPattern full gs
  refine .ite (.done h.modCluster.ackDelivery) (.ite ?_ (.ite (.done h.ackDelivery) (.ite (.drop h) (.ite
      ?_ .split))))
  · exact .ite (.done h.ackDelivery) (.ite (.drop h) (.done hn.filterPair.ackDelivery))
  · exact .ite (.done h.modCluster) (.done h.ackDelivery)
theorem execDelivery_canon {cluster s} (h : State.Canon s) : CanonNext (execDelivery cluster s) := by
  unfold execDelivery
  extract_lets l
  split
  · exact h.next
  · next x i _ =>
    extract_lets s1
    have hs1 : State.Canon s1 := h.chosen.modCluster
    refine .ite hs1.takeCopy.next (.ite hs1.next ?_)
    have ht : (s1.takeDelivery cluster x).Canon := hs1.takeDelivery
    generalize s1.takeDelivery cluster x = r at ht
    cases ht with
    | done h2 => exact h2.next
    | drop h2 => exact h2.next
    | split => exact hs1.takeCopy.next
theorem State.Canon.admitHeld {s q a a3} (h : State.Canon s) : State.Canon (State.admitHeld s q a a3) := by
  induction a3 generalizing s a with
  | nil => exact h
  | cons x rest ih =>
    unfold State.admitHeld
    refine .ite (State.Canon.accept h.modCluster.modCluster) (.ite (ih h) ?_)
    split
    · exact h.modCluster.accept
    · split
      · next t ht => exact (h.modCluster.arriveReg t ht).accept
      · exact ih h
theorem execNegativeAck_canon {cluster s} (h : State.Canon s) : CanonNext (execNegativeAck cluster s) := by
  unfold execNegativeAck
  extract_lets +onlyGivenNames l
  split
  · exact h.next
  · extract_lets +onlyGivenNames s1
    have hs1 : State.Canon s1 := h.chosen.modCluster
    exact State.Canon.next ⟨hs1.bytes, hs1.core, hs1.others⟩
theorem State.Canon.closeSink {s q e closed} (h : State.Canon s) : State.Canon (State.closeSink s q e closed) :=
  h.modLaunch.regionDrained.regionDrained
theorem State.Canon.closeSub {s q t e k} (h : State.Canon s) : State.Canon (State.closeSub s q t e k) := by
  unfold State.closeSub
  extract_lets +onlyGivenNames c all e1 full s1
  have hs1 : State.Canon s1 := h.putEntry.closeSink
  refine .ite hs1.modCluster ?_
  extract_lets +onlyGivenNames s2
  have hs2 : State.Canon s2 := hs1.modCluster
  exact .ite hs2 hs2.releaseEntry
theorem State.Canon.markReg {s q replay g pkt} (h : State.Canon s) :
    ∀ t ∈ State.markReg s q replay g pkt, State.Canon t := by
  unfold State.markReg
  split
  · exact mem_some h
  · split
    · exact mem_some h
    · extract_lets +onlyGivenNames e
      refine mem_ite (mem_some h) ?_
      split
      · exact mem_some h.closeSub
      · exact mem_some h.closeSub
      · exact h.spill
      · exact mem_none
theorem State.Canon.markCopies {s q pkt} (h : State.Canon s) : State.Canon (State.markCopies s q pkt).1 := by
  unfold State.markCopies
  refine h.foldl_fst (fun acc hacc g => ?_)
  split
  · rename_i t1 ht1
    exact (hacc.markReg t1 ht1).pair
  · exact hacc
theorem State.Canon.markOne {s q i x} (h : State.Canon s) : ∀ t ∈ State.markOne s q i x, State.Canon t := by
  unfold State.markOne
  extract_lets +onlyGivenNames s1 r
  have hs1 : State.Canon s1 := h.modCluster
  have hr : State.Canon r.1 := hs1.markCopies
  exact mem_ite (mem_some hr.accept) (mem_ite mem_none (mem_some hr.modCluster))
theorem execDrainMarkerArrival_canon {cluster s} (h : State.Canon s) : CanonNext (execDrainMarkerArrival cluster s) :=
  State.Canon.next (State.Canon.getD (mem_findSome (fun _ => h.markOne)) (h.elim (fun _ => h.spillTry)))
theorem State.Canon.unspillOne {s q g pkt} (h : State.Canon s) : ∀ t ∈ State.unspillOne s q g pkt, State.Canon t :=
  mem_ite h.markReg h.arrive
theorem State.Canon.replaySpill {s q a} (h : State.Canon s) : State.Canon (State.replaySpill s q a) := by
  induction a generalizing s with
  | zero => exact h
  | succ n ih =>
    unfold State.replaySpill
    split
    · exact h
    · split
      · exact h
      · next t ht => exact ih (h.unspillOne t ht).modCluster.popSpill
theorem State.Canon.replay {s q} (h : State.Canon s) : State.Canon (State.replay s q) := h.replaySpill
theorem execStagingAdmit_canon {cluster s} (h : State.Canon s) : CanonNext (execStagingAdmit cluster s) := by
  unfold execStagingAdmit
  extract_lets +onlyGivenNames s1
  have hs1 : State.Canon s1 := h.replay
  exact hs1.admitHeld.next
theorem execDrainForward_canon {cluster idx s} (h : State.Canon s) : CanonNext (execDrainForward cluster idx s) := by
  unfold execDrainForward
  split
  · exact h.next
  · refine .ite h.next ?_
    extract_lets +onlyGivenNames s1 s2
    have hs1 : State.Canon s1 := h.modCluster
    have hs2 : State.Canon s2 := hs1.elim (fun e1 => hs1.releaseEntry)
    split
    · exact State.Canon.next (hs2.foldl (fun s3 hs3 o => hs3.inject))
    · exact hs2.next
theorem execFilterExpiry_canon {cluster idx s} (h : State.Canon s) : CanonNext (execFilterExpiry cluster idx s) := by
  unfold execFilterExpiry
  extract_lets +onlyGivenNames c
  split
  · exact h.next
  · exact .ite h.setCluster.next h.next

/-! ## The functions of `Machine/Launches` keep the canonical form -/

theorem State.Canon.mapped {s p tenant va n u} (h : State.Canon s) :
    State.Canon (State.mapped s p tenant va n u).1 := by
  unfold State.mapped
  refine h.foldl_fst (fun acc hacc x => ?_)
  extract_lets +onlyGivenNames r
  have hr : State.Canon r.1 := hacc.translate
  split
  · exact hr
  · exact hr
theorem State.Canon.launchMapped {s p r} (h : State.Canon s) : State.Canon (State.launchMapped s p r).1 := by
  unfold State.launchMapped
  refine h.foldl_fst (fun acc hacc x => ?_)
  extract_lets +onlyGivenNames m
  have hm : State.Canon m.1 := hacc.mapped
  exact hm
theorem State.Canon.peekVa {s p tenant va n} (h : State.Canon s) : State.Canon (State.peekVa s p tenant va n).1 := by
  unfold State.peekVa
  extract_lets +onlyGivenNames r
  have hr : State.Canon r.1 := h.readVa
  split
  · exact hr
  · exact hr
theorem State.Canon.readTmpls {s p r} (h : State.Canon s) : State.Canon (State.readTmpls s p r).1 := by
  unfold State.readTmpls
  refine h.foldl_fst (fun acc hacc t => ?_)
  extract_lets +onlyGivenNames q
  have hq : State.Canon q.1 := hacc.peekVa
  exact hq
theorem State.Canon.imageNames {s p tenant data dsize outs} (h : State.Canon s) :
    State.Canon (State.imageNames s p tenant data dsize outs).1 := by
  unfold State.imageNames
  refine h.foldl_fst (fun acc hacc o => ?_)
  split
  · exact hacc
  · refine .ite_fst ?_ hacc
    extract_lets +onlyGivenNames q
    have hq : State.Canon q.1 := hacc.peekVa
    exact hq
theorem State.Canon.launchNames {s p r ts} (h : State.Canon s) : State.Canon (State.launchNames s p r ts).1 := by
  unfold State.launchNames
  refine h.foldl_fst (fun acc hacc t => ?_)
  extract_lets +onlyGivenNames q
  have hq : State.Canon q.1 := hacc.imageNames
  exact hq
theorem State.Canon.acceptLaunch {s p sup r ts tag} (h : State.Canon s) :
    State.Canon (State.acceptLaunch s p sup r ts tag) :=
  h.chosen.modPart.complete
theorem State.Canon.takeLaunch {s p sup e} (h : State.Canon s) : ∀ t ∈ State.takeLaunch s p sup e, State.Canon t := by
  unfold State.takeLaunch
  dsimp only
  refine mem_ite (mem_some h.complete) ?_
  refine mem_ite mem_none ?_
  split
  · exact mem_some h.readG64
  · refine mem_ite mem_none ?_
    split
    · exact mem_some h.readG64.launchMapped.readTmpls.launchNames.acceptLaunch
    · exact mem_some h.readG64.launchMapped.readTmpls.launchNames.complete
theorem State.Canon.acceptAgents {s p} (h : State.Canon s) : State.Canon (State.acceptAgents s p) := by
  unfold State.acceptAgents
  extract_lets +onlyGivenNames id free level l x
  have hx : State.Canon x := h.chosen.modPart
  exact ⟨hx.bytes, hx.core, hx.others⟩
theorem execLaunchAccept_canon {part sup s} (h : State.Canon s) : CanonNext (execLaunchAccept part sup s) := by
  unfold execLaunchAccept
  extract_lets +onlyGivenNames qs
  refine .ite h.acceptAgents.next ?_
  split
  · exact h.next
  · extract_lets +onlyGivenNames r s1
    have hr : State.Canon r.1 := h.chosen.hqHead
    have hs1 : State.Canon s1 := hr.hqPop.drainPosts
    split
    · exact hs1.next
    · exact (State.Canon.getD hs1.takeLaunch h).next
theorem State.Canon.loadDict {s p q kernel tenant va n auto} (h : State.Canon s) :
    ∀ t ∈ State.loadDict s p q kernel tenant va n auto, State.Canon t := by
  unfold State.loadDict
  extract_lets +onlyGivenNames c
  refine mem_ite (mem_some h) ?_
  refine mem_ite mem_none ?_
  extract_lets +onlyGivenNames r
  have hr : State.Canon r.1 := h.readVa
  split
  · exact mem_none
  · exact mem_some hr.modCluster
theorem Core.Canon.takeRegion {c p launch size image} (hc : Core.Canon c) :
    Core.Canon (Core.takeRegion c p launch size image) :=
  .ite hc ⟨Mem.wf_write hc.spad .., hc.wbuf⟩
theorem State.Canon.levelOuts {s p l x} (h : State.Canon s) : State.Canon (State.levelOuts s p l x).1 := by
  unfold State.levelOuts
  refine h.foldl_fst (fun acc hacc t => ?_)
  split
  · exact hacc
  · extract_lets +onlyGivenNames r
    have hr : State.Canon r.1 := hacc.imageNames
    exact hr
theorem State.Canon.loadDicts {s p l qs} (h : State.Canon s) : ∀ t ∈ State.loadDicts s p l qs, State.Canon t :=
  mem_foldl (mem_some h) (fun _ hacc _ => mem_bind_of hacc (fun _ hs1 => hs1.loadDict))
theorem State.Canon.takeRegions {s p l x} (h : State.Canon s) : ∀ t ∈ State.takeRegions s p l x, State.Canon t := by
  unfold State.takeRegions
  refine mem_ite (mem_some h) ?_
  extract_lets +onlyGivenNames im
  have him : State.Canon im.1 := .ite_fst h h.peekVa
  exact mem_map (fun image => him.foldl (fun s1 hs1 w => hs1.modCore (fun c hc => hc.takeRegion)))
theorem State.Canon.putLinst {s p x y} (h : State.Canon s) : State.Canon (State.putLinst s p x y) := h.modPart
theorem State.Canon.settleInst {s p l x no} (h : State.Canon s) :
    ∀ t ∈ State.settleInst s p l x no, State.Canon t.1 := by
  unfold State.settleInst
  extract_lets +onlyGivenNames x0 qs
  refine mem_ite mem_none ?_
  refine mem_bind_of h.loadDicts (fun s1 hs1 => ?_)
  extract_lets +onlyGivenNames os
  have hos : State.Canon os.1 := hs1.levelOuts
  exact mem_bind (fun outs => mem_map_of hos.takeRegions (fun s2 hs2 => hs2))
theorem State.Canon.instantiate {s p l x no} (h : State.Canon s) :
    ∀ t ∈ State.instantiate s p l x no, State.Canon t := by
  unfold State.instantiate
  refine mem_bind_of h.settleInst (fun r hr => ?_)
  extract_lets +onlyGivenNames y s1
  have hs1 : State.Canon s1 := hr.putLinst.foldl (fun s1 hs1 g => hs1.register)
  split
  · exact mem_some hs1
  · exact mem_ite mem_none (mem_some hs1.putEntry)
theorem State.Canon.placeOne {s p l x nos} (h : State.Canon s) : ∀ t ∈ State.placeOne s p l x nos, State.Canon t.1 :=
  mem_findSome (fun _ => mem_map_of h.instantiate (fun _ hs1 => hs1))
theorem State.Canon.placeAll {s p l nos a} (h : State.Canon s) : ∀ t ∈ State.placeAll s p l nos a, State.Canon t := by
  induction a generalizing s nos with
  | nil => exact mem_some h
  | cons x rest ih =>
    unfold State.placeAll
    split
    · exact mem_none
    · next r hr => exact ih (h.chosen.placeOne r hr)
theorem execLevelInstantiate_canon {part launch level inst s} (h : State.Canon s) :
    CanonNext (execLevelInstantiate part launch level inst s) := by
  unfold execLevelInstantiate
  split
  · extract_lets +onlyGivenNames up
    refine .ite h.next ?_
    extract_lets +onlyGivenNames nos
    split
    · exact h.next
    · refine .ite (State.Canon.getD h.placeAll h).next ?_
      split
      · exact h.next
      · rename_i t ht
        exact (h.chosen.placeOne t ht).next
  · exact h.next
theorem State.Canon.releaseLaunch {s p launch count} (h : State.Canon s) :
    State.Canon (State.releaseLaunch s p launch count) := by
  unfold State.releaseLaunch
  extract_lets +onlyGivenNames regs s1
  have hs1 : State.Canon s1 := h.unregisterAll
  exact hs1.foldl (fun s2 hs2 e => hs2.modCluster.popSpill)
theorem State.Canon.endLaunch {s p launch} (h : State.Canon s) : State.Canon (State.endLaunch s p launch) := by
  unfold State.endLaunch
  split
  · exact h
  · exact h.modLaunch.releaseLaunch
theorem execPartEnd_canon {part v s} (h : State.Canon s) : CanonNext (execPartEnd part v s) := h.endLaunch.next
theorem State.Canon.resumeLaunch {s p launch} (h : State.Canon s) : State.Canon (State.resumeLaunch s p launch) :=
  h.modLaunch
theorem execPartResume_canon {part v s} (h : State.Canon s) : CanonNext (execPartResume part v s) :=
  h.resumeLaunch.next
theorem Core.Canon.freeRegion {p launch c} (hc : Core.Canon c) : Core.Canon (Core.freeRegion p launch c) :=
  ⟨hc.spad, hc.wbuf⟩
theorem State.Canon.retireLaunch {s p launch l} (h : State.Canon s) :
    State.Canon (State.retireLaunch s p launch l) := by
  have hr : (s.releaseLaunch p launch false).Canon := h.releaseLaunch
  exact State.Canon.complete (State.Canon.modPart
    ⟨hr.bytes, hr.core.freeRegion, others_map hr.others fun _ hc => hc.freeRegion⟩)
theorem execLaunchRetire_canon {part launch s} (h : State.Canon s) : CanonNext (execLaunchRetire part launch s) := by
  unfold execLaunchRetire
  split
  · exact h.next
  · exact .ite h.retireLaunch.next h.next
theorem State.Canon.stripShare {s p q x m} (h : State.Canon s) : State.Canon (State.stripShare s p q x m) := by
  unfold State.stripShare
  extract_lets +onlyGivenNames c0 gs copies s1
  have hs1 : State.Canon s1 := h.modCluster
  exact hs1.popSpill
theorem State.Canon.landWaiting {s y q w} (h : State.Canon s) : State.Canon (State.landWaiting s y q w) := by
  unfold State.landWaiting
  extract_lets +onlyGivenNames there
  split
  · exact h
  · exact h.modCluster
theorem State.Canon.moveRunner {s q t w} (h : State.Canon s) : State.Canon (State.moveRunner s q t w) :=
  h.modCore (fun _ hc => ⟨hc.spad, hc.wbuf⟩)
theorem State.Canon.landShare {s p q x y m} (h : State.Canon s) : State.Canon (State.landShare s p q x y m) := by
  unfold State.landShare
  extract_lets +onlyGivenNames there s1 s2 s3 s4 s4r s5
  have hs1 : State.Canon s1 := h.foldl (fun s1 hs1 e => hs1.modCluster)
  have hs2 : State.Canon s2 := hs1.foldl (fun s2 hs2 e => hs2.modCluster)
  have hs3 : State.Canon s3 := hs2.foldl (fun s3 hs3 k => hs3.modCluster)
  have hs4 : State.Canon s4 := by
    unfold s4
    refine hs3.foldl (fun s4 hs4 a => ?_)
    split
    · exact hs4
    · extract_lets +onlyGivenNames t
      have ht : State.Canon t := hs4.setRec
      exact .ite ht.modCluster ht
  have hs4r : State.Canon s4r := hs4.foldl (fun s5 hs5 w => hs5.moveRunner)
  have hs5 : State.Canon s5 := hs4r.unregisterAll.foldl (fun s5 hs5 g => hs5.register)
  exact hs5.foldl (fun s6 hs6 w => hs6.landWaiting)
theorem State.Canon.rehome {s p l x y} (h : State.Canon s) : ∀ t ∈ State.rehome s p l x y, State.Canon t := by
  unfold State.rehome
  extract_lets +onlyGivenNames gone new ms
  refine mem_ite mem_none ?_
  extract_lets +onlyGivenNames s1 level s2 s3
  have hs1 : State.Canon s1 := h.foldl (fun s1 hs1 m => hs1.stripShare)
  have hs2 : State.Canon s2 := hs1.unregisterAll.putLinst
  have hs3 : State.Canon s3 := hs2.foldl (fun s3 hs3 g => hs3.register)
  exact mem_some (hs3.foldl (fun s4 hs4 m => hs4.landShare))
theorem State.Canon.noCapacityTasks {s p x} (h : State.Canon s) : State.Canon (State.noCapacityTasks s p x) :=
  h.foldl (fun _ hs1 _ => hs1.modCluster.modPart.setRec)
theorem State.Canon.leaveCluster {s p l x} (h : State.Canon s) : State.Canon (State.leaveCluster s p l x) := by
  unfold State.leaveCluster
  split
  · exact State.Canon.getD h.rehome h
  · exact h
theorem execLevelReplace_canon {part launch level inst s} (h : State.Canon s) :
    CanonNext (execLevelReplace part launch level inst s) := by
  unfold execLevelReplace
  split
  · refine .ite h.next ?_
    refine .ite h.leaveCluster.next ?_
    extract_lets +onlyGivenNames all nos
    split
    · exact State.Canon.next (.ite h.noCapacityTasks h)
    · exact State.Canon.next (State.Canon.getD (mem_bind_of h.chosen.settleInst (fun r hr => hr.rehome)) h)
  · exact h.next

/-! ## The functions of `Machine/Tasks` keep the canonical form -/

theorem State.Canon.fire {s q e} (h : State.Canon s) : State.Canon (State.fire s q e) := by
  unfold State.fire
  split
  · exact h
  · extract_lets +onlyGivenNames level
    split
    · extract_lets +onlyGivenNames free s0
      have hs0 : State.Canon s0 := h.chosen
      split
      · refine .ite h ?_
        extract_lets +onlyGivenNames r
        split
        · exact h
        · exact hs0.chosen.dropEntry.modLaunch.ready
      · exact h
    · exact h
theorem execInstanceFire_canon {cluster idx s} (h : State.Canon s) : CanonNext (execInstanceFire cluster idx s) := by
  unfold execInstanceFire
  split
  · exact h.next
  · exact h.fire.next
theorem Core.Canon.moveAll {c t} (hc : Core.Canon c) : Core.Canon (Core.moveAll c t) := by
  unfold Core.moveAll
  extract_lets +onlyGivenNames x
  have hx : Core.Canon x := by
    unfold x
    refine hc.foldl (fun c1 hc1 l => ?_)
    split
    · exact .ite hc1.spadPut hc1
    · exact hc1
  exact ⟨hx.spad, hx.wbuf⟩
theorem Core.Canon.seat {c r} (hc : Core.Canon c) : Core.Canon (Core.seat c r) := by
  unfold Core.seat
  extract_lets +onlyGivenNames x
  have hx : Core.Canon x := hc.idle
  exact ⟨hx.spad, Mem.wf_ite hc.wbuf rfl⟩
theorem Core.Canon.firstLoad {c r} (hc : Core.Canon c) : Core.Canon (Core.firstLoad c r) := ⟨hc.spad, hc.wbuf⟩
theorem State.Canon.reloadFault {s r w f} (h : State.Canon s) : State.Canon (State.reloadFault s r w f) :=
  h.setRec.message
theorem State.Canon.unqueue {s r} (h : State.Canon s) : State.Canon (State.unqueue s r) := h.modCluster.dropRec
theorem State.Canon.dispatch {s r0} (h : State.Canon s) : State.Canon (State.dispatch s r0) := by
  unfold State.dispatch
  extract_lets +onlyGivenNames r s1
  have hs1 : State.Canon s1 := h.unqueue.modPart
  split
  · exact h
  · refine .ite (hs1.onCore fun c hc => hc.seat.firstLoad.moveAll) ?_
    obtain ⟨q, hq⟩ : ∃ q, q = s1.readVa r.part r.tenant r.csa Config.saveBytes .load := ⟨_, rfl⟩
    have hqc : q.1.Canon := hq ▸ hs1.readVa
    rw [← hq]
    dsimp only
    split
    · exact .ite h hqc.reloadFault
    · exact hqc.onCore fun c hc => hc.seat.reload.moveAll
theorem execTaskDispatch_canon {core s} (h : State.Canon s) : CanonNext (execTaskDispatch core s) := by
  unfold execTaskDispatch
  refine .ite h.next ?_
  split
  · exact h.next
  · exact h.chosen.focus.dispatch.next
theorem State.Canon.withdrawFe {s} (h : State.Canon s) : State.Canon (State.withdrawFe s) := by
  unfold State.withdrawFe
  extract_lets +onlyGivenNames x
  have hx : State.Canon x := h.onEng
  exact ⟨h.bytes, hx.core, hx.others⟩
theorem State.Canon.withdrawClose {s} (h : State.Canon s) : State.Canon (State.withdrawClose s) := h.modCluster
theorem State.Canon.suspendIf {s leave} (h : State.Canon s) (hleave : ∀ t, State.Canon t → State.Canon (leave t)) :
    State.Canon (State.suspendIf s leave) := by
  unfold State.suspendIf
  extract_lets +onlyGivenNames s1 s2
  have hs1 : State.Canon s1 := h.front
  have hs2 : State.Canon s2 := hs1.withdrawFe
  exact .ite h (hleave _ hs2.withdrawClose)
theorem execQuantumExpiry_canon {core s} (h : State.Canon s) : CanonNext (execQuantumExpiry core s) := by
  unfold execQuantumExpiry
  extract_lets +onlyGivenNames s1
  have hs1 : State.Canon s1 := h.focus
  refine .ite h.next ?_
  extract_lets +onlyGivenNames t
  have ht : State.Canon t := hs1.suspendIf (fun s2 hs2 => .ite hs2.suspendHere hs2.suspendHere)
  exact State.Canon.next (.ite h ht)
theorem execPreEmption_canon {core s} (h : State.Canon s) : CanonNext (execPreEmption core s) := by
  unfold execPreEmption
  extract_lets +onlyGivenNames s1
  have hs1 : State.Canon s1 := h.focus
  refine .ite h.next ?_
  extract_lets +onlyGivenNames s2 t
  have hs2 : State.Canon s2 := .ite (hs1.onCore (fun c hc => ⟨hc.spad, hc.wbuf⟩)) hs1
  have ht : State.Canon t := hs2.suspendIf (fun s3 hs3 => hs3.suspendHere)
  exact State.Canon.next (.ite h ht)
theorem execDeferredRequestWithdrawn_canon {core s} (h : State.Canon s) :
    CanonNext (execDeferredRequestWithdrawn core s) := by
  unfold execDeferredRequestWithdrawn
  extract_lets +onlyGivenNames s1
  have hs1 : State.Canon s1 := h.focus
  exact .ite hs1.withdrawFe.next h.next
theorem execAgingPromotion_canon {cluster rec_ s} (h : State.Canon s) :
    CanonNext (execAgingPromotion cluster rec_ s) := by
  unfold execAgingPromotion
  extract_lets +onlyGivenNames c
  split
  · exact h.next
  · exact .ite h.setRec.setCluster.next h.next

/-! ## The functions of `Machine/Bundles` keep the canonical form -/

theorem State.Canon.fetchHalves {s l pc n} (h : State.Canon s) : State.Canon (State.fetchHalves s l pc n).1 := by
  unfold State.fetchHalves
  refine .ite_fst h ?_
  refine h.foldl_fst (fun acc hacc part => ?_)
  split
  · exact hacc
  · extract_lets +onlyGivenNames r
    have hr : State.Canon r.1 := hacc.readVa
    split
    · exact hr
    · exact hr
theorem State.Canon.fetchBundle {s l} (h : State.Canon s) : State.Canon (State.fetchBundle s l).1 := by
  unfold State.fetchBundle
  extract_lets +onlyGivenNames pc r
  have hr : State.Canon r.1 := h.fetchHalves
  split
  · exact hr
  · extract_lets +onlyGivenNames x
    split
    · exact hr
    · exact hr
    · split
      · exact hr
      · exact hr
    · extract_lets +onlyGivenNames e
      have he : State.Canon e.1 := hr.fetchHalves
      split
      · exact he
      · exact he
theorem Core.Canon.atDispatch {c} (hc : Core.Canon c) : Core.Canon (Core.atDispatch c) := ⟨hc.spad, hc.wbuf⟩
theorem Core.Canon.push {c b} (hc : Core.Canon c) : Core.Canon (Core.push c b) := by
  unfold Core.push
  refine .ite ⟨hc.spad, hc.wbuf⟩ ?_
  extract_lets +onlyGivenNames d
  have hd : Core.Canon d := ⟨hc.spad, hc.wbuf⟩
  exact .ite hd.retire hd
theorem Core.Canon.latch {c b adv marked block} (hc : Core.Canon c) : Core.Canon (Core.latch c b adv marked block) :=
  Core.Canon.push ⟨hc.spad, hc.wbuf⟩
theorem State.Canon.standBy {s} (h : State.Canon s) : State.Canon (State.standBy s) :=
  h.onCore (fun _ hc => ⟨hc.spad, hc.wbuf⟩)
theorem State.Canon.dispatchFault {s e} (h : State.Canon s) : State.Canon (State.dispatchFault s e) :=
  .ite h.takeFault h.standBy
theorem State.Canon.dispatchBundle {s l} (h : State.Canon s) : State.Canon (State.dispatchBundle s l) := by
  unfold State.dispatchBundle
  dsimp only
  split
  · exact h.fetchBundle.dispatchFault
  · refine .ite h.fetchBundle.standBy ?_
    split
    · exact h.fetchBundle.dispatchFault
    · refine .ite (h.fetchBundle.onCore (fun c hc => hc.latch)) ?_
      split
      · exact h.fetchBundle.readVa.dispatchFault
      · exact h.fetchBundle.readVa.onCore (fun c hc => hc.latch)
theorem execBundleDispatch_canon {s} (h : State.Canon s) : CanonNext (execBundleDispatch s) := by
  unfold execBundleDispatch
  refine .ite h.next ?_
  refine .ite h.standBy.next ?_
  split
  · exact h.standBy.next
  · exact h.dispatchBundle.next

/-! ## The functions of `Machine/Holds` keep the canonical form -/

theorem State.Canon.writeHold {s p v} (h : State.Canon s) : State.Canon (State.writeHold s p v) := h.modPart
theorem execPartHoldNamed_canon {part on s} (h : State.Canon s) : CanonNext (execPartHoldNamed part on s) :=
  h.writeHold.next
theorem execPartHoldCirc_canon {part on s} (h : State.Canon s) : CanonNext (execPartHoldCirc part on s) :=
  h.writeHold.next
theorem execPartHoldStr_canon {part on s} (h : State.Canon s) : CanonNext (execPartHoldStr part on s) :=
  h.writeHold.next
theorem State.Canon.writeNetCfg {s p v} (h : State.Canon s) : State.Canon (State.writeNetCfg s p v) :=
  .ite h h.modPart
theorem execNetCfgWrite_canon {part v s} (h : State.Canon s) : CanonNext (execNetCfgWrite part v s) :=
  h.writeNetCfg.next
theorem State.Canon.writeRoot {s p i v} (h : State.Canon s) : State.Canon (State.writeRoot s p i v) :=
  .ite h h.modPart
theorem execXlatRootWrite_canon {part idx v s} (h : State.Canon s) : CanonNext (execXlatRootWrite part idx v s) :=
  h.writeRoot.next
theorem State.Canon.writeFeClr {s p v} (h : State.Canon s) : State.Canon (State.writeFeClr s p v) :=
  ⟨h.bytes, h.core, h.others⟩
theorem execRimFeClr_canon {part v s} (h : State.Canon s) : CanonNext (execRimFeClr part v s) := h.writeFeClr.next
theorem State.Canon.writeKeySlot {s p v} (h : State.Canon s) : State.Canon (State.writeKeySlot s p v) := h.modPart
theorem execKeySlotSelect_canon {part v s} (h : State.Canon s) : CanonNext (execKeySlotSelect part v s) :=
  h.modPart.next
theorem execKeySlotClear_canon {part v s} (h : State.Canon s) : CanonNext (execKeySlotClear part v s) :=
  h.modPart.next
theorem execKeySlotEmpty_canon {part slot s} (h : State.Canon s) : CanonNext (execKeySlotEmpty part slot s) := by
  unfold execKeySlotEmpty
  split
  · exact h.next
  · exact .ite h.modPart.next h.next
theorem State.Canon.readStage {s q} (h : State.Canon s) : State.Canon (State.readStage s q).1 := h.modCluster.pair
theorem State.Canon.writeStage {s q v} (h : State.Canon s) : State.Canon (State.writeStage s q v) :=
  .ite h h.modCluster
theorem execClusStageRead_canon {cluster s} (h : State.Canon s) : CanonNext (execClusStageRead cluster s) :=
  h.readStage.next
theorem execClusStageWrite_canon {cluster v s} (h : State.Canon s) : CanonNext (execClusStageWrite cluster v s) :=
  h.writeStage.next
theorem State.Canon.readFill {s q} (h : State.Canon s) : State.Canon (State.readFill s q).1 := h.modCluster.pair
theorem execClusMstoreFillRead_canon {cluster s} (h : State.Canon s) : CanonNext (execClusMstoreFillRead cluster s) :=
  h.readFill.next
theorem State.Canon.writeLoad {s p v} (h : State.Canon s) : State.Canon (State.writeLoad s p v) := h.modPart
theorem execPartLoadDescriptors_canon {part v s} (h : State.Canon s) : CanonNext (execPartLoadDescriptors part v s) :=
  h.writeLoad.next
theorem execPartLoadRanges_canon {part v s} (h : State.Canon s) : CanonNext (execPartLoadRanges part v s) :=
  h.writeLoad.next
theorem execPartLoadCircuits_canon {part v s} (h : State.Canon s) : CanonNext (execPartLoadCircuits part v s) :=
  h.writeLoad.next
theorem State.Canon.imageBytes {s p pa n} (h : State.Canon s) : State.Canon (State.imageBytes s p pa n).1 :=
  .ite_fst h h.readG64
theorem State.Canon.loadDescs {s p ld} (h : State.Canon s) : State.Canon (State.loadDescs s p ld).1 := by
  unfold State.loadDescs
  extract_lets +onlyGivenNames h1
  have hh1 : State.Canon h1.1 := h.imageBytes
  split
  · exact hh1
  · extract_lets +onlyGivenNames tenant n
    refine .ite_fst hh1 ?_
    extract_lets +onlyGivenNames b
    have hb : State.Canon b.1 := hh1.imageBytes
    split
    · exact hb
    · exact .ite_fst hb hb.modPart.pair
theorem State.Canon.loadRanges {s p ld} (h : State.Canon s) : State.Canon (State.loadRanges s p ld).1 := by
  unfold State.loadRanges
  refine .ite_fst h ?_
  extract_lets +onlyGivenNames b
  have hb : State.Canon b.1 := h.imageBytes
  split
  · exact hb
  · exact .ite_fst hb.modPart.pair hb
theorem State.Canon.loadCircuits {s p ld} (h : State.Canon s) : State.Canon (State.loadCircuits s p ld).1 := by
  unfold State.loadCircuits
  refine .ite_fst h ?_
  extract_lets +onlyGivenNames rs b
  have hb : State.Canon b.1 := h.imageBytes
  split
  · exact hb
  · exact .ite_fst hb (State.Canon.pair (hb.modPart.foldl (fun s1 hs1 r => hs1.modRouter)))
theorem execPartLoadDone_canon {part s} (h : State.Canon s) : CanonNext (execPartLoadDone part s) := by
  unfold execPartLoadDone
  extract_lets +onlyGivenNames x
  refine .ite h.next ?_
  extract_lets +onlyGivenNames r
  have hr : State.Canon r.1 := by
    unfold r
    split
    · exact h.loadDescs
    · exact h.loadRanges
    · exact h.loadCircuits
    · exact h
  exact hr.modPart.next

/-! ## The functions of `Machine/Efault` keep the canonical form -/

theorem Core.Canon.abandon {c g} (hc : Core.Canon c) : Core.Canon (Core.abandon c g) := by
  unfold Core.abandon
  extract_lets +onlyGivenNames e e1
  split
  · exact ⟨hc.spad, hc.wbuf⟩
  · exact ⟨hc.spad, hc.wbuf⟩
  · exact ⟨hc.spad, hc.wbuf⟩
  · exact ⟨hc.spad, hc.wbuf⟩
  · exact ⟨hc.spad, hc.wbuf⟩
  · exact ⟨hc.spad, hc.wbuf⟩
theorem State.Canon.abandonHolds {s p launch} (h : State.Canon s) : State.Canon (State.abandonHolds s p launch) :=
  h.foldl (fun _ hs1 _ => hs1.modCore (fun _ hc => hc.foldl (fun _ hc1 _ => hc1.abandon)))
theorem State.Canon.efaultRetry {s w} (h : State.Canon s) : State.Canon (State.efaultRetry s w) := by
  unfold State.efaultRetry
  split
  · exact h
  · exact h.modCore (fun c hc => ⟨hc.spad, hc.wbuf⟩)
theorem State.Canon.abandonTask {s w cause last} (h : State.Canon s) :
    State.Canon (State.abandonTask s w cause last) :=
  State.Canon.checkpointHold (h.abandonHolds.modCore (fun _ hc => ⟨hc.spad, hc.wbuf⟩))
theorem State.Canon.efaultAbandon {s w} (h : State.Canon s) : State.Canon (State.efaultAbandon s w) := by
  unfold State.efaultAbandon
  split
  · exact h
  · exact h.abandonTask
theorem execCoreEfaultRetry_canon {core s} (h : State.Canon s) : CanonNext (execCoreEfaultRetry core s) :=
  h.efaultRetry.next
theorem execCoreEfaultAbandon_canon {core s} (h : State.Canon s) : CanonNext (execCoreEfaultAbandon core s) :=
  h.efaultAbandon.next
theorem State.Canon.writeEfault {s w v} (h : State.Canon s) : State.Canon (State.writeEfault s w v) := by
  unfold State.writeEfault
  split
  · exact h.efaultRetry
  · exact h.efaultAbandon
  · exact h
theorem execHoldLimit_canon {core eng s} (h : State.Canon s) : CanonNext (execHoldLimit core eng s) := by
  unfold execHoldLimit
  extract_lets +onlyGivenNames c
  have hc : Core.Canon c := h.coreAt
  split
  · exact .ite h.abandonTask.next h.next
  · exact h.next
theorem execCheckpointHoldReached_canon {part launch s} (h : State.Canon s) :
    CanonNext (execCheckpointHoldReached part launch s) := by
  unfold execCheckpointHoldReached
  split
  · exact h.next
  · split
    · exact h.next
    · exact .ite h.next h.modLaunch.complete.message.next

/-! ## The functions of `Machine/Matrix` keep the canonical form -/

theorem formatRes_canon {fmt} : Res.Canon (formatRes fmt) := .fault
theorem State.Canon.mPush {s m} (h : State.Canon s) : Res.Canon (State.mPush s m) := by
  unfold State.mPush
  refine .done ?_
  extract_lets +onlyGivenNames x
  have hx : State.Canon x := h.onCore (fun c hc => ⟨hc.spad, hc.wbuf⟩)
  exact ⟨hx.bytes, hx.core, hx.others⟩
theorem State.Canon.mIssue {s l m} (h : State.Canon s) : Res.Canon (State.mIssue s l m) := by
  unfold State.mIssue
  split
  · exact .fault
  · exact h.mPush
theorem execMma_canon {f s} (h : State.Canon s) : CanonNext (execMma f s) := by
  unfold execMma
  refine h.issue (fun s1 hs1 => ?_)
  extract_lets +onlyGivenNames fmt a b c
  split
  · exact formatRes_canon
  · exact .ite .lock hs1.mIssue
theorem execMmaG_canon {f s} (h : State.Canon s) : CanonNext (execMmaG f s) := by
  unfold execMmaG
  refine h.issue (fun s1 hs1 => ?_)
  extract_lets +onlyGivenNames fmt a b c groups
  split
  · exact formatRes_canon
  · extract_lets +onlyGivenNames l
    split
    · exact .fault
    · exact .ite .lock hs1.mPush
theorem execZclr_canon {f s} (h : State.Canon s) : CanonNext (execZclr f s) := h.issue (fun _ hs1 => hs1.mPush)
theorem execZld_canon {f s} (h : State.Canon s) : CanonNext (execZld f s) := h.issue (fun _ hs1 => hs1.mIssue)
theorem execZst_canon {f s} (h : State.Canon s) : CanonNext (execZst f s) := by
  unfold execZst
  refine h.issue (fun s1 hs1 => ?_)
  extract_lets +onlyGivenNames a
  split
  · exact .fault
  · exact hs1.mPush
theorem execZcvt_canon {f s} (h : State.Canon s) : CanonNext (execZcvt f s) :=
  h.issue (fun _ hs1 => State.Canon.mPush (hs1.onCore (fun _ hc => .ite hc.setSrnd hc)))
theorem execZadd_canon {f s} (h : State.Canon s) : CanonNext (execZadd f s) := h.issue (fun _ hs1 => hs1.mPush)
theorem execWld_canon {f s} (h : State.Canon s) : CanonNext (execWld f s) := by
  unfold execWld
  refine h.issue (fun s1 hs1 => ?_)
  extract_lets +onlyGivenNames a b n
  split
  · exact .fault
  · exact .ite .lock hs1.mPush
theorem execMwait_canon {f s} (h : State.Canon s) : CanonNext (execMwait f s) :=
  h.issue (fun _ hs1 => .ite (.done hs1) .wait)
theorem Core.Canon.mDone {c fl} (hc : Core.Canon c) : Core.Canon (Core.mDone c fl).1 := hc.raiseNow
theorem Core.Canon.setZ {c z v} (hc : Core.Canon c) : Core.Canon (Core.setZ c z v) := ⟨hc.spad, hc.wbuf⟩
theorem Core.Canon.runMma {c m f g} (hc : Core.Canon c) : Core.Canon (Core.runMma c m f g).1 := by
  unfold Core.runMma
  split
  · exact hc
  · exact hc
  · exact hc.setZ.mDone
theorem Core.Canon.runGroups {c m f g a sa left i} (hc : Core.Canon c) :
    Core.Canon (Core.runGroups c m f g a sa left i).1 := by
  induction left generalizing c i with
  | zero => exact hc.mDone
  | succ n ih =>
    unfold Core.runGroups
    dsimp only
    split
    · exact hc
    · split
      · exact ih hc
      · split
        · exact hc
        · split
          · exact hc
          · exact hc
          · exact ih hc.setZ.raiseNow
theorem Core.Canon.runMmaG {c m f g} (hc : Core.Canon c) : Core.Canon (Core.runMmaG c m f g).1 := by
  unfold Core.runMmaG
  split
  · exact hc
  · exact hc.runGroups
theorem Core.Canon.shadow {c l} (hc : Core.Canon c) : Core.Canon (Core.shadow c l) := ⟨hc.spad, hc.wbuf⟩
theorem Core.Canon.runM {c m} (hc : Core.Canon c) : Core.Canon (Core.runM c m).1 := by
  unfold Core.runM
  split
  · split
    · exact hc.runMma
    · exact hc.mDone
  · split
    · exact hc.runMmaG
    · exact hc.mDone
  · exact Core.Canon.mDone (hc.foldl (fun c1 hc1 i => .ite hc1.setZ hc1))
  · split
    · exact hc
    · exact hc.setZ.mDone
  · exact hc.shadow.mDone
  · exact hc.setZ.mDone
  · exact hc.setZ.mDone
  · exact hc.mDone
theorem Core.Canon.wbufPut {c a bs} (hc : Core.Canon c) : Core.Canon (Core.wbufPut c a bs) :=
  ⟨hc.spad, Mem.wf_write hc.wbuf ..⟩
theorem Core.Canon.wldFrom {c m cw8 left j} (hc : Core.Canon c) : Core.Canon (Core.wldFrom c m cw8 left j).1 := by
  induction left generalizing c j with
  | zero => exact hc.mDone
  | succ n ih =>
    unfold Core.wldFrom
    split
    · exact hc
    · exact ih hc.wbufPut
theorem Core.Canon.runWld {c m cw8} (hc : Core.Canon c) : Core.Canon (Core.runWld c m cw8).1 := by
  unfold Core.runWld
  split
  · exact hc
  · exact hc.wldFrom
theorem Core.Canon.runOp {c m} (hc : Core.Canon c) : Core.Canon (Core.runOp c m).1 := by
  unfold Core.runOp
  split
  · exact hc.runWld
  · exact hc.runM
theorem afterRun_canon {r i} (hr : Core.Canon r.1) : Core.Canon (Core.afterRun r i) := by
  unfold Core.afterRun
  extract_lets +onlyGivenNames x
  have hx : Core.Canon x := hr
  exact ⟨hx.spad, hx.wbuf⟩
theorem Core.Canon.matrixStep {c} (hc : Core.Canon c) : Core.Canon (Core.matrixStep c) := by
  unfold Core.matrixStep
  split
  · exact afterRun_canon hc.runOp
  · split
    · exact ⟨hc.spad, hc.wbuf⟩
    · exact hc
theorem execMatrixWriteLand_canon {core s} (h : State.Canon s) : CanonNext (execMatrixWriteLand core s) :=
  .ite h.next (State.Canon.next (h.modCore (fun _ hc => hc.matrixStep)))
theorem Core.Canon.wldStep {c} (hc : Core.Canon c) : Core.Canon (Core.wldStep c) := by
  unfold Core.wldStep
  split
  · exact afterRun_canon hc.runOp
  · exact hc
theorem execWldTransferDone_canon {core s} (h : State.Canon s) : CanonNext (execWldTransferDone core s) :=
  .ite h.next (State.Canon.next (h.modCore (fun _ hc => hc.wldStep)))

/-! ## The functions of `Machine/Engines` keep the canonical form -/

theorem State.Canon.atCore {s w f} (h : State.Canon s) (hf : ∀ t, State.Canon t → State.Canon (f t)) :
    State.Canon (State.atCore s w f) :=
  (hf _ h.focus).focus
theorem State.Canon.cpPush {s c} (h : State.Canon s) : Res.Canon (State.cpPush s c) := by
  unfold State.cpPush
  refine .ite .wait ?_
  refine .done ?_
  extract_lets +onlyGivenNames x
  have hx : State.Canon x := h.onEng
  exact ⟨hx.bytes, hx.core, hx.others⟩
theorem execCp_canon {f s} (h : State.Canon s) : CanonNext (execCp f s) :=
  h.issue (fun _ hs1 => .ite .fault (.ite (.done hs1) (.ite .fault (.ite .fault (.ite .fault (.ite .fault
    (.ite .fault hs1.cpPush)))))))
theorem execCpName_canon {f s} (h : State.Canon s) : CanonNext (execCpName f s) := by
  unfold execCpName
  refine h.issue (fun s1 hs1 => ?_)
  split
  · exact .fault
  · split
    · exact .fault
    · split
      · exact .fault
      · exact hs1.cpPush
theorem execCpWin_canon {f s} (h : State.Canon s) : CanonNext (execCpWin f s) :=
  h.issue (fun _ hs1 => .ite .fault (.ite .fault (.ite (.done hs1) (.ite .fault (.ite .fault (.ite .fault
    hs1.cpPush))))))
theorem execCpWait_canon {f s} (h : State.Canon s) : CanonNext (execCpWait f s) :=
  h.issue (fun _ hs1 => .ite (.done hs1) .wait)
theorem State.Canon.endSpot {s sp a u} (h : State.Canon s) : State.Canon (State.endSpot s sp a u).1 := by
  unfold State.endSpot
  split
  · exact h
  · split
    · exact h
    · exact .ite_fst h (.ite_fst h h)
  · extract_lets +onlyGivenNames r
    have hr : State.Canon r.1 := h.xlate
    split
    · exact hr
    · exact .ite_fst hr (.ite_fst hr hr)
theorem Core.Canon.shadowAt {c no p bs tag} (hc : Core.Canon c) : Core.Canon (Core.shadowAt c no p bs tag) := by
  unfold Core.shadowAt
  extract_lets +onlyGivenNames l
  split
  · exact hc.shadow
  · exact hc.shadow
theorem State.Canon.destSpots {s c} (h : State.Canon s) : State.Canon (State.destSpots s c).1 := by
  unfold State.destSpots
  split
  · extract_lets +onlyGivenNames r
    have hr : State.Canon r.1 := h.endSpot
    exact hr
  · refine h.foldl_fst (fun acc hacc i => ?_)
    split
    · exact hacc
    · extract_lets +onlyGivenNames r
      have hr : State.Canon r.1 := hacc.endSpot
      exact hr
theorem State.Canon.sourceLine {s p} (h : State.Canon s) : State.Canon (State.sourceLine s p).1 := by
  unfold State.sourceLine
  extract_lets +onlyGivenNames e sp r
  have hr : State.Canon r.1 := h.readSpot
  split
  · exact hr
  · exact hr
theorem State.Canon.cpLine {s c} (h : State.Canon s) : State.Canon (State.cpLine s c).1 := by
  unfold State.cpLine
  extract_lets +onlyGivenNames src
  refine .ite_fst h ?_
  extract_lets +onlyGivenNames a
  have ha : State.Canon a.1 := h.endSpot
  split
  · exact ha
  · refine .ite_fst ha ?_
    extract_lets +onlyGivenNames d
    have hd : State.Canon d.1 := ha.destSpots
    split
    · exact hd
    · extract_lets +onlyGivenNames x
      have hx : State.Canon x.1 := hd.sourceLine
      refine State.Canon.pair (hx.onCore fun k hk => ?_)
      extract_lets +onlyGivenNames k1
      have hk1 : Core.Canon k1 := hk.foldl (fun k1 hk1 p1 => hk1.shadowAt)
      exact ⟨hk1.spad, hk1.wbuf⟩
theorem State.Canon.cpRun {s a} (h : State.Canon s) : State.Canon (State.cpRun s a).1 := by
  induction a generalizing s with
  | zero => exact h
  | succ n ih =>
    unfold State.cpRun
    split
    · exact h
    · refine .ite_fst h.onEng.pair ?_
      dsimp only
      split
      · exact ih h.cpLine
      · exact h.cpLine
theorem State.Canon.copyGo {s} (h : State.Canon s) : State.Canon (State.copyGo s).1 := h.cpRun
theorem State.Canon.hashPush {s d h2} (h : State.Canon s) : Res.Canon (State.hashPush s d h2) := by
  unfold State.hashPush
  refine .ite .wait ?_
  refine .done ?_
  extract_lets +onlyGivenNames x
  have hx : State.Canon x := by
    unfold x
    refine h.onCore (fun c hc => ?_)
    extract_lets +onlyGivenNames c1
    have hc1 : Core.Canon c1 := hc.await
    exact ⟨hc1.spad, hc1.wbuf⟩
  exact ⟨hx.bytes, hx.core, hx.others⟩
theorem execHashSha_canon {f s} (h : State.Canon s) : CanonNext (execHashSha f s) := by
  unfold execHashSha
  refine h.issue (fun s1 hs1 => ?_)
  extract_lets +onlyGivenNames d a n
  refine .ite .fault ?_
  split
  · exact .fault
  · exact .ite .fault hs1.hashPush
theorem execHashCrc_canon {f s} (h : State.Canon s) : CanonNext (execHashCrc f s) :=
  h.issue (fun _ hs1 => .ite .fault hs1.hashPush)
theorem execHashWait_canon {f s} (h : State.Canon s) : CanonNext (execHashWait f s) :=
  h.issue (fun _ hs1 => .ite (.done hs1) .wait)
theorem State.Canon.hashGo {s} (h : State.Canon s) : State.Canon (State.hashGo s).1 := by
  unfold State.hashGo
  split
  · exact h
  · extract_lets +onlyGivenNames pop
    have hpop : ∀ t, Core.Canon t → Core.Canon (pop t) := fun c hc => ⟨hc.spad, hc.wbuf⟩
    split
    · refine .ite_fst h ?_
      split
      · exact h
      · exact h
      · exact State.Canon.pair (h.onCore (fun c hc => (hpop _ hc).shadow))
    · refine .ite_fst h ?_
      split
      · exact h
      · exact State.Canon.pair (h.onCore (fun c hc => (hpop _ hc).land))
theorem Core.Canon.dropStream {c i} (hc : Core.Canon c) : Core.Canon (Core.dropStream c i) := by
  unfold Core.dropStream
  extract_lets +onlyGivenNames x
  have hx : Core.Canon x := hc.setW
  exact ⟨hx.spad, hx.wbuf⟩
theorem execSbind_canon {f s} (h : State.Canon s) : CanonNext (execSbind f s) := by
  unfold execSbind
  refine h.issue (fun s1 hs1 => ?_)
  extract_lets +onlyGivenNames a n z
  refine .ite .fault ?_
  refine .ite .fault ?_
  refine .ite .fault ?_
  refine .done ?_
  extract_lets +onlyGivenNames x
  have hx : State.Canon x := hs1.onCore (fun c hc => hc.setW)
  exact ⟨hx.bytes, hx.core, hx.others⟩
theorem execScloseMarker_canon {f s} (h : State.Canon s) : CanonNext (execScloseMarker f s) := by
  unfold execScloseMarker
  refine h.issue (fun s1 hs1 => ?_)
  split
  · exact .fault
  · exact .ite .fault (.ite .wait (.done hs1.pubJob))
theorem execScloseUnbind_canon {f s} (h : State.Canon s) : CanonNext (execScloseUnbind f s) :=
  h.issue (fun _ hs1 => .ite (.done hs1) (.done (hs1.unregisterAll.onCore (fun _ hc => hc.dropStream))))
theorem execStreamLineRequest_canon {core w s} (h : State.Canon s) : CanonNext (execStreamLineRequest core w s) :=
  .ite (State.Canon.next (h.modCore (fun _ hc => hc.setW))) h.next
theorem State.Canon.streamLine {s core x} (h : State.Canon s) : State.Canon (State.streamLine s core x).1 := by
  unfold State.streamLine
  split
  · exact h
  · extract_lets +onlyGivenNames t
    split
    · exact h
    · refine .ite_fst h ?_
      refine .ite_fst h ?_
      extract_lets +onlyGivenNames r
      have hr : State.Canon r.1 := h.readVm
      split
      · exact hr
      · exact hr
theorem execStreamLineReturn_canon {core w s} (h : State.Canon s) : CanonNext (execStreamLineReturn core w s) := by
  unfold execStreamLineReturn
  extract_lets +onlyGivenNames x
  refine .ite h.next ?_
  extract_lets +onlyGivenNames r
  have hr : State.Canon r.1 := h.streamLine
  split
  · exact h.next
  · exact State.Canon.next (hr.modCore (fun c hc => hc.setW))
theorem State.Canon.tokenAfter {s b} (h : State.Canon s) : State.Canon (State.tokenAfter s b) := by
  unfold State.tokenAfter
  extract_lets +onlyGivenNames c more
  have hc : Core.Canon c := h.core
  exact .ite (h.onCore (fun c1 hc1 => ⟨hc1.spad, hc1.wbuf⟩)) h
theorem Core.Canon.spadTag {c l} (hc : Core.Canon c) : Core.Canon (Core.spadTag c l) := by
  unfold Core.spadTag
  extract_lets +onlyGivenNames c1
  have hc1 : Core.Canon c1 := hc.spadPut
  exact .ite ⟨hc1.spad, hc1.wbuf⟩ hc1
theorem State.Canon.vmTag {s q l} (h : State.Canon s) : State.Canon (State.vmTag s q l) := by
  unfold State.vmTag
  extract_lets +onlyGivenNames s1
  have hs1 : State.Canon s1 := h.drainOver.writePa
  exact ⟨hs1.bytes, hs1.core, hs1.others⟩
theorem State.Canon.commitLine {s w l} (h : State.Canon s) : State.Canon (State.commitLine s w l) := by
  unfold State.commitLine
  split
  · extract_lets +onlyGivenNames s1
    have hs1 : State.Canon s1 := h.modCore (fun c hc => hc.spadTag)
    exact .ite (hs1.atCore (fun s2 hs2 => hs2.tokenAfter)) hs1
  · exact h.modCore (fun c hc => hc.spadTag)
  · exact .ite h.vmTag h.modCluster
theorem execShadowCommit_canon {core line s} (h : State.Canon s) : CanonNext (execShadowCommit core line s) := by
  unfold execShadowCommit
  extract_lets +onlyGivenNames e
  split
  · exact h.next
  · exact .ite (State.Canon.next (State.Canon.commitLine (h.modCore (fun c hc => ⟨hc.spad, hc.wbuf⟩)))) h.next

/-! ## The functions of `Machine/Celadon` keep the canonical form -/

theorem State.Canon.setSlot {s q n f} (h : State.Canon s) : State.Canon (State.setSlot s q n f) := h.modCluster
theorem execLcCtxOpen_canon {f s} (h : State.Canon s) : CanonNext (execLcCtxOpen f s) := by
  unfold execLcCtxOpen
  refine h.issue (fun s1 hs1 => ?_)
  refine .ite .wait ?_
  split
  · exact .done (hs1.onCore (fun c hc => hc.writeS))
  · exact .done (hs1.setSlot.onCore (fun c hc => hc.writeS))
theorem execLcCtxCommit_canon {f s} (h : State.Canon s) : CanonNext (execLcCtxCommit f s) := by
  unfold execLcCtxCommit
  refine h.issue (fun s1 hs1 => ?_)
  extract_lets +onlyGivenNames a b
  refine .ite .wait ?_
  split
  · exact .fault
  · split
    · exact .fault
    · refine .ite .wait ?_
      split
      · exact .fault
      · exact .done (State.Canon.onCore (.ite hs1.setSlot hs1) (fun c hc => hc.writeS))
theorem State.Canon.emptySlot {s a sts} (h : State.Canon s) : Res.Canon (State.emptySlot s a sts) := by
  unfold State.emptySlot
  refine .ite .wait ?_
  split
  · exact .fault
  · exact .ite (.stay h.setSlot) (.done h.setSlot)
theorem execLcCtxAbort_canon {f s} (h : State.Canon s) : CanonNext (execLcCtxAbort f s) :=
  h.issue (fun _ hs1 => hs1.emptySlot)
theorem execLcCtxRel_canon {f s} (h : State.Canon s) : CanonNext (execLcCtxRel f s) :=
  h.issue (fun _ hs1 => hs1.emptySlot)
theorem execLcStat_canon {f s} (h : State.Canon s) : CanonNext (execLcStat f s) :=
  h.issue (fun _ hs1 => .ite .wait (.done (hs1.onCore (fun _ hc => hc.writeS))))
theorem State.Canon.lcPush {s c} (h : State.Canon s) : Res.Canon (State.lcPush s c) := by
  unfold State.lcPush
  refine .ite .wait ?_
  refine .done ?_
  extract_lets +onlyGivenNames x
  have hx : State.Canon x := h.onEng
  exact ⟨hx.bytes, hx.core, hx.others⟩
theorem State.Canon.lcIssue {s l c} (h : State.Canon s) : Res.Canon (State.lcIssue s l c) := by
  unfold State.lcIssue
  split
  · exact .fault
  · exact h.lcPush
theorem execLcTbl_canon {f s} (h : State.Canon s) : CanonNext (execLcTbl f s) :=
  h.issue (fun _ hs1 => .ite .fault (.ite .fault hs1.lcIssue))
theorem execLcSel_canon {f s} (h : State.Canon s) : CanonNext (execLcSel f s) := by
  unfold execLcSel
  refine h.issue (fun s1 hs1 => ?_)
  split
  · exact .done (hs1.onCore (fun c hc => ⟨hc.spad, hc.wbuf⟩))
  · exact .ite .fault (.done (hs1.onCore (fun c hc => ⟨hc.spad, hc.wbuf⟩)))
theorem execLcRun_canon {f s} (h : State.Canon s) : CanonNext (execLcRun f s) :=
  h.issue (fun _ hs1 => .ite .fault (.ite .fault hs1.lcIssue))
theorem execLcTslice_canon {f s} (h : State.Canon s) : CanonNext (execLcTslice f s) :=
  h.issue (fun _ hs1 => .ite .fault hs1.lcIssue)
theorem execLcUnslice_canon {f s} (h : State.Canon s) : CanonNext (execLcUnslice f s) :=
  h.issue (fun _ hs1 => .ite .fault hs1.lcIssue)
theorem execLcPop_canon {f s} (h : State.Canon s) : CanonNext (execLcPop f s) :=
  h.issue (fun _ hs1 => .ite .fault hs1.lcIssue)
theorem execLcWait_canon {f s} (h : State.Canon s) : CanonNext (execLcWait f s) :=
  h.issue (fun _ hs1 => .ite (.done hs1) .wait)
theorem Core.Canon.lcAfter {c now ranges left} (hc : Core.Canon c) : Core.Canon (Core.lcAfter c now ranges left) :=
  ⟨hc.spad, hc.wbuf⟩
theorem Core.Canon.shadowGrow {c l} (hc : Core.Canon c) : Core.Canon (Core.shadowGrow c l) := by
  unfold Core.shadowGrow
  split
  · exact ⟨hc.spad, hc.wbuf⟩
  · exact hc.shadow
theorem Core.Canon.lcOutput {c no a bs} (hc : Core.Canon c) : Core.Canon (Core.lcOutput c no a bs) :=
  hc.foldl (fun _ hc1 _ => hc1.shadowGrow)
theorem State.Canon.loadRecord {s q slot map rec} (h : State.Canon s) :
    State.Canon (State.loadRecord s q slot map rec).1 := by
  unfold State.loadRecord
  extract_lets +onlyGivenNames f f1 ib reason
  refine .ite_fst ?_ h.setSlot.pair
  refine .ite_fst h.setSlot.pair ?_
  refine ?_
  extract_lets +onlyGivenNames x
  have hx : State.Canon x := h.setSlot
  exact ⟨hx.bytes, hx.core, hx.others⟩
theorem State.Canon.celadonGo {s} (h : State.Canon s) : State.Canon (State.celadonGo s).1 := by
  unfold State.celadonGo
  extract_lets +onlyGivenNames q
  split
  · exact h
  · extract_lets +onlyGivenNames get after
    have hafter : ∀ t, State.Canon t → ∀ u, State.Canon ((after t) u) := fun s1 hs1 left => hs1.onCore (fun k hk =>
        hk.lcAfter)
    split
    · extract_lets +onlyGivenNames f
      refine .ite_fst (State.Canon.pair (h.onCore (fun k hk => hk.lcAfter))) ?_
      split
      · exact h
      · extract_lets +onlyGivenNames r
        have hr : State.Canon r.1 := h.loadRecord
        exact hafter _ hr _
    · extract_lets +onlyGivenNames f
      refine .ite_fst h ?_
      split
      · exact h
      · exact State.Canon.pair ((hafter _ h _).onCore (fun k hk => hk.lcOutput))
    · split
      · exact h
      · exact State.Canon.pair ((hafter _ h _).onCore (fun k hk => hk.lcOutput))
    · split
      · exact h
      · exact State.Canon.pair ((hafter _ h _).onCore (fun k hk => hk.lcOutput))
    · split
      · exact h
      · exact State.Canon.pair ((hafter _ h _).onCore (fun k hk => hk.lcOutput))
theorem Core.Canon.tokenHold {c g} (hc : Core.Canon c) : Core.Canon (Core.tokenHold c g) := .ite hc ⟨hc.spad, hc.wbuf⟩
theorem Core.Canon.tokenFree {c g} (hc : Core.Canon c) : Core.Canon (Core.tokenFree c g) := ⟨hc.spad, hc.wbuf⟩
theorem noteToken_canon {g r} (hr : State.Canon r.1) : State.Canon (State.noteToken g r) := by
  unfold State.noteToken
  split
  · exact hr.onCore (fun c hc => hc.tokenFree)
  · exact hr.onCore (fun c hc => hc.tokenHold)
  · exact hr
theorem State.Canon.fabricGo {s w} (h : State.Canon s) : State.Canon (State.fabricGo s w) :=
  h.atCore (fun _ hs1 => noteToken_canon hs1.celadonGo)
theorem State.Canon.fabricStep {s q kind} (h : State.Canon s) : State.Canon (State.fabricStep s q kind) := by
  unfold State.fabricStep
  extract_lets +onlyGivenNames ws
  split
  · exact h.chosen.fabricGo
  · exact h
theorem execCeladonRecordLoad_canon {cluster s} (h : State.Canon s) : CanonNext (execCeladonRecordLoad cluster s) :=
  h.fabricStep.next
theorem execCeladonBatch_canon {cluster s} (h : State.Canon s) : CanonNext (execCeladonBatch cluster s) :=
  h.fabricStep.next
theorem execCeladonSlotPoisoned_canon {cluster slot cell s} (h : State.Canon s) :
    CanonNext (execCeladonSlotPoisoned cluster slot cell s) :=
  .ite h.next h.setSlot.message.next
theorem execCeladonSlotRepair_canon {cluster slot s} (h : State.Canon s) :
    CanonNext (execCeladonSlotRepair cluster slot s) :=
  .ite h.next (.ite (State.Canon.next (h.setSlot.foldl (fun _ hs1 _ => hs1.modCore (fun _ hc => .ite ⟨hc.spad,
    hc.wbuf⟩ hc)))) h.setSlot.next)
theorem execCeladonPlacedDigest_canon {cluster slot s} (h : State.Canon s) :
    CanonNext (execCeladonPlacedDigest cluster slot s) :=
  .ite h.setSlot.next h.next
theorem execEngineCommandDone_canon {core eng s} (h : State.Canon s) :
    CanonNext (execEngineCommandDone core eng s) := by
  unfold execEngineCommandDone
  extract_lets +onlyGivenNames c
  have hc : Core.Canon c := h.coreAt
  refine .ite h.next ?_
  split
  · exact State.Canon.next (.ite h (h.atCore (fun s1 hs1 => noteToken_canon hs1.copyGo)))
  · exact State.Canon.next (.ite h (h.atCore (fun s1 hs1 => hs1.hashGo)))
  · refine State.Canon.next ?_
    split
    · exact h
    · exact .ite h (h.atCore (fun s1 hs1 => noteToken_canon hs1.celadonGo))
  · exact h.next
  · exact h.next
  · exact State.Canon.next (.ite h (h.atCore (fun s1 hs1 => hs1.pubStep)))
theorem State.Canon.streamStop {s w} (h : State.Canon s) : State.Canon (State.streamStop s w).1 := by
  unfold State.streamStop
  refine h.foldl_fst (fun acc hacc i => ?_)
  refine .ite_fst hacc ?_
  extract_lets +onlyGivenNames r
  have hr : State.Canon r.1 := hacc.streamLine
  split
  · exact hr
  · exact hacc
theorem State.Canon.queueStop {s w} (h : State.Canon s) : State.Canon (State.queueStop s w).1 := h
theorem State.Canon.engineStop {s w eng} (h : State.Canon s) : State.Canon (State.engineStop s w eng).1 := by
  unfold State.engineStop
  extract_lets +onlyGivenNames back
  have hback : ∀ t, State.Canon t.1 → State.Canon (back t).1 := fun r hr => hr.focus.pair
  split
  · extract_lets +onlyGivenNames c
    have hc : Core.Canon c := h.coreAt
    exact (h.setCore (.ite hc.matrixStep.wldStep hc)).pair
  · exact hback _ h.focus.copyGo
  · exact hback _ h.focus.hashGo
  · exact hback _ h.focus.celadonGo
  · exact h.streamStop
  · exact h.queueStop
theorem State.Canon.holdEngine {s w eng x} (h : State.Canon s) : State.Canon (State.holdEngine s w eng x) := by
  unfold State.holdEngine
  extract_lets +onlyGivenNames h1 s1 t d s2 flim
  have hs1 : State.Canon s1 := h.modCore (fun c hc => ⟨hc.spad, hc.wbuf⟩)
  have hs2 : State.Canon s2 := hs1.message
  exact .ite hs2.abandonTask hs2
theorem execEngineFault_canon {core eng s} (h : State.Canon s) : CanonNext (execEngineFault core eng s) := by
  unfold execEngineFault
  extract_lets +onlyGivenNames c
  have hc : Core.Canon c := h.coreAt
  refine .ite h.next ?_
  extract_lets +onlyGivenNames r
  have hr : State.Canon r.1 := h.engineStop
  split
  · exact h.next
  · exact hr.holdEngine.next

/-! ## The functions of `Machine/Units` keep the canonical form -/

theorem State.Canon.modUnit {s ty no f} (h : State.Canon s) : State.Canon (State.modUnit s ty no f) := h.onWafer
theorem State.Canon.charge {s ty no n} (h : State.Canon s) : State.Canon (State.charge s ty no n) := h.modUnit
theorem State.Canon.chargeLink {s r port n} (h : State.Canon s) : State.Canon (State.chargeLink s r port n) :=
  .ite h.charge h
theorem State.Canon.setLease {s ty no l} (h : State.Canon s) : State.Canon (State.setLease s ty no l) :=
  .ite (h.modCore (fun _ hc => ⟨hc.spad, hc.wbuf⟩)) h.modUnit
theorem State.Canon.fwDropped {s r} (h : State.Canon s) : State.Canon (State.fwDropped s r) := h.modRouter

/-! ## The functions of `Machine/Routing` keep the canonical form -/

theorem State.Canon.flightArrives {s r f} (h : State.Canon s) : State.Canon (State.flightArrives s r f) :=
  h.modCluster
theorem State.Canon.copyOut {s r f ports} (h : State.Canon s) : State.Canon (State.copyOut s r f ports) := by
  unfold State.copyOut
  refine h.foldl (fun s1 hs1 p => ?_)
  refine .ite hs1.flightArrives ?_
  split
  · exact ⟨hs1.bytes, hs1.core, hs1.others⟩
  · exact hs1
theorem State.Canon.passSlice {s r f} (h : State.Canon s) : State.Canon (State.passSlice s r f) := by
  unfold State.passSlice
  split
  · exact h
  · exact .ite h (.ite h.chosen h.chosen.setCluster)
theorem State.Canon.forwardUp {s r f} (h : State.Canon s) : State.Canon (State.forwardUp s r f) := by
  unfold State.forwardUp
  extract_lets +onlyGivenNames s1
  have hs1 : State.Canon s1 := h.copyOut
  refine .ite hs1.modCluster ?_
  split
  · extract_lets +onlyGivenNames s2
    have hs2 : State.Canon s2 := hs1.passSlice
    exact ⟨hs2.bytes, hs2.core, hs2.others⟩
  · exact h
theorem State.Canon.contribOn {s r f} (h : State.Canon s) : State.Canon (State.contribOn s r f) := by
  unfold State.contribOn
  refine .ite h.modCluster ?_
  split
  · exact ⟨h.bytes, h.core, h.others⟩
  · exact h
theorem State.Canon.forwardContrib {s r f} (h : State.Canon s) : State.Canon (State.forwardContrib s r f) := by
  unfold State.forwardContrib
  split
  · exact h.contribOn
  · split
    · extract_lets +onlyGivenNames x
      have hx : State.Canon x := h.chosen
      exact ⟨hx.bytes, hx.core, hx.others⟩
    · exact h.chosen.contribOn
theorem State.Canon.forwardFlight {s r f} (h : State.Canon s) : State.Canon (State.forwardFlight s r f) := by
  unfold State.forwardFlight
  extract_lets +onlyGivenNames x f1
  split
  · exact h.flightArrives
  · split
    · exact ⟨h.bytes, h.core, h.others⟩
    · exact h
  · exact .ite h.copyOut (.ite h.forwardContrib h.forwardUp)
theorem State.Canon.moveFlight {s i f} (h : State.Canon s) : State.Canon (State.moveFlight s i f) := by
  unfold State.moveFlight
  extract_lets +onlyGivenNames s1
  have hs1 : State.Canon s1 := ⟨h.bytes, h.core, h.others⟩
  exact .ite ⟨h.bytes, h.core, h.others⟩ (.ite hs1.chargeLink (.ite hs1.fwDropped (State.Canon.forwardFlight (.ite
      hs1.chargeLink hs1))))
theorem execRouterForward_canon {router s} (h : State.Canon s) : CanonNext (execRouterForward router s) := by
  unfold execRouterForward
  extract_lets +onlyGivenNames l
  split
  · exact h.next
  · exact h.chosen.moveFlight.next
theorem State.Canon.moveAddressed {s i a} (h : State.Canon s) : State.Canon (State.moveAddressed s i a) := by
  unfold State.moveAddressed
  extract_lets +onlyGivenNames drop
  have hdrop : State.Canon drop := ⟨h.bytes, h.core, h.others⟩
  split
  · exact hdrop
  · refine .ite hdrop.fwDropped ?_
    split
    · exact ⟨h.bytes, h.core, h.others⟩
    · exact ⟨h.bytes, h.core, h.others⟩
theorem execAddressedRoute_canon {router s} (h : State.Canon s) : CanonNext (execAddressedRoute router s) := by
  unfold execAddressedRoute
  split
  · exact h.next
  · split
    · exact h.next
    · exact .ite h.next h.moveAddressed.next
theorem State.Canon.launchBranch {s e p pkt} (h : State.Canon s) : State.Canon (State.launchBranch s e p pkt) :=
  ⟨h.bytes, h.core, h.others⟩
theorem State.Canon.resendKept {s k} (h : State.Canon s) : State.Canon (State.resendKept s k) := by
  unfold State.resendKept
  extract_lets +onlyGivenNames x pkt
  split
  · exact .ite h.launchUp h.launchDown
  · exact h.launchBranch
  · exact h.launchUp
theorem State.Canon.resend {s i k} (h : State.Canon s) : State.Canon (State.resend s i k) :=
  .ite (State.Canon.errorNotice ⟨h.bytes, h.core, h.others⟩) (State.Canon.resendKept ⟨h.bytes, h.core, h.others⟩)
theorem State.Canon.released {s i k} (h : State.Canon s) : State.Canon (State.released s i k) := by
  unfold State.released
  extract_lets +onlyGivenNames s1
  have hs1 : State.Canon s1 := ⟨h.bytes, h.core, h.others⟩
  exact .ite hs1 hs1.returnColour
theorem State.Canon.settleKept {s i k neg} (h : State.Canon s) : State.Canon (State.settleKept s i k neg) :=
  .ite h.resend h.released
theorem State.Canon.ackDirect {s idx a} (h : State.Canon s) : State.Canon (State.ackDirect s idx a) := by
  unfold State.ackDirect
  split
  · exact ⟨h.bytes, h.core, h.others⟩
  · split
    · exact h
    · exact .ite h (State.Canon.settleKept ⟨h.bytes, h.core, h.others⟩)
theorem State.Canon.ackUp {s a r goal} (h : State.Canon s) : State.Canon (State.ackUp s a r goal) := by
  unfold State.ackUp
  split
  · exact h
  · exact .ite h ⟨h.bytes, h.core, h.others⟩
theorem State.Canon.ackRoot {s idx a p} (h : State.Canon s) : State.Canon (State.ackRoot s idx a p) := by
  unfold State.ackRoot
  refine .ite h ?_
  split
  · exact .ite h ⟨h.bytes, h.core, h.others⟩
  · split
    · exact h
    · exact State.Canon.settleKept ⟨h.bytes, h.core, h.others⟩
theorem execAcknowledgement_canon {idx s} (h : State.Canon s) : CanonNext (execAcknowledgement idx s) := by
  unfold execAcknowledgement
  split
  · exact h.next
  · split
    · exact h.ackDirect.next
    · split
      · exact State.Canon.next ⟨h.bytes, h.core, h.others⟩
      · exact State.Canon.next (.ite ⟨h.bytes, h.core, h.others⟩ (.ite h.ackRoot h.ackUp))
theorem execResendTimeout_canon {idx s} (h : State.Canon s) : CanonNext (execResendTimeout idx s) := by
  unfold execResendTimeout
  split
  · exact h.next
  · exact .ite h.next h.resend.next
theorem State.Canon.circOverflow {s r pkt} (h : State.Canon s) : State.Canon (State.circOverflow s r pkt) :=
  h.modCluster.message
theorem State.Canon.circuitHop {s r d f} (h : State.Canon s) : State.Canon (State.circuitHop s r d f).1 :=
  .ite_fst h.fwDropped.pair (.ite_fst h.circOverflow.pair h)
theorem State.Canon.circuitEject {s r f} (h : State.Canon s) : State.Canon (State.circuitEject s r f) :=
  .ite h.circOverflow h.modCluster
theorem slotMove_canon {r acc m} (hacc : State.Canon acc.1) : State.Canon (slotMove r acc m).1 := by
  unfold slotMove
  split
  · exact hacc
  · extract_lets +onlyGivenNames x s1
    have hx : State.Canon x := hacc
    have hs1 : State.Canon s1 := ⟨hx.bytes, hx.core, hx.others⟩
    refine .ite_fst hacc ?_
    refine .ite_fst ?_ hs1.circuitEject.pair
    extract_lets +onlyGivenNames x1
    have hx1 : State.Canon x1.1 := hs1.circuitHop
    exact hx1
theorem State.Canon.drainFlit {s q f i} (h : State.Canon s) : State.Canon (State.drainFlit s q f i) := h.setCluster
theorem State.Canon.drainCluster {s q} (h : State.Canon s) : State.Canon (State.drainCluster s q) := by
  unfold State.drainCluster
  split
  · exact h
  · exact h.drainFlit
theorem State.Canon.putOff {s mine n} (h : State.Canon s) : State.Canon (State.putOff s mine n) :=
  ⟨h.bytes, h.core, h.others⟩
theorem State.Canon.netPass {s f n} (h : State.Canon s) : State.Canon (State.netPass s f n) :=
  State.Canon.putOff (State.Canon.onWafer (h.foldl (fun _ hs1 _ => hs1.modCluster)))
theorem State.Canon.netCycle {s f} (h : State.Canon s) : State.Canon (State.netCycle s f) := by
  unfold State.netCycle
  extract_lets +onlyGivenNames slot rs r x s1
  have hr : State.Canon r.1 := h.foldl_fst (fun acc hacc r => hacc.foldl_fst
      (fun acc1 hacc1 m => slotMove_canon hacc1))
  have hx : State.Canon x := hr
  have hs1 : State.Canon s1 := ⟨hx.bytes, hx.core, hx.others⟩
  exact State.Canon.netPass (hs1.foldl (fun s2 hs2 q => hs2.drainCluster))
theorem State.Canon.tickField {s f a} (h : State.Canon s) : State.Canon (State.tickField s f a) := by
  induction a generalizing s with
  | zero => exact h
  | succ n ih => exact .ite h.netPass (ih h.netCycle)
theorem execCircuitFlit_canon {router port s} (h : State.Canon s) : CanonNext (execCircuitFlit router port s) := by
  unfold execCircuitFlit
  extract_lets +onlyGivenNames f
  split
  · exact h.tickField.next
  · exact State.Canon.next (.ite h.tickField h)
theorem State.Canon.mirrorTable {s p} (h : State.Canon s) : State.Canon (State.mirrorTable s p).1 := by
  unfold State.mirrorTable
  extract_lets +onlyGivenNames n
  refine .ite_fst h ?_
  extract_lets +onlyGivenNames t r
  have hr : State.Canon r.1 := h.readVa
  split
  · exact hr
  · exact hr
theorem State.Canon.mirrorNote {s pkt} (h : State.Canon s) : State.Canon (State.mirrorNote s pkt) := by
  unfold State.mirrorNote
  refine .ite h ?_
  extract_lets +onlyGivenNames t
  have ht : State.Canon t.1 := h.mirrorTable
  exact ht.foldl (fun s1 hs1 e => .ite hs1.modPart hs1)
theorem State.Canon.chargeCopy {s p} (h : State.Canon s) : State.Canon (State.chargeCopy s p) := by
  unfold State.chargeCopy
  split
  · exact h.charge
  · exact h
theorem State.Canon.mirrorReport {s prim kind idx a b} (h : State.Canon s) :
    State.Canon (State.mirrorReport s prim kind idx a b) :=
  h.post
theorem execMirrorCompare_canon {part pair s} (h : State.Canon s) : CanonNext (execMirrorCompare part pair s) := by
  unfold execMirrorCompare
  split
  · exact h.next
  · split
    · extract_lets +onlyGivenNames s1
      have hs1 : State.Canon s1 := h.modPart
      split
      · exact hs1.inject.next
      · exact hs1.chargeCopy.chargeCopy.mirrorReport.next
    · exact h.next
theorem execMirrorTimeout_canon {part pair s} (h : State.Canon s) : CanonNext (execMirrorTimeout part pair s) := by
  unfold execMirrorTimeout
  split
  · exact h.next
  · extract_lets +onlyGivenNames q
    refine .ite h.next ?_
    extract_lets +onlyGivenNames no x s1
    have hx : State.Canon x := h.modPart
    have hs1 : State.Canon s1 := ⟨hx.bytes, hx.core, hx.others⟩
    exact hs1.chargeCopy.chargeCopy.mirrorReport.next
theorem State.Canon.evict {s q k n a} (h : State.Canon s) : ∀ t ∈ State.evict s q k n a, State.Canon t := by
  induction a generalizing s with
  | zero => exact mem_none
  | succ n ih =>
    unfold State.evict
    refine mem_ite (mem_some h) ?_
    split
    · exact mem_none
    · exact ih h.modCluster
theorem State.Canon.keepBranches {s q k pkt} (h : State.Canon s) : State.Canon (State.keepBranches s q k pkt) :=
  ⟨h.bytes, h.core, h.others⟩
theorem State.Canon.answerSource {s pkt} (h : State.Canon s) : State.Canon (State.answerSource s pkt) :=
  .ite ⟨h.bytes, h.core, h.others⟩ ⟨h.bytes, h.core, h.others⟩
theorem State.Canon.rendezvous {s q k pkt} (h : State.Canon s) : ∀ t ∈ State.rendezvous s q k pkt, State.Canon t := by
  unfold State.rendezvous
  extract_lets +onlyGivenNames c
  refine mem_ite (mem_some h) ?_
  refine mem_ite ?_ (mem_ite (mem_some h.answerSource) (mem_map_of h.modCluster.evict (fun s1 hs1 =>
      hs1.modCluster.keepBranches.answerSource.mirrorNote)))
  refine mem_some ?_
  extract_lets +onlyGivenNames x
  have hx : State.Canon x := h.modCluster
  exact ⟨hx.bytes, hx.core, hx.others⟩
theorem execRendezvousRetain_canon {cluster s} (h : State.Canon s) : CanonNext (execRendezvousRetain cluster s) := by
  unfold execRendezvousRetain
  split
  · exact h.next
  · split
    · exact h.next
    · rename_i t1 ht1
      exact (h.modCluster.rendezvous t1 ht1).next
theorem execRetainExpiry_canon {cluster idx s} (h : State.Canon s) : CanonNext (execRetainExpiry cluster idx s) := by
  unfold execRetainExpiry
  extract_lets +onlyGivenNames c
  split
  · exact h.next
  · exact .ite h.next h.setCluster.next
theorem State.Canon.ackMembers {s pkt ms} (h : State.Canon s) : State.Canon (State.ackMembers s pkt ms) :=
  ⟨h.bytes, h.core, h.others⟩
theorem State.Canon.putCombine {s q x} (h : State.Canon s) : State.Canon (State.putCombine s q x) := h.modCluster
theorem State.Canon.publishIfWhole {s q x} (h : State.Canon s) : State.Canon (State.publishIfWhole s q x) :=
  .ite h.putCombine.inject h.putCombine
theorem State.Canon.loseCombine {s q x reason} (h : State.Canon s) : State.Canon (State.loseCombine s q x reason) :=
  h.putCombine.errorNotice
theorem State.Canon.barOthers {s q k p n c} (h : State.Canon s) : State.Canon (State.barOthers s q k p n c) :=
  h.foldl (fun _ hs1 _ => hs1.modCluster.errorNotice)
theorem State.Canon.fixCount {s q x} (h : State.Canon s) : State.Canon (State.fixCount s q x) := by
  unfold State.fixCount
  split
  · exact h
  · refine .ite ?_ ?_
    · split
      · exact h.barOthers
      · exact h
    · extract_lets +onlyGivenNames s1 x1
      have hs1 : State.Canon s1 := h.barOthers
      exact .ite hs1.loseCombine hs1.publishIfWhole
theorem State.Canon.contribute {s q x pkt} (h : State.Canon s) : State.Canon (State.contribute s q x pkt) := by
  unfold State.contribute
  extract_lets +onlyGivenNames ms e past
  refine .ite ?_ (.ite h.ackMembers.errorNotices (.ite h.ackMembers h.ackMembers.publishIfWhole))
  extract_lets +onlyGivenNames quiet s1
  have hs1 : State.Canon s1 := h.ackMembers
  exact .ite hs1 hs1.errorNotices
theorem execContributionArrival_canon {cluster s} (h : State.Canon s) :
    CanonNext (execContributionArrival cluster s) := by
  unfold execContributionArrival
  split
  · exact h.next
  · extract_lets +onlyGivenNames s1
    have hs1 : State.Canon s1 := h.modCluster
    refine .ite hs1.next ?_
    extract_lets +onlyGivenNames k s2
    have hs2 : State.Canon s2 := by
      unfold s2
      split
      · exact hs1
      · exact hs1.putCombine
    split
    · exact h.next
    · extract_lets +onlyGivenNames s3
      have hs3 : State.Canon s3 := .ite hs2.loseCombine (.ite hs2.fixCount hs2)
      split
      · exact h.next
      · exact hs3.contribute.next
theorem execCombineBitmapExpiry_canon {cluster idx s} (h : State.Canon s) :
    CanonNext (execCombineBitmapExpiry cluster idx s) := by
  unfold execCombineBitmapExpiry
  extract_lets +onlyGivenNames c
  split
  · exact h.next
  · exact .ite h.setCluster.next h.next
theorem State.Canon.searchPath {s g} (h : State.Canon s) : State.Canon (State.searchPath s g).1 :=
  h.foldl_fst (fun _ hacc _ => State.Canon.pair (hacc.foldl (fun _ hs1 _ => hs1.serve)))
theorem State.Canon.fallThrough {s g n} (h : State.Canon s) : State.Canon (State.fallThrough s g n) := by
  unfold State.fallThrough
  extract_lets +onlyGivenNames e
  split
  · exact h
  · exact .ite h.answer (.ite h.answer ⟨h.bytes, h.core, h.others⟩)
theorem State.Canon.meetCombines {s g} (h : State.Canon s) : State.Canon (State.meetCombines s g) := by
  unfold State.meetCombines
  extract_lets +onlyGivenNames s1
  have hs1 : State.Canon s1 := by
    unfold s1
    refine h.foldl (fun s1 hs1 n => ?_)
    split
    · exact hs1.barOthers
    · exact hs1
  exact hs1.foldl (fun s2 hs2 c => hs2.foldl (fun s3 hs3 x => hs3.fixCount))
theorem State.Canon.registered {s g} (h : State.Canon s) : State.Canon (State.registered s g) := by
  unfold State.registered
  extract_lets +onlyGivenNames s1 g1 r
  have hs1 : State.Canon s1 := h.modReg
  have hr : State.Canon r.1 := hs1.searchPath
  refine .ite hr.meetCombines ?_
  split
  · exact hr
  · exact .ite hr hr.fallThrough
theorem execSubscriptionRegister_canon {idx s} (h : State.Canon s) : CanonNext (execSubscriptionRegister idx s) := by
  unfold execSubscriptionRegister
  split
  · exact h.next
  · extract_lets +onlyGivenNames s1
    have hs1 : State.Canon s1 := ⟨h.bytes, h.core, h.others⟩
    split
    · exact hs1.next
    · refine .ite h.next ?_
      split
      · exact hs1.modReg.next
      · rename_i t ht
        exact (hs1.installReg t ht).registered.next
theorem State.Canon.homePlaces {s p tenant va n write} (h : State.Canon s) :
    State.Canon (State.homePlaces s p tenant va n write).1 := by
  unfold State.homePlaces
  refine h.foldl_fst (fun acc hacc part => ?_)
  split
  · exact hacc
  · extract_lets +onlyGivenNames r
    have hr : State.Canon r.1 := hacc.walk
    split
    · exact hr
    · exact .ite_fst hr hr
theorem State.Canon.homeFault {s p n cause va} (h : State.Canon s) : State.Canon (State.homeFault s p n cause va) :=
  h.message
theorem State.Canon.homeBytes {s ps key} (h : State.Canon s) : State.Canon (State.homeBytes s ps key).1 := by
  unfold State.homeBytes
  refine h.foldl_fst (fun acc hacc x => ?_)
  split
  · exact hacc
  · extract_lets +onlyGivenNames r
    have hr : State.Canon r.1 := hacc.readPa
    exact hr
theorem State.Canon.fetchHome {s idx q n d} (h : State.Canon s) : State.Canon (State.fetchHome s idx q n d) := by
  unfold State.fetchHome
  extract_lets +onlyGivenNames p va r x s1 e
  have hr : State.Canon r.1 := h.homePlaces
  have hx : State.Canon x := hr
  have hs1 : State.Canon s1 := ⟨hx.bytes, hx.core, hx.others⟩
  split
  · exact .ite h hs1.answer.homeFault
  · exact .ite h hs1.answer.homeFault
  · refine .ite h ?_
    extract_lets +onlyGivenNames b
    have hb : State.Canon b.1 := hs1.homeBytes
    split
    · exact hb.answer
    · exact hb.inject
theorem execHomeFetch_canon {idx s} (h : State.Canon s) : CanonNext (execHomeFetch idx s) := by
  unfold execHomeFetch
  split
  · exact h.next
  · exact .ite h.fetchHome.next h.next
theorem execRemoteForward_canon {idx s} (h : State.Canon s) : CanonNext (execRemoteForward idx s) := by
  unfold execRemoteForward
  split
  · exact h.next
  · extract_lets +onlyGivenNames p
    refine .ite h.next ?_
    split
    · exact h.next
    · exact State.Canon.next (State.Canon.onWafer ⟨h.bytes, h.core, h.others⟩)
theorem State.Canon.writeHome {s idx pkt d} (h : State.Canon s) : State.Canon (State.writeHome s idx pkt d) := by
  unfold State.writeHome
  extract_lets +onlyGivenNames p va r x s1
  have hr : State.Canon r.1 := h.homePlaces
  have hx : State.Canon x := hr
  have hs1 : State.Canon s1 := ⟨hx.bytes, hx.core, hx.others⟩
  split
  · exact .ite h hs1.homeFault
  · exact .ite h hs1.homeFault
  · refine .ite h ?_
    extract_lets +onlyGivenNames s2
    have hs2 : State.Canon s2 := hs1.foldl_fst (fun acc hacc x1 => hacc.writePa.pair)
    exact ⟨hs2.bytes, hs2.core, hs2.others⟩
theorem execWriteThrough_canon {idx s} (h : State.Canon s) : CanonNext (execWriteThrough idx s) := by
  unfold execWriteThrough
  split
  · exact h.next
  · split
    · exact State.Canon.next ⟨h.bytes, h.core, h.others⟩
    · refine .ite h.writeHome.next ?_
      split
      · exact h.next
      · exact State.Canon.next (State.Canon.onWafer ⟨h.bytes, h.core, h.others⟩)

/-! ## The functions of `Machine/Errors` keep the canonical form -/

theorem execPageWalk_canon {core va write s} (h : State.Canon s) : CanonNext (execPageWalk core va write s) :=
  .ite (State.Canon.next (h.atCore (fun _ hs1 => hs1.xlate))) h.next
theorem execCorrectedError_canon {unit s} (h : State.Canon s) : CanonNext (execCorrectedError unit s) :=
  h.charge.modUnit.next
theorem State.Canon.upset {s pa gran errs} (h : State.Canon s) : State.Canon (State.upset s pa gran errs) :=
  .ite h (.ite (h.foldl (fun s1 hs1 h1 => hs1.charge.modUnit)) ⟨by split; exacts [h.bytes, Mem.wf_dramPut h.bytes],
    h.core, h.others⟩)
theorem State.Canon.wildWord {s f w} (h : State.Canon s) : State.Canon (State.wildWord s f w).1 :=
  State.Canon.pair ⟨h.bytes, h.core, h.others⟩
theorem State.Canon.noise {s i bits payload} (h : State.Canon s) : State.Canon (State.noise s i bits payload) := by
  unfold State.noise
  split
  · exact h
  · extract_lets +onlyGivenNames bs hits words low x pkt
    refine .ite h ?_
    extract_lets +onlyGivenNames r x1
    have hr : State.Canon r.1 := h.chargeLink.pair.foldl_fst (fun acc hacc w => hacc.wildWord)
    have hx1 : State.Canon x1 := hr
    exact ⟨hx1.bytes, hx1.core, hx1.others⟩
theorem Core.Canon.cleared {c} (hc : Core.Canon c) : Core.Canon (Core.cleared c) := by
  unfold Core.cleared
  extract_lets +onlyGivenNames x
  have hx : Core.Canon x := reset_canon
  exact ⟨hc.spad, hx.wbuf⟩
theorem State.Canon.clearPart {s p hard} (h : State.Canon s) : State.Canon (State.clearPart s p hard) :=
  ⟨h.bytes, .ite h.core.cleared h.core, others_map h.others fun _ hc => Core.Canon.ite hc.cleared hc⟩
theorem State.Canon.fatal {s p} (h : State.Canon s) : State.Canon (State.fatal s p) := by
  unfold State.fatal
  refine .ite h ?_
  extract_lets +onlyGivenNames d s1 x s2
  clear_value d
  have hs1 : State.Canon s1 := h.post
  have hx : State.Canon x := hs1.writeG64
  clear_value s1 x
  have hs2 : State.Canon s2 := ⟨hx.bytes, hx.core, hx.others⟩
  exact hs2.clearPart
theorem execFatalError_canon {part s} (h : State.Canon s) : CanonNext (execFatalError part s) := h.fatal.next
theorem execConfigReload_canon {region s} (h : State.Canon s) : CanonNext (execConfigReload region s) :=
  .ite h.next (State.Canon.next ⟨h.bytes, h.core, h.others⟩)
theorem State.Canon.pendReg {s g} (h : State.Canon s) : State.Canon (State.pendReg s g) := h.uninstallReg.modReg
theorem State.Canon.reinstall {s q no e} (h : State.Canon s) : State.Canon (State.reinstall s q no e) := by
  unfold State.reinstall
  split
  · exact h
  · exact State.Canon.getD h.installAt h.pendReg
theorem State.Canon.rebuildTable {s r} (h : State.Canon s) : State.Canon (State.rebuildTable s r) :=
  State.Canon.foldl (h.modRouter.foldl (fun _ hs1 _ => hs1.modReg)) (fun _ hs1 _ => hs1.reinstall)
theorem State.Canon.reloaded {s unit no} (h : State.Canon s) : State.Canon (State.reloaded s unit no) := by
  unfold State.reloaded
  split
  · exact h.rebuildTable
  · exact h
theorem execConfigReloadDone_canon {region ok s} (h : State.Canon s) :
    CanonNext (execConfigReloadDone region ok s) := by
  unfold execConfigReloadDone
  extract_lets +onlyGivenNames unit no
  split
  · exact h.next
  · extract_lets +onlyGivenNames p rest
    have hrest : State.Canon rest := ⟨h.bytes, h.core, h.others⟩
    exact .ite h.next (.ite hrest.reloaded.modCluster.message.next (.ite (State.Canon.next ⟨h.bytes, h.core,
        h.others⟩) hrest.fatal.next))
theorem execSpillFault_canon {part q s} (h : State.Canon s) : CanonNext (execSpillFault part q s) :=
  .ite h.spillHold.next h.next

/-! ## The functions of `Machine/System` keep the canonical form -/

theorem State.Canon.sysRead {s w n} (h : State.Canon s) : State.Canon (State.sysRead s w n).1 := by
  unfold State.sysRead
  extract_lets +onlyGivenNames q c x
  split
  · exact h.readFill
  · exact h
  · exact h.readStage
  · exact h
  · exact h
  · exact h
  · exact h
  · exact h
  · exact h
  · exact h
  · exact h
  · exact h
  · exact .ite_fst h (.ite_fst h h)
theorem execSysRd_canon {f s} (h : State.Canon s) : CanonNext (execSysRd f s) := by
  unfold execSysRd
  refine h.issue (fun s1 hs1 => ?_)
  extract_lets +onlyGivenNames n
  refine .ite ?_ ?_
  · refine .ite .fault ?_
    split
    · exact .fault
    · refine .ite .fault ?_
      extract_lets +onlyGivenNames r
      have hr : State.Canon r.1 := hs1.sysRead
      exact .done (hr.onCore (fun c hc => hc.writeS))
  · refine .ite .fault ?_
    extract_lets +onlyGivenNames r
    have hr : State.Canon r.1 := hs1.sysRead
    exact .done (hr.onCore (fun c hc => hc.writeS))
theorem State.Canon.sysWrite {s n v} (h : State.Canon s) : State.Canon (State.sysWrite s n v) := by
  unfold State.sysWrite
  extract_lets +onlyGivenNames q p
  split
  · exact h.writeEfault
  · exact h.modCluster
  · exact h.writeStage
  · exact h.writeNetCfg
  · exact h.modPart
  · exact h.resumeLaunch
  · exact h.modPart
  · exact h.writeHold
  · exact h.writeLoad
  · exact h.endLaunch
  · exact h.writeFeClr
  · exact h.writeKeySlot
  · exact .ite h.writeRoot h
theorem execSysWr_canon {f s} (h : State.Canon s) : CanonNext (execSysWr f s) :=
  h.issue (fun _ hs1 => .ite .fault (.ite (.done (hs1.onCore (fun _ hc => ⟨hc.spad, hc.wbuf⟩))) (.ite (.done
    hs1.sysWrite) .wait)))
theorem execCoreSrndWrite_canon {core v s} (h : State.Canon s) : CanonNext (execCoreSrndWrite core v s) :=
  State.Canon.next (h.modCore (fun _ hc => hc.sysApply))
theorem execCoreCtlScbWrite_canon {core v s} (h : State.Canon s) : CanonNext (execCoreCtlScbWrite core v s) :=
  State.Canon.next (h.modCore (fun _ hc => hc.sysApply))
theorem execCoreChainWrite_canon {core v s} (h : State.Canon s) : CanonNext (execCoreChainWrite core v s) :=
  State.Canon.next (h.modCore (fun _ hc => hc.sysApply))
theorem State.Canon.eret {s a head} (h : State.Canon s) : Res.Canon (State.eret s a head) := by
  unfold State.eret
  refine .ite .fault ?_
  split
  · exact .fault
  · exact .ite .fault (.ite (.done h.setRec) (.done h.returnRec))
theorem execEret_canon {f s} (h : State.Canon s) : CanonNext (execEret f s) := h.issue (fun _ hs1 => hs1.eret)
theorem execEretH_canon {f s} (h : State.Canon s) : CanonNext (execEretH f s) := h.issue (fun _ hs1 => hs1.eret)
theorem State.Canon.tlbDrop {s p hit} (h : State.Canon s) : State.Canon (State.tlbDrop s p hit) :=
  ⟨h.bytes, ⟨h.core.spad, h.core.wbuf⟩, others_map h.others fun _ hc => ⟨hc.spad, hc.wbuf⟩⟩
theorem State.Canon.tlbInv {s op hit} (h : State.Canon s) : Res.Canon (State.tlbInv s op hit) :=
  .ite .fault (.ite .wait (.done h.tlbDrop))
theorem execTlbInv_canon {f s} (h : State.Canon s) : CanonNext (execTlbInv f s) := h.issue (fun _ hs1 => hs1.tlbInv)
theorem execTlbInvAll_canon {f s} (h : State.Canon s) : CanonNext (execTlbInvAll f s) :=
  h.issue (fun _ hs1 => hs1.tlbInv)
theorem execDictLd_canon {f s} (h : State.Canon s) : CanonNext (execDictLd f s) := by
  unfold execDictLd
  refine h.issue (fun s1 hs1 => ?_)
  extract_lets +onlyGivenNames a b q n kernel c
  refine .ite .fault ?_
  refine .ite .fault ?_
  refine .ite .fault ?_
  refine .ite .fault ?_
  extract_lets +onlyGivenNames r
  have hr : State.Canon r.1 := hs1.readVa
  split
  · exact .faultIn hr
  · exact .ite (.stay hr) (.done hr.modCluster)
theorem execDictInv_canon {f s} (h : State.Canon s) : CanonNext (execDictInv f s) :=
  h.issue (fun _ hs1 => .ite .fault (.ite .fault (.done hs1.modCluster)))
theorem State.Canon.qenq {s h1 a p} (h : State.Canon s) : Res.Canon (State.qenq s h1 a p) := by
  unfold State.qenq
  extract_lets +onlyGivenNames put
  have hput : ∀ t, State.Canon t → ∀ u, State.Canon ((put t) u) := by
    unfold put
    intro s1 hs1 b
    split
    · exact hs1
    · exact hs1.onCore (fun c hc => hc.writeP)
  split
  · exact .fault
  · extract_lets +onlyGivenNames q
    refine .ite (.ite (.done (hput _ h _)) .wait) ?_
    refine .ite .wait ?_
    refine .ite ?_ ?_
    · extract_lets +onlyGivenNames t
      have ht : State.Canon t := h.spillHold
      exact .ite (.done (hput _ ht _)) (.stay ht)
    · split
      · exact .fault
      · exact .done (hput _ h.hqPut _)
theorem State.Canon.qdeq {s h1 a p} (h : State.Canon s) : Res.Canon (State.qdeq s h1 a p) := by
  unfold State.qdeq
  extract_lets +onlyGivenNames put
  have hput : ∀ t, State.Canon t → ∀ u, State.Canon ((put t) u) := by
    unfold put
    intro s1 hs1 b
    split
    · exact hs1
    · exact hs1.onCore (fun c hc => hc.writeP)
  split
  · exact .fault
  · extract_lets +onlyGivenNames i j q
    refine .ite (.ite (.done (hput _ h _)) .wait) ?_
    refine .ite .wait ?_
    extract_lets +onlyGivenNames r
    have hr : State.Canon r.1 := h.hqHead
    split
    · exact .faultIn hr
    · exact .done (hput _ hr.enqueue.hqPop.drainPosts _)
theorem execQenq_canon {f s} (h : State.Canon s) : CanonNext (execQenq f s) := h.issue (fun _ hs1 => hs1.qenq)
theorem execQdeq_canon {f s} (h : State.Canon s) : CanonNext (execQdeq f s) := h.issue (fun _ hs1 => hs1.qdeq)
theorem execQenqNb_canon {f s} (h : State.Canon s) : CanonNext (execQenqNb f s) := h.issue (fun _ hs1 => hs1.qenq)
theorem execQdeqNb_canon {f s} (h : State.Canon s) : CanonNext (execQdeqNb f s) := h.issue (fun _ hs1 => hs1.qdeq)

/-! ## The functions of `Machine/Sienna` keep the canonical form -/

theorem State.Canon.noticeIn {s p ev ty no cap latv} (h : State.Canon s) :
    State.Canon (State.noticeIn s p ev ty no cap latv) :=
  h.modPart.foldl (fun _ hs1 _ => hs1.inject)
theorem State.Canon.capNotice {s ev ty no latv} (h : State.Canon s) : State.Canon (State.capNotice s ev ty no latv) :=
  h.foldl (fun _ hs1 _ => hs1.noticeIn)
theorem State.Canon.clockNotice {s q} (h : State.Canon s) : State.Canon (State.clockNotice s q) :=
  h.foldl (fun _ hs1 _ => hs1.noticeIn)
theorem State.Canon.logRetirement {s ty no reason} (h : State.Canon s) :
    State.Canon (State.logRetirement s ty no reason) :=
  State.Canon.post (State.Canon.post (State.Canon.onWafer ⟨h.bytes, h.core, h.others⟩))
theorem State.Canon.startCore {s w} (h : State.Canon s) : State.Canon (State.startCore s w) :=
  h.setLease.modUnit.capNotice
theorem State.Canon.setCirc {s p} (h : State.Canon s) : State.Canon (State.setCirc s p) := h.modPart
theorem State.Canon.startLink {s u} (h : State.Canon s) : State.Canon (State.startLink s u) := h.setLease.setCirc
theorem State.Canon.startChannel {s u} (h : State.Canon s) : State.Canon (State.startChannel s u) :=
  h.setLease.capNotice
theorem State.Canon.agentStarts {s q} (h : State.Canon s) : State.Canon (State.agentStarts s q) := by
  unfold State.agentStarts
  extract_lets +onlyGivenNames s1
  have hs1 : State.Canon s1 := h.elim (fun w => h.startCore)
  exact hs1.elim (fun u => hs1.startLink)
theorem State.Canon.controllerStarts {s e} (h : State.Canon s) : State.Canon (State.controllerStarts s e) :=
  .ite h (h.elim (fun _ => h.startChannel))
theorem execSiennaInterval_canon {s} (h : State.Canon s) : CanonNext (execSiennaInterval s) := by
  unfold execSiennaInterval
  extract_lets +onlyGivenNames s1
  have hs1 : State.Canon s1 := h.onWafer
  exact .ite hs1.next (State.Canon.next (State.Canon.foldl (hs1.foldl (fun s2 hs2 q => hs2.agentStarts))
      (fun s2 hs2 e => hs2.controllerStarts)))
theorem State.Canon.abandonLease {s ty no} (h : State.Canon s) : State.Canon (State.abandonLease s ty no) := by
  unfold State.abandonLease
  extract_lets +onlyGivenNames s1
  have hs1 : State.Canon s1 := h.setLease
  exact .ite hs1.setCirc hs1.capNotice
theorem execLeaseSave_canon {core s} (h : State.Canon s) : CanonNext (execLeaseSave core s) := by
  unfold execLeaseSave
  extract_lets +onlyGivenNames c
  have hc : Core.Canon c := h.coreAt
  refine .ite h.next ?_
  split
  · exact h.setLease.next
  · split
    · exact h.abandonLease.next
    · exact State.Canon.next (State.Canon.modCore (h.modCore (fun d hd => hd.spadPut)) (fun c1 hc1 => ⟨hc1.spad,
        hc1.wbuf⟩))
theorem execLeaseAbandon_canon {unit s} (h : State.Canon s) : CanonNext (execLeaseAbandon unit s) := by
  unfold execLeaseAbandon
  extract_lets +onlyGivenNames ty no
  refine .ite h.next ?_
  refine .ite ?_ (.ite h.abandonLease.next h.next)
  extract_lets +onlyGivenNames c
  have hc : Core.Canon c := h.coreAt
  split
  · exact .ite h.abandonLease.next h.next
  · exact h.next
theorem State.Canon.tested {s w} (h : State.Canon s) : State.Canon (State.tested s w) := by
  unfold State.tested
  extract_lets +onlyGivenNames c n back c1 x
  have hc : Core.Canon c := h.coreAt
  have hback : Core.Canon back := .ite hc hc.spadPut
  have hc1 : Core.Canon c1 := hback.spadPut
  have hx : State.Canon x := h.setCore ⟨hc1.spad, Mem.wf_write hc1.wbuf ..⟩
  exact ⟨hx.bytes, hx.core, hx.others⟩
theorem State.Canon.promote {s w x} (h : State.Canon s) : State.Canon (State.promote s w x) := by
  unfold State.promote
  extract_lets +onlyGivenNames c n src s1
  have hc : Core.Canon c := h.coreAt
  have hs1 : State.Canon s1 := by
    unfold s1
    refine h.modCore (fun d hd => ?_)
    extract_lets +onlyGivenNames x1
    have hx1 : Core.Canon x1 := .ite hd hd.spadPut
    exact ⟨hx1.spad, hx1.wbuf⟩
  exact hs1.modCore (fun c1 hc1 => ⟨hc1.spad, hc1.wbuf⟩)
theorem State.Canon.setLink {s u up} (h : State.Canon s) : State.Canon (State.setLink s u up) := h.modRouter.modRouter
theorem State.Canon.rerouted {s p change} (h : State.Canon s) (hchange : ∀ t, State.Canon t → State.Canon
    (change t)) :
    State.Canon (State.rerouted s p change) := by
  unfold State.rerouted
  extract_lets +onlyGivenNames gs s1
  have hs1 : State.Canon s1 := hchange _ (h.foldl (fun s1 hs1 g => hs1.uninstallReg.modReg))
  refine hs1.foldl (fun s2 hs2 g => ?_)
  split
  · rename_i t1 ht1
    exact (hs2.installReg t1 ht1)
  · exact hs2.modReg
theorem execLinkDrained_canon {unit s} (h : State.Canon s) : CanonNext (execLinkDrained unit s) :=
  .ite h.next (State.Canon.next (State.Canon.setCirc (State.Canon.setLease (h.rerouted (fun _ hs1 => hs1.setLink)))))
theorem State.Canon.markRetired {s q} (h : State.Canon s) : State.Canon (State.markRetired s q) :=
  h.foldl (fun _ hs1 _ => hs1.foldl (fun _ hs2 _ => .ite hs2.modRouter hs2))
theorem State.Canon.retarget {s} (h : State.Canon s) : State.Canon (State.retarget s) := ⟨h.bytes, h.core, h.others⟩
theorem State.Canon.moveKept {s q t} (h : State.Canon s) : State.Canon (State.moveKept s q t) :=
  ⟨h.bytes, h.core, h.others⟩
theorem State.Canon.moveSlices {s q t} (h : State.Canon s) : State.Canon (State.moveSlices s q t) :=
  h.modCluster.modCluster.moveKept.foldl (fun _ hs1 _ => hs1.loseCombine)
theorem State.Canon.emptyCluster {s q} (h : State.Canon s) : State.Canon (State.emptyCluster s q) :=
  State.Canon.foldl (h.foldl (fun _ hs1 _ => .ite hs1 hs1.setLease.capNotice)) (fun _ hs1 _ => hs1.modCore
    (fun _ hc => .ite ⟨hc.spad, hc.wbuf⟩ hc))
theorem State.Canon.retireCluster {s q reason} (h : State.Canon s) :
    State.Canon (State.retireCluster s q reason) := by
  unfold State.retireCluster
  extract_lets +onlyGivenNames p s1 s2
  have hs1 : State.Canon s1 := State.Canon.logRetirement (h.rerouted (fun s1 hs1 => hs1.modCluster.markRetired))
  have hs2 : State.Canon s2 := State.Canon.retarget (.ite hs1 hs1.moveSlices)
  exact hs2.emptyCluster.capNotice
theorem State.Canon.retireCore {s w reason} (h : State.Canon s) : State.Canon (State.retireCore s w reason) :=
  .ite h.logRetirement.promote.capNotice (State.Canon.retireCluster (State.Canon.capNotice (h.modCore
    (fun _ hc => ⟨hc.spad, hc.wbuf⟩))))
theorem execChannelQuiesce_canon {unit s} (h : State.Canon s) : CanonNext (execChannelQuiesce unit s) :=
  .ite h.setLease.next h.next
theorem State.Canon.softRepair {s u} (h : State.Canon s) : State.Canon (State.softRepair s u) := by
  unfold State.softRepair
  extract_lets +onlyGivenNames s1
  have hs1 : State.Canon s1 := h.modUnit
  exact .ite (State.Canon.logRetirement ⟨hs1.bytes, hs1.core, hs1.others⟩) hs1
theorem execChannelRelease_canon {part unit s} (h : State.Canon s) : CanonNext (execChannelRelease part unit s) :=
  .ite h.setLease.modPart.next h.next
theorem State.Canon.noteTest {s ty no} (h : State.Canon s) : State.Canon (State.noteTest s ty no) := h.modUnit
theorem State.Canon.testScored {s ty no result} (h : State.Canon s) :
    State.Canon (State.testScored s ty no result) := by
  unfold State.testScored
  extract_lets +onlyGivenNames s1
  have hs1 : State.Canon s1 := h.noteTest
  exact .ite hs1.charge hs1
theorem State.Canon.corePassed {s w} (h : State.Canon s) : State.Canon (State.corePassed s w) :=
  h.tested.setLease.capNotice
theorem execLeaseTestDone_canon {unit result s} (h : State.Canon s) :
    CanonNext (execLeaseTestDone unit result s) := by
  unfold execLeaseTestDone
  extract_lets +onlyGivenNames ty no p pass
  split
  · extract_lets +onlyGivenNames s1
    have hs1 : State.Canon s1 := h.testScored
    exact State.Canon.next (.ite hs1.corePassed hs1.retireCore)
  · extract_lets +onlyGivenNames s1
    have hs1 : State.Canon s1 := h.testScored
    exact .ite (State.Canon.next (State.Canon.setCirc (State.Canon.setLease (hs1.rerouted (fun s2 hs2 =>
        hs2.setLink))))) hs1.logRetirement.setLease.capNotice.next
  · exact .ite h.next h.setLease.setCirc.capNotice.next
  · extract_lets +onlyGivenNames s1
    have hs1 : State.Canon s1 := h.testScored.softRepair
    exact .ite hs1.setLease.capNotice.next hs1.logRetirement.setLease.capNotice.next
  · exact h.next
theorem execOperatorCommand_canon {unit s} (h : State.Canon s) : CanonNext (execOperatorCommand unit s) := by
  unfold execOperatorCommand
  extract_lets +onlyGivenNames no
  split
  · exact .ite h.next h.retireCore.next
  · exact .ite h.next (State.Canon.next (State.Canon.capNotice (State.Canon.setLease (State.Canon.logRetirement
      (h.rerouted (fun s1 hs1 => hs1.setLink))))))
  · exact .ite h.next h.logRetirement.setLease.capNotice.next
  · exact .ite h.retireCluster.next h.next
  · exact h.next
theorem execMarginPlanChange_canon {cluster plan s} (h : State.Canon s) :
    CanonNext (execMarginPlanChange cluster plan s) :=
  .ite h.next (.ite h.retireCluster.next (.ite h.next h.setCluster.clockNotice.next))

/-! ## The functions of `Machine/Wafer` keep the canonical form -/

theorem execGreetingBurst_canon {router port s} (h : State.Canon s) : CanonNext (execGreetingBurst router port s) :=
  .ite h.modRouter.next h.next
theorem execGreetingAnswer_canon {router port intact s} (h : State.Canon s) :
    CanonNext (execGreetingAnswer router port intact s) := by
  unfold execGreetingAnswer
  extract_lets +onlyGivenNames far
  refine .ite h.next ?_
  extract_lets +onlyGivenNames passed s1 u
  have hs1 : State.Canon s1 := h.modRouter
  exact .ite hs1.setLink.next hs1.next
theorem State.Canon.loadDetours {s inside rs} (h : State.Canon s) : State.Canon (State.loadDetours s inside rs) :=
  h.foldl (fun _ hs1 _ => hs1.modRouter)
theorem State.Canon.loadRoutes {s p q} (h : State.Canon s) : State.Canon (State.loadRoutes s p q) :=
  h.foldl (fun _ hs1 _ => hs1.modRouter)
theorem State.Canon.renumber {s q} (h : State.Canon s) : State.Canon (State.renumber s q) := by
  unfold State.renumber
  refine h.foldl (fun s1 hs1 col => ?_)
  split
  · exact hs1
  · exact State.Canon.modCore (hs1.modCore (fun c hc => ⟨hc.spad, hc.wbuf⟩)) (fun c hc => ⟨hc.spad, hc.wbuf⟩)
theorem State.Canon.startCounters {s q} (h : State.Canon s) : State.Canon (State.startCounters s q) :=
  h.modCluster.onWafer.foldl (fun _ hs1 _ => hs1.modCore (fun _ hc => ⟨hc.spad, hc.wbuf⟩))
theorem State.Canon.noteField {s f} (h : State.Canon s) : State.Canon (State.noteField s f) := .ite h.onWafer h
theorem State.Canon.readFuses {s q found} (h : State.Canon s) : State.Canon (State.readFuses s q found) :=
  State.Canon.foldl (h.modCluster.foldl (fun _ hs1 _ => hs1.modCore (fun _ hc => ⟨hc.spad, hc.wbuf⟩)))
    (fun _ hs1 _ => hs1.modRouter)
theorem execClusterStageAdvance_canon {cluster found s} (h : State.Canon s) :
    CanonNext (execClusterStageAdvance cluster found s) := by
  unfold execClusterStageAdvance
  extract_lets +onlyGivenNames c goTo
  have hgoTo : ∀ t, ∀ u, State.Canon u → State.Canon ((goTo t) u) := fun n s1 hs1 => hs1.modCluster
  refine .ite h.next ?_
  split
  · exact (hgoTo _ _ h.readFuses.startCounters).next
  · exact .ite (hgoTo _ _ h).noteField.next h.next
  · exact .ite (hgoTo _ _ h).markRetired.next (State.Canon.next (hgoTo _ _ (h.renumber.loadDetours.foldl
      (fun s1 hs1 r => hs1.modRouter))))
  · exact .ite (hgoTo _ _ h.logRetirement).markRetired.next (hgoTo _ _ h.modCluster).next
  · exact (hgoTo _ _ h.modCluster).clockNotice.next
  · exact h.next
theorem State.Canon.resetField {s f} (h : State.Canon s) : State.Canon (State.resetField s f) := by
  let fresh := fun (w : Nat) (c : Core) =>
    if c.lease = .retired then { Core.reset with lease := .retired, named := false } else Core.fresh w
  have hfresh : ∀ w c, (fresh w c).Canon := fun w c => .ite ⟨rfl, rfl⟩ fresh_canon
  unfold State.resetField
  have h1 : State.Canon (if s.fieldPartition f < 16 then s.clearPart (s.fieldPartition f) true else s) := .ite
      h.clearPart h
  refine State.Canon.onWafer (State.Canon.foldl ?_ fun t ht r => ht.foldl fun u hu d => .ite hu.modRouter hu)
  exact ⟨h1.bytes, .ite (hfresh ..) h1.core, others_map h1.others fun e hc => Core.Canon.ite (hfresh ..) hc⟩
theorem execColdReset_canon {field s} (h : State.Canon s) : CanonNext (execColdReset field s) := h.resetField.next
theorem State.Canon.writeCap {s q v} (h : State.Canon s) : State.Canon (State.writeCap s q v) := .ite h h.modCluster
theorem execPwrCapWrite_canon {cluster v s} (h : State.Canon s) : CanonNext (execPwrCapWrite cluster v s) :=
  h.writeCap.next
theorem execPowerCapStep_canon {cluster draw s} (h : State.Canon s) : CanonNext (execPowerCapStep cluster draw s) :=
  h.modCluster.next
theorem execThermalHold_canon {cluster s} (h : State.Canon s) : CanonNext (execThermalHold cluster s) :=
  h.modCluster.next
theorem execThermalRelease_canon {cluster s} (h : State.Canon s) : CanonNext (execThermalRelease cluster s) :=
  h.modCluster.next
theorem execThermalStop_canon {field s} (h : State.Canon s) : CanonNext (execThermalStop field s) := by
  unfold execThermalStop
  extract_lets +onlyGivenNames s1
  have hs1 : State.Canon s1 := .ite h h.onWafer
  exact State.Canon.next (.ite hs1.fatal hs1)
theorem State.Canon.writeForm {s v} (h : State.Canon s) : State.Canon (State.writeForm s v) := .ite h h.onWafer
theorem execPartForm_canon {v s} (h : State.Canon s) : CanonNext (execPartForm v s) := h.writeForm.next
theorem execPartDissolve_canon {v s} (h : State.Canon s) : CanonNext (execPartDissolve v s) := h.writeForm.next
theorem State.Canon.formPart {s c} (h : State.Canon s) : State.Canon (State.formPart s c) :=
  State.Canon.foldl (State.Canon.loadDetours (h.setPart.onWafer.foldl (fun _ hs1 _ => hs1.modRouter)))
    (fun _ hs1 _ => hs1.loadRoutes)
theorem execPartFormDone_canon {s} (h : State.Canon s) : CanonNext (execPartFormDone s) := by
  unfold execPartFormDone
  refine .ite h.next ?_
  extract_lets +onlyGivenNames v form reason s1
  have hs1 : State.Canon s1 := h.onWafer
  exact .ite hs1.next (.ite hs1.formPart.next hs1.clearPart.next)
theorem execKeyInstall_canon {idx s} (h : State.Canon s) : CanonNext (execKeyInstall idx s) := by
  unfold execKeyInstall
  split
  · exact h.next
  · extract_lets +onlyGivenNames r s1
    have hs1 : State.Canon s1 := h.onWafer
    exact .ite hs1.next hs1.modPart.onWafer.next
theorem execRimReset_canon {s} (h : State.Canon s) : CanonNext (execRimReset s) :=
  State.Canon.next ⟨h.bytes, h.core, h.others⟩
theorem execPcieLinkTrain_canon {port s} (h : State.Canon s) : CanonNext (execPcieLinkTrain port s) :=
  .ite h.onWafer.next h.next
theorem State.Canon.storeRaw {s a bs} (h : State.Canon s) : State.Canon (State.storeRaw s a bs) := by
  unfold State.storeRaw
  extract_lets +onlyGivenNames t ps sound
  have ht : State.Canon t := h.writePa
  exact ⟨Mem.wf_ite (Mem.wf_write h.bytes ..) ht.bytes, ht.core, ht.others⟩
theorem execBar2Access_canon {idx s} (h : State.Canon s) : CanonNext (execBar2Access idx s) := by
  unfold execBar2Access
  split
  · exact h.next
  · extract_lets +onlyGivenNames a n
    refine .ite h.next ?_
    extract_lets +onlyGivenNames s1
    have hs1 : State.Canon s1 := h.onWafer
    exact .ite hs1.storeRaw.next (State.Canon.next (State.Canon.onWafer ⟨hs1.bytes, hs1.core, hs1.others⟩))
theorem execBolsarLinkKey_canon {port s} (h : State.Canon s) : CanonNext (execBolsarLinkKey port s) :=
  .ite h.onWafer.next h.next
theorem execBolsarFlit_canon {port crcOk s} (h : State.Canon s) : CanonNext (execBolsarFlit port crcOk s) := by
  unfold execBolsarFlit
  split
  · exact h.next
  · exact .ite h.next (.ite h.onWafer.homeFrame.next h.charge.next)

/-! ## The functions of `Machine/Mgmt` keep the canonical form -/

theorem State.Canon.drainAll {s p i} (h : State.Canon s) : State.Canon (State.drainAll s p i) :=
  h.foldl (fun _ hs1 _ => hs1.drainPosts)
theorem State.Canon.writeHqCfg {s p i v} (h : State.Canon s) : State.Canon (State.writeHqCfg s p i v) :=
  .ite h h.setHq.drainAll
theorem State.Canon.ignoreHq {s p i} (h : State.Canon s) : State.Canon (State.ignoreHq s p i) := h.setHq
theorem State.Canon.writeHqTail {s p i v} (h : State.Canon s) : State.Canon (State.writeHqTail s p i v) := by
  unfold State.writeHqTail
  extract_lets +onlyGivenNames q n
  refine .ite h ?_
  refine .ite h.ignoreHq ?_
  extract_lets +onlyGivenNames more ents q1 q2 x s1
  have hx : State.Canon x := h.setHq
  have hs1 : State.Canon s1 := ⟨hx.bytes, hx.core, hx.others⟩
  exact .ite hs1 hs1.queueTurned
theorem State.Canon.moveHead {s p i n v} (h : State.Canon s) : State.Canon (State.moveHead s p i n v) := by
  unfold State.moveHead
  extract_lets +onlyGivenNames q back q1
  refine .ite h.setHq ?_
  extract_lets +onlyGivenNames gone skip q2
  refine State.Canon.unspill ?_
  extract_lets +onlyGivenNames x
  have hx : State.Canon x := h.setHq
  exact ⟨hx.bytes, hx.core, hx.others⟩
theorem State.Canon.writeHqHead {s p i v} (h : State.Canon s) : State.Canon (State.writeHqHead s p i v) := by
  unfold State.writeHqHead
  extract_lets +onlyGivenNames q n
  refine .ite h ?_
  refine .ite h.ignoreHq ?_
  extract_lets +onlyGivenNames s1
  have hs1 : State.Canon s1 := h.moveHead.drainAll
  exact .ite hs1 hs1.queueTurned
theorem State.Canon.writeHqNotify {s p i v} (h : State.Canon s) : State.Canon (State.writeHqNotify s p i v) :=
  .ite h h.setHq
theorem execHqCfgWrite_canon {part q v s} (h : State.Canon s) : CanonNext (execHqCfgWrite part q v s) :=
  h.writeHqCfg.next
theorem execHqTailWrite_canon {part q v s} (h : State.Canon s) : CanonNext (execHqTailWrite part q v s) :=
  .ite h.writeHqTail.next h.next
theorem execHqHeadWrite_canon {part q v s} (h : State.Canon s) : CanonNext (execHqHeadWrite part q v s) :=
  h.writeHqHead.next
theorem execHqNotifyWrite_canon {part q v s} (h : State.Canon s) : CanonNext (execHqNotifyWrite part q v s) :=
  h.writeHqNotify.next
theorem State.Canon.writeHqReg {s p i off v} (h : State.Canon s) : State.Canon (State.writeHqReg s p i off v) := by
  unfold State.writeHqReg
  split
  · exact h.writeHqCfg
  · exact h.writeHqHead
  · exact h.writeHqTail
  · exact h.writeHqNotify
  · exact h.setHq
  · exact h.setHq.drainAll
  · exact h
theorem execRecAddrWrite_canon {part v s} (h : State.Canon s) : CanonNext (execRecAddrWrite part v s) :=
  .ite h.modPart.next h.next
theorem State.Canon.zeroNrep {s r} (h : State.Canon s) : State.Canon (State.zeroNrep s r) := .ite h.writeVa h
theorem State.Canon.leaveWaiters {s r} (h : State.Canon s) : State.Canon (State.leaveWaiters s r) := .ite h h.modPart
theorem State.Canon.putRec {s r0} (h : State.Canon s) : State.Canon (State.putRec s r0) := by
  unfold State.putRec
  extract_lets +onlyGivenNames r c out
  have hout : State.Canon out := h.setCluster.leaveWaiters
  exact .ite hout.setRec (.ite (.ite h.setRec hout.queueUp) (.ite hout.dropHeldRegs.freeSave.dropRec hout.setRec))
theorem State.Canon.writeRec {s p idx v} (h : State.Canon s) : State.Canon (State.writeRec s p idx v) := by
  unfold State.writeRec
  split
  · exact h
  · extract_lets +onlyGivenNames r
    split
    · exact State.Canon.putRec (.ite h.zeroNrep h)
    · exact .ite (h.modCore (fun c hc => ⟨hc.spad, hc.wbuf⟩)) (h.modCore (fun c hc => ⟨hc.spad, hc.wbuf⟩))
theorem execRecDataWrite_canon {part idx v s} (h : State.Canon s) : CanonNext (execRecDataWrite part idx v s) :=
  h.writeRec.next
theorem Core.Canon.windowPut {c off v} (hc : Core.Canon c) : Core.Canon (Core.windowPut c off v) := by
  unfold Core.windowPut
  extract_lets +onlyGivenNames g r
  have hg : ∀ t, Core.Canon (g t) := fun r => ⟨hc.spad, hc.wbuf⟩
  exact .ite hc.spadPut (.ite ⟨hc.spad, hc.wbuf⟩ (.ite (hg _) (.ite (.ite hc (hg _)) (.ite (.ite hc (hg _)) (.ite
      (hg _) (.ite (hg _) (.ite (hg _) (.ite ⟨hc.spad, hc.wbuf⟩ (.ite (hg _) (.ite ⟨hc.spad, Mem.wf_write
      hc.wbuf ..⟩ hc))))))))))
theorem State.Canon.windowFault {s p addr} (h : State.Canon s) : State.Canon (State.windowFault s p addr) := by
  unfold State.windowFault
  split
  · exact h
  · exact .ite h h.holdEngine
theorem execCoreWindowWrite_canon {part addr v s} (h : State.Canon s) :
    CanonNext (execCoreWindowWrite part addr v s) := by
  unfold execCoreWindowWrite
  extract_lets +onlyGivenNames off
  refine .ite h.next ?_
  split
  · exact h.windowFault.next
  · exact .ite h.writeEfault.next (.ite h.windowFault.next (.ite h.next (State.Canon.next (h.modCore (fun c hc =>
      hc.windowPut)))))
theorem Core.Canon.boundary {c} (hc : Core.Canon c) : Core.Canon (Core.boundary c) := ⟨hc.spad, hc.wbuf⟩
theorem State.Canon.windowRead {s part addr n dst} (h : State.Canon s) :
    State.Canon (State.windowRead s part addr n dst) := by
  -- unfolded as a function: its first scrutinee is not to be evaluated
  generalize hf : @State.windowRead = f
  delta State.windowRead at hf
  subst hf
  beta_reduce
  generalize s.windowCore part addr n = w
  generalize s.supervisorCore part = v
  cases w with
  | none => exact h.windowFault
  | some w =>
    cases v with
    | none => exact h
    | some v => exact .ite h (h.modCore fun c hc => hc.spadPut)
theorem State.Canon.writeSienna {s v} (h : State.Canon s) : State.Canon (State.writeSienna s v) := .ite h h.onWafer
theorem execSiennaCfgWrite_canon {v s} (h : State.Canon s) : CanonNext (execSiennaCfgWrite v s) := h.writeSienna.next
theorem State.Canon.writeWindow {s p o v} (h : State.Canon s) : State.Canon (State.writeWindow s p o v) :=
  .ite h (.ite h.writeHqReg (.ite h.modPart (.ite h.writeRec h)))
theorem State.Canon.writeMgmt {s a v} (h : State.Canon s) : State.Canon (State.writeMgmt s a v) :=
  .ite h (.ite h.onWafer (.ite h.onWafer (.ite h.onWafer (.ite h.writeCap (.ite h.writeSienna (.ite h.onWafer (.ite
    h.onWafer (.ite h.onWafer (.ite h.onWafer (.ite h.writeForm (.ite h.writeWindow h)))))))))))
theorem execRegisterWrite_canon {addr v s} (h : State.Canon s) : CanonNext (execRegisterWrite addr v s) :=
  .ite h.writeMgmt.next h.next

/-! ## The functions of `Machine/Scalar` keep the canonical form -/

theorem Core.Canon.opS {f lat g c} (hc : Core.Canon c) : Core.Canon (Core.opS f lat g c) := hc.writeS
theorem Core.Canon.opZ {f lat g c} (hc : Core.Canon c) : Core.Canon (Core.opZ f lat g c) := hc.writeS
theorem Core.Canon.opU {f g c} (hc : Core.Canon c) : Core.Canon (Core.opU f g c) := hc.writeS
theorem Core.Canon.opShift {f g c} (hc : Core.Canon c) : Core.Canon (Core.opShift f g c) := hc.writeS
theorem Core.Canon.opF {f lat g c} (hc : Core.Canon c) : Core.Canon (Core.opF f lat g c) := hc.writeS.raise
theorem Core.Canon.opFcvt {f c} (hc : Core.Canon c) : Core.Canon (Core.opFcvt f c) :=
  (Core.Canon.writeS (.ite hc.setSrnd hc)).raise
theorem execAdd_canon {f s} (h : State.Canon s) : CanonNext (execAdd f s) := h.compute (fun _ hc => hc.opS)
theorem execAddi_canon {f s} (h : State.Canon s) : CanonNext (execAddi f s) := h.compute (fun _ hc => hc.writeS)
theorem execSub_canon {f s} (h : State.Canon s) : CanonNext (execSub f s) := h.compute (fun _ hc => hc.opS)
theorem execMul_canon {f s} (h : State.Canon s) : CanonNext (execMul f s) := h.compute (fun _ hc => hc.opS)
theorem execMulh_canon {f s} (h : State.Canon s) : CanonNext (execMulh f s) := h.compute (fun _ hc => hc.opS)
theorem execMulhN_canon {f s} (h : State.Canon s) : CanonNext (execMulhN f s) := h.compute (fun _ hc => hc.opZ)
theorem execDiv_canon {f s} (h : State.Canon s) : CanonNext (execDiv f s) := h.compute (fun _ hc => hc.opS)
theorem execDivN_canon {f s} (h : State.Canon s) : CanonNext (execDivN f s) := h.compute (fun _ hc => hc.opZ)
theorem execRem_canon {f s} (h : State.Canon s) : CanonNext (execRem f s) := h.compute (fun _ hc => hc.opS)
theorem execRemN_canon {f s} (h : State.Canon s) : CanonNext (execRemN f s) := h.compute (fun _ hc => hc.opZ)
theorem execMin_canon {f s} (h : State.Canon s) : CanonNext (execMin f s) := h.compute (fun _ hc => hc.opS)
theorem execMinN_canon {f s} (h : State.Canon s) : CanonNext (execMinN f s) := h.compute (fun _ hc => hc.opZ)
theorem execMax_canon {f s} (h : State.Canon s) : CanonNext (execMax f s) := h.compute (fun _ hc => hc.opS)
theorem execMaxN_canon {f s} (h : State.Canon s) : CanonNext (execMaxN f s) := h.compute (fun _ hc => hc.opZ)
theorem execAnd_canon {f s} (h : State.Canon s) : CanonNext (execAnd f s) := h.compute (fun _ hc => hc.opZ)
theorem execOr_canon {f s} (h : State.Canon s) : CanonNext (execOr f s) := h.compute (fun _ hc => hc.opZ)
theorem execXor_canon {f s} (h : State.Canon s) : CanonNext (execXor f s) := h.compute (fun _ hc => hc.opZ)
theorem execAndn_canon {f s} (h : State.Canon s) : CanonNext (execAndn f s) := h.compute (fun _ hc => hc.opZ)
theorem execShl_canon {f s} (h : State.Canon s) : CanonNext (execShl f s) := h.compute (fun _ hc => hc.opShift)
theorem execShr_canon {f s} (h : State.Canon s) : CanonNext (execShr f s) := h.compute (fun _ hc => hc.opShift)
theorem execShrN_canon {f s} (h : State.Canon s) : CanonNext (execShrN f s) := h.compute (fun _ hc => hc.opShift)
theorem execRot_canon {f s} (h : State.Canon s) : CanonNext (execRot f s) := h.compute (fun _ hc => hc.opShift)
theorem execClz_canon {f s} (h : State.Canon s) : CanonNext (execClz f s) := h.compute (fun _ hc => hc.opU)
theorem execCtz_canon {f s} (h : State.Canon s) : CanonNext (execCtz f s) := h.compute (fun _ hc => hc.opU)
theorem execPopc_canon {f s} (h : State.Canon s) : CanonNext (execPopc f s) := h.compute (fun _ hc => hc.opU)
theorem execMov_canon {f s} (h : State.Canon s) : CanonNext (execMov f s) := h.compute (fun _ hc => hc.opU)
theorem execBfx_canon {f s} (h : State.Canon s) : CanonNext (execBfx f s) := h.compute (fun _ hc => hc.writeS)
theorem execBfi_canon {f s} (h : State.Canon s) : CanonNext (execBfi f s) := h.compute (fun _ hc => hc.writeS)
theorem execSext_canon {f s} (h : State.Canon s) : CanonNext (execSext f s) := h.compute (fun _ hc => hc.writeS)
theorem execZext_canon {f s} (h : State.Canon s) : CanonNext (execZext f s) := h.compute (fun _ hc => hc.writeS)
theorem execMovi_canon {f s} (h : State.Canon s) : CanonNext (execMovi f s) := h.compute (fun _ hc => hc.writeS)
theorem execMoviZ_canon {f s} (h : State.Canon s) : CanonNext (execMoviZ f s) := h.compute (fun _ hc => hc.writeS)
theorem execMoviH_canon {f s} (h : State.Canon s) : CanonNext (execMoviH f s) := h.compute (fun _ hc => hc.writeS)
theorem execSel_canon {f s} (h : State.Canon s) : CanonNext (execSel f s) := h.compute (fun _ hc => hc.writeS)
theorem execCmpCc_canon {f s} (h : State.Canon s) : CanonNext (execCmpCc f s) := h.compute (fun _ hc => hc.writeP)
theorem execCmpiCc_canon {f s} (h : State.Canon s) : CanonNext (execCmpiCc f s) := h.compute (fun _ hc => hc.writeP)
theorem execLea_canon {f s} (h : State.Canon s) : CanonNext (execLea f s) := h.compute (fun _ hc => hc.writeS)
theorem execFadd_canon {f s} (h : State.Canon s) : CanonNext (execFadd f s) := h.compute (fun _ hc => hc.opF)
theorem execFsub_canon {f s} (h : State.Canon s) : CanonNext (execFsub f s) := h.compute (fun _ hc => hc.opF)
theorem execFmul_canon {f s} (h : State.Canon s) : CanonNext (execFmul f s) := h.compute (fun _ hc => hc.opF)
theorem execFfma_canon {f s} (h : State.Canon s) : CanonNext (execFfma f s) := h.compute (fun _ hc => hc.opF)
theorem execFmin_canon {f s} (h : State.Canon s) : CanonNext (execFmin f s) := h.compute (fun _ hc => hc.opF)
theorem execFmax_canon {f s} (h : State.Canon s) : CanonNext (execFmax f s) := h.compute (fun _ hc => hc.opF)
theorem execFcmpCc_canon {f s} (h : State.Canon s) : CanonNext (execFcmpCc f s) := h.compute (fun _ hc => hc.writeP)
theorem execFcvt_canon {f s} (h : State.Canon s) : CanonNext (execFcvt f s) := h.compute (fun _ hc => hc.opFcvt)

/-! ## The functions of `Machine/Vector` keep the canonical form -/

theorem Core.Canon.putV {c t lat d km mz f} (hc : Core.Canon c) : Core.Canon (Core.putV c t lat d km mz f) :=
  hc.writeLoc.raise
theorem Core.Canon.putAll {c t lat d f} (hc : Core.Canon c) : Core.Canon (Core.putAll c t lat d f) := hc.writeLoc
theorem Core.Canon.map1 {c t lat d a km mz op} (hc : Core.Canon c) : Core.Canon (Core.map1 c t lat d a km mz op) :=
  hc.putV
theorem Core.Canon.map2 {c t lat d a b km mz op} (hc : Core.Canon c) :
    Core.Canon (Core.map2 c t lat d a b km mz op) :=
  hc.putV
theorem execVadd_canon {f s} (h : State.Canon s) : CanonNext (execVadd f s) := h.compute (fun _ hc => hc.map2)
theorem execVsub_canon {f s} (h : State.Canon s) : CanonNext (execVsub f s) := h.compute (fun _ hc => hc.map2)
theorem execVmul_canon {f s} (h : State.Canon s) : CanonNext (execVmul f s) := h.compute (fun _ hc => hc.map2)
theorem execVfma_canon {f s} (h : State.Canon s) : CanonNext (execVfma f s) := h.compute (fun _ hc => hc.putV)
theorem execVmin_canon {f s} (h : State.Canon s) : CanonNext (execVmin f s) := h.compute (fun _ hc => hc.map2)
theorem execVmax_canon {f s} (h : State.Canon s) : CanonNext (execVmax f s) := h.compute (fun _ hc => hc.map2)
theorem execVabs_canon {f s} (h : State.Canon s) : CanonNext (execVabs f s) := h.compute (fun _ hc => hc.map1)
theorem execVneg_canon {f s} (h : State.Canon s) : CanonNext (execVneg f s) := h.compute (fun _ hc => hc.map1)
theorem execVand_canon {f s} (h : State.Canon s) : CanonNext (execVand f s) := h.compute (fun _ hc => hc.map2)
theorem execVor_canon {f s} (h : State.Canon s) : CanonNext (execVor f s) := h.compute (fun _ hc => hc.map2)
theorem execVxor_canon {f s} (h : State.Canon s) : CanonNext (execVxor f s) := h.compute (fun _ hc => hc.map2)
theorem execVshl_canon {f s} (h : State.Canon s) : CanonNext (execVshl f s) := h.compute (fun _ hc => hc.putV)
theorem execVshr_canon {f s} (h : State.Canon s) : CanonNext (execVshr f s) := h.compute (fun _ hc => hc.putV)
theorem execVcmpCc_canon {f s} (h : State.Canon s) : CanonNext (execVcmpCc f s) := h.compute (fun _ hc => hc.writeM)
theorem execVsel_canon {f s} (h : State.Canon s) : CanonNext (execVsel f s) := h.compute (fun _ hc => hc.putAll)
theorem execVcas_canon {f s} (h : State.Canon s) : CanonNext (execVcas f s) := h.compute (fun _ hc => hc.putV)
theorem execVcasX_canon {f s} (h : State.Canon s) : CanonNext (execVcasX f s) := h.compute (fun _ hc => hc.putV.putV)
theorem execVperm_canon {f s} (h : State.Canon s) : CanonNext (execVperm f s) := h.compute (fun _ hc => hc.putAll)
theorem execVperm2_canon {f s} (h : State.Canon s) : CanonNext (execVperm2 f s) := h.compute (fun _ hc => hc.putAll)
theorem execVbcastScalar_canon {f s} (h : State.Canon s) : CanonNext (execVbcastScalar f s) :=
  h.compute (fun _ hc => hc.putAll)
theorem execVbcastLane_canon {f s} (h : State.Canon s) : CanonNext (execVbcastLane f s) :=
  h.compute (fun _ hc => hc.putAll)
theorem execVbcastLiteral_canon {f s} (h : State.Canon s) : CanonNext (execVbcastLiteral f s) :=
  h.compute (fun _ hc => hc.putAll)
theorem execVshuf_canon {f s} (h : State.Canon s) : CanonNext (execVshuf f s) := h.compute (fun _ hc => hc.putAll)
theorem execVmovS_canon {f s} (h : State.Canon s) : CanonNext (execVmovS f s) := h.compute (fun _ hc => hc.writeV)
theorem execVext_canon {f s} (h : State.Canon s) : CanonNext (execVext f s) := h.compute (fun _ hc => hc.writeS)
theorem execViota_canon {f s} (h : State.Canon s) : CanonNext (execViota f s) := h.compute (fun _ hc => hc.putV)
theorem execVredAdd_canon {f s} (h : State.Canon s) : CanonNext (execVredAdd f s) :=
  h.compute (fun _ hc => .ite hc.writeS.raise hc.writeS)
theorem Core.Canon.extreme {c f float int op} (hc : Core.Canon c) : Core.Canon (Core.extreme c f float int op) :=
  .ite hc.writeS hc.writeS
theorem execVredMax_canon {f s} (h : State.Canon s) : CanonNext (execVredMax f s) :=
  h.compute (fun _ hc => hc.extreme)
theorem execVredMin_canon {f s} (h : State.Canon s) : CanonNext (execVredMin f s) :=
  h.compute (fun _ hc => hc.extreme)
theorem execVscanAdd_canon {f s} (h : State.Canon s) : CanonNext (execVscanAdd f s) := h.compute (fun _ hc => hc.putV)
theorem execVrcpE_canon {f s} (h : State.Canon s) : CanonNext (execVrcpE f s) := h.compute (fun _ hc => hc.map1)
theorem execVrsqE_canon {f s} (h : State.Canon s) : CanonNext (execVrsqE f s) := h.compute (fun _ hc => hc.map1)
theorem execVexp2_canon {f s} (h : State.Canon s) : CanonNext (execVexp2 f s) := h.compute (fun _ hc => hc.map1)
theorem execVlog2_canon {f s} (h : State.Canon s) : CanonNext (execVlog2 f s) := h.compute (fun _ hc => hc.map1)
theorem Core.Canon.convert {c v d km mz sto conv} (hc : Core.Canon c) :
    Core.Canon (Core.convert c v d km mz sto conv) :=
  (Core.Canon.writeLoc (.ite hc.setSrnd hc)).raise
theorem execVcvt_canon {f s} (h : State.Canon s) : CanonNext (execVcvt f s) := h.compute (fun _ hc => hc.convert)
theorem execVscl_canon {f s} (h : State.Canon s) : CanonNext (execVscl f s) := h.compute (fun _ hc => hc.putV)
theorem execVpack_canon {f s} (h : State.Canon s) : CanonNext (execVpack f s) := h.compute (fun _ hc => hc.convert)
theorem execVunpack_canon {f s} (h : State.Canon s) : CanonNext (execVunpack f s) :=
  h.compute (fun _ hc => hc.convert)
theorem execMand_canon {f s} (h : State.Canon s) : CanonNext (execMand f s) := h.compute (fun _ hc => hc.writeM)
theorem execMor_canon {f s} (h : State.Canon s) : CanonNext (execMor f s) := h.compute (fun _ hc => hc.writeM)
theorem execMnot_canon {f s} (h : State.Canon s) : CanonNext (execMnot f s) := h.compute (fun _ hc => hc.writeM)
theorem execVpopc_canon {f s} (h : State.Canon s) : CanonNext (execVpopc f s) := h.compute (fun _ hc => hc.writeS)

/-! ## The functions of `Machine/Dispatch` keep the canonical form -/

theorem exec_canon {i s} (h : State.Canon s) : CanonNext (exec i s) := by
  unfold exec
  split
  · exact execBundleDispatch_canon h
  · exact execBr_canon h
  · exact execJmp_canon h
  · exact execCall_canon h
  · exact execRet_canon h
  · exact execLoopSet_canon h
  · exact execLoopEnd_canon h
  · exact execFrameAlloc_canon h
  · exact execFrameFree_canon h
  · exact execFrameSlotRelease_canon h
  · exact execYield_canon h
  · exact execWaitQ_canon h
  · exact execWaitS_canon h
  · exact execHalt_canon h
  · exact execTrap_canon h
  · exact execSubscribe_canon h
  · exact execUnsub_canon h
  · exact execBind_canon h
  · exact execWtst_canon h
  · exact execPub_canon h
  · exact execPubC_canon h
  · exact execSteer_canon h
  · exact execSpawn_canon h
  · exact execSpawnNb_canon h
  · exact execRetn_canon h
  · exact execDrain_canon h
  · exact execColourGet_canon h
  · exact execColourFree_canon h
  · exact execNameSetField_canon h
  · exact execNameSetWhole_canon h
  · exact execNameSetCopy_canon h
  · exact execNameAdd_canon h
  · exact execNameLd_canon h
  · exact execPand_canon h
  · exact execPor_canon h
  · exact execPxor_canon h
  · exact execPnot_canon h
  · exact execPmov_canon h
  · exact execSysRd_canon h
  · exact execSysWr_canon h
  · exact execEret_canon h
  · exact execEretH_canon h
  · exact execTlbInv_canon h
  · exact execTlbInvAll_canon h
  · exact execDictLd_canon h
  · exact execDictInv_canon h
  · exact execQenq_canon h
  · exact execQdeq_canon h
  · exact execQenqNb_canon h
  · exact execQdeqNb_canon h
  · exact execCycleRd_canon h
  · exact execFmtSet_canon h
  · exact execFmtSetH_canon h
  · exact execFmtSetC_canon h
  · exact execFmtRd_canon h
  · exact execAdd_canon h
  · exact execAddi_canon h
  · exact execSub_canon h
  · exact execMul_canon h
  · exact execMulh_canon h
  · exact execMulhN_canon h
  · exact execDiv_canon h
  · exact execDivN_canon h
  · exact execRem_canon h
  · exact execRemN_canon h
  · exact execMin_canon h
  · exact execMinN_canon h
  · exact execMax_canon h
  · exact execMaxN_canon h
  · exact execAnd_canon h
  · exact execOr_canon h
  · exact execXor_canon h
  · exact execAndn_canon h
  · exact execShl_canon h
  · exact execShr_canon h
  · exact execShrN_canon h
  · exact execRot_canon h
  · exact execClz_canon h
  · exact execCtz_canon h
  · exact execPopc_canon h
  · exact execBfx_canon h
  · exact execBfi_canon h
  · exact execSext_canon h
  · exact execZext_canon h
  · exact execMov_canon h
  · exact execMovStream_canon h
  · exact execMovi_canon h
  · exact execMoviZ_canon h
  · exact execMoviH_canon h
  · exact execSel_canon h
  · exact execCmpCc_canon h
  · exact execCmpiCc_canon h
  · exact execLea_canon h
  · exact execFadd_canon h
  · exact execFsub_canon h
  · exact execFmul_canon h
  · exact execFfma_canon h
  · exact execFmin_canon h
  · exact execFmax_canon h
  · exact execFcmpCc_canon h
  · exact execFcvt_canon h
  · exact execLd_canon h
  · exact execSt_canon h
  · exact execLdv_canon h
  · exact execStv_canon h
  · exact execLdvG_canon h
  · exact execStvS_canon h
  · exact execLdFe_canon h
  · exact execStFe_canon h
  · exact execPeekFe_canon h
  · exact execMark_canon h
  · exact execFence_canon h
  · exact execAtomAdd_canon h
  · exact execAtomMin_canon h
  · exact execAtomMax_canon h
  · exact execAtomAnd_canon h
  · exact execAtomOr_canon h
  · exact execAtomXor_canon h
  · exact execAtomSwp_canon h
  · exact execAtomCas_canon h
  · exact execAtomFadd_canon h
  · exact execAtomNib_canon h
  · exact execPref_canon h
  · exact execVadd_canon h
  · exact execVsub_canon h
  · exact execVmul_canon h
  · exact execVfma_canon h
  · exact execVmin_canon h
  · exact execVmax_canon h
  · exact execVabs_canon h
  · exact execVneg_canon h
  · exact execVand_canon h
  · exact execVor_canon h
  · exact execVxor_canon h
  · exact execVshl_canon h
  · exact execVshr_canon h
  · exact execVcmpCc_canon h
  · exact execVsel_canon h
  · exact execVcas_canon h
  · exact execVcasX_canon h
  · exact execVperm_canon h
  · exact execVperm2_canon h
  · exact execVbcastScalar_canon h
  · exact execVbcastLane_canon h
  · exact execVbcastLiteral_canon h
  · exact execVshuf_canon h
  · exact execVredAdd_canon h
  · exact execVredMax_canon h
  · exact execVredMin_canon h
  · exact execVscanAdd_canon h
  · exact execVrcpE_canon h
  · exact execVrsqE_canon h
  · exact execVexp2_canon h
  · exact execVlog2_canon h
  · exact execVcvt_canon h
  · exact execVscl_canon h
  · exact execVpack_canon h
  · exact execVunpack_canon h
  · exact execVmovS_canon h
  · exact execVext_canon h
  · exact execViota_canon h
  · exact execMand_canon h
  · exact execMor_canon h
  · exact execMnot_canon h
  · exact execVpopc_canon h
  · exact execMma_canon h
  · exact execMmaG_canon h
  · exact execZclr_canon h
  · exact execZld_canon h
  · exact execZst_canon h
  · exact execZcvt_canon h
  · exact execZadd_canon h
  · exact execWld_canon h
  · exact execMwait_canon h
  · exact execMatrixWriteLand_canon h
  · exact execWldTransferDone_canon h
  · exact execCp_canon h
  · exact execCpName_canon h
  · exact execCpWin_canon h
  · exact execCpWait_canon h
  · exact execSbind_canon h
  · exact execScloseMarker_canon h
  · exact execScloseUnbind_canon h
  · exact execHashSha_canon h
  · exact execHashCrc_canon h
  · exact execHashWait_canon h
  · exact execEngineCommandDone_canon h
  · exact execShadowCommit_canon h
  · exact execStreamLineRequest_canon h
  · exact execStreamLineReturn_canon h
  · exact execLcCtxOpen_canon h
  · exact execLcCtxCommit_canon h
  · exact execLcCtxAbort_canon h
  · exact execLcCtxRel_canon h
  · exact execLcTbl_canon h
  · exact execCeladonRecordLoad_canon h
  · exact execLcSel_canon h
  · exact execLcRun_canon h
  · exact execCeladonBatch_canon h
  · exact execLcTslice_canon h
  · exact execLcUnslice_canon h
  · exact execLcPop_canon h
  · exact execLcWait_canon h
  · exact execLcStat_canon h
  · exact execQuantumExpiry_canon h
  · exact execPreEmption_canon h
  · exact execTaskDispatch_canon h
  · exact execInstanceFire_canon h
  · exact execLaunchAccept_canon h
  · exact execLevelInstantiate_canon h
  · exact execLaunchRetire_canon h
  · exact execRouterForward_canon h
  · exact execSubscriptionRegister_canon h
  · exact execHomeFetch_canon h
  · exact execRemoteForward_canon h
  · exact execRendezvousRetain_canon h
  · exact execWriteThrough_canon h
  · exact execDelivery_canon h
  · exact execStagingAdmit_canon h
  · exact execDrainMarkerArrival_canon h
  · exact execDrainForward_canon h
  · exact execContributionArrival_canon h
  · exact execAcknowledgement_canon h
  · exact execCircuitFlit_canon h
  · exact execStoreBufferDrain_canon h
  · exact execRimAccessRequest_canon h
  · exact execAccessDataReturn_canon h
  · exact execEngineFault_canon h
  · exact execCheckpointHoldReached_canon h
  · exact execKeySlotEmpty_canon h
  · exact execPartLoadDone_canon h
  · exact execPartFormDone_canon h
  · exact execCeladonSlotPoisoned_canon h
  · exact execCeladonSlotRepair_canon h
  · exact execCeladonPlacedDigest_canon h
  · exact execCoreChainWrite_canon h
  · exact execAgingPromotion_canon h
  · exact execLevelReplace_canon h
  · exact execAddressedRoute_canon h
  · exact execRetainExpiry_canon h
  · exact execCombineBitmapExpiry_canon h
  · exact execResendTimeout_canon h
  · exact execNegativeAck_canon h
  · exact execFilterExpiry_canon h
  · exact execPageWalk_canon h
  · exact execHoldLimit_canon h
  · exact execCorrectedError_canon h
  · exact execConfigReload_canon h
  · exact execConfigReloadDone_canon h
  · exact execFatalError_canon h
  · exact execSpillFault_canon h
  · exact execSiennaInterval_canon h
  · exact execLeaseSave_canon h
  · exact execLeaseAbandon_canon h
  · exact execLinkDrained_canon h
  · exact execChannelQuiesce_canon h
  · exact execLeaseTestDone_canon h
  · exact execMirrorCompare_canon h
  · exact execMirrorTimeout_canon h
  · exact execMarginPlanChange_canon h
  · exact execPowerCapStep_canon h
  · exact execThermalHold_canon h
  · exact execThermalStop_canon h
  · exact execColdReset_canon h
  · exact execClusterStageAdvance_canon h
  · exact execGreetingBurst_canon h
  · exact execGreetingAnswer_canon h
  · exact execBolsarFlit_canon h
  · exact execPcieLinkTrain_canon h
  · exact execBar2Access_canon h
  · exact execKeyInstall_canon h
  · exact execKeySlotSelect_canon h
  · exact execKeySlotClear_canon h
  · exact execRimFeClr_canon h
  · exact execHqCfgWrite_canon h
  · exact execHqTailWrite_canon h
  · exact execHqHeadWrite_canon h
  · exact execHqNotifyWrite_canon h
  · exact execPartHoldNamed_canon h
  · exact execPartHoldCirc_canon h
  · exact execPartHoldStr_canon h
  · exact execPartLoadDescriptors_canon h
  · exact execPartLoadRanges_canon h
  · exact execPartLoadCircuits_canon h
  · exact execPartEnd_canon h
  · exact execPartResume_canon h
  · exact execPartForm_canon h
  · exact execPartDissolve_canon h
  · exact execCoreEfaultRetry_canon h
  · exact execCoreEfaultAbandon_canon h
  · exact execRecAddrWrite_canon h
  · exact execRecDataWrite_canon h
  · exact execCoreWindowWrite_canon h
  · exact execNetCfgWrite_canon h
  · exact execClusStageWrite_canon h
  · exact execXlatRootWrite_canon h
  · exact execSiennaCfgWrite_canon h
  · exact execPwrCapWrite_canon h
  · exact execCoreSrndWrite_canon h
  · exact execCoreCtlScbWrite_canon h
  · exact execClusMstoreFillRead_canon h
  · exact execClusStageRead_canon h
  · exact execRegisterWrite_canon h
  · exact execThermalRelease_canon h
  · exact execDeferredRequestWithdrawn_canon h
  · exact execBolsarLinkKey_canon h
  · exact execRimReset_canon h
  · exact execChannelRelease_canon h
  · exact execOperatorCommand_canon h

/-! ## The functions of `Machine/Sched` keep the canonical form -/

theorem runPart_canon {s n k} (h : State.Canon s) : CanonNext (runPart s n k) := by
  unfold runPart
  extract_lets +onlyGivenNames t
  have ht : State.Canon t := h.onCore (fun c hc => hc.focusOn)
  split
  · exact CanonNext.refused
  · exact exec_canon ht
theorem passCore_canon {s w n} (h : State.Canon s) : State.Canon (passCore s w n) :=
  .ite h (State.Canon.putOff (h.modCore (fun _ hc => hc.pass)))
theorem runCore_canon {s} (h : State.Canon s) : CanonNext (runCore s) := by
  unfold runCore
  refine .ite (.ite CanonNext.fault (exec_canon h)) ?_
  split
  · exact runPart_canon h
  · exact .ite h.front.takeNoted.next (.ite (exec_canon h) (passCore_canon h).next)
theorem passSienna_canon {s n} (h : State.Canon s) : State.Canon (passSienna s n) := h.onWafer.putOff
theorem takeTurn_canon {s a} (h : State.Canon s) : CanonNext (takeTurn s a) := by
  unfold takeTurn
  split
  · exact runCore_canon h.focus
  · exact (passCore_canon h).next
  · exact h.tickField.next
  · exact (passSienna_canon h).next
  · exact .ite (exec_canon h) h.next
  · exact h.onWafer.next
  · exact h.upset.next
  · exact h.noise.next
  · exact h.windowRead.next
/-- The functions of a list keep the canonical form. -/
def AllKeep (l : List (State → Host.Outcome State Fault Refusal)) : Prop := ∀ f ∈ l, ∀ s, State.Canon s → CanonNext
    (f s)

theorem AllKeep.nil : AllKeep [] := nofun
theorem AllKeep.cons {f l} (hf : ∀ s, State.Canon s → CanonNext (f s)) (hl : AllKeep l) : AllKeep (f :: l) :=
  List.forall_mem_cons.2 ⟨hf, hl⟩
theorem AllKeep.append {l m} (hl : AllKeep l) (hm : AllKeep m) : AllKeep (l ++ m) := List.forall_mem_append.2 ⟨hl, hm⟩
theorem AllKeep.ite {p : Prop} [Decidable p] {l m} (hl : AllKeep l) (hm : AllKeep m) :
    AllKeep (if p then l else m) := by
  split <;> assumption
theorem AllKeep.map {α : Type} {l : List α} {g : α → State → Host.Outcome State Fault Refusal}
    (hg : ∀ a s, State.Canon s → CanonNext (g a s)) : AllKeep (l.map g) :=
  List.forall_mem_map.2 fun a _ => hg a
theorem AllKeep.flatMap {α : Type} {l : List α} {g : α → List (State → Host.Outcome State Fault Refusal)}
    (hg : ∀ a, AllKeep (g a)) : AllKeep (l.flatMap g) := fun f hf => by
  obtain ⟨a, _, ha⟩ := List.mem_flatMap.1 hf
  exact hg a f ha

theorem lateSteps_keep (s : State) : AllKeep (lateSteps s) := by
  unfold lateSteps
  simp only [List.flatten_cons, List.flatten_nil]
  refine .append (.flatMap fun e => .append (.map fun h _ hc => execHoldLimit_canon hc)
    (.ite (.cons (fun _ hc => execLeaseSave_canon hc) .nil) .nil)) (.append ?_ (.append ?_ (.append ?_ (.append ?_
        (.append ?_ .nil)))))
  · exact .ite (.cons (fun _ hc => execDeferredRequestWithdrawn_canon hc) .nil) .nil
  · exact .flatMap fun e => .flatMap fun i =>
      .cons (fun _ hc => execMirrorCompare_canon hc) (.cons (fun _ hc => execMirrorTimeout_canon hc) .nil)
  · exact .flatMap fun u => .cons (fun _ hc => execLinkDrained_canon hc) (.cons
      (fun _ hc => execChannelQuiesce_canon hc) .nil)
  · exact .ite .nil (.cons (fun _ hc => execBar2Access_canon hc) .nil)
  · exact .ite .nil (.cons (fun _ hc => execKeyInstall_canon hc) .nil)
theorem defaultStep_canon {s} (h : State.Canon s) : CanonNext (defaultStep s) := by
  unfold defaultStep
  split
  · exact exec_canon h
  · split
    · next f hf => exact lateSteps_keep s f (List.mem_of_find?_eq_some hf) s h
    · exact runCore_canon h.focus
theorem stepFrom_canon {s} (h : State.Canon s) : CanonNext (stepFrom s) := by
  unfold stepFrom
  split
  · exact takeTurn_canon ⟨h.bytes, h.core, h.others⟩
  · exact defaultStep_canon h

/-! ## The functions of `Machine/Step` keep the canonical form -/

theorem step_canon {s} (h : State.Canon s) : CanonNext (step s) := stepFrom_canon h

end Sys2Proof.Machine

namespace Sys2Proof.Machine

/-- Settles O3: each function of a step keeps the canonical form, from the accessors of the byte stores up to `step`. -/
theorem memWfStep : Obligations.MemWfStep := by
  unfold Obligations.MemWfStep
  intro s t hs hst
  have h : CanonNext (.next t) := hst ▸ step_canon ((State.memWf_iff s).1 hs)
  cases h with
  | next ht => exact (State.memWf_iff t).2 ht
end Sys2Proof.Machine
